-- ==== Sys2Proof/Word.lean ====
section
/-! DEFINITION. The machine's words and the names of its small fixed-width fields (R2, R34, R38). -/

namespace Sys2Proof

/-- A 32-bit register or memory word. -/
abbrev Word := BitVec 32

/-- A 64-bit value: a register pair (R39), an address, a tick. -/
abbrev DWord := BitVec 64

/-- A byte of memory. -/
abbrev Byte := BitVec 8

/-- A register field of an instruction word: 0 to 510 name v0 to v510, 511 is vz (R38). -/
abbrev Reg := BitVec 9

/-- Index 511: reads as zero, discards writes (R38). -/
def vz : Reg := 511

/-- A slot displacement of format FB (R30, R35). -/
abbrev Disp := BitVec 24

/-- A mask number as encoded, m0 to m15 (R37 allows 0 to 11). -/
abbrev MaskNo := BitVec 4

/-- A named-barrier number as encoded. -/
abbrev BarNo := BitVec 4

end Sys2Proof
end

