-- ==== Sys2Proof/Machine/Num.lean ====
section
/-! DEFINITION. Plain data helpers: tables of numbered entries, canonical memory as a list of cells, bytes and words
(R2), and the bit operations of the pseudocode (R4, R6). -/

namespace Sys2Proof.Machine

/-! ## Tables: numbered entries, read through a default -/

/-- Entry k, if there is one. -/
def afind {α : Type} : List (Nat × α) → Nat → Option α
  | [], _ => none
  | (j, v) :: t, k => if j = k then some v else afind t k

/-- Entry k, or the default. -/
def aget {α : Type} (dflt : α) (t : List (Nat × α)) (k : Nat) : α :=
  match afind t k with
  | some v => v
  | none => dflt

/-- Write entry k: replace it, or add it at the end. -/
def aput {α : Type} : List (Nat × α) → Nat → α → List (Nat × α)
  | [], k, v => [(k, v)]
  | (j, w) :: t, k, v => if j = k then (k, v) :: t else (j, w) :: aput t k v

/-- Remove entry k. -/
def adel {α : Type} (t : List (Nat × α)) (k : Nat) : List (Nat × α) := t.filter (fun e => e.1 != k)

/-- Apply f to entry k, or to the default. -/
def amod {α : Type} (dflt : α) (t : List (Nat × α)) (k : Nat) (f : α → α) : List (Nat × α) :=
  aput t k (f (aget dflt t k))

/-- The numbers of a table's entries. -/
def akeys {α : Type} (t : List (Nat × α)) : List Nat := t.map (fun e => e.1)

/-! ## Memory: (address, byte) cells, addresses rising, no cell equal to what an unlisted address reads as -/

/-- Memory as plain data. -/
abbrev Memory := List Host.Cell

/-- What a byte that nothing has written reads as: the spec gives no contents (log entry 2, DESIGN CHOICE). -/
def unlisted : Byte := 0

/-- The byte at address a. -/
def Memory.byte (m : Memory) (a : Nat) : Byte := aget unlisted m a

/-- Write one byte, keeping the canonical form. -/
def Memory.setByte : Memory → Nat → Byte → Memory
  | [], a, v => if v = unlisted then [] else [(a, v)]
  | (b, w) :: t, a, v =>
    if a < b then (if v = unlisted then (b, w) :: t else (a, v) :: (b, w) :: t)
    else if a = b then (if v = unlisted then t else (a, v) :: t)
    else (b, w) :: Memory.setByte t a v

/-- The canonical form: addresses strictly rising, no cell equal to what an unlisted address reads as. -/
def Memory.wf : Memory → Bool
  | [] => true
  | (_, v) :: [] => v != unlisted
  | (a, v) :: (b, w) :: t => decide (a < b) && v != unlisted && Memory.wf ((b, w) :: t)

/-- The n bytes at address a, as a little-endian number (R2). -/
def Memory.read (m : Memory) (a : Nat) : Nat → Nat
  | 0 => 0
  | n + 1 => (m.byte a).toNat + 256 * Memory.read m (a + 1) n

/-- Store the low n bytes of x at address a, little-endian (R2). -/
def Memory.write (m : Memory) (a : Nat) : Nat → Nat → Memory
  | 0, _ => m
  | n + 1, x => Memory.write (m.setByte a (BitVec.ofNat 8 x)) (a + 1) n (x / 256)

/-- The n bytes at address a, as a list. -/
def Memory.bytes (m : Memory) (a n : Nat) : List Byte := (List.range n).map (fun i => m.byte (a + i))

/-- Store a list of bytes from address a on. -/
def Memory.setBytes (m : Memory) (a : Nat) : List Byte → Memory
  | [] => m
  | b :: t => Memory.setBytes (m.setByte a b) (a + 1) t

/-! ## Words (R2, R4, R39) -/

/-- The low half of a 64-bit value. -/
def lo32 (x : DWord) : Word := BitVec.ofNat 32 x.toNat

/-- The high half of a 64-bit value (R4: high32). -/
def high32 (x : DWord) : Word := BitVec.ofNat 32 (x.toNat / 2 ^ 32)

/-- A pair of registers as one 64-bit value, low half first (R39). -/
def pair64 (lo hi : Word) : DWord := BitVec.ofNat 64 (lo.toNat + 2 ^ 32 * hi.toNat)

/-- The k words of a number, least significant first. -/
def wordsOf (x : Nat) : Nat → List Word
  | 0 => []
  | k + 1 => BitVec.ofNat 32 x :: wordsOf (x / 2 ^ 32) k

/-- A list of words as one number, least significant first. -/
def ofWords : List Word → Nat
  | [] => 0
  | w :: t => w.toNat + 2 ^ 32 * ofWords t

/-- A list of bytes as one number, least significant first. -/
def ofBytes : List Byte → Nat
  | [] => 0
  | b :: t => b.toNat + 256 * ofBytes t

/-- The n bytes of a number, least significant first. -/
def bytesOf (x : Nat) : Nat → List Byte
  | 0 => []
  | n + 1 => BitVec.ofNat 8 x :: bytesOf (x / 256) n

/-- x read as an n-bit two's-complement number (R4). -/
def sgn (n x : Nat) : Int := if x % 2 ^ n < 2 ^ (n - 1) then ((x % 2 ^ n : Nat) : Int) else (x % 2 ^ n : Nat) - 2 ^ n

/-- The n-bit pattern of an integer (R4: n32, n64). -/
def wrapN (n : Nat) (x : Int) : Nat := (x % (2 ^ n : Nat)).toNat

/-- Bits [lo + n − 1 : lo] of x. -/
def bitf (x lo n : Nat) : Nat := x / 2 ^ lo % 2 ^ n

/-- Bit i of x. -/
def nbit (x i : Nat) : Bool := x / 2 ^ i % 2 == 1

/-- A truth value as a number. -/
def b2n (b : Bool) : Nat := if b then 1 else 0

/-- The number of one bits among the low n (R106: popc). -/
def popcount : Nat → Nat → Nat
  | 0, _ => 0
  | n + 1, x => x % 2 + popcount n (x / 2)

/-- The least multiple of b that is not below a, divided by b. -/
def ceilDiv (a b : Nat) : Nat := (a + b - 1) / b

/-- Mix64 (R6). -/
def mix64 (z0 : DWord) : DWord :=
  let z1 := (z0 ^^^ (z0 >>> 30)) * 0xBF58476D1CE4E5B9#64
  let z2 := (z1 ^^^ (z1 >>> 27)) * 0x94D049BB133111EB#64
  z2 ^^^ (z2 >>> 31)

end Sys2Proof.Machine
end

