-- ==== Sys2Proof/Machine/Coef.lean ====
section
/-! DEFINITION. The default coefficient image (R62, R133): the directory and the 32 segments of its seven regions, each
segment the f32 bits of c0 to c3. The numbers are those of R133, computed from its definition: the cubic through g at four
points of the segment, each coefficient rounded to nearest. -/

namespace Sys2Proof.Machine

/-- Segments 0 to 15 of slot 0, `recip`: 1/(1+t) (R133). -/
def recipCoefA : List Nat := [
  0x3F800000, 0xBCFFFF88, 0x3A7FB453, 0xB7F0A9B7,
  0x3F783E0F, 0xBCF0B7E6, 0x3A692BE8, 0xB7D52F75,
  0x3F70F0F1, 0xBCE2C44D, 0x3A5535B8, 0xB7BD8515,
  0x3F6A0EA1, 0xBCD5FE72, 0x3A437682, 0xB7A90C8C,
  0x3F638E39, 0xBCCA4545, 0x3A33A1C6, 0xB79744DD,
  0x3F5D67C9, 0xBCBF7C20, 0x3A257717, 0xB787C42D,
  0x3F579436, 0xBCB58A15, 0x3A18BFE9, 0xB7746642,
  0x3F520D21, 0xBCAC595D, 0x3A0D4DDE, 0xB75C9286,
  0x3F4CCCCD, 0xBCA3D6E2, 0x3A02F95C, 0xB747945C,
  0x3F47CE0C, 0xBC9BF1DA, 0x39F340E2, 0xB735069C,
  0x3F430C31, 0xBC949B73, 0x39E24BCA, 0xB7249436,
  0x3F3E82FA, 0xBC8DC692, 0x39D2E0F4, 0xB715F54D,
  0x3F3A2E8C, 0xBC876792, 0x39C4D49F, 0xB708ECF4,
  0x3F360B61, 0xBC817418, 0x39B800BD, 0xB6FA8E9F,
  0x3F321643, 0xBC77C5C6, 0x39AC4418, 0xB6E5B020,
  0x3F2E4C41, 0xBC6D575B, 0x39A181A2, 0xB6D2F275]

/-- Segments 16 to 31 of slot 0, `recip`: 1/(1+t) (R133). -/
def recipCoefB : List Nat := [
  0x3F2AAAAB, 0xBC638E19, 0x39979FD9, 0xB6C21449,
  0x3F272F05, 0xBC5A5CA6, 0x398E884B, 0xB6B2DD3B,
  0x3F23D70A, 0xBC51B6FD, 0x39862729, 0xB6A51C82,
  0x3F20A0A1, 0xBC499243, 0x397CD5D9, 0xB698A7C2,
  0x3F1D89D9, 0xBC41E4A6, 0x396E8814, 0xB68D5A1F,
  0x3F1A90E8, 0xBC3AA53E, 0x39614960, 0xB683136B,
  0x3F17B426, 0xBC33CBF5, 0x3955011D, 0xB6736EFC,
  0x3F14F209, 0xBC2D516F, 0x3949994F, 0xB6625B4B,
  0x3F124925, 0xBC272EF6, 0x393EFE48, 0xB652C050,
  0x3F0FB824, 0xBC215E6B, 0x39351E65, 0xB64477C0,
  0x3F0D3DCB, 0xBC1BDA34, 0x392BE9CC, 0xB6375FC9,
  0x3F0AD8F3, 0xBC169D30, 0x39235239, 0xB62B5A77,
  0x3F088889, 0xBC11A2A9, 0x391B4AD0, 0xB6204D3A,
  0x3F064B8A, 0xBC0CE64D, 0x3913C7F1, 0xB6162073,
  0x3F042108, 0xBC086420, 0x390CBF1A, 0xB60CBF1A,
  0x3F020821, 0xBC04187A, 0x390626C3, 0xB604166A]

/-- Segments 0 to 15 of slot 1, `rsqrt`: (1+t)^−½, then (2+2t)^−½ (R133). -/
def rsqrtCoefA : List Nat := [
  0x3F800000, 0xBCFFFE09, 0x3ABF6179, 0xB88FC471,
  0x3F785B42, 0xBCE9BDCD, 0x3AA48625, 0xB86A0006,
  0x3F715BEF, 0xBCD68970, 0x3A8EA8C1, 0xB840A0B1,
  0x3F6AEBF5, 0xBCC5D341, 0x3A794F06, 0xB8203441,
  0x3F64F92E, 0xBCB72D02, 0x3A5B5A10, 0xB8067913,
  0x3F5F7483, 0xBCAA3FCC, 0x3A42334B, 0xB7E3A412,
  0x3F5A514A, 0xBC9EC646, 0x3A2CE83E, 0xB7C2258E,
  0x3F5584CD, 0xBC948883, 0x3A1ABE60, 0xB7A6BB39,
  0x3F5105EB, 0xBC8B58F4, 0x3A0B2475, 0xB790195B,
  0x3F4CCCCD, 0xBC831229, 0x39FB505D, 0xB77A8950,
  0x3F48D2AB, 0xBC772A35, 0x39E3DD53, 0xB75AF929,
  0x3F4511A3, 0xBC698FC6, 0x39CF5DF4, 0xB740580E,
  0x3F41848F, 0xBC5D2973, 0x39BD5C3D, 0xB729BCD6,
  0x3F3E26EB, 0xBC51D263, 0x39AD77ED, 0xB7166F8F,
  0x3F3AF4BA, 0xBC476B33, 0x399F61F1, 0xB705DDDD,
  0x3F37EA74, 0xBC3DD908, 0x3992D8E0, 0xB6EF24D1]

/-- Segments 16 to 31 of slot 1, `rsqrt`: (1+t)^−½, then (2+2t)^−½ (R133). -/
def rsqrtCoefB : List Nat := [
  0x3F3504F3, 0xBCB50390, 0x3A87539E, 0xB84B5157,
  0x3F2F9D53, 0xBCA547B7, 0x3A68AC0D, 0xB825768A,
  0x3F2AAAAA, 0xBC97B352, 0x3A49C026, 0xB8083557,
  0x3F261D5F, 0xBC8BE230, 0x3A3049B1, 0xB7E29016,
  0x3F21E89B, 0xBC81865D, 0x3A1B1AEB, 0xB7BE2C68,
  0x3F1E01B2, 0xBC70C4CC, 0x3A095205, 0xB7A0F768,
  0x3F1A5FB2, 0xBC608A83, 0x39F48717, 0xB789484F,
  0x3F16FB06, 0xBC520EC7, 0x39DAD72F, 0xB76BCB32,
  0x3F13CD3A, 0xBC45112C, 0x39C4C6F0, 0xB74BC96D,
  0x3F10D0C3, 0xBC395CBF, 0x39B1B4AE, 0xB73127EE,
  0x3F0E00D5, 0xBC2EC59F, 0x39A11FE4, 0xB71AD666,
  0x3F0B5948, 0xBC25272B, 0x3992A170, 0xB70801FA,
  0x3F08D677, 0xBC1C6295, 0x3985E5E0, 0xB6F00B98,
  0x3F067532, 0xBC145DCE, 0x3975524A, 0xB6D4BF91,
  0x3F0432A5, 0xBC0D02A6, 0x396166A8, 0xB6BD50E7,
  0x3F020C52, 0xBC063E1E, 0x394FAC5B, 0xB6A919A7]

/-- Segments 0 to 15 of slot 2, `sqrt`: the square roots of 1+t, then of 2+2t (R133). -/
def sqrtCoefA : List Nat := [
  0x3F800000, 0x3CFFFFB6, 0xB9FFA36B, 0x376D23CF,
  0x3F83F07B, 0x3CF85B07, 0xB9E97416, 0x374CB10A,
  0x3F87C3B6, 0x3CF15BBE, 0xB9D64CC9, 0x37322294,
  0x3F8B7C1A, 0x3CEAEBCC, 0xB9C5A0D4, 0x371C29BF,
  0x3F8F1BBD, 0x3CE4F90C, 0xB9B702B3, 0x3709CE5A,
  0x3F92A476, 0x3CDF7466, 0xB9AA1BFF, 0x36F4AAEB,
  0x3F9617E3, 0x3CDA5131, 0xB99EA7C0, 0x36DA6096,
  0x3F997774, 0x3CD584B8, 0xB9946E4E, 0x36C3E0D7,
  0x3F9CC471, 0x3CD105D9, 0xB98B424F, 0x36B07EDF,
  0x3FA00000, 0x3CCCCCBD, 0xB982FE7A, 0x369FB209,
  0x3FA32B2B, 0x3CC8D29D, 0xB97707D0, 0x36910D3D,
  0x3FA646E1, 0x3CC51197, 0xB9697191, 0x3684389F,
  0x3FA953FD, 0x3CC18484, 0xB95D0ECD, 0x3671D99F,
  0x3FAC5345, 0x3CBE26E2, 0xB951BAC5, 0x365DDED6,
  0x3FAF456F, 0x3CBAF4B2, 0xB9475630, 0x364C20A0,
  0x3FB22B20, 0x3CB7EA6C, 0xB93DC644, 0x363C4F24]

/-- Segments 16 to 31 of slot 2, `sqrt`: the square roots of 1+t, then of 2+2t (R133). -/
def sqrtCoefB : List Nat := [
  0x3FB504F3, 0x3D3504BF, 0xBA34C37C, 0x37A7AEE7,
  0x3FBA9728, 0x3D2F9D29, 0xBA251397, 0x3790BD22,
  0x3FC00000, 0x3D2AAA88, 0xBA17886F, 0x377BEBC8,
  0x3FC542E1, 0x3D261D42, 0xBA0BBE88, 0x375CD912,
  0x3FCA62C2, 0x3D21E883, 0xBA016872, 0x3742E320,
  0x3FCF623A, 0x3D1E019E, 0xB9F0922B, 0x372D0193,
  0x3FD44395, 0x3D1A5FA0, 0xB9E05F58, 0x371A6A83,
  0x3FD908D9, 0x3D16FAF7, 0xB9D1E9B7, 0x370A81C2,
  0x3FDDB3D7, 0x3D13CD2D, 0xB9C4F126, 0x36F99A3A,
  0x3FE24630, 0x3D10D0B7, 0xB9B940EA, 0x36E1D7ED,
  0x3FE6C15A, 0x3D0E00CB, 0xB9AEAD4D, 0x36CD2255,
  0x3FEB26A9, 0x3D0B593F, 0xB9A511CF, 0x36BAFD2D,
  0x3FEF7751, 0x3D08D670, 0xB99C4FBD, 0x36AB038B,
  0x3FF3B46A, 0x3D06752B, 0xB9944D1B, 0x369CE2D7,
  0x3FF7DEF6, 0x3D04329F, 0xB98CF3CA, 0x36905703,
  0x3FFBF7DF, 0x3D020C4D, 0xB98630D9, 0x36852799]

/-- Segments 0 to 15 of slot 3, `exp2`: 2^t (R133). -/
def exp2CoefA : List Nat := [
  0x3F800000, 0x3CB17219, 0x3975FAD6, 0x35E5D261,
  0x3F82CD87, 0x3CB554CD, 0x397B5DB8, 0x35EADAB0,
  0x3F85AAC3, 0x3CB94D49, 0x39806F65, 0x35EFFF34,
  0x3F88980F, 0x3CBD5C06, 0x39833F5C, 0x35F5408B,
  0x3F8B95C2, 0x3CC18183, 0x39861F17, 0x35FA9F59,
  0x3F8EA43A, 0x3CC5BE3E, 0x39890EEF, 0x36000E21,
  0x3F91C3D3, 0x3CCA12BA, 0x398C0F3C, 0x3602DBF6,
  0x3F94F4F0, 0x3CCE7F7B, 0x398F205D, 0x3605B984,
  0x3F9837F0, 0x3CD3050A, 0x399242AF, 0x3608A722,
  0x3F9B8D3A, 0x3CD7A3F2, 0x39957692, 0x360BA52A,
  0x3F9EF532, 0x3CDC5CC1, 0x3998BC69, 0x360EB3F8,
  0x3FA27043, 0x3CE13009, 0x399C1499, 0x3611D3EA,
  0x3FA5FED7, 0x3CE61E5C, 0x399F7F89, 0x36150560,
  0x3FA9A15B, 0x3CEB2855, 0x39A2FDA1, 0x361848BD,
  0x3FAD583F, 0x3CF04E8C, 0x39A68F4D, 0x361B9E65,
  0x3FB123F6, 0x3CF591A0, 0x39AA34FB, 0x361F06BE]

/-- Segments 16 to 31 of slot 3, `exp2`: 2^t (R133). -/
def exp2CoefB : List Nat := [
  0x3FB504F3, 0x3CFAF234, 0x39ADEF1B, 0x36228231,
  0x3FB8FBAF, 0x3D003876, 0x39B1BE1F, 0x36261129,
  0x3FBD08A4, 0x3D03073A, 0x39B5A27D, 0x3629B413,
  0x3FC12C4D, 0x3D05E5BA, 0x39B99CAC, 0x362D6B61,
  0x3FC5672A, 0x3D08D44F, 0x39BDAD27, 0x36313782,
  0x3FC9B9BE, 0x3D0BD355, 0x39C1D46A, 0x363518EE,
  0x3FCE248C, 0x3D0EE325, 0x39C612F6, 0x3639101A,
  0x3FD2A81E, 0x3D120420, 0x39CA694C, 0x363D1D81,
  0x3FD744FD, 0x3D1536A5, 0x39CED7F3, 0x3641419F,
  0x3FDBFBB8, 0x3D187B16, 0x39D35F72, 0x36457CF3,
  0x3FE0CCDF, 0x3D1BD1D7, 0x39D80055, 0x3649D001,
  0x3FE5B907, 0x3D1F3B51, 0x39DCBB2A, 0x364E3B4C,
  0x3FEAC0C7, 0x3D22B7EA, 0x39E19083, 0x3652BF5D,
  0x3FEFE4BA, 0x3D264810, 0x39E680F3, 0x36575CBF,
  0x3FF5257D, 0x3D29EC2E, 0x39EB8D14, 0x365C13FF,
  0x3FFA83B3, 0x3D2DA4B6, 0x39F0B580, 0x3660E5AE]

/-- Segments 0 to 15 of slot 4, `log2`: log2(1+t) (R133). -/
def log2CoefA : List Nat := [
  0x312FC08E, 0x3D38AA25, 0xBA388EA2, 0x376B1033,
  0x3D35D69C, 0x3D33119A, 0xBA2D8C1A, 0x3756A216,
  0x3DB31FB8, 0x3D2DCD54, 0xBA237E6D, 0x374480EF,
  0x3E0462C5, 0x3D28D618, 0xBA1A4A0A, 0x37345C1E,
  0x3E2E00D2, 0x3D24257C, 0xBA11D72A, 0x3725EFE6,
  0x3E567AF2, 0x3D1FB5C6, 0xBA0A112D, 0x37190317,
  0x3E7DE0B6, 0x3D1B81D6, 0xBA02E622, 0x370D6532,
  0x3E92203D, 0x3D178513, 0xB9F88CB6, 0x3702ECE2,
  0x3EA4D3C2, 0x3D13BB59, 0xB9EC4835, 0x36F2ED9B,
  0x3EB7110E, 0x3D1020EE, 0xB9E0E693, 0x36E1C92D,
  0x3EC8DDD4, 0x3D0CB26F, 0xB9D6527B, 0x36D23820,
  0x3EDA3F60, 0x3D096CCC, 0xB9CC7909, 0x36C40D25,
  0x3EEB3A9F, 0x3D064D3C, 0xB9C3497A, 0x36B720E8,
  0x3EFBD42B, 0x3D035135, 0xB9BAB4E1, 0x36AB5127,
  0x3F060828, 0x3D007667, 0xB9B2ADEC, 0x36A07FF2,
  0x3F0DF989, 0x3CFB7562, 0xB9AB28AF, 0x3696930E]

/-- Segments 16 to 31 of slot 4, `log2`: log2(1+t) (R133). -/
def log2CoefB : List Nat := [
  0x3F15C01A, 0x3CF63846, 0xB9A41A79, 0x368D736D,
  0x3F1D5DA0, 0x3CF131E7, 0xB99D79AE, 0x36850CBF,
  0x3F24D3C2, 0x3CEC5EFD, 0xB9973DA4, 0x367A9A1F,
  0x3F2C2411, 0x3CE7BC80, 0xB9915E89, 0x366C48F2,
  0x3F335004, 0x3CE347A5, 0xB98BD549, 0x365F09BC,
  0x3F3A58FF, 0x3CDEFDD7, 0xB9869B79, 0x3652C35B,
  0x3F41404F, 0x3CDADCB2, 0xB981AB46, 0x36475F66,
  0x3F480731, 0x3CD6E1FF, 0xB979FEC4, 0x363CC9D6,
  0x3F4EAED0, 0x3CD30BAD, 0xB97125F0, 0x3632F0BA,
  0x3F553848, 0x3CCF57D2, 0xB968C33C, 0x3629C3F5,
  0x3F5BA4A4, 0x3CCBC4A7, 0xB960CE95, 0x3621350F,
  0x3F61F4E5, 0x3CC85082, 0xB9594095, 0x361936FC,
  0x3F6829FB, 0x3CC4F9D5, 0xB9521274, 0x3611BDF6,
  0x3F6E44CD, 0x3CC1BF2E, 0xB94B3DF6, 0x360ABF5A,
  0x3F744636, 0x3CBE9F32, 0xB944BD5F, 0x36043183,
  0x3F7A2F04, 0x3CBB989B, 0xB93E8B67, 0x35FC176A]

/-- Segments 0 to 15 of slots 5 and 6, `sinpi` and `cospi`: sin(πt/2), then cos(πt/2) (R133). -/
def halfTurnCoefA : List Nat := [
  0xB0A3264F, 0x3DC90FE0, 0xB4378C5F, 0xB92525D1,
  0x3DC8BD35, 0x3DC81812, 0xB9F7FD55, 0xB9238EA8,
  0x3E47C5C1, 0x3DC532F4, 0xBA76C02A, 0xB9206443,
  0x3E94A031, 0x3DC067A9, 0xBAB790A8, 0xB91BAE6F,
  0x3EC3EF15, 0x3DB9C201, 0xBAF1FCAB, 0xB91578C9,
  0x3EF15AE9, 0x3DB15261, 0xBB150A0A, 0xB90DD2A0,
  0x3F0E39DA, 0x3DA72D95, 0xBB2FA64D, 0xB904CED0,
  0x3F226799, 0x3D9B6C9E, 0xBB489183, 0xB8F50726,
  0x3F3504F3, 0x3D8E2C78, 0xBB5F8E3D, 0xB8DE1493,
  0x3F45E403, 0x3D7F1B9B, 0xBB7463CE, 0xB8C4FE7A,
  0x3F54DB31, 0x3D5F6953, 0xBB836F6D, 0xB8AA02B5,
  0x3F61C597, 0x3D3D903E, 0xBB8B68E7, 0xB88D63CA,
  0x3F6C835E, 0x3D19E3CE, 0xBB920AAE, 0xB85ED094,
  0x3F74FA0A, 0x3CE977ED, 0xBB974466, 0xB820B43E,
  0x3F7B14BE, 0x3C9CE8A5, 0xBB9B092F, 0xB7C21767,
  0x3F7EC46D, 0x3C1DAD0B, 0xBB9D4FBD, 0xB701CF9D]

/-- Segments 16 to 31 of slots 5 and 6, `sinpi` and `cospi`: sin(πt/2), then cos(πt/2) (R133). -/
def halfTurnCoefB : List Nat := [
  0x3F7FFFFF, 0x3581C445, 0xBB9E1275, 0x3701CF9D,
  0x3F7EC46D, 0xBC1DA4F9, 0xBB9D4F75, 0x37C21767,
  0x3F7B14BE, 0xBC9CE4AB, 0xBB9B08A0, 0x3820B43E,
  0x3F74FA0A, 0xBCE9740B, 0xBB974391, 0x385ED094,
  0x3F6C835E, 0xBD19E1EE, 0xBB920995, 0x388D63CA,
  0x3F61C597, 0xBD3D8E74, 0xBB8B678D, 0x38AA02B5,
  0x3F54DB31, 0xBD5F67A4, 0xBB836DD5, 0x38C4FE7A,
  0x3F45E403, 0xBD7F1A0A, 0xBB74602B, 0x38DE1493,
  0x3F3504F3, 0xBD8E2BC1, 0xBB5F8A2F, 0x38F50726,
  0x3F226799, 0xBD9B6BFA, 0xBB488D14, 0x3904CED0,
  0x3F0E39DA, 0xBDA72D04, 0xBB2FA188, 0x390DD2A0,
  0x3EF15AE9, 0xBDB151E7, 0xBB1504FB, 0x391578C9,
  0x3EC3EF15, 0xBDB9C19E, 0xBAF1F212, 0x391BAE6F,
  0x3E94A031, 0xBDC0675D, 0xBAB785AE, 0x39206443,
  0x3E47C5C2, 0xBDC532C2, 0xBA76A9A9, 0x39238EA8,
  0x3DC8BD36, 0xBDC817F9, 0xB9F7CFAB, 0x392525D1]

/-- Segments 0 to 15 of slot 7, `oddsat`: tanh(16t) (R133). -/
def tanhCoefA : List Nat := [
  0xB868E19E, 0x3F0072D5, 0xBC049494, 0xBD01453B,
  0x3EEC9345, 0x3ECA41B1, 0xBDCD5D40, 0x3B9B28AC,
  0x3F42F805, 0x3E56F111, 0xBDA34A85, 0x3C5B54DB,
  0x3F67B891, 0x3DB84541, 0xBD1FB49A, 0x3C0152A0,
  0x3F76CAF1, 0x3D0FD4A0, 0xBC82A18E, 0x3B5FF070,
  0x3F7C92EF, 0x3C586396, 0xBBC7E778, 0x3AAEC02F,
  0x3F7EBBFA, 0x3BA08594, 0xBB15386E, 0x3A035F16,
  0x3F7F889D, 0x3AECED34, 0xBA5CC03E, 0x3942D94D,
  0x3F7FD40E, 0x3A2E83E3, 0xB9A2BCCE, 0x388FC75D,
  0x3F7FEFD4, 0x3980742A, 0xB8EFA4C1, 0x37D3CC93,
  0x3F7FFA0D, 0x38BD0CEF, 0xB8305DD8, 0x371BE4F3,
  0x3F7FFDD0, 0x380B1A73, 0xB781C6A3, 0x36656F37,
  0x3F7FFF32, 0x374CB27B, 0xB6BEF974, 0x35A8D141,
  0x3F7FFFB4, 0x36969BE1, 0xB60C8352, 0x34F86C34,
  0x3F7FFFE4, 0x35DD9FD2, 0xB54EC4B2, 0x3436C7CE,
  0x3F7FFFF6, 0x35230FED, 0xB49821C5, 0x33867B94]

/-- Segments 16 to 31 of slot 7, `oddsat`: tanh(16t) (R133). -/
def tanhCoefB : List Nat := [
  0x3F7FFFFC, 0x346FF2F3, 0xB3DFDD6E, 0x32C5E4D8,
  0x3F7FFFFF, 0x33B08B6E, 0xB324B5EF, 0x32119A2E,
  0x3F7FFFFF, 0x3301E4F1, 0xB2725FED, 0x3156419F,
  0x3F800000, 0x323F244B, 0xB1B25450, 0x309DA419,
  0x3F800000, 0x318CA25F, 0xB1033519, 0x2FE7F8B8,
  0x3F800000, 0x30CEF221, 0xB04112F4, 0x2F2AACD5,
  0x3F800000, 0x30184321, 0xAF8E0E52, 0x2E7B26C8,
  0x3F800000, 0x2F600E7B, 0xAED109AF, 0x2DB8C975,
  0x3F800000, 0x2EA4DA03, 0xAE19CD2B, 0x2D07F569,
  0x3F800000, 0x2DF29502, 0xAD625251, 0x2C4810C7,
  0x3F800000, 0x2D327B5E, 0xACA684A2, 0x2B933333,
  0x3F800000, 0x2C8351D5, 0xABF508CA, 0x2AD89B80,
  0x3F800000, 0x2BC13D3C, 0xAB344943, 0x2A1F5EEF,
  0x3F800000, 0x2B0E2D6E, 0xAA84A5AC, 0x296A845B,
  0x3F800000, 0x2A513777, 0xA9C33152, 0x28AC8C48,
  0x3F800000, 0x2999EEDA, 0xA90F9D5F, 0x27FDE84C]

/-- Four numbers of 32 bits as one of 128. -/
def quadOf (a b c d : Nat) : Nat := a + 2 ^ 32 * b + 2 ^ 64 * c + 2 ^ 96 * d

/-- A list of 32-bit numbers as one, least significant first. -/
def packWords : List Nat → Nat
  | a :: b :: c :: d :: t => quadOf a b c d + 2 ^ 128 * packWords t
  | a :: b :: c :: [] => quadOf a b c 0
  | a :: b :: [] => quadOf a b 0 0
  | a :: [] => a
  | [] => 0

/-- A directory entry: KIND, NSEG, OFFSET and SIZE (R129). -/
def coefEntry (kind nseg offset size : Nat) : List Nat := [kind + 256 * nseg, offset + 65536 * size]

/-- The directory of the default image (R62, R133). -/
def defaultDirectory : List Nat :=
  coefEntry 1 32 0x0080 512 ++ coefEntry 2 32 0x0280 512 ++ coefEntry 3 32 0x0480 512 ++ coefEntry 4 32 0x0680 512 ++
    coefEntry 5 32 0x0880 512 ++ coefEntry 6 32 0x0A80 512 ++ coefEntry 7 32 0x0A80 512 ++ coefEntry 8 32 0x0C80 512 ++
    (List.replicate 8 (coefEntry 0 0 0x0080 0)).flatten

/-- The default image (R62, R133): the directory, the regions in slot order, and zeros. -/
def defaultImage : BitVec 65536 := BitVec.ofNat 65536 (packWords (defaultDirectory ++
  recipCoefA ++ recipCoefB ++ rsqrtCoefA ++ rsqrtCoefB ++
  sqrtCoefA ++ sqrtCoefB ++ exp2CoefA ++ exp2CoefB ++
  log2CoefA ++ log2CoefB ++ halfTurnCoefA ++ halfTurnCoefB ++
  tanhCoefA ++ tanhCoefB))

end Sys2Proof.Machine
end

