-- ==== Sys2Proof/Config.lean ====
section
/-! DEFINITION. What one implementation fixes and what the spec leaves open: uninterpreted constants, with no body, so
that no proof can see their values (the log entries 12 and 15). -/

namespace Sys2Proof.Config

/-- SHA-512 of a byte string (R60, R410, R412, R422, R423). The spec names the function and does not define it:
uninterpreted (log entry 12). -/
opaque sha512 : List Byte → List Byte

/-- Is the second string a valid ECDSA P-521 signature of the digest under the key whose digest the fuses hold
(R412, R422)? The first argument numbers the key: 0 the firmware key, 1 the debug key. Uninterpreted (log entry 12). -/
opaque ecdsaValid : Nat → List Byte → List Byte → Bool

/-- The device identity key's signature of a digest (R410, R423). Uninterpreted (log entry 12). -/
opaque identitySign : List Byte → List Byte

/-- The digest of the device identity public key (R412): fused, a value of each part (log entry 12). -/
opaque deviceId : List Byte

/-- The n-th challenge the device makes (R412): the spec gives no way to compute it (log entry 12). -/
opaque challenge : Nat → List Byte

/-- The fused minimum security version of firmware (R422): a value of each part (log entry 12). -/
opaque minVersion : Nat

/-- IDENT's stepping (Table 24-1): a value of each part (log entry 15). -/
opaque stepping : BitVec 8

/-- The life-cycle state that the fuses hold (R411): a value of each part (log entry 15). -/
opaque lifeCycle : Fin 4

/-- A counter of a time-series record that only timing decides, by die, sample and offset in the record (R408): the
model keeps no cycle counts (log entry 14). -/
opaque timingCounter : Nat → Nat → Nat → Word

/-- NT of R170 for the mesh (1) and pixel (2) threads of a launch: the spec does not say how many threads the grid of a
stage counts while its groups are still being published (log entry 18). -/
opaque stageThreads : Nat → Nat → Nat

/-- The TEAMID of a pixel group (R350), from its primitive's place in raster order, its tile's x and y, and its number
among the groups of that primitive in that tile: the spec gives the pixel stage no numbering (log entry 18). -/
opaque pixelTeamId : Nat → Nat → Nat → Nat → BitVec 32

/-- A byte of a peer package's memory as a copy reads it, by package, address and the number of the read (R418): a value
of the peer, which the model does not hold (log entry 20). -/
opaque peerByte : Nat → Nat → Nat → BitVec 8

/-- How a peer package answers the n-th request for the sources of a chunk (R418): 0 with their values, 1 not yet, since its
host has a translation fault to answer, 2 with a refusal or a permission failure (log entry 20). -/
opaque peerAnswer : Nat → Fin 3

/-- The bytes of the n-th dump of the device state (R410), whose layout the spec does not give (log entry 24). -/
opaque dumpBytes : Nat → List Byte

/-- The bytes of the n-th context image (R272), whose layout the spec does not give (log entry 23). -/
opaque imageBytes : Nat → List Byte

/-- Where in the save area the n-th context image lies (R389; log entry 23). -/
opaque imageAt : Nat → Nat

/-- The bytes of an attestation report (R423) from its nonce, firmware digest, security version, life-cycle state, split
digest and tick: the spec does not give their layout (log entry 24). -/
opaque reportBytes : List Byte → List Byte → Nat → Nat → List Byte → Nat → List Byte

/-- What n bytes at a physical address beyond the 512 GiB of HBM5 (Table 1-2) read as at a tick: the spec gives no such
memory (log entry 10). -/
opaque absentBytes : Nat → Nat → Nat → Nat

/-- The bytes that a checkpoint of n threads takes of an undo area (R397): the spec does not give its layout (log entry 92). -/
opaque ckptBytes : Nat → Nat

/-- The bytes that one primitive takes in the bin of one tile (R352): the spec does not give their layout (log entry 86). -/
opaque binEntry : Nat

/-- Does a step of a weight-cache fill, by its number, read word i of the table (R324)? The spec fixes no order (log
entry 88). -/
opaque fillsWord : Nat → Nat → Bool

/-- Does the n-th access, past L1, go on from its home slice to HBM5 (Table 8-5)? The vault caches are not modelled (log
entry 9), and only a monitor's choice of samples rests on it. -/
opaque homeMiss : Nat → Bool

end Sys2Proof.Config
end

