-- ==== Sys2Proof/Syntax.lean ====
section
/-! DEFINITION. The instruction set as syntax: every row of spec/opcode_table.json is one constructor of Instr.
The first 135 are the encoded forms of Table 2-7 (EMIT and TRAPRET by sub-operation); the others are the device's own
steps (file 95), which no word encodes and which the schedule of State names. -/

namespace Sys2Proof

/-- The conditions of Table 2-5 (R40). -/
inductive Cond where
  | eq | ne | lt | ge | gt | le | hs | lo | hi | ls | mi | pl | vs | vc | nv | al
deriving DecidableEq, Repr

/-- MSET's MOD values (Table 4-1). -/
inductive MsetOp where
  | ld | or | andn
deriving DecidableEq, Repr

/-- MGET's MOD values (Table 4-1). -/
inductive MgetOp where
  | bits | cnt | rank
deriving DecidableEq, Repr

/-- VOTE's MOD values (Table 4-1). -/
inductive VoteOp where
  | all | any | uni | ballot
deriving DecidableEq, Repr

/-- IADD's and ISUB's MOD values (Table 5-1). -/
inductive AddMode where
  | wrap | ci | sats | satu
deriving DecidableEq, Repr

/-- IMULH's MOD values (Table 5-1). -/
inductive HiMode where
  | s32 | n32 | sn32
deriving DecidableEq, Repr

/-- IMAD's MOD values (Table 5-1). -/
inductive MadMode where
  | lo | ws | wu
deriving DecidableEq, Repr

/-- IMINMAX's MOD values (Table 5-1). -/
inductive MinMax where
  | min | max
deriving DecidableEq, Repr

/-- IMINMAX's SUB types (Table 5-1). -/
inductive IntTy where
  | s32 | n32 | s64 | n64
deriving DecidableEq, Repr

/-- SHF's MOD values (Table 5-1). -/
inductive ShfOp where
  | shl | shr | sar | rol | ror | fshl | fshr
deriving DecidableEq, Repr

/-- BITC's MOD values (Table 5-1). -/
inductive BitcOp where
  | popc | clz | ctz | brev
deriving DecidableEq, Repr

/-- SHFL's MOD values (Table 5-1). -/
inductive ShflOp where
  | idx | up | down | xor
deriving DecidableEq, Repr

/-- The scan and reduce operations of Table 5-4 (R116). -/
inductive ScanOp where
  | add | smin | smax | umin | umax | and | or | xor
deriving DecidableEq, Repr

/-- Rounding modes (R7; SUB[2:0] of classes 2 and 3). -/
inductive Rnd where
  | rn | rz | rp | rm | rna | sr
deriving DecidableEq, Repr

/-- FMINMAX's SUB[1:0] (Table 6-1). -/
inductive FMinMax where
  | min | max | minn | maxn
deriving DecidableEq, Repr

/-- The packed half types (Tables 6-1 and 7-4). -/
inductive HalfTy where
  | f16 | bf16
deriving DecidableEq, Repr

/-- FRED's and FSCAN's MOD values (Table 6-1). -/
inductive FRedOp where
  | add | min | max
deriving DecidableEq, Repr

/-- The CVT type codes of Table 7-5 (R153). -/
inductive NumTy where
  | s32 | n32 | s64 | n64 | fx64 | f64 | f32 | f16 | bf16 | e4m3 | e5m2 | e2m1 | e8m0 | p2x2 | s8
deriving DecidableEq, Repr

/-- CVTQ8's MOD values (Table 7-4). -/
inductive Q8Ty where
  | e4m3 | e5m2 | p2x2 | s8
deriving DecidableEq, Repr

/-- CVTW's MOD values (Table 7-4). -/
inductive CvtwOp where
  | sf32 | nf32 | f32s | f32n | sf64 | f64s
deriving DecidableEq, Repr

/-- UNPQ's MOD values (Table 7-4). -/
inductive UnpTy where
  | f16 | bf16 | e4m3 | e5m2 | e2m1 | p2x2 | s8
deriving DecidableEq, Repr

/-- BSCALE's MOD values (Table 7-4). -/
inductive BscTy where
  | e4m3 | e5m2 | e2m1 | p2x2 | s8
deriving DecidableEq, Repr

/-- I2I's type codes (Table 7-4). -/
inductive I2ITy where
  | s8 | n8 | s16 | n16 | s32 | n32 | s64 | n64
deriving DecidableEq, Repr

/-- The address spaces of Table 8-1 (R167). -/
inductive Space where
  | glob | sp | psp | vlt | karg | priv | hnc | hc
deriving DecidableEq, Repr

/-- The SIZE values of Table 2-4 (R36). -/
inductive Size where
  | b | h | w | d | x2 | x4
deriving DecidableEq, Repr

/-- The ORD values of Table 2-4 (R36). -/
inductive Ord where
  | plain | acq | rel | ar
deriving DecidableEq, Repr

/-- The SCH scopes of Table 2-4 (R36). -/
inductive Scope where
  | grp | team | dev | sys
deriving DecidableEq, Repr

/-- The SCH cache hints of Table 2-4 (R36). -/
inductive Hint where
  | normal | ef | nl1 | kv
deriving DecidableEq, Repr

/-- The update operations of Table 8-3 (R176). -/
inductive UpdOp where
  | add | sub | smin | smax | umin | umax | and | or | xor | exch | fadd | fadd2 | fxadd | incw | fmin | fmax
deriving DecidableEq, Repr

/-- FENCE's MOD values (Table 8-4). -/
inductive FenceKind where
  | acq | rel | ar | sc
deriving DecidableEq, Repr

/-- PREF's MOD values (Table 8-4). -/
inductive PrefLvl where
  | l1 | vc
deriving DecidableEq, Repr

/-- The operand formats of MWLD (Table 15-1), with the codes of Table 7-5. -/
inductive BFmt where
  | f32 | f16 | bf16 | e4m3 | e5m2 | e2m1 | p2x2 | s8
deriving DecidableEq, Repr

/-- The operand formats MMA declares for A (Table 15-1). -/
inductive AFmt where
  | f32 | f16 | bf16 | e4m3 | e5m2 | e2m1 | s8
deriving DecidableEq, Repr

/-- The type of an accumulator bank (R278). -/
inductive BankTy where
  | f32 | s32
deriving DecidableEq, Repr

/-- MDRST's operations (Table 15-5). -/
inductive MdrstOp where
  | st | fadd | badd | iadd | xadd | min | max
deriving DecidableEq, Repr

/-- MDRST's spaces (Table 15-2). -/
inductive MSpace where
  | glob | sp | psp | vlt
deriving DecidableEq, Repr

/-- COPY's ROP values (Table 11-4). -/
inductive CopyRop where
  | plain | add | min | max
deriving DecidableEq, Repr

/-- COPY's ETYPE values (Table 11-4). -/
inductive CopyTy where
  | b | s32 | n32 | f32 | bf16 | fx64 | s64 | n64
deriving DecidableEq, Repr

/-- BARV's MOD values (Table 11-3). -/
inductive BarvOp where
  | arrive | wait | expect
deriving DecidableEq, Repr

/-- SAMP's MOD values (Table 17-4). -/
inductive Filter where
  | near | bil | tri
deriving DecidableEq, Repr

/-- TTRI's MOD values (Table 18-1). -/
inductive Cull where
  | off | cullb | cullf
deriving DecidableEq, Repr

/-- CALL's target: DISP (MOD 0) or a register (MOD 1, spelled r) (Table 4-1). -/
inductive CallTarget where
  | disp (x : Disp)
  | reg (a : Reg)
deriving DecidableEq, Repr

/-- CSETUP's MOD values with their base pair (Table 9-6). -/
inductive CsetupOp where
  | off
  | record (a : Reg)
  | replay (a : Reg)
deriving DecidableEq, Repr

/-- The hints and common fields of Table 2-2 that every encoded form carries. -/
structure Hdr where
  cnd : Cond
  w : Bool
  gap : BitVec 3
  yld : Bool
  la : BitVec 4
  keep : BitVec 2
deriving DecidableEq, Repr

/-- The FM sub-fields of EXT (R35, R36). -/
structure MemF where
  ofs : BitVec 20
  space : Space
  size : Size
  ord : Ord
  scope : Scope
  hint : Hint
deriving DecidableEq, Repr

/-- COPY's command fields (Table 11-4); `bar` is BSEL. -/
structure CopyF where
  drs : Bool
  srs : Bool
  rop : CopyRop
  ety : CopyTy
  scope : Scope
  rel : Bool
  acq : Bool
  exp : Bool
  arv : Bool
  bar : Option BarNo
deriving DecidableEq, Repr

/-- Who issues: a lane of a group of a resident team, or a movement context of a core's bursar (R21, R224). -/
inductive Agent where
  | thread (uid g lane : Nat)
  | ctx (core c : Nat)
deriving DecidableEq, Repr

/-- What a monitor samples (R409). -/
inductive MonSrc where
  | latency (level : Nat)
  | copySlots | shadowQueue | taskRing | faultQueue
deriving DecidableEq, Repr

/-- A firmware image as the host die holds it (R422). -/
structure FwImage where
  magic : Word
  body : List Byte
  digest : List Byte
  sig : List Byte
  version : Nat
  trains : Bool
deriving DecidableEq, Repr

/-- One copy chunk on the network (R417, R418): the elements it writes, each an address of the peer and its bytes.
`op` is the update applied, none for a plain copy. -/
structure ChunkFlit where
  seq : Nat
  op : Option (CopyRop × CopyTy)
  elems : List (Nat × List Byte)
deriving DecidableEq, Repr

/-- The instructions and device steps of spec/opcode_table.json, one constructor a row. -/
inductive Instr where
  /-- R87 -/
  | nop (h : Hdr)
  /-- R86 -/
  | bra (h : Hdr) (disp : Disp)
  /-- R86 -/
  | brx (h : Hdr) (a : Reg)
  /-- R86 -/
  | call (h : Hdr) (d : Reg) (t : CallTarget)
  /-- R86 -/
  | ret (h : Hdr) (a : Reg)
  /-- R87 -/
  | exit (h : Hdr)
  /-- R88 -/
  | meetset (h : Hdr) (d : Reg) (disp : Disp)
  /-- R88 -/
  | meetrst (h : Hdr) (src : Option Reg)
  /-- R89 -/
  | mjoin (h : Hdr) (m : MaskNo)
  /-- R89 -/
  | mleave (h : Hdr) (m : MaskNo)
  /-- R90 -/
  | mwait (h : Hdr) (m : MaskNo)
  /-- R89 -/
  | mset (h : Hdr) (a : Reg) (m : MaskNo) (op : MsetOp)
  /-- R89 -/
  | mget (h : Hdr) (d : Reg) (m : MaskNo) (op : MgetOp)
  /-- R91 -/
  | vote (h : Hdr) (d a : Reg) (m : MaskNo) (op : VoteOp)
  /-- R92 -/
  | sleept (h : Hdr) (a : Reg)
  /-- R93 -/
  | sleepp (h : Hdr) (a : Reg) (bar : BarNo)
  /-- R94 -/
  | fork (h : Hdr) (d a : Reg) (disp : Disp)
  /-- R95 -/
  | rdv (h : Hdr) (a : Reg)
  /-- R100 -/
  | iadd (h : Hdr) (d a b : Reg) (mode : AddMode) (w64 : Bool)
  /-- R100 -/
  | isub (h : Hdr) (d a b : Reg) (mode : AddMode) (w64 : Bool)
  /-- R101 -/
  | imul (h : Hdr) (d a b : Reg) (w64 : Bool)
  /-- R101 -/
  | imulh (h : Hdr) (d a b : Reg) (mode : HiMode)
  /-- R101 -/
  | imad (h : Hdr) (d a b c : Reg) (mode : MadMode)
  /-- R102 -/
  | iminmax (h : Hdr) (d a b : Reg) (op : MinMax) (ty : IntTy)
  /-- R103 -/
  | bool (h : Hdr) (d a b c : Reg) (g1 g0 : BitVec 4)
  /-- R104 -/
  | shf (h : Hdr) (d a b c : Reg) (op : ShfOp)
  /-- R105 -/
  | bfx (h : Hdr) (d a b : Reg) (sx : Bool)
  /-- R105 -/
  | bfi (h : Hdr) (d a b c : Reg)
  /-- R106 -/
  | bitc (h : Hdr) (d a : Reg) (op : BitcOp)
  /-- R108 -/
  | icmp (h : Hdr) (a b : Reg) (w64 : Bool)
  /-- R108 -/
  | sel (h : Hdr) (d a b : Reg) (w64 : Bool) (sc : Cond)
  /-- R108 -/
  | mov (h : Hdr) (d a : Reg) (w64 : Bool)
  /-- R108 -/
  | movi (h : Hdr) (d : Reg) (imm : Word) (s64 : Bool)
  /-- R108 -/
  | lea (h : Hdr) (d a b : Reg) (sgn : Bool) (scale : BitVec 3)
  /-- R109 -/
  | srd (h : Hdr) (d : Reg) (n : BitVec 12)
  /-- R109 -/
  | swr (h : Hdr) (a : Reg) (n : BitVec 12)
  /-- R113 -/
  | shfl (h : Hdr) (d a b c : Reg) (m : MaskNo) (op : ShflOp)
  /-- R114 -/
  | vcomp (h : Hdr) (d a b : Reg) (m : MaskNo)
  /-- R115 -/
  | vexp (h : Hdr) (d a b : Reg) (m : MaskNo)
  /-- R116 -/
  | iscan (h : Hdr) (d a : Reg) (m : MaskNo) (op : ScanOp) (excl : Bool)
  /-- R116 -/
  | ired (h : Hdr) (d a : Reg) (m : MaskNo) (op : ScanOp)
  /-- R107 -/
  | bysel (h : Hdr) (d a b c : Reg)
  /-- R123 -/
  | fadd (h : Hdr) (d a b : Reg) (sat : Bool) (rnd : Rnd)
  /-- R123 -/
  | fmul (h : Hdr) (d a b : Reg) (sat : Bool) (rnd : Rnd)
  /-- R123 -/
  | ffma (h : Hdr) (d a b c : Reg) (sat : Bool) (rnd : Rnd)
  /-- R126 -/
  | fminmax (h : Hdr) (d a b : Reg) (op : FMinMax)
  /-- R127 -/
  | fcmp (h : Hdr) (a b : Reg)
  /-- R128 -/
  | fclass (h : Hdr) (d a : Reg) (mask : BitVec 10)
  /-- R125 -/
  | frnd (h : Hdr) (d a : Reg) (rnd : Rnd)
  /-- R125 -/
  | fscale (h : Hdr) (d a b : Reg) (rnd : Rnd)
  /-- R123 -/
  | dadd (h : Hdr) (d a b : Reg) (sat : Bool) (rnd : Rnd)
  /-- R123 -/
  | dmul (h : Hdr) (d a b : Reg) (sat : Bool) (rnd : Rnd)
  /-- R123 -/
  | dfma (h : Hdr) (d a b c : Reg) (sat : Bool) (rnd : Rnd)
  /-- R127 -/
  | dcmp (h : Hdr) (a b : Reg)
  /-- R124 -/
  | hadd2 (h : Hdr) (d a b : Reg) (ty : HalfTy) (sat : Bool) (rnd : Rnd)
  /-- R124 -/
  | hmul2 (h : Hdr) (d a b : Reg) (ty : HalfTy) (sat : Bool) (rnd : Rnd)
  /-- R124 -/
  | hfma2 (h : Hdr) (d a b c : Reg) (ty : HalfTy) (sat : Bool) (rnd : Rnd)
  /-- R131 -/
  | sfn (h : Hdr) (d a : Reg) (slot : BitVec 4)
  /-- R135 -/
  | aconj (h : Hdr) (d a : Reg) (alg : BitVec 2)
  /-- R135 -/
  | anorm (h : Hdr) (d a : Reg) (alg : BitVec 2) (rnd : Rnd)
  /-- R135 -/
  | amul (h : Hdr) (d a b : Reg) (alg : BitVec 2) (ca cb : Bool) (rnd : Rnd)
  /-- R136 -/
  | fred (h : Hdr) (d a : Reg) (m : MaskNo) (op : FRedOp) (duct : BitVec 2)
  /-- R136 -/
  | fscan (h : Hdr) (d a : Reg) (m : MaskNo) (op : FRedOp) (duct : BitVec 2) (excl : Bool)
  /-- R155 -/
  | cvt (h : Hdr) (d a : Reg) (dst src : NumTy) (satf : Bool) (rnd : Rnd)
  /-- R156 -/
  | cvth2 (h : Hdr) (d a b : Reg) (ty : HalfTy) (satf : Bool) (rnd : Rnd)
  /-- R157 -/
  | cvtq8 (h : Hdr) (d a b : Reg) (ty : Q8Ty) (scl satf : Bool) (rnd : Rnd)
  /-- R157 -/
  | cvtq4 (h : Hdr) (d a b : Reg) (scl satf : Bool) (rnd : Rnd)
  /-- R159 -/
  | cvtw (h : Hdr) (d a : Reg) (op : CvtwOp) (q : BitVec 6) (satf : Bool) (rnd : Rnd)
  /-- R158 -/
  | unpq (h : Hdr) (d a b : Reg) (ty : UnpTy) (scl satf : Bool) (rnd : Rnd)
  /-- R161 -/
  | bscale (h : Hdr) (d a : Reg) (m : MaskNo) (ty : BscTy)
  /-- R162 -/
  | srseed (h : Hdr) (a : Reg)
  /-- R160 -/
  | i2i (h : Hdr) (d a : Reg) (dst src : I2ITy) (sat : Bool)
  /-- R207 -/
  | draw (h : Hdr) (d : Reg) (site : BitVec 6)
  /-- R207 -/
  | drawb (h : Hdr) (d : Reg) (site : BitVec 6)
  /-- R207 -/
  | drawi (h : Hdr) (d b : Reg) (site : BitVec 6)
  /-- R207 -/
  | drawn (h : Hdr) (d : Reg) (site : BitVec 6)
  /-- R208 -/
  | drawt (h : Hdr) (d : Reg) (site : BitVec 6)
  /-- R210 -/
  | csetup (h : Hdr) (op : CsetupOp)
  /-- R211 -/
  | cmut (h : Hdr) (a b : Reg) (n : BitVec 2)
  /-- R211 -/
  | cmutclr (h : Hdr)
  /-- R212 -/
  | cresult (h : Hdr) (a : Reg) (cnt : BitVec 2)
  /-- R213 -/
  | crestart (h : Hdr) (disp : Disp)
  /-- R215 -/
  | caccept (h : Hdr) (d a b : Reg) (comp : BitVec 2)
  /-- R214 -/
  | ccmp (h : Hdr) (d a : Reg) (comp : BitVec 2)
  /-- R209 -/
  | cpeek (h : Hdr) (d a : Reg) (site : BitVec 6)
  /-- R211 -/
  | cseed (h : Hdr) (a : Reg)
  /-- R178 -/
  | ld (h : Hdr) (d a : Reg) (f : MemF) (sx : Bool)
  /-- R178 -/
  | st (h : Hdr) (a b : Reg) (f : MemF)
  /-- R178 -/
  | ldv (h : Hdr) (d a : Reg) (f : MemF)
  /-- R178 -/
  | stv (h : Hdr) (a b : Reg) (f : MemF)
  /-- R178 -/
  | ldk (h : Hdr) (d a : Reg) (f : MemF) (sx : Bool)
  /-- R180 -/
  | atom (h : Hdr) (d a b : Reg) (f : MemF) (op : UpdOp)
  /-- R180 -/
  | red (h : Hdr) (a b : Reg) (f : MemF) (op : UpdOp)
  /-- R180 -/
  | cas (h : Hdr) (d a b c : Reg) (f : MemF)
  /-- R181 -/
  | fence (h : Hdr) (kind : FenceKind) (scope : Scope)
  /-- R182 -/
  | icinv (h : Hdr) (a b : Reg) (ofs : BitVec 20) (scope : Scope)
  /-- R183 -/
  | cctl (h : Hdr) (a b : Reg) (inv : Bool) (f : MemF)
  /-- R184 -/
  | pref (h : Hdr) (a : Reg) (lvl : PrefLvl) (f : MemF)
  /-- R302 -/
  | malg (h : Hdr) (a : Reg) (m : MaskNo) (rsp : Bool) (alg : BitVec 2)
  /-- R303 -/
  | mwld (h : Hdr) (a b c : Reg) (m : MaskNo) (fmt : BFmt) (alg : BitVec 2)
  /-- R304 -/
  | mgath (h : Hdr) (a : Reg) (m : MaskNo)
  /-- R305 -/
  | mscale (h : Hdr) (a : Reg) (m : MaskNo)
  /-- R306 -/
  | mma (h : Hdr) (m : MaskNo) (fmt : AFmt) (cb ca ow : Bool) (duct : BitVec 2) (bank : Bool)
  /-- R307 -/
  | mzero (h : Hdr) (m : MaskNo) (ty : BankTy) (bank : Bool)
  /-- R307 -/
  | mldacc (h : Hdr) (a : Reg) (m : MaskNo) (ty : BankTy) (bank : Bool)
  /-- R308 -/
  | mdrain (h : Hdr) (d : Reg) (m : MaskNo) (bank : Bool)
  /-- R309 -/
  | mdrst (h : Hdr) (a b : Reg) (m : MaskNo) (op : MdrstOp) (scope : Scope) (rel : Bool) (space : MSpace) (bank : Bool)
  /-- R311 -/
  | mstat (h : Hdr) (d : Reg) (m : MaskNo) (clr : Bool)
  /-- R236 -/
  | copy (h : Hdr) (d a b : Reg) (f : CopyF)
  /-- R242 -/
  | cwait (h : Hdr) (d a : Reg)
  /-- R246 -/
  | binit (h : Hdr) (a : Reg) (bar : BarNo)
  /-- R247 -/
  | barv (h : Hdr) (d a : Reg) (m : MaskNo) (op : BarvOp) (bar : BarNo)
  /-- R248 -/
  | bwait (h : Hdr) (d a : Reg) (bar : BarNo)
  /-- R249 -/
  | btest (h : Hdr) (d : Reg) (pt : Bool) (bar : BarNo)
  /-- R250 -/
  | bexpt (h : Hdr) (a : Reg) (bar : BarNo)
  /-- R351 -/
  | discard (h : Hdr)
  /-- R327 -/
  | samp (h : Hdr) (d a b c : Reg) (filt : Filter)
  /-- R328 -/
  | sampinv (h : Hdr) (adr : Option Reg) (dev : Bool)
  /-- R334 -/
  | tbox (h : Hdr) (d a b : Reg)
  /-- R335 -/
  | ttri (h : Hdr) (d a b : Reg) (cull : Cull)
  /-- R338 -/
  | spush (h : Hdr) (a b c : Reg) (m : MaskNo) (nz : Bool) (n : BitVec 2)
  /-- R338 -/
  | spop (h : Hdr) (d b c : Reg) (m : MaskNo)
  /-- R339 -/
  | shray (h : Hdr) (d a b c : Reg) (fx : Bool)
  /-- R345 -/
  | emitPayload (h : Hdr) (d a b c : Reg)
  /-- R347 -/
  | emitVertex (h : Hdr) (a b c : Reg)
  /-- R347 -/
  | emitPrim (h : Hdr) (a b : Reg)
  /-- R351 -/
  | emitColour (h : Hdr) (a : Reg)
  /-- R262 -/
  | trap (h : Hdr) (a : Reg) (code : BitVec 12)
  /-- R258 -/
  | trapretRetry (h : Hdr)
  /-- R258 -/
  | trapretSkip (h : Hdr)
  /-- R258 -/
  | trapretSupply (h : Hdr)
  /-- R258 -/
  | trapretAccept (h : Hdr)
  /-- R263 -/
  | launch (h : Hdr) (d a : Reg)
  /-- R265 -/
  | tlbinv (h : Hdr) (rng : Option (Reg × Reg))
  /-- R262 -/
  | bkpt (h : Hdr) (code : BitVec 12)
  /-- R32, R51: a slot whose VALID bit is clear, under the line word given -/
  | emptySlot (lineWord : Word)
  /-- R31: the line of this agent's PC is fetched -/
  | fetchLine (ag : Agent)
  /-- R45: the result of this access arrives -/
  | longLatencyResult (acc : Nat)
  /-- R46: a late trap of this agent is delivered -/
  | lateTrapDelivery (ag : Agent)
  /-- R269: the walk of this access completes -/
  | pageWalk (acc : Nat)
  /-- R175: this access reaches its port; of a run of four registers, this half -/
  | portUpdate (acc : Nat) (half : Bool)
  /-- R81: the bodies pending on a mask of a group -/
  | collectiveBody (uid g mask : Nat)
  /-- R92, R93: the tick reaches a sleeper's tick or promise -/
  | sleepWake (ag : Agent)
  /-- R229, R94: a freed context is granted to a stalled FORK lane -/
  | bursarExit (core : Nat)
  /-- R236: the next chunk of a copy slot is sent -/
  | copyChunkSend (core slot : Nat)
  /-- R236: a sent chunk of a copy slot is acknowledged -/
  | copyChunkAck (core slot chunk : Nat)
  /-- R277: the holder of this core's array gives it up -/
  | arrayRelease (core : Nat)
  /-- R294: a translated tile is applied or dropped -/
  | mdrstTileApply (tile : Nat)
  /-- R323: a weight-cache fill of this sampler completes -/
  | weightCacheFill (smp : Nat) (table : DWord) (gen : BitVec 16)
  /-- R340: the resident walker of this core takes a queued ray -/
  | walkerRay (core : Nat)
  /-- R346: a mesh group of a published slot is admitted -/
  | meshGroupStart (core slot : Nat)
  /-- R346: a ring slot frees -/
  | taskSlotFree (core slot : Nat)
  /-- R349: the next retired mesh group of a draw passes its primitives to setup -/
  | primitiveSetup (launch : Nat)
  /-- R350: a pixel group of this pair starts -/
  | pixelGroupStart (pair : Nat)
  /-- R352: a tile in progress is written early -/
  | tileFlush (pair launch tx ty : Nat)
  /-- R352: a flushed tile is reloaded -/
  | tileReload (pair launch tx ty : Nat)
  /-- R352: the tiles held for a draw are written at the pass end -/
  | passEndWrite (launch : Nat)
  /-- R404: an entry of a port's replay queue is checked -/
  | replayCheck (core port entry : Nat)
  /-- R400: a team is rolled back to its checkpoint -/
  | escrowRollback (uid : Nat)
  /-- R259: a killed IDEMPOTENT team is relaunched on a core -/
  | teamRelaunch (uid core : Nat)
  /-- R378: the host writes QWR -/
  | queueDoorbell (q : Nat) (wr : Word)
  /-- R380: the parser takes a LAUNCH packet -/
  | launchPacket (q : Nat)
  /-- R380: the parser takes a FENCE packet -/
  | fencePacket (q : Nat)
  /-- R380: a held FENCE packet is satisfied -/
  | fencePacketRelease (q : Nat)
  /-- R380: the parser takes a SIGNAL packet -/
  | signalPacket (q : Nat)
  /-- R380: a queued SIGNAL is applied -/
  | signalApply (q : Nat)
  /-- R378: the host sets QCTL.EN -/
  | queueEnable (q : Nat)
  /-- R378: the host clears QCTL.EN -/
  | queueDisable (q : Nat)
  /-- R388: the host clears QCTL.HALT -/
  | haltClear (q : Nat)
  /-- R389: the host sets QCTL.PREEMPT -/
  | preemptSet (q : Nat)
  /-- R389: the host clears QCTL.PREEMPT -/
  | preemptClear (q : Nat)
  /-- R271: a halted team's image is sealed -/
  | imageSeal (uid : Nat)
  /-- R386: the controller admits the next team that fits this core -/
  | teamAdmission (core : Nat)
  /-- R387: a launch completes -/
  | launchCompletion (launch : Nat)
  /-- R392: the clearing unit commits the team of smallest key of a launch -/
  | detCommit (launch : Nat)
  /-- R393: a team with a full buffer commits and goes on non-speculatively -/
  | detBufferFull (uid : Nat)
  /-- R270: the host answers a fault with map -/
  | faultAnswerMap (die num : Nat)
  /-- R270: the host answers a fault with refuse -/
  | faultAnswerRefuse (die num : Nat)
  /-- R415: a host write of the management region -/
  | managementWrite (off : Nat) (wide : Bool) (val : DWord)
  /-- R415: the host writes 1 to PORTSTAT DOWN -/
  | portDownClear (port : Nat)
  /-- R424 -/
  | powerRequestP0
  /-- R424 -/
  | powerRequestP1
  /-- R424 -/
  | powerRequestP2
  /-- R424 -/
  | powerRequestP3
  /-- R424: no work remains and P2 is entered -/
  | retentionEntry
  /-- R407: the armed tick is reached -/
  | stoptick
  /-- R407: the clocks resume after a stop -/
  | clockRelease
  /-- R408: both dies latch their counters and write their records, the step named by either die -/
  | timeSeriesSample (die : Nat)
  /-- R409: the host reads a monitor -/
  | monitorRead (die mon : Nat)
  /-- R409: the host clears a monitor -/
  | monitorClear (die mon : Nat)
  /-- R409: the host selects a monitor's source and bin width -/
  | monitorSelect (die mon : Nat) (src : MonSrc) (w : BitVec 4)
  /-- R410: a fatal error dumps the device state -/
  | fatalDump
  /-- R412: a hallmark token is submitted -/
  | tokenSubmit (tok : List Byte)
  /-- R423: a nonce is written to ATTEST -/
  | attest (nonce : List Byte)
  /-- R422: the device is reset and the boot ROM checks the host's image -/
  | reset (img : FwImage)
  /-- R419: a chunk arrives at a network port -/
  | peerChunkReceive (port : Nat) (f : ChunkFlit)
  /-- R419, R418: an acknowledgement arrives at a network port; `prot` when the peer answers COPY_PROT -/
  | peerAckReceive (port seq : Nat) (prot : Bool)
  /-- R419 -/
  | heartbeatReceive (port : Nat)
  /-- R419 -/
  | heartbeatSend (port : Nat)
  /-- R419: an unacknowledged chunk is sent again -/
  | chunkRetransmit (port seq : Nat)
  /-- R419: a port has been silent for 80 us -/
  | portDown (port : Nat)
  /-- R422: a new image while in reset hold -/
  | firmwareImage (img : FwImage)
  /-- R262: the debugger resumes a stopped group -/
  | bkptResumption (uid g : Nat)
  /-- R182: the last acknowledgement for lanes of this group parked on ICINV -/
  | icinvAcknowledgement (ag : Agent)
  /-- R265 -/
  | tlbinvAcknowledgement (ag : Agent)
  /-- R328 -/
  | sampinvAcknowledgement (ag : Agent)
deriving DecidableEq, Repr

end Sys2Proof
end

