-- ==== Sys2Proof/WellFormed.lean ====
section
/-! DEFINITION. Well-formed instructions: the operand combinations that the encoding tables allow (R41, R42, R49, R85,
R98, R119, R152, R177, R194, R205, R233, R234, R261, R297, R298, R326, R331). A device step is always well-formed. -/

namespace Sys2Proof

/-- fshl and fshr read C (Table 5-1). -/
def ShfOp.funnel : ShfOp → Bool
  | .fshl | .fshr => true
  | _ => false

/-- A narrow B format carries scales, read through C (Table 15-1). -/
def BFmt.narrow : BFmt → Bool
  | .f32 | .f16 | .bf16 => false
  | _ => true

/-- The SIZE column of Table 8-3. -/
def UpdOp.okSize (o : UpdOp) (z : Size) : Bool :=
  match o with
  | .fadd | .fadd2 | .incw | .fmin | .fmax => z == .w
  | .fxadd => z == .d
  | _ => z == .w || z == .d

/-- The scope is 0 whenever ORD is 0 (R177). -/
def MemF.okScope (x : MemF) : Bool := x.ord != .plain || x.scope == .grp

/-- `sx` is legal only with SIZE 0 or 1 (R177). -/
def MemF.okSx (x : MemF) : Bool := x.size == .b || x.size == .h

/-- SIZE 0 to 3. -/
def Size.single : Size → Bool
  | .x2 | .x4 => false
  | _ => true

/-- LD (Table 8-4). -/
def MemF.okLoad (x : MemF) : Bool :=
  x.okScope && x.space != .karg && x.size.single && (x.ord == .plain || x.ord == .acq)

/-- ST (Table 8-4). -/
def MemF.okStore (x : MemF) : Bool :=
  x.okScope && x.space != .karg && x.size.single && (x.ord == .plain || x.ord == .rel)

/-- LDV (Table 8-4). -/
def MemF.okLoadRun (x : MemF) : Bool :=
  x.okScope && x.space != .karg && !x.size.single && (x.ord == .plain || x.ord == .acq)

/-- STV (Table 8-4). -/
def MemF.okStoreRun (x : MemF) : Bool :=
  x.okScope && x.space != .karg && !x.size.single && (x.ord == .plain || x.ord == .rel)

/-- LDK (Table 8-4). -/
def MemF.okArg (x : MemF) : Bool := x.okScope && x.space == .karg && x.ord == .plain

/-- ATOM and CAS (Table 8-4); no hint (R177). -/
def MemF.okAtom (x : MemF) : Bool :=
  x.okScope && x.space != .karg && (x.size == .w || x.size == .d) && x.hint == .normal

/-- RED (Table 8-4); no hint (R177). -/
def MemF.okRed (x : MemF) : Bool := x.okAtom && (x.ord == .plain || x.ord == .rel)

/-- FENCE and ICINV: SPACE and SIZE reserved, ORD 0, no hint (Table 8-4, R177). -/
def MemF.okScopeOnly (x : MemF) : Bool :=
  x.space == .glob && x.size == .b && x.ord == .plain && x.hint == .normal

/-- CCTL: spaces 0 and 5, SIZE reserved, ORD 0 (Table 8-4). -/
def MemF.okCctl (x : MemF) : Bool := (x.space == .glob || x.space == .priv) && x.size == .b && x.ord == .plain

/-- PREF: spaces 0, 3 and 5, SIZE reserved, ORD 0, scope 0 (Table 8-4, R177). -/
def MemF.okPref (x : MemF) : Bool :=
  x.okScope && (x.space == .glob || x.space == .vlt || x.space == .priv) && x.size == .b && x.ord == .plain

/-- The combinations of COPY's command fields that are not ILLEGAL (R234). -/
def CopyF.ok (x : CopyF) : Bool :=
  (x.bar.isSome || (!x.arv && !x.exp)) &&
  ((x.acq || x.rel) == (x.scope != .grp)) &&
  (match x.rop with
   | .plain => true
   | .add => x.ety == .s32 || x.ety == .n32 || x.ety == .f32 || x.ety == .bf16 || x.ety == .fx64
   | _ => x.ety != .b && x.ety != .bf16)

/-- A member mask of a collective, with CND = al (R37, R41). -/
def collOk (h : Hdr) (m : MaskNo) : Bool := h.cnd == .al && decide (m.toNat < 12)

/-- A mask that MJOIN, MLEAVE and MSET may name (Table 4-1). -/
def maskRw (m : MaskNo) : Bool := decide (1 ≤ m.toNat) && decide (m.toNat < 12)

/-- Does the encoding allow this instruction? -/
def Instr.wf : Instr → Bool
  | .nop h | .bra h _ | .brx h _ | .call h _ _ | .ret h _ | .exit h | .meetset h _ _ | .meetrst h _ => !h.w
  | .mjoin h m | .mleave h m | .mset h _ m _ => !h.w && maskRw m
  | .mwait h m => !h.w && decide (m.toNat < 12)
  | .mget _ _ m _ => decide (m.toNat < 12)
  | .vote h _ _ m _ => collOk h m
  | .sleept h _ | .sleepp h _ _ | .fork h _ _ _ | .rdv h _ => !h.w
  | .iadd .. | .isub .. | .imul .. | .imulh .. | .imad .. | .iminmax .. | .bool .. => true
  | .shf _ _ _ _ c o => o.funnel || c == vz
  | .bfx .. | .bfi .. | .bitc .. | .mov .. | .movi .. | .bysel .. => true
  | .icmp h _ _ _ => h.w
  | .sel h _ _ _ _ _ | .lea h _ _ _ _ _ | .srd h _ _ | .swr h _ _ => !h.w
  | .shfl h _ _ _ _ m _ => collOk h m
  | .vcomp h _ _ _ m | .vexp h _ _ _ m => collOk h m
  | .iscan h _ _ m _ _ => collOk h m
  | .ired h _ _ m _ => collOk h m
  | .fadd _ _ _ _ _ r | .fmul _ _ _ _ _ r | .ffma _ _ _ _ _ _ r | .dadd _ _ _ _ _ r | .dmul _ _ _ _ _ r
  | .dfma _ _ _ _ _ _ r | .frnd _ _ _ r | .fscale _ _ _ _ r | .anorm _ _ _ _ r => r != .sr
  | .fminmax .. | .fclass .. | .sfn .. => true
  | .fcmp h _ _ | .dcmp h _ _ => h.w
  | .hadd2 h _ _ _ _ _ r | .hmul2 h _ _ _ _ _ r | .hfma2 h _ _ _ _ _ _ r => !h.w && r != .sr
  | .aconj h _ _ _ => !h.w
  | .amul h _ _ _ _ _ _ r => !h.w && r != .sr
  | .fred h _ _ m o t => collOk h m && (o == .add || t == 0)
  | .fscan h _ _ m o t _ => collOk h m && (o == .add || t == 0)
  | .cvt .. | .cvth2 .. | .cvtw .. | .i2i .. => true
  | .cvtq8 _ _ _ b _ x _ _ | .cvtq4 _ _ _ b x _ _ => x || b == vz
  | .unpq _ _ _ b _ x _ r => (x || b == vz) && r != .sr
  | .bscale h _ _ m _ => collOk h m
  | .srseed h _ => !h.w
  | .draw h _ s | .drawb h _ s | .drawi h _ _ s | .drawn h _ s | .drawt h _ s => !h.w && s != 63
  | .csetup h _ | .cmut h _ _ _ | .cmutclr h | .cresult h _ _ | .crestart h _ | .cseed h _ => !h.w
  | .caccept h _ _ _ _ | .ccmp h _ _ _ => h.w
  | .cpeek _ _ _ s => s != 63
  | .ld h _ _ x sx => !h.w && x.okLoad && (!sx || x.okSx)
  | .st h _ _ x => !h.w && x.okStore
  | .ldv h _ _ x => !h.w && x.okLoadRun
  | .stv h _ _ x => !h.w && x.okStoreRun
  | .ldk h _ _ x sx => !h.w && x.okArg && (!sx || x.okSx)
  | .atom h _ _ _ x o => !h.w && x.okAtom && o.okSize x.size
  | .red h _ _ x o => !h.w && o != .exch && x.okRed && o.okSize x.size
  | .cas _ _ _ _ _ x => x.okAtom
  | .fence h _ _ | .icinv h _ _ _ _ => !h.w
  | .cctl h _ _ _ x => !h.w && x.okCctl
  | .pref h _ _ x => !h.w && x.okPref
  | .malg h _ m _ _ => !h.w && collOk h m
  | .mwld h _ _ c m t _ => !h.w && collOk h m && (t.narrow || c == vz)
  | .mgath h _ m | .mscale h _ m => !h.w && collOk h m
  | .mma h m _ _ _ _ _ _ => !h.w && collOk h m
  | .mzero h m _ _ => !h.w && collOk h m
  | .mldacc h _ m _ _ => !h.w && collOk h m
  | .mdrain h _ m _ => !h.w && collOk h m
  | .mdrst h _ _ m _ sc rel _ _ => !h.w && collOk h m && (rel == (sc != .grp))
  | .mstat h _ m _ => collOk h m
  | .copy h _ _ _ x => !h.w && x.ok
  | .cwait .. | .bwait .. => true
  | .binit h _ _ | .bexpt h _ _ => !h.w
  | .barv h _ a m o _ => collOk h m && (o == .expect || a == vz)
  | .btest h _ pt _ => !pt || !h.w
  | .discard h => !h.w
  | .samp .. | .tbox .. | .ttri .. => true
  | .sampinv h _ _ => !h.w
  | .spush h _ _ _ m _ _ => !h.w && collOk h m
  | .spop h _ _ _ m => collOk h m
  | .shray h _ _ _ _ _ | .emitPayload h _ _ _ _ | .emitVertex h _ _ _ | .emitPrim h _ _ | .emitColour h _ => !h.w
  | .trap h _ _ | .trapretRetry h | .trapretSkip h | .trapretSupply h | .trapretAccept h => !h.w
  | .launch h _ _ | .tlbinv h _ | .bkpt h _ => !h.w
  | .emptySlot .. | .fetchLine .. | .longLatencyResult .. | .lateTrapDelivery .. | .pageWalk ..
  | .portUpdate .. | .collectiveBody .. | .sleepWake .. | .bursarExit .. | .copyChunkSend .. | .copyChunkAck ..
  | .arrayRelease .. | .mdrstTileApply .. | .weightCacheFill .. | .walkerRay .. | .meshGroupStart ..
  | .taskSlotFree .. | .primitiveSetup .. | .pixelGroupStart .. | .tileFlush .. | .tileReload ..
  | .passEndWrite .. | .replayCheck .. | .escrowRollback .. | .teamRelaunch .. | .queueDoorbell ..
  | .launchPacket .. | .fencePacket .. | .fencePacketRelease .. | .signalPacket .. | .signalApply ..
  | .queueEnable .. | .queueDisable .. | .haltClear .. | .preemptSet .. | .preemptClear .. | .imageSeal ..
  | .teamAdmission .. | .launchCompletion .. | .detCommit .. | .detBufferFull .. | .faultAnswerMap ..
  | .faultAnswerRefuse .. | .managementWrite .. | .portDownClear .. | .powerRequestP0 .. | .powerRequestP1 ..
  | .powerRequestP2 .. | .powerRequestP3 .. | .retentionEntry .. | .stoptick .. | .clockRelease ..
  | .timeSeriesSample .. | .monitorRead .. | .monitorClear .. | .monitorSelect .. | .fatalDump ..
  | .tokenSubmit .. | .attest .. | .reset .. | .peerChunkReceive .. | .peerAckReceive .. | .heartbeatReceive ..
  | .heartbeatSend .. | .chunkRetransmit .. | .portDown .. | .firmwareImage .. | .bkptResumption ..
  | .icinvAcknowledgement .. | .tlbinvAcknowledgement .. | .sampinvAcknowledgement .. => true

/-- Does a word encode this instruction (or is it a device step)? -/
def Instr.encoded : Instr → Bool
  | .emptySlot .. | .fetchLine .. | .longLatencyResult .. | .lateTrapDelivery .. | .pageWalk ..
  | .portUpdate .. | .collectiveBody .. | .sleepWake .. | .bursarExit .. | .copyChunkSend .. | .copyChunkAck ..
  | .arrayRelease .. | .mdrstTileApply .. | .weightCacheFill .. | .walkerRay .. | .meshGroupStart ..
  | .taskSlotFree .. | .primitiveSetup .. | .pixelGroupStart .. | .tileFlush .. | .tileReload ..
  | .passEndWrite .. | .replayCheck .. | .escrowRollback .. | .teamRelaunch .. | .queueDoorbell ..
  | .launchPacket .. | .fencePacket .. | .fencePacketRelease .. | .signalPacket .. | .signalApply ..
  | .queueEnable .. | .queueDisable .. | .haltClear .. | .preemptSet .. | .preemptClear .. | .imageSeal ..
  | .teamAdmission .. | .launchCompletion .. | .detCommit .. | .detBufferFull .. | .faultAnswerMap ..
  | .faultAnswerRefuse .. | .managementWrite .. | .portDownClear .. | .powerRequestP0 .. | .powerRequestP1 ..
  | .powerRequestP2 .. | .powerRequestP3 .. | .retentionEntry .. | .stoptick .. | .clockRelease ..
  | .timeSeriesSample .. | .monitorRead .. | .monitorClear .. | .monitorSelect .. | .fatalDump ..
  | .tokenSubmit .. | .attest .. | .reset .. | .peerChunkReceive .. | .peerAckReceive .. | .heartbeatReceive ..
  | .heartbeatSend .. | .chunkRetransmit .. | .portDown .. | .firmwareImage .. | .bkptResumption ..
  | .icinvAcknowledgement .. | .tlbinvAcknowledgement .. | .sampinvAcknowledgement .. => false
  | _ => true

end Sys2Proof
end

