-- ==== Sys2Proof/Decode.lean ====
section
/-! DEFINITION. Decoding and encoding: the fields of the 96-bit word (R34, R35), the codes of every table, the decoder
(total, rejecting by name; each rejection is ILLEGAL, R49), the encoder, and the slots of a fetch line (R28, R29). -/

namespace Sys2Proof

/-- Why a word is not an instruction (Table 2-8). Every name is raised as ILLEGAL. -/
inductive DecodeErr where
  /-- an OP value that Table 2-7 does not assign -/
  | unassignedOp
  /-- a MOD value the form does not define -/
  | modValue
  /-- a SUB, CLS, CMDH, CMDL or FM value the form does not define -/
  | extValue
  /-- a nonzero reserved field -/
  | reservedField
  /-- a register field the form does not use and that is not 511 -/
  | unusedRegister
  /-- a W value the form does not accept (R42) -/
  | wValue
  /-- a collective whose CND is not al (R41) -/
  | collectiveCond
  /-- a mask number outside the form's range (R37, R85) -/
  | maskNumber
deriving DecidableEq, Repr

/-- The common fields of Table 2-2, as numbers. -/
structure Fields where
  op : Nat
  h : Hdr
  d : Reg
  a : Reg
  b : Reg
  c : Reg
  mod : Nat
  ext : Nat
deriving DecidableEq, Repr

/-- Bits [lo + n − 1 : lo] of x (R4). -/
def bitsAt (x lo n : Nat) : Nat := x / 2 ^ lo % 2 ^ n

/-- SUB, EXT[31:16] of F3 (Table 2-3); CMDH of FX. -/
def Fields.sub (f : Fields) : Nat := f.ext / 65536
/-- MSEL, EXT[15:12] (R37). -/
def Fields.msel (f : Fields) : Nat := f.ext / 4096 % 16
/-- CLS, EXT[11:0] of F3; CMDL of FX. -/
def Fields.cls (f : Fields) : Nat := f.ext % 4096

/-- The code of the conditions of Table 2-5 (R40) -/
def Cond.code : Cond → Nat
  | .eq => 0
  | .ne => 1
  | .lt => 2
  | .ge => 3
  | .gt => 4
  | .le => 5
  | .hs => 6
  | .lo => 7
  | .hi => 8
  | .ls => 9
  | .mi => 10
  | .pl => 11
  | .vs => 12
  | .vc => 13
  | .nv => 14
  | .al => 15

/-- The reading of a code (Cond); none where the table has no such value. -/
def Cond.ofCode : Nat → Option Cond
  | 0 => some .eq
  | 1 => some .ne
  | 2 => some .lt
  | 3 => some .ge
  | 4 => some .gt
  | 5 => some .le
  | 6 => some .hs
  | 7 => some .lo
  | 8 => some .hi
  | 9 => some .ls
  | 10 => some .mi
  | 11 => some .pl
  | 12 => some .vs
  | 13 => some .vc
  | 14 => some .nv
  | 15 => some .al
  | _ => none

/-- The code of MSET's MOD values (Table 4-1) -/
def MsetOp.code : MsetOp → Nat
  | .ld => 0
  | .or => 1
  | .andn => 2

/-- The reading of a code (MsetOp); none where the table has no such value. -/
def MsetOp.ofCode : Nat → Option MsetOp
  | 0 => some .ld
  | 1 => some .or
  | 2 => some .andn
  | _ => none

/-- The code of MGET's MOD values (Table 4-1) -/
def MgetOp.code : MgetOp → Nat
  | .bits => 0
  | .cnt => 1
  | .rank => 2

/-- The reading of a code (MgetOp); none where the table has no such value. -/
def MgetOp.ofCode : Nat → Option MgetOp
  | 0 => some .bits
  | 1 => some .cnt
  | 2 => some .rank
  | _ => none

/-- The code of VOTE's MOD values (Table 4-1) -/
def VoteOp.code : VoteOp → Nat
  | .all => 0
  | .any => 1
  | .uni => 2
  | .ballot => 3

/-- The reading of a code (VoteOp); none where the table has no such value. -/
def VoteOp.ofCode : Nat → Option VoteOp
  | 0 => some .all
  | 1 => some .any
  | 2 => some .uni
  | 3 => some .ballot
  | _ => none

/-- The code of IADD's and ISUB's MOD values (Table 5-1) -/
def AddMode.code : AddMode → Nat
  | .wrap => 0
  | .ci => 1
  | .sats => 2
  | .satu => 3

/-- The reading of a code (AddMode); none where the table has no such value. -/
def AddMode.ofCode : Nat → Option AddMode
  | 0 => some .wrap
  | 1 => some .ci
  | 2 => some .sats
  | 3 => some .satu
  | _ => none

/-- The code of IMULH's MOD values (Table 5-1) -/
def HiMode.code : HiMode → Nat
  | .s32 => 0
  | .n32 => 1
  | .sn32 => 2

/-- The reading of a code (HiMode); none where the table has no such value. -/
def HiMode.ofCode : Nat → Option HiMode
  | 0 => some .s32
  | 1 => some .n32
  | 2 => some .sn32
  | _ => none

/-- The code of IMAD's MOD values (Table 5-1) -/
def MadMode.code : MadMode → Nat
  | .lo => 0
  | .ws => 1
  | .wu => 2

/-- The reading of a code (MadMode); none where the table has no such value. -/
def MadMode.ofCode : Nat → Option MadMode
  | 0 => some .lo
  | 1 => some .ws
  | 2 => some .wu
  | _ => none

/-- The code of IMINMAX's MOD values (Table 5-1) -/
def MinMax.code : MinMax → Nat
  | .min => 0
  | .max => 1

/-- The reading of a code (MinMax); none where the table has no such value. -/
def MinMax.ofCode : Nat → Option MinMax
  | 0 => some .min
  | 1 => some .max
  | _ => none

/-- The code of IMINMAX's SUB types (Table 5-1) -/
def IntTy.code : IntTy → Nat
  | .s32 => 0
  | .n32 => 1
  | .s64 => 2
  | .n64 => 3

/-- The reading of a code (IntTy); none where the table has no such value. -/
def IntTy.ofCode : Nat → Option IntTy
  | 0 => some .s32
  | 1 => some .n32
  | 2 => some .s64
  | 3 => some .n64
  | _ => none

/-- The code of SHF's MOD values (Table 5-1) -/
def ShfOp.code : ShfOp → Nat
  | .shl => 0
  | .shr => 1
  | .sar => 2
  | .rol => 3
  | .ror => 4
  | .fshl => 5
  | .fshr => 6

/-- The reading of a code (ShfOp); none where the table has no such value. -/
def ShfOp.ofCode : Nat → Option ShfOp
  | 0 => some .shl
  | 1 => some .shr
  | 2 => some .sar
  | 3 => some .rol
  | 4 => some .ror
  | 5 => some .fshl
  | 6 => some .fshr
  | _ => none

/-- The code of BITC's MOD values (Table 5-1) -/
def BitcOp.code : BitcOp → Nat
  | .popc => 0
  | .clz => 1
  | .ctz => 2
  | .brev => 3

/-- The reading of a code (BitcOp); none where the table has no such value. -/
def BitcOp.ofCode : Nat → Option BitcOp
  | 0 => some .popc
  | 1 => some .clz
  | 2 => some .ctz
  | 3 => some .brev
  | _ => none

/-- The code of SHFL's MOD values (Table 5-1) -/
def ShflOp.code : ShflOp → Nat
  | .idx => 0
  | .up => 1
  | .down => 2
  | .xor => 3

/-- The reading of a code (ShflOp); none where the table has no such value. -/
def ShflOp.ofCode : Nat → Option ShflOp
  | 0 => some .idx
  | 1 => some .up
  | 2 => some .down
  | 3 => some .xor
  | _ => none

/-- The code of the scan and reduce operations of Table 5-4 (R116) -/
def ScanOp.code : ScanOp → Nat
  | .add => 0
  | .smin => 1
  | .smax => 2
  | .umin => 3
  | .umax => 4
  | .and => 5
  | .or => 6
  | .xor => 7

/-- The reading of a code (ScanOp); none where the table has no such value. -/
def ScanOp.ofCode : Nat → Option ScanOp
  | 0 => some .add
  | 1 => some .smin
  | 2 => some .smax
  | 3 => some .umin
  | 4 => some .umax
  | 5 => some .and
  | 6 => some .or
  | 7 => some .xor
  | _ => none

/-- The code of rounding modes (R7; SUB[2:0] of classes 2 and 3) -/
def Rnd.code : Rnd → Nat
  | .rn => 0
  | .rz => 1
  | .rp => 2
  | .rm => 3
  | .rna => 4
  | .sr => 5

/-- The reading of a code (Rnd); none where the table has no such value. -/
def Rnd.ofCode : Nat → Option Rnd
  | 0 => some .rn
  | 1 => some .rz
  | 2 => some .rp
  | 3 => some .rm
  | 4 => some .rna
  | 5 => some .sr
  | _ => none

/-- The code of FMINMAX's SUB[1:0] (Table 6-1) -/
def FMinMax.code : FMinMax → Nat
  | .min => 0
  | .max => 1
  | .minn => 2
  | .maxn => 3

/-- The reading of a code (FMinMax); none where the table has no such value. -/
def FMinMax.ofCode : Nat → Option FMinMax
  | 0 => some .min
  | 1 => some .max
  | 2 => some .minn
  | 3 => some .maxn
  | _ => none

/-- The code of the packed half types (Tables 6-1 and 7-4) -/
def HalfTy.code : HalfTy → Nat
  | .f16 => 0
  | .bf16 => 1

/-- The reading of a code (HalfTy); none where the table has no such value. -/
def HalfTy.ofCode : Nat → Option HalfTy
  | 0 => some .f16
  | 1 => some .bf16
  | _ => none

/-- The code of FRED's and FSCAN's MOD values (Table 6-1) -/
def FRedOp.code : FRedOp → Nat
  | .add => 0
  | .min => 1
  | .max => 2

/-- The reading of a code (FRedOp); none where the table has no such value. -/
def FRedOp.ofCode : Nat → Option FRedOp
  | 0 => some .add
  | 1 => some .min
  | 2 => some .max
  | _ => none

/-- The code of the CVT type codes of Table 7-5 (R153) -/
def NumTy.code : NumTy → Nat
  | .s32 => 0
  | .n32 => 1
  | .s64 => 2
  | .n64 => 3
  | .fx64 => 4
  | .f64 => 5
  | .f32 => 6
  | .f16 => 7
  | .bf16 => 8
  | .e4m3 => 9
  | .e5m2 => 10
  | .e2m1 => 11
  | .e8m0 => 12
  | .p2x2 => 13
  | .s8 => 14

/-- The reading of a code (NumTy); none where the table has no such value. -/
def NumTy.ofCode : Nat → Option NumTy
  | 0 => some .s32
  | 1 => some .n32
  | 2 => some .s64
  | 3 => some .n64
  | 4 => some .fx64
  | 5 => some .f64
  | 6 => some .f32
  | 7 => some .f16
  | 8 => some .bf16
  | 9 => some .e4m3
  | 10 => some .e5m2
  | 11 => some .e2m1
  | 12 => some .e8m0
  | 13 => some .p2x2
  | 14 => some .s8
  | _ => none

/-- The code of CVTQ8's MOD values (Table 7-4) -/
def Q8Ty.code : Q8Ty → Nat
  | .e4m3 => 0
  | .e5m2 => 1
  | .p2x2 => 2
  | .s8 => 3

/-- The reading of a code (Q8Ty); none where the table has no such value. -/
def Q8Ty.ofCode : Nat → Option Q8Ty
  | 0 => some .e4m3
  | 1 => some .e5m2
  | 2 => some .p2x2
  | 3 => some .s8
  | _ => none

/-- The code of CVTW's MOD values (Table 7-4) -/
def CvtwOp.code : CvtwOp → Nat
  | .sf32 => 0
  | .nf32 => 1
  | .f32s => 2
  | .f32n => 3
  | .sf64 => 4
  | .f64s => 5

/-- The reading of a code (CvtwOp); none where the table has no such value. -/
def CvtwOp.ofCode : Nat → Option CvtwOp
  | 0 => some .sf32
  | 1 => some .nf32
  | 2 => some .f32s
  | 3 => some .f32n
  | 4 => some .sf64
  | 5 => some .f64s
  | _ => none

/-- The code of UNPQ's MOD values (Table 7-4) -/
def UnpTy.code : UnpTy → Nat
  | .f16 => 0
  | .bf16 => 1
  | .e4m3 => 2
  | .e5m2 => 3
  | .e2m1 => 4
  | .p2x2 => 5
  | .s8 => 6

/-- The reading of a code (UnpTy); none where the table has no such value. -/
def UnpTy.ofCode : Nat → Option UnpTy
  | 0 => some .f16
  | 1 => some .bf16
  | 2 => some .e4m3
  | 3 => some .e5m2
  | 4 => some .e2m1
  | 5 => some .p2x2
  | 6 => some .s8
  | _ => none

/-- The code of BSCALE's MOD values (Table 7-4) -/
def BscTy.code : BscTy → Nat
  | .e4m3 => 0
  | .e5m2 => 1
  | .e2m1 => 2
  | .p2x2 => 3
  | .s8 => 4

/-- The reading of a code (BscTy); none where the table has no such value. -/
def BscTy.ofCode : Nat → Option BscTy
  | 0 => some .e4m3
  | 1 => some .e5m2
  | 2 => some .e2m1
  | 3 => some .p2x2
  | 4 => some .s8
  | _ => none

/-- The code of I2I's type codes (Table 7-4) -/
def I2ITy.code : I2ITy → Nat
  | .s8 => 0
  | .n8 => 1
  | .s16 => 2
  | .n16 => 3
  | .s32 => 4
  | .n32 => 5
  | .s64 => 6
  | .n64 => 7

/-- The reading of a code (I2ITy); none where the table has no such value. -/
def I2ITy.ofCode : Nat → Option I2ITy
  | 0 => some .s8
  | 1 => some .n8
  | 2 => some .s16
  | 3 => some .n16
  | 4 => some .s32
  | 5 => some .n32
  | 6 => some .s64
  | 7 => some .n64
  | _ => none

/-- The code of the address spaces of Table 8-1 (R167) -/
def Space.code : Space → Nat
  | .glob => 0
  | .sp => 1
  | .psp => 2
  | .vlt => 3
  | .karg => 4
  | .priv => 5
  | .hnc => 6
  | .hc => 7

/-- The reading of a code (Space); none where the table has no such value. -/
def Space.ofCode : Nat → Option Space
  | 0 => some .glob
  | 1 => some .sp
  | 2 => some .psp
  | 3 => some .vlt
  | 4 => some .karg
  | 5 => some .priv
  | 6 => some .hnc
  | 7 => some .hc
  | _ => none

/-- The code of the SIZE values of Table 2-4 (R36) -/
def Size.code : Size → Nat
  | .b => 0
  | .h => 1
  | .w => 2
  | .d => 3
  | .x2 => 4
  | .x4 => 5

/-- The reading of a code (Size); none where the table has no such value. -/
def Size.ofCode : Nat → Option Size
  | 0 => some .b
  | 1 => some .h
  | 2 => some .w
  | 3 => some .d
  | 4 => some .x2
  | 5 => some .x4
  | _ => none

/-- The code of the ORD values of Table 2-4 (R36) -/
def Ord.code : Ord → Nat
  | .plain => 0
  | .acq => 1
  | .rel => 2
  | .ar => 3

/-- The reading of a code (Ord); none where the table has no such value. -/
def Ord.ofCode : Nat → Option Ord
  | 0 => some .plain
  | 1 => some .acq
  | 2 => some .rel
  | 3 => some .ar
  | _ => none

/-- The code of the SCH scopes of Table 2-4 (R36) -/
def Scope.code : Scope → Nat
  | .grp => 0
  | .team => 1
  | .dev => 2
  | .sys => 3

/-- The reading of a code (Scope); none where the table has no such value. -/
def Scope.ofCode : Nat → Option Scope
  | 0 => some .grp
  | 1 => some .team
  | 2 => some .dev
  | 3 => some .sys
  | _ => none

/-- The code of the SCH cache hints of Table 2-4 (R36) -/
def Hint.code : Hint → Nat
  | .normal => 0
  | .ef => 1
  | .nl1 => 2
  | .kv => 3

/-- The reading of a code (Hint); none where the table has no such value. -/
def Hint.ofCode : Nat → Option Hint
  | 0 => some .normal
  | 1 => some .ef
  | 2 => some .nl1
  | 3 => some .kv
  | _ => none

/-- The code of the update operations of Table 8-3 (R176) -/
def UpdOp.code : UpdOp → Nat
  | .add => 0
  | .sub => 1
  | .smin => 2
  | .smax => 3
  | .umin => 4
  | .umax => 5
  | .and => 6
  | .or => 7
  | .xor => 8
  | .exch => 9
  | .fadd => 10
  | .fadd2 => 11
  | .fxadd => 12
  | .incw => 13
  | .fmin => 14
  | .fmax => 15

/-- The reading of a code (UpdOp); none where the table has no such value. -/
def UpdOp.ofCode : Nat → Option UpdOp
  | 0 => some .add
  | 1 => some .sub
  | 2 => some .smin
  | 3 => some .smax
  | 4 => some .umin
  | 5 => some .umax
  | 6 => some .and
  | 7 => some .or
  | 8 => some .xor
  | 9 => some .exch
  | 10 => some .fadd
  | 11 => some .fadd2
  | 12 => some .fxadd
  | 13 => some .incw
  | 14 => some .fmin
  | 15 => some .fmax
  | _ => none

/-- The code of FENCE's MOD values (Table 8-4) -/
def FenceKind.code : FenceKind → Nat
  | .acq => 0
  | .rel => 1
  | .ar => 2
  | .sc => 3

/-- The reading of a code (FenceKind); none where the table has no such value. -/
def FenceKind.ofCode : Nat → Option FenceKind
  | 0 => some .acq
  | 1 => some .rel
  | 2 => some .ar
  | 3 => some .sc
  | _ => none

/-- The code of PREF's MOD values (Table 8-4) -/
def PrefLvl.code : PrefLvl → Nat
  | .l1 => 0
  | .vc => 1

/-- The reading of a code (PrefLvl); none where the table has no such value. -/
def PrefLvl.ofCode : Nat → Option PrefLvl
  | 0 => some .l1
  | 1 => some .vc
  | _ => none

/-- The code of the operand formats of MWLD (Table 15-1), with the codes of Table 7-5 -/
def BFmt.code : BFmt → Nat
  | .f32 => 6
  | .f16 => 7
  | .bf16 => 8
  | .e4m3 => 9
  | .e5m2 => 10
  | .e2m1 => 11
  | .p2x2 => 13
  | .s8 => 14

/-- The reading of a code (BFmt); none where the table has no such value. -/
def BFmt.ofCode : Nat → Option BFmt
  | 6 => some .f32
  | 7 => some .f16
  | 8 => some .bf16
  | 9 => some .e4m3
  | 10 => some .e5m2
  | 11 => some .e2m1
  | 13 => some .p2x2
  | 14 => some .s8
  | _ => none

/-- The code of the operand formats MMA declares for A (Table 15-1) -/
def AFmt.code : AFmt → Nat
  | .f32 => 6
  | .f16 => 7
  | .bf16 => 8
  | .e4m3 => 9
  | .e5m2 => 10
  | .e2m1 => 11
  | .s8 => 14

/-- The reading of a code (AFmt); none where the table has no such value. -/
def AFmt.ofCode : Nat → Option AFmt
  | 6 => some .f32
  | 7 => some .f16
  | 8 => some .bf16
  | 9 => some .e4m3
  | 10 => some .e5m2
  | 11 => some .e2m1
  | 14 => some .s8
  | _ => none

/-- The code of the type of an accumulator bank (R278) -/
def BankTy.code : BankTy → Nat
  | .f32 => 0
  | .s32 => 1

/-- The reading of a code (BankTy); none where the table has no such value. -/
def BankTy.ofCode : Nat → Option BankTy
  | 0 => some .f32
  | 1 => some .s32
  | _ => none

/-- The code of MDRST's operations (Table 15-5) -/
def MdrstOp.code : MdrstOp → Nat
  | .st => 0
  | .fadd => 1
  | .badd => 2
  | .iadd => 3
  | .xadd => 4
  | .min => 5
  | .max => 6

/-- The reading of a code (MdrstOp); none where the table has no such value. -/
def MdrstOp.ofCode : Nat → Option MdrstOp
  | 0 => some .st
  | 1 => some .fadd
  | 2 => some .badd
  | 3 => some .iadd
  | 4 => some .xadd
  | 5 => some .min
  | 6 => some .max
  | _ => none

/-- The code of MDRST's spaces (Table 15-2) -/
def MSpace.code : MSpace → Nat
  | .glob => 0
  | .sp => 1
  | .psp => 2
  | .vlt => 3

/-- The reading of a code (MSpace); none where the table has no such value. -/
def MSpace.ofCode : Nat → Option MSpace
  | 0 => some .glob
  | 1 => some .sp
  | 2 => some .psp
  | 3 => some .vlt
  | _ => none

/-- The code of COPY's ROP values (Table 11-4) -/
def CopyRop.code : CopyRop → Nat
  | .plain => 0
  | .add => 1
  | .min => 2
  | .max => 3

/-- The reading of a code (CopyRop); none where the table has no such value. -/
def CopyRop.ofCode : Nat → Option CopyRop
  | 0 => some .plain
  | 1 => some .add
  | 2 => some .min
  | 3 => some .max
  | _ => none

/-- The code of COPY's ETYPE values (Table 11-4) -/
def CopyTy.code : CopyTy → Nat
  | .b => 0
  | .s32 => 1
  | .n32 => 2
  | .f32 => 3
  | .bf16 => 4
  | .fx64 => 5
  | .s64 => 6
  | .n64 => 7

/-- The reading of a code (CopyTy); none where the table has no such value. -/
def CopyTy.ofCode : Nat → Option CopyTy
  | 0 => some .b
  | 1 => some .s32
  | 2 => some .n32
  | 3 => some .f32
  | 4 => some .bf16
  | 5 => some .fx64
  | 6 => some .s64
  | 7 => some .n64
  | _ => none

/-- The code of BARV's MOD values (Table 11-3) -/
def BarvOp.code : BarvOp → Nat
  | .arrive => 0
  | .wait => 1
  | .expect => 2

/-- The reading of a code (BarvOp); none where the table has no such value. -/
def BarvOp.ofCode : Nat → Option BarvOp
  | 0 => some .arrive
  | 1 => some .wait
  | 2 => some .expect
  | _ => none

/-- The code of SAMP's MOD values (Table 17-4) -/
def Filter.code : Filter → Nat
  | .near => 0
  | .bil => 1
  | .tri => 2

/-- The reading of a code (Filter); none where the table has no such value. -/
def Filter.ofCode : Nat → Option Filter
  | 0 => some .near
  | 1 => some .bil
  | 2 => some .tri
  | _ => none

/-- The code of TTRI's MOD values (Table 18-1) -/
def Cull.code : Cull → Nat
  | .off => 0
  | .cullb => 1
  | .cullf => 2

/-- The reading of a code (Cull); none where the table has no such value. -/
def Cull.ofCode : Nat → Option Cull
  | 0 => some .off
  | 1 => some .cullb
  | 2 => some .cullf
  | _ => none

/-- The codes' reading as a mask number. -/
def maskNo (n : Nat) : MaskNo := BitVec.ofNat 4 n

/-- A code of one bit as a flag. -/
def flag (n : Nat) : Bool := n % 2 == 1

/-- A flag's code. -/
def bit (b : Bool) : Nat := if b then 1 else 0

/-- Go on if the check holds; otherwise reject by the name given. -/
def need (ok : Bool) (e : DecodeErr) : Except DecodeErr Unit := if ok then .ok () else .error e

/-- The value a table gives, or a rejection by the name given. -/
def pick {α : Type} (x : Option α) (e : DecodeErr) : Except DecodeErr α :=
  match x with
  | some v => .ok v
  | none => .error e

/-- Does the form accept this W (R42)? -/
inductive WUse where
  | no | yes | either
deriving DecidableEq, Repr

/-- The W column's test. -/
def WUse.ok : WUse → Bool → Bool
  | .no, w => !w
  | .yes, w => w
  | .either, _ => true

/-- The checks of every form: W, and the register fields the form does not use (R49). -/
def Fields.base (f : Fields) (w : WUse) (unused : List Reg) : Except DecodeErr Unit := do
  need (w.ok f.h.w) .wValue
  need (unused.all (· == vz)) .unusedRegister

/-- An F3 or FX form that is no collective: MSEL is reserved (R37). -/
def Fields.plain (f : Fields) (w : WUse) (unused : List Reg) : Except DecodeErr Unit := do
  f.base w unused
  need (f.msel == 0) .reservedField

/-- A plain form whose MOD, SUB and CLS must be zero. -/
def Fields.bare (f : Fields) (w : WUse) (unused : List Reg) : Except DecodeErr Unit := do
  f.plain w unused
  need (f.mod == 0) .modValue
  need (f.sub == 0) .reservedField
  need (f.cls == 0) .reservedField

/-- A plain form whose MOD the arm reads and whose SUB and CLS must be zero. -/
def Fields.modded (f : Fields) (w : WUse) (unused : List Reg) : Except DecodeErr Unit := do
  f.plain w unused
  need (f.sub == 0) .reservedField
  need (f.cls == 0) .reservedField

/-- A collective: CND = al and MSEL 0 to 11 (R37, R41); answers the member mask. -/
def Fields.coll (f : Fields) (w : WUse) (unused : List Reg) : Except DecodeErr MaskNo := do
  f.base w unused
  need (f.h.cnd == .al) .collectiveCond
  need (f.msel < 12) .maskNumber
  .ok (maskNo f.msel)

/-- A branch form: EXT[31:24] is reserved; answers DISP (R35). -/
def Fields.branch (f : Fields) (w : WUse) (unused : List Reg) : Except DecodeErr Disp := do
  f.base w unused
  need (f.ext < 16777216) .reservedField
  .ok (BitVec.ofNat 24 f.ext)

/-- RND of class 2 (R119): SUB[2:0], values 5 to 7 undefined. -/
def rnd2 (n : Nat) : Option Rnd := if n < 5 then Rnd.ofCode n else none

/-- RND where sr is not permitted (R154). -/
def rnd3 (sr : Bool) (n : Nat) : Option Rnd := if sr then Rnd.ofCode n else rnd2 n

/-- The barrier that CMDL names: CMDL[11:4] is zero (R85, R233). -/
def Fields.bar (f : Fields) : Except DecodeErr BarNo := do
  need (f.cls < 16) .reservedField
  .ok (BitVec.ofNat 4 f.cls)

/-- The FM sub-fields of EXT (R35, R36). -/
def Fields.mem (f : Fields) : Except DecodeErr MemF := do
  let size ← pick (Size.ofCode (f.ext / 64 % 8)) .extValue
  let space ← pick (Space.ofCode (f.ext / 512 % 8)) .extValue
  let ord ← pick (Ord.ofCode (f.ext / 16 % 4)) .extValue
  let scope ← pick (Scope.ofCode (f.ext / 4 % 4)) .extValue
  let hint ← pick (Hint.ofCode (f.ext % 4)) .extValue
  .ok { ofs := BitVec.ofNat 20 (f.ext / 4096), space := space, size := size, ord := ord, scope := scope,
        hint := hint }

/-- Class 0 (Table 4-1). -/
def decode0 (f : Fields) : Except DecodeErr Instr :=
  match f.op with
  | 0x00 => do f.bare .no [f.d, f.a, f.b, f.c]; .ok (.nop f.h)
  | 0x01 => do
    let x ← f.branch .no [f.d, f.a, f.b, f.c]
    need (f.mod == 0) .modValue
    .ok (.bra f.h x)
  | 0x02 => do
    let x ← f.branch .no [f.d, f.b, f.c]
    need (f.mod == 0) .modValue
    need (x == 0) .reservedField
    .ok (.brx f.h f.a)
  | 0x03 => do
    let x ← f.branch .no [f.b, f.c]
    match f.mod with
    | 0 => do need (f.a == vz) .unusedRegister; .ok (.call f.h f.d (.disp x))
    | 1 => do need (x == 0) .reservedField; .ok (.call f.h f.d (.reg f.a))
    | _ => .error .modValue
  | 0x04 => do
    let x ← f.branch .no [f.d, f.b, f.c]
    need (f.mod == 0) .modValue
    need (x == 0) .reservedField
    .ok (.ret f.h f.a)
  | 0x05 => do f.bare .no [f.d, f.a, f.b, f.c]; .ok (.exit f.h)
  | 0x06 => do
    let x ← f.branch .no [f.a, f.b, f.c]
    need (f.mod == 0) .modValue
    .ok (.meetset f.h f.d x)
  | 0x07 => do
    f.modded .no [f.d, f.b, f.c]
    match f.mod with
    | 0 => do need (f.a == vz) .unusedRegister; .ok (.meetrst f.h none)
    | 1 => .ok (.meetrst f.h (some f.a))
    | _ => .error .modValue
  | 0x08 => do
    f.plain .no [f.d, f.a, f.b, f.c]
    need (f.mod == 0) .modValue
    need (f.sub == 0) .reservedField
    need (1 ≤ f.cls && f.cls < 12) .maskNumber
    .ok (.mjoin f.h (maskNo f.cls))
  | 0x09 => do
    f.plain .no [f.d, f.a, f.b, f.c]
    need (f.mod == 0) .modValue
    need (f.sub == 0) .reservedField
    need (1 ≤ f.cls && f.cls < 12) .maskNumber
    .ok (.mleave f.h (maskNo f.cls))
  | 0x0A => do
    f.plain .no [f.d, f.a, f.b, f.c]
    need (f.mod == 0) .modValue
    need (f.sub == 0) .reservedField
    need (f.cls < 12) .maskNumber
    .ok (.mwait f.h (maskNo f.cls))
  | 0x0B => do
    f.plain .no [f.d, f.b, f.c]
    need (f.sub == 0) .reservedField
    need (1 ≤ f.cls && f.cls < 12) .maskNumber
    let op ← pick (MsetOp.ofCode f.mod) .modValue
    .ok (.mset f.h f.a (maskNo f.cls) op)
  | 0x0C => do
    f.plain .either [f.a, f.b, f.c]
    need (f.sub == 0) .reservedField
    need (f.cls < 12) .maskNumber
    let op ← pick (MgetOp.ofCode f.mod) .modValue
    .ok (.mget f.h f.d (maskNo f.cls) op)
  | 0x0D => do
    let m ← f.coll .either [f.b, f.c]
    need (f.sub == 0) .reservedField
    need (f.cls == 0) .reservedField
    let op ← pick (VoteOp.ofCode f.mod) .modValue
    .ok (.vote f.h f.d f.a m op)
  | 0x0E => do f.bare .no [f.d, f.b, f.c]; .ok (.sleept f.h f.a)
  | 0x0F => do
    f.plain .no [f.d, f.b, f.c]
    need (f.mod == 0) .modValue
    need (f.sub == 0) .reservedField
    let b ← f.bar
    .ok (.sleepp f.h f.a b)
  | 0x10 => do
    let x ← f.branch .no [f.b, f.c]
    need (f.mod == 0) .modValue
    .ok (.fork f.h f.d f.a x)
  | 0x11 => do f.bare .no [f.d, f.b, f.c]; .ok (.rdv f.h f.a)
  | _ => .error .unassignedOp

/-- Class 1 (Table 5-1). -/
def decode1 (f : Fields) : Except DecodeErr Instr :=
  match f.op with
  | 0x20 => do
    f.plain .either [f.c]
    need (f.cls == 0) .reservedField
    need (f.sub < 2) .extValue
    let m ← pick (AddMode.ofCode f.mod) .modValue
    .ok (.iadd f.h f.d f.a f.b m (flag f.sub))
  | 0x21 => do
    f.plain .either [f.c]
    need (f.cls == 0) .reservedField
    need (f.sub < 2) .extValue
    let m ← pick (AddMode.ofCode f.mod) .modValue
    .ok (.isub f.h f.d f.a f.b m (flag f.sub))
  | 0x22 => do
    f.modded .either [f.c]
    need (f.mod < 2) .modValue
    .ok (.imul f.h f.d f.a f.b (flag f.mod))
  | 0x23 => do
    f.modded .either [f.c]
    let m ← pick (HiMode.ofCode f.mod) .modValue
    .ok (.imulh f.h f.d f.a f.b m)
  | 0x24 => do
    f.modded .either []
    let m ← pick (MadMode.ofCode f.mod) .modValue
    .ok (.imad f.h f.d f.a f.b f.c m)
  | 0x25 => do
    f.plain .either [f.c]
    need (f.cls == 0) .reservedField
    let o ← pick (MinMax.ofCode f.mod) .modValue
    let t ← pick (IntTy.ofCode f.sub) .extValue
    .ok (.iminmax f.h f.d f.a f.b o t)
  | 0x26 => do
    f.plain .either []
    need (f.mod == 0) .modValue
    need (f.sub == 0) .reservedField
    need (f.cls < 256) .reservedField
    .ok (.bool f.h f.d f.a f.b f.c (BitVec.ofNat 4 (f.cls / 16)) (BitVec.ofNat 4 f.cls))
  | 0x27 => do
    f.modded .either []
    let o ← pick (ShfOp.ofCode f.mod) .modValue
    need (o.funnel || f.c == vz) .unusedRegister
    .ok (.shf f.h f.d f.a f.b f.c o)
  | 0x28 => do
    f.modded .either [f.c]
    need (f.mod < 2) .modValue
    .ok (.bfx f.h f.d f.a f.b (flag f.mod))
  | 0x29 => do f.bare .either []; .ok (.bfi f.h f.d f.a f.b f.c)
  | 0x2A => do
    f.modded .either [f.b, f.c]
    let o ← pick (BitcOp.ofCode f.mod) .modValue
    .ok (.bitc f.h f.d f.a o)
  | 0x2B => do
    f.modded .yes [f.d, f.c]
    need (f.mod < 2) .modValue
    .ok (.icmp f.h f.a f.b (flag f.mod))
  | 0x2C => do
    f.plain .no [f.c]
    need (f.sub == 0) .reservedField
    need (f.mod < 2) .modValue
    let sc ← pick (Cond.ofCode f.cls) .reservedField
    .ok (.sel f.h f.d f.a f.b (flag f.mod) sc)
  | 0x2D => do
    f.modded .either [f.b, f.c]
    need (f.mod < 2) .modValue
    .ok (.mov f.h f.d f.a (flag f.mod))
  | 0x2E => do
    f.base .either [f.a, f.b, f.c]
    need (f.mod < 2) .modValue
    .ok (.movi f.h f.d (BitVec.ofNat 32 f.ext) (flag f.mod))
  | 0x2F => do
    f.plain .no [f.c]
    need (f.sub == 0) .reservedField
    need (f.cls < 8) .reservedField
    need (f.mod < 2) .modValue
    .ok (.lea f.h f.d f.a f.b (flag f.mod) (BitVec.ofNat 3 f.cls))
  | 0x30 => do
    f.plain .no [f.a, f.b, f.c]
    need (f.mod == 0) .modValue
    need (f.sub == 0) .reservedField
    .ok (.srd f.h f.d (BitVec.ofNat 12 f.cls))
  | 0x31 => do
    f.plain .no [f.d, f.b, f.c]
    need (f.mod == 0) .modValue
    need (f.sub == 0) .reservedField
    .ok (.swr f.h f.a (BitVec.ofNat 12 f.cls))
  | 0x32 => do
    let m ← f.coll .either []
    need (f.sub == 0) .reservedField
    need (f.cls == 0) .reservedField
    let o ← pick (ShflOp.ofCode f.mod) .modValue
    .ok (.shfl f.h f.d f.a f.b f.c m o)
  | 0x33 => do
    let m ← f.coll .either [f.c]
    need (f.mod == 0) .modValue
    need (f.sub == 0) .reservedField
    need (f.cls == 0) .reservedField
    .ok (.vcomp f.h f.d f.a f.b m)
  | 0x34 => do
    let m ← f.coll .either [f.c]
    need (f.mod == 0) .modValue
    need (f.sub == 0) .reservedField
    need (f.cls == 0) .reservedField
    .ok (.vexp f.h f.d f.a f.b m)
  | 0x35 => do
    let m ← f.coll .either [f.b, f.c]
    need (f.sub < 2) .extValue
    need (f.cls == 0) .reservedField
    let o ← pick (ScanOp.ofCode f.mod) .modValue
    .ok (.iscan f.h f.d f.a m o (flag f.sub))
  | 0x36 => do
    let m ← f.coll .either [f.b, f.c]
    need (f.sub == 0) .reservedField
    need (f.cls == 0) .reservedField
    let o ← pick (ScanOp.ofCode f.mod) .modValue
    .ok (.ired f.h f.d f.a m o)
  | 0x37 => do f.bare .either []; .ok (.bysel f.h f.d f.a f.b f.c)
  | _ => .error .unassignedOp

/-- SUB of a class-2 form that takes SAT and RND (R119). -/
def Fields.satRnd (f : Fields) : Except DecodeErr (Bool × Rnd) := do
  need (f.cls == 0) .reservedField
  need (f.sub < 16) .reservedField
  let r ← pick (rnd2 (f.sub % 8)) .extValue
  .ok (flag (f.sub / 8), r)

/-- SUB of a class-2 form that takes RND alone. -/
def Fields.rndOnly (f : Fields) : Except DecodeErr Rnd := do
  need (f.sub < 8) .reservedField
  pick (rnd2 (f.sub % 8)) .extValue

/-- CLS[1:0] as an algebra slot or a ductus; CLS[11:2] is zero. -/
def Fields.two (f : Fields) : Except DecodeErr (BitVec 2) := do
  need (f.cls < 4) .reservedField
  .ok (BitVec.ofNat 2 f.cls)

/-- FRED's and FSCAN's pair of operation and ductus: min and max require ductus 0 (R119). -/
def Fields.fred (f : Fields) : Except DecodeErr (FRedOp × BitVec 2) := do
  let t ← f.two
  let o ← pick (FRedOp.ofCode f.mod) .modValue
  need (o == .add || t == 0) .extValue
  .ok (o, t)

/-- Class 2 (Table 6-1). -/
def decode2 (f : Fields) : Except DecodeErr Instr :=
  match f.op with
  | 0x40 => do
    f.plain .either [f.c]
    need (f.mod == 0) .modValue
    let (s, r) ← f.satRnd
    .ok (.fadd f.h f.d f.a f.b s r)
  | 0x41 => do
    f.plain .either [f.c]
    need (f.mod == 0) .modValue
    let (s, r) ← f.satRnd
    .ok (.fmul f.h f.d f.a f.b s r)
  | 0x42 => do
    f.plain .either []
    need (f.mod == 0) .modValue
    let (s, r) ← f.satRnd
    .ok (.ffma f.h f.d f.a f.b f.c s r)
  | 0x43 => do
    f.plain .either [f.c]
    need (f.mod == 0) .modValue
    need (f.cls == 0) .reservedField
    let o ← pick (FMinMax.ofCode f.sub) .reservedField
    .ok (.fminmax f.h f.d f.a f.b o)
  | 0x44 => do f.bare .yes [f.d, f.c]; .ok (.fcmp f.h f.a f.b)
  | 0x45 => do
    f.plain .either [f.b, f.c]
    need (f.mod == 0) .modValue
    need (f.sub == 0) .reservedField
    need (f.cls < 1024) .reservedField
    .ok (.fclass f.h f.d f.a (BitVec.ofNat 10 f.cls))
  | 0x46 => do
    f.plain .either [f.b, f.c]
    need (f.mod == 0) .modValue
    need (f.cls == 0) .reservedField
    let r ← f.rndOnly
    .ok (.frnd f.h f.d f.a r)
  | 0x47 => do
    f.plain .either [f.c]
    need (f.mod == 0) .modValue
    need (f.cls == 0) .reservedField
    let r ← f.rndOnly
    .ok (.fscale f.h f.d f.a f.b r)
  | 0x48 => do
    f.plain .either [f.c]
    need (f.mod == 0) .modValue
    let (s, r) ← f.satRnd
    .ok (.dadd f.h f.d f.a f.b s r)
  | 0x49 => do
    f.plain .either [f.c]
    need (f.mod == 0) .modValue
    let (s, r) ← f.satRnd
    .ok (.dmul f.h f.d f.a f.b s r)
  | 0x4A => do
    f.plain .either []
    need (f.mod == 0) .modValue
    let (s, r) ← f.satRnd
    .ok (.dfma f.h f.d f.a f.b f.c s r)
  | 0x4B => do f.bare .yes [f.d, f.c]; .ok (.dcmp f.h f.a f.b)
  | 0x4C => do
    f.plain .no [f.c]
    let t ← pick (HalfTy.ofCode f.mod) .modValue
    let (s, r) ← f.satRnd
    .ok (.hadd2 f.h f.d f.a f.b t s r)
  | 0x4D => do
    f.plain .no [f.c]
    let t ← pick (HalfTy.ofCode f.mod) .modValue
    let (s, r) ← f.satRnd
    .ok (.hmul2 f.h f.d f.a f.b t s r)
  | 0x4E => do
    f.plain .no []
    let t ← pick (HalfTy.ofCode f.mod) .modValue
    let (s, r) ← f.satRnd
    .ok (.hfma2 f.h f.d f.a f.b f.c t s r)
  | 0x4F => do
    f.plain .either [f.b, f.c]
    need (f.mod == 0) .modValue
    need (f.sub == 0) .reservedField
    need (f.cls < 16) .reservedField
    .ok (.sfn f.h f.d f.a (BitVec.ofNat 4 f.cls))
  | 0x50 => do
    f.plain .no [f.b, f.c]
    need (f.mod == 0) .modValue
    need (f.sub == 0) .reservedField
    let g ← f.two
    .ok (.aconj f.h f.d f.a g)
  | 0x51 => do
    f.plain .either [f.b, f.c]
    need (f.mod == 0) .modValue
    let r ← f.rndOnly
    let g ← f.two
    .ok (.anorm f.h f.d f.a g r)
  | 0x52 => do
    f.plain .no [f.c]
    need (f.mod == 0) .modValue
    need (f.sub < 64 && f.sub / 8 % 2 == 0) .reservedField
    let r ← pick (rnd2 (f.sub % 8)) .extValue
    let g ← f.two
    .ok (.amul f.h f.d f.a f.b g (flag (f.sub / 32)) (flag (f.sub / 16)) r)
  | 0x53 => do
    let m ← f.coll .either [f.b, f.c]
    need (f.sub == 0) .reservedField
    let (o, t) ← f.fred
    .ok (.fred f.h f.d f.a m o t)
  | 0x54 => do
    let m ← f.coll .either [f.b, f.c]
    need (f.sub < 2) .reservedField
    let (o, t) ← f.fred
    .ok (.fscan f.h f.d f.a m o t (flag f.sub))
  | _ => .error .unassignedOp

/-- SUB of a class-3 form with SATF and RND, and SCL where the form has it (Table 7-6); with SCL clear, B must be 511. -/
def Fields.cvtSub (f : Fields) (scl sr : Bool) : Except DecodeErr (Bool × Bool × Rnd) := do
  need (f.sub < (if scl then 32 else 16)) .reservedField
  let r ← pick (rnd3 sr (f.sub % 8)) .extValue
  .ok (flag (f.sub / 16), flag (f.sub / 8), r)

/-- Class 3 (Table 7-4). -/
def decode3 (f : Fields) : Except DecodeErr Instr :=
  match f.op with
  | 0x60 => do
    f.plain .either [f.b, f.c]
    need (f.cls == 0) .reservedField
    need (f.sub < 4096 && f.sub / 16 % 16 == 0) .reservedField
    let t ← pick (NumTy.ofCode f.mod) .modValue
    let s ← pick (NumTy.ofCode (f.sub / 256)) .extValue
    let r ← pick (rnd3 true (f.sub % 8)) .extValue
    .ok (.cvt f.h f.d f.a t s (flag (f.sub / 8)) r)
  | 0x61 => do
    f.plain .either [f.c]
    need (f.cls == 0) .reservedField
    let t ← pick (HalfTy.ofCode f.mod) .modValue
    let (_, s, r) ← f.cvtSub false true
    .ok (.cvth2 f.h f.d f.a f.b t s r)
  | 0x62 => do
    f.plain .either [f.c]
    need (f.cls == 0) .reservedField
    let t ← pick (Q8Ty.ofCode f.mod) .modValue
    let (x, s, r) ← f.cvtSub true true
    need (x || f.b == vz) .unusedRegister
    .ok (.cvtq8 f.h f.d f.a f.b t x s r)
  | 0x63 => do
    f.plain .either [f.c]
    need (f.cls == 0) .reservedField
    need (f.mod == 0) .modValue
    let (x, s, r) ← f.cvtSub true true
    need (x || f.b == vz) .unusedRegister
    .ok (.cvtq4 f.h f.d f.a f.b x s r)
  | 0x64 => do
    f.plain .either [f.b, f.c]
    need (f.cls < 64) .reservedField
    let o ← pick (CvtwOp.ofCode f.mod) .modValue
    let (_, s, r) ← f.cvtSub false true
    .ok (.cvtw f.h f.d f.a o (BitVec.ofNat 6 f.cls) s r)
  | 0x65 => do
    f.plain .either [f.c]
    need (f.cls == 0) .reservedField
    let t ← pick (UnpTy.ofCode f.mod) .modValue
    let (x, s, r) ← f.cvtSub true false
    need (x || f.b == vz) .unusedRegister
    .ok (.unpq f.h f.d f.a f.b t x s r)
  | 0x66 => do
    let m ← f.coll .either [f.b, f.c]
    need (f.sub == 0) .reservedField
    need (f.cls == 0) .reservedField
    let t ← pick (BscTy.ofCode f.mod) .modValue
    .ok (.bscale f.h f.d f.a m t)
  | 0x67 => do f.bare .no [f.d, f.b, f.c]; .ok (.srseed f.h f.a)
  | 0x68 => do
    f.plain .either [f.b, f.c]
    need (f.cls == 0) .reservedField
    need (f.sub < 2048 && f.sub / 16 % 16 == 0 && f.sub % 8 == 0) .reservedField
    let t ← pick (I2ITy.ofCode f.mod) .modValue
    let s ← pick (I2ITy.ofCode (f.sub / 256)) .extValue
    .ok (.i2i f.h f.d f.a t s (flag (f.sub / 8)))
  | _ => .error .unassignedOp

/-- CLS[5:0] as a SITE: 63 names no draw (R194). -/
def Fields.site (f : Fields) : Except DecodeErr (BitVec 6) := do
  need (f.cls < 63) .extValue
  .ok (BitVec.ofNat 6 f.cls)

/-- A class-4 form of F3: MOD as given, SUB zero. -/
def Fields.choice (f : Fields) (w : WUse) (unused : List Reg) : Except DecodeErr Unit := do
  f.plain w unused
  need (f.sub == 0) .reservedField

/-- Class 4 (Table 9-6). -/
def decode4 (f : Fields) : Except DecodeErr Instr :=
  match f.op with
  | 0x80 => do
    f.choice .no [f.a, f.b, f.c]
    need (f.mod == 0) .modValue
    let s ← f.site
    .ok (.draw f.h f.d s)
  | 0x81 => do
    f.choice .no [f.a, f.b, f.c]
    need (f.mod == 0) .modValue
    let s ← f.site
    .ok (.drawb f.h f.d s)
  | 0x82 => do
    f.choice .no [f.a, f.c]
    need (f.mod == 0) .modValue
    let s ← f.site
    .ok (.drawi f.h f.d f.b s)
  | 0x83 => do
    f.choice .no [f.a, f.b, f.c]
    need (f.mod == 0) .modValue
    let s ← f.site
    .ok (.drawn f.h f.d s)
  | 0x84 => do
    f.choice .no [f.a, f.b, f.c]
    need (f.mod == 0) .modValue
    let s ← f.site
    .ok (.drawt f.h f.d s)
  | 0x85 => do
    f.choice .no [f.d, f.b, f.c]
    need (f.cls == 0) .reservedField
    match f.mod with
    | 0 => do need (f.a == vz) .unusedRegister; .ok (.csetup f.h .off)
    | 1 => .ok (.csetup f.h (.record f.a))
    | 2 => .ok (.csetup f.h (.replay f.a))
    | _ => .error .modValue
  | 0x86 => do
    f.choice .no [f.d, f.c]
    need (f.mod == 0) .modValue
    let n ← f.two
    .ok (.cmut f.h f.a f.b n)
  | 0x87 => do f.bare .no [f.d, f.a, f.b, f.c]; .ok (.cmutclr f.h)
  | 0x88 => do
    f.choice .no [f.d, f.b, f.c]
    need (f.mod == 0) .modValue
    let n ← f.two
    .ok (.cresult f.h f.a n)
  | 0x89 => do
    let x ← f.branch .no [f.d, f.a, f.b, f.c]
    need (f.mod == 0) .modValue
    .ok (.crestart f.h x)
  | 0x8A => do
    f.choice .yes [f.c]
    need (f.mod == 0) .modValue
    let n ← f.two
    .ok (.caccept f.h f.d f.a f.b n)
  | 0x8B => do
    f.choice .yes [f.b, f.c]
    need (f.mod == 0) .modValue
    let n ← f.two
    .ok (.ccmp f.h f.d f.a n)
  | 0x8C => do
    f.choice .either [f.b, f.c]
    need (f.mod == 0) .modValue
    let s ← f.site
    .ok (.cpeek f.h f.d f.a s)
  | 0x8D => do f.bare .no [f.d, f.b, f.c]; .ok (.cseed f.h f.a)
  | _ => .error .unassignedOp

/-- Class 5 (Table 8-4). -/
def decode5 (f : Fields) : Except DecodeErr Instr := do
  let x ← f.mem
  match f.op with
  | 0xA0 => do
    f.base .no [f.b, f.c]
    need (f.mod < 2) .modValue
    need (x.okLoad && (f.mod == 0 || x.okSx)) .extValue
    .ok (.ld f.h f.d f.a x (flag f.mod))
  | 0xA1 => do
    f.base .no [f.d, f.c]
    need (f.mod == 0) .modValue
    need x.okStore .extValue
    .ok (.st f.h f.a f.b x)
  | 0xA2 => do
    f.base .no [f.b, f.c]
    need (f.mod == 0) .modValue
    need x.okLoadRun .extValue
    .ok (.ldv f.h f.d f.a x)
  | 0xA3 => do
    f.base .no [f.d, f.c]
    need (f.mod == 0) .modValue
    need x.okStoreRun .extValue
    .ok (.stv f.h f.a f.b x)
  | 0xA4 => do
    f.base .no [f.b, f.c]
    need (f.mod < 2) .modValue
    need (x.okArg && (f.mod == 0 || x.okSx)) .extValue
    .ok (.ldk f.h f.d f.a x (flag f.mod))
  | 0xA5 => do
    f.base .no [f.c]
    let o ← pick (UpdOp.ofCode f.mod) .modValue
    need (x.okAtom && o.okSize x.size) .extValue
    .ok (.atom f.h f.d f.a f.b x o)
  | 0xA6 => do
    f.base .no [f.d, f.c]
    let o ← pick (UpdOp.ofCode f.mod) .modValue
    need (o != .exch) .modValue
    need (x.okRed && o.okSize x.size) .extValue
    .ok (.red f.h f.a f.b x o)
  | 0xA7 => do
    f.base .either []
    need (f.mod == 0) .modValue
    need x.okAtom .extValue
    .ok (.cas f.h f.d f.a f.b f.c x)
  | 0xA8 => do
    f.base .no [f.d, f.a, f.b, f.c]
    let k ← pick (FenceKind.ofCode f.mod) .modValue
    need (x.okScopeOnly && x.ofs == 0) .extValue
    .ok (.fence f.h k x.scope)
  | 0xA9 => do
    f.base .no [f.d, f.c]
    need (f.mod == 0) .modValue
    need x.okScopeOnly .extValue
    .ok (.icinv f.h f.a f.b x.ofs x.scope)
  | 0xAA => do
    f.base .no [f.d, f.c]
    need (f.mod < 2) .modValue
    need x.okCctl .extValue
    .ok (.cctl f.h f.a f.b (flag f.mod) x)
  | 0xAB => do
    f.base .no [f.d, f.b, f.c]
    let l ← pick (PrefLvl.ofCode f.mod) .modValue
    need x.okPref .extValue
    .ok (.pref f.h f.a l x)
  | _ => .error .unassignedOp

/-- The bank of CMDL[0]; CMDL[11:1] is zero. -/
def Fields.bank (f : Fields) : Except DecodeErr Bool := do
  need (f.cls < 2) .reservedField
  .ok (flag f.cls)

/-- Class 6 (Tables 15-1 and 15-2). -/
def decode6 (f : Fields) : Except DecodeErr Instr :=
  match f.op with
  | 0xC0 => do
    let m ← f.coll .no [f.d, f.b, f.c]
    need (f.mod == 0) .modValue
    need (f.sub < 2) .reservedField
    let g ← f.two
    .ok (.malg f.h f.a m (flag f.sub) g)
  | 0xC1 => do
    let m ← f.coll .no [f.d]
    need (f.sub == 0) .reservedField
    let t ← pick (BFmt.ofCode f.mod) .modValue
    let g ← f.two
    need (t.narrow || f.c == vz) .unusedRegister
    .ok (.mwld f.h f.a f.b f.c m t g)
  | 0xC2 => do
    let m ← f.coll .no [f.d, f.b, f.c]
    need (f.mod == 0) .modValue
    need (f.sub == 0) .reservedField
    need (f.cls == 0) .reservedField
    .ok (.mgath f.h f.a m)
  | 0xC3 => do
    let m ← f.coll .no [f.d, f.b, f.c]
    need (f.mod == 0) .modValue
    need (f.sub == 0) .reservedField
    need (f.cls == 0) .reservedField
    .ok (.mscale f.h f.a m)
  | 0xC4 => do
    let m ← f.coll .no [f.d, f.a, f.b, f.c]
    need (f.sub == 0) .reservedField
    need (f.cls < 64) .reservedField
    let t ← pick (AFmt.ofCode f.mod) .modValue
    .ok (.mma f.h m t (flag (f.cls / 32)) (flag (f.cls / 16)) (flag (f.cls / 8)) (BitVec.ofNat 2 (f.cls / 2))
      (flag f.cls))
  | 0xC5 => do
    let m ← f.coll .no [f.d, f.a, f.b, f.c]
    need (f.sub == 0) .reservedField
    let t ← pick (BankTy.ofCode f.mod) .modValue
    let k ← f.bank
    .ok (.mzero f.h m t k)
  | 0xC6 => do
    let m ← f.coll .no [f.d, f.b, f.c]
    need (f.sub == 0) .reservedField
    let t ← pick (BankTy.ofCode f.mod) .modValue
    let k ← f.bank
    .ok (.mldacc f.h f.a m t k)
  | 0xC7 => do
    let m ← f.coll .no [f.a, f.b, f.c]
    need (f.mod == 0) .modValue
    need (f.sub == 0) .reservedField
    let k ← f.bank
    .ok (.mdrain f.h f.d m k)
  | 0xC8 => do
    let m ← f.coll .no [f.d, f.c]
    let o ← pick (MdrstOp.ofCode f.mod) .modValue
    need (f.sub < 64) .reservedField
    let sc ← pick (Scope.ofCode (f.sub / 16)) .extValue
    let sp ← pick (MSpace.ofCode (f.sub % 8)) .extValue
    let rel := flag (f.sub / 8)
    need (rel == (sc != .grp)) .extValue
    let k ← f.bank
    .ok (.mdrst f.h f.a f.b m o sc rel sp k)
  | 0xC9 => do
    let m ← f.coll .either [f.a, f.b, f.c]
    need (f.mod < 2) .modValue
    need (f.sub == 0) .reservedField
    need (f.cls == 0) .reservedField
    .ok (.mstat f.h f.d m (flag f.mod))
  | _ => .error .unassignedOp

/-- BSEL (Table 11-4): 0 no barrier, 0x10 to 0x1F a barrier, 0x01 to 0x0F undefined. -/
def bselOf (n : Nat) : Option (Option BarNo) :=
  if n = 0 then some none else if n < 16 then none else some (some (BitVec.ofNat 4 n))

/-- COPY's command fields (Table 11-4). -/
def Fields.copyF (f : Fields) : Except DecodeErr CopyF := do
  need (f.sub < 128) .reservedField
  need (f.cls < 2048) .reservedField
  let rop ← pick (CopyRop.ofCode (f.sub / 8 % 4)) .extValue
  let ety ← pick (CopyTy.ofCode (f.sub % 8)) .extValue
  let scope ← pick (Scope.ofCode (f.cls / 512 % 4)) .extValue
  let bar ← pick (bselOf (f.cls % 32)) .extValue
  .ok { drs := flag (f.sub / 64), srs := flag (f.sub / 32), rop := rop, ety := ety, scope := scope,
        rel := flag (f.cls / 256), acq := flag (f.cls / 128), exp := flag (f.cls / 64), arv := flag (f.cls / 32),
        bar := bar }

/-- Class 7 (Tables 11-3, 12-3, 17-4 and 18-1). -/
def decode7 (f : Fields) : Except DecodeErr Instr :=
  match f.op with
  | 0xE0 => do
    f.plain .no [f.c]
    need (f.mod == 0) .modValue
    let x ← f.copyF
    need x.ok .extValue
    .ok (.copy f.h f.d f.a f.b x)
  | 0xE1 => do f.bare .either [f.b, f.c]; .ok (.cwait f.h f.d f.a)
  | 0xE2 => do
    f.plain .no [f.d, f.b, f.c]
    need (f.mod == 0) .modValue
    need (f.sub == 0) .reservedField
    let b ← f.bar
    .ok (.binit f.h f.a b)
  | 0xE3 => do
    let m ← f.coll .either [f.b, f.c]
    need (f.sub == 0) .reservedField
    let o ← pick (BarvOp.ofCode f.mod) .modValue
    need (o == .expect || f.a == vz) .unusedRegister
    let b ← f.bar
    .ok (.barv f.h f.d f.a m o b)
  | 0xE4 => do
    f.plain .either [f.b, f.c]
    need (f.mod == 0) .modValue
    need (f.sub == 0) .reservedField
    let b ← f.bar
    .ok (.bwait f.h f.d f.a b)
  | 0xE5 => do
    f.plain .either [f.a, f.b, f.c]
    need (f.mod < 2) .modValue
    need (f.mod == 0 || !f.h.w) .wValue
    need (f.sub == 0) .reservedField
    let b ← f.bar
    .ok (.btest f.h f.d (flag f.mod) b)
  | 0xE6 => do
    f.plain .no [f.d, f.b, f.c]
    need (f.mod == 0) .modValue
    need (f.sub == 0) .reservedField
    let b ← f.bar
    .ok (.bexpt f.h f.a b)
  | 0xE7 => do f.bare .no [f.d, f.a, f.b, f.c]; .ok (.discard f.h)
  | 0xE8 => do
    f.modded .either []
    let t ← pick (Filter.ofCode f.mod) .modValue
    .ok (.samp f.h f.d f.a f.b f.c t)
  | 0xE9 => do
    f.plain .no [f.d, f.b, f.c]
    need (f.sub == 0) .reservedField
    need (f.cls < 2) .reservedField
    match f.mod with
    | 0 => .ok (.sampinv f.h (some f.a) (flag f.cls))
    | 1 => do need (f.a == vz) .unusedRegister; .ok (.sampinv f.h none (flag f.cls))
    | _ => .error .modValue
  | 0xEA => do f.bare .either [f.c]; .ok (.tbox f.h f.d f.a f.b)
  | 0xEB => do
    f.modded .either [f.c]
    let k ← pick (Cull.ofCode f.mod) .modValue
    .ok (.ttri f.h f.d f.a f.b k)
  | 0xEC => do
    let m ← f.coll .no [f.d]
    need (f.mod < 2) .modValue
    need (f.sub == 0) .reservedField
    let n ← f.two
    .ok (.spush f.h f.a f.b f.c m (flag f.mod) n)
  | 0xED => do
    let m ← f.coll .either [f.a]
    need (f.mod == 0) .modValue
    need (f.sub == 0) .reservedField
    need (f.cls == 0) .reservedField
    .ok (.spop f.h f.d f.b f.c m)
  | 0xEE => do
    f.modded .no []
    need (f.mod < 2) .modValue
    .ok (.shray f.h f.d f.a f.b f.c (flag f.mod))
  | 0xEF => do
    f.modded .no []
    match f.mod with
    | 0 => .ok (.emitPayload f.h f.d f.a f.b f.c)
    | 1 => do need (f.d == vz) .unusedRegister; .ok (.emitVertex f.h f.a f.b f.c)
    | 2 => do need (f.d == vz && f.c == vz) .unusedRegister; .ok (.emitPrim f.h f.a f.b)
    | 3 => do need (f.d == vz && f.b == vz && f.c == vz) .unusedRegister; .ok (.emitColour f.h f.a)
    | _ => .error .modValue
  | 0xF0 => do
    f.plain .no [f.d, f.b, f.c]
    need (f.mod == 0) .modValue
    need (f.sub == 0) .reservedField
    .ok (.trap f.h f.a (BitVec.ofNat 12 f.cls))
  | 0xF1 => do
    f.modded .no [f.d, f.a, f.b, f.c]
    match f.mod with
    | 0 => .ok (.trapretRetry f.h)
    | 1 => .ok (.trapretSkip f.h)
    | 2 => .ok (.trapretSupply f.h)
    | 3 => .ok (.trapretAccept f.h)
    | _ => .error .modValue
  | 0xF2 => do f.bare .no [f.b, f.c]; .ok (.launch f.h f.d f.a)
  | 0xF3 => do
    f.modded .no [f.d, f.c]
    match f.mod with
    | 0 => .ok (.tlbinv f.h (some (f.a, f.b)))
    | 1 => do need (f.a == vz && f.b == vz) .unusedRegister; .ok (.tlbinv f.h none)
    | _ => .error .modValue
  | 0xF4 => do
    f.plain .no [f.d, f.a, f.b, f.c]
    need (f.mod == 0) .modValue
    need (f.sub == 0) .reservedField
    .ok (.bkpt f.h (BitVec.ofNat 12 f.cls))
  | _ => .error .unassignedOp

/-- The instruction these fields spell, by class OP[7:5] (R34, R47); a rejection names its cause (R49). -/
def decodeFields (f : Fields) : Except DecodeErr Instr :=
  match f.op / 32 with
  | 0 => decode0 f
  | 1 => decode1 f
  | 2 => decode2 f
  | 3 => decode3 f
  | 4 => decode4 f
  | 5 => decode5 f
  | 6 => decode6 f
  | _ => decode7 f

/-- The fields of a 96-bit word (Table 2-2). -/
def Fields.ofNat (w : Nat) : Fields :=
  { op := bitsAt w 0 8
    h := { w := flag (w / 2 ^ 8), cnd := (Cond.ofCode (bitsAt w 9 4)).getD .al, gap := BitVec.ofNat 3 (w / 2 ^ 13),
           yld := flag (w / 2 ^ 16), la := BitVec.ofNat 4 (w / 2 ^ 17), keep := BitVec.ofNat 2 (w / 2 ^ 21) }
    d := BitVec.ofNat 9 (w / 2 ^ 23)
    a := BitVec.ofNat 9 (w / 2 ^ 32)
    b := BitVec.ofNat 9 (w / 2 ^ 41)
    c := BitVec.ofNat 9 (w / 2 ^ 50)
    mod := bitsAt w 59 5
    ext := bitsAt w 64 32 }

/-- The word of these fields (Table 2-2). -/
def Fields.toNat (f : Fields) : Nat :=
  f.op + 2 ^ 8 * bit f.h.w + 2 ^ 9 * f.h.cnd.code + 2 ^ 13 * f.h.gap.toNat + 2 ^ 16 * bit f.h.yld +
    2 ^ 17 * f.h.la.toNat + 2 ^ 21 * f.h.keep.toNat + 2 ^ 23 * f.d.toNat + 2 ^ 32 * f.a.toNat +
    2 ^ 41 * f.b.toNat + 2 ^ 50 * f.c.toNat + 2 ^ 59 * f.mod + 2 ^ 64 * f.ext

/-- Decode a 96-bit instruction word. -/
def decode (w : BitVec 96) : Except DecodeErr Instr := decodeFields (Fields.ofNat w.toNat)

/-! ## The encoder, from the same tables -/

/-- EXT of an F3 or FX form (Table 2-3). -/
def ext3 (sub msel cls : Nat) : Nat := 65536 * sub + 4096 * msel + cls

/-- EXT of an FM form (R35, R36). -/
def extM (x : MemF) : Nat :=
  4096 * x.ofs.toNat + 512 * x.space.code + 64 * x.size.code + 16 * x.ord.code + 4 * x.scope.code + x.hint.code

/-- CMDH and CMDL of COPY (Table 11-4). -/
def extCopy (x : CopyF) : Nat :=
  ext3 (64 * bit x.drs + 32 * bit x.srs + 8 * x.rop.code + x.ety.code) 0
    (512 * x.scope.code + 256 * bit x.rel + 128 * bit x.acq + 64 * bit x.exp + 32 * bit x.arv +
      (match x.bar with
       | none => 0
       | some b => 16 + b.toNat))

/-- SUB of a form with SAT and RND. -/
def subSat (s : Bool) (r : Rnd) : Nat := 8 * bit s + r.code

/-- The fields of an encoded form; none for a device step, which no word encodes. -/
def encodeFields : Instr → Option Fields
  | .nop h => some ⟨0x00, h, vz, vz, vz, vz, 0, 0⟩
  | .bra h x => some ⟨0x01, h, vz, vz, vz, vz, 0, x.toNat⟩
  | .brx h a => some ⟨0x02, h, vz, a, vz, vz, 0, 0⟩
  | .call h d (.disp x) => some ⟨0x03, h, d, vz, vz, vz, 0, x.toNat⟩
  | .call h d (.reg a) => some ⟨0x03, h, d, a, vz, vz, 1, 0⟩
  | .ret h a => some ⟨0x04, h, vz, a, vz, vz, 0, 0⟩
  | .exit h => some ⟨0x05, h, vz, vz, vz, vz, 0, 0⟩
  | .meetset h d x => some ⟨0x06, h, d, vz, vz, vz, 0, x.toNat⟩
  | .meetrst h none => some ⟨0x07, h, vz, vz, vz, vz, 0, 0⟩
  | .meetrst h (some a) => some ⟨0x07, h, vz, a, vz, vz, 1, 0⟩
  | .mjoin h m => some ⟨0x08, h, vz, vz, vz, vz, 0, ext3 0 0 m.toNat⟩
  | .mleave h m => some ⟨0x09, h, vz, vz, vz, vz, 0, ext3 0 0 m.toNat⟩
  | .mwait h m => some ⟨0x0A, h, vz, vz, vz, vz, 0, ext3 0 0 m.toNat⟩
  | .mset h a m op => some ⟨0x0B, h, vz, a, vz, vz, op.code, ext3 0 0 m.toNat⟩
  | .mget h d m op => some ⟨0x0C, h, d, vz, vz, vz, op.code, ext3 0 0 m.toNat⟩
  | .vote h d a m op => some ⟨0x0D, h, d, a, vz, vz, op.code, ext3 0 m.toNat 0⟩
  | .sleept h a => some ⟨0x0E, h, vz, a, vz, vz, 0, 0⟩
  | .sleepp h a b => some ⟨0x0F, h, vz, a, vz, vz, 0, ext3 0 0 b.toNat⟩
  | .fork h d a x => some ⟨0x10, h, d, a, vz, vz, 0, x.toNat⟩
  | .rdv h a => some ⟨0x11, h, vz, a, vz, vz, 0, 0⟩
  | .iadd h d a b m w => some ⟨0x20, h, d, a, b, vz, m.code, ext3 (bit w) 0 0⟩
  | .isub h d a b m w => some ⟨0x21, h, d, a, b, vz, m.code, ext3 (bit w) 0 0⟩
  | .imul h d a b w => some ⟨0x22, h, d, a, b, vz, bit w, 0⟩
  | .imulh h d a b m => some ⟨0x23, h, d, a, b, vz, m.code, 0⟩
  | .imad h d a b c m => some ⟨0x24, h, d, a, b, c, m.code, 0⟩
  | .iminmax h d a b o t => some ⟨0x25, h, d, a, b, vz, o.code, ext3 t.code 0 0⟩
  | .bool h d a b c g1 g0 => some ⟨0x26, h, d, a, b, c, 0, ext3 0 0 (16 * g1.toNat + g0.toNat)⟩
  | .shf h d a b c o => some ⟨0x27, h, d, a, b, c, o.code, 0⟩
  | .bfx h d a b s => some ⟨0x28, h, d, a, b, vz, bit s, 0⟩
  | .bfi h d a b c => some ⟨0x29, h, d, a, b, c, 0, 0⟩
  | .bitc h d a o => some ⟨0x2A, h, d, a, vz, vz, o.code, 0⟩
  | .icmp h a b w => some ⟨0x2B, h, vz, a, b, vz, bit w, 0⟩
  | .sel h d a b w sc => some ⟨0x2C, h, d, a, b, vz, bit w, ext3 0 0 sc.code⟩
  | .mov h d a w => some ⟨0x2D, h, d, a, vz, vz, bit w, 0⟩
  | .movi h d i s => some ⟨0x2E, h, d, vz, vz, vz, bit s, i.toNat⟩
  | .lea h d a b s k => some ⟨0x2F, h, d, a, b, vz, bit s, ext3 0 0 k.toNat⟩
  | .srd h d n => some ⟨0x30, h, d, vz, vz, vz, 0, ext3 0 0 n.toNat⟩
  | .swr h a n => some ⟨0x31, h, vz, a, vz, vz, 0, ext3 0 0 n.toNat⟩
  | .shfl h d a b c m o => some ⟨0x32, h, d, a, b, c, o.code, ext3 0 m.toNat 0⟩
  | .vcomp h d a b m => some ⟨0x33, h, d, a, b, vz, 0, ext3 0 m.toNat 0⟩
  | .vexp h d a b m => some ⟨0x34, h, d, a, b, vz, 0, ext3 0 m.toNat 0⟩
  | .iscan h d a m o e => some ⟨0x35, h, d, a, vz, vz, o.code, ext3 (bit e) m.toNat 0⟩
  | .ired h d a m o => some ⟨0x36, h, d, a, vz, vz, o.code, ext3 0 m.toNat 0⟩
  | .bysel h d a b c => some ⟨0x37, h, d, a, b, c, 0, 0⟩
  | .fadd h d a b s r => some ⟨0x40, h, d, a, b, vz, 0, ext3 (subSat s r) 0 0⟩
  | .fmul h d a b s r => some ⟨0x41, h, d, a, b, vz, 0, ext3 (subSat s r) 0 0⟩
  | .ffma h d a b c s r => some ⟨0x42, h, d, a, b, c, 0, ext3 (subSat s r) 0 0⟩
  | .fminmax h d a b o => some ⟨0x43, h, d, a, b, vz, 0, ext3 o.code 0 0⟩
  | .fcmp h a b => some ⟨0x44, h, vz, a, b, vz, 0, 0⟩
  | .fclass h d a q => some ⟨0x45, h, d, a, vz, vz, 0, ext3 0 0 q.toNat⟩
  | .frnd h d a r => some ⟨0x46, h, d, a, vz, vz, 0, ext3 r.code 0 0⟩
  | .fscale h d a b r => some ⟨0x47, h, d, a, b, vz, 0, ext3 r.code 0 0⟩
  | .dadd h d a b s r => some ⟨0x48, h, d, a, b, vz, 0, ext3 (subSat s r) 0 0⟩
  | .dmul h d a b s r => some ⟨0x49, h, d, a, b, vz, 0, ext3 (subSat s r) 0 0⟩
  | .dfma h d a b c s r => some ⟨0x4A, h, d, a, b, c, 0, ext3 (subSat s r) 0 0⟩
  | .dcmp h a b => some ⟨0x4B, h, vz, a, b, vz, 0, 0⟩
  | .hadd2 h d a b t s r => some ⟨0x4C, h, d, a, b, vz, t.code, ext3 (subSat s r) 0 0⟩
  | .hmul2 h d a b t s r => some ⟨0x4D, h, d, a, b, vz, t.code, ext3 (subSat s r) 0 0⟩
  | .hfma2 h d a b c t s r => some ⟨0x4E, h, d, a, b, c, t.code, ext3 (subSat s r) 0 0⟩
  | .sfn h d a k => some ⟨0x4F, h, d, a, vz, vz, 0, ext3 0 0 k.toNat⟩
  | .aconj h d a g => some ⟨0x50, h, d, a, vz, vz, 0, ext3 0 0 g.toNat⟩
  | .anorm h d a g r => some ⟨0x51, h, d, a, vz, vz, 0, ext3 r.code 0 g.toNat⟩
  | .amul h d a b g ca cb r =>
    some ⟨0x52, h, d, a, b, vz, 0, ext3 (32 * bit ca + 16 * bit cb + r.code) 0 g.toNat⟩
  | .fred h d a m o t => some ⟨0x53, h, d, a, vz, vz, o.code, ext3 0 m.toNat t.toNat⟩
  | .fscan h d a m o t e => some ⟨0x54, h, d, a, vz, vz, o.code, ext3 (bit e) m.toNat t.toNat⟩
  | .cvt h d a t s sf r => some ⟨0x60, h, d, a, vz, vz, t.code, ext3 (256 * s.code + subSat sf r) 0 0⟩
  | .cvth2 h d a b t s r => some ⟨0x61, h, d, a, b, vz, t.code, ext3 (subSat s r) 0 0⟩
  | .cvtq8 h d a b t x s r => some ⟨0x62, h, d, a, b, vz, t.code, ext3 (16 * bit x + subSat s r) 0 0⟩
  | .cvtq4 h d a b x s r => some ⟨0x63, h, d, a, b, vz, 0, ext3 (16 * bit x + subSat s r) 0 0⟩
  | .cvtw h d a o q s r => some ⟨0x64, h, d, a, vz, vz, o.code, ext3 (subSat s r) 0 q.toNat⟩
  | .unpq h d a b t x s r => some ⟨0x65, h, d, a, b, vz, t.code, ext3 (16 * bit x + subSat s r) 0 0⟩
  | .bscale h d a m t => some ⟨0x66, h, d, a, vz, vz, t.code, ext3 0 m.toNat 0⟩
  | .srseed h a => some ⟨0x67, h, vz, a, vz, vz, 0, 0⟩
  | .i2i h d a t s sat => some ⟨0x68, h, d, a, vz, vz, t.code, ext3 (256 * s.code + 8 * bit sat) 0 0⟩
  | .draw h d s => some ⟨0x80, h, d, vz, vz, vz, 0, ext3 0 0 s.toNat⟩
  | .drawb h d s => some ⟨0x81, h, d, vz, vz, vz, 0, ext3 0 0 s.toNat⟩
  | .drawi h d b s => some ⟨0x82, h, d, vz, b, vz, 0, ext3 0 0 s.toNat⟩
  | .drawn h d s => some ⟨0x83, h, d, vz, vz, vz, 0, ext3 0 0 s.toNat⟩
  | .drawt h d s => some ⟨0x84, h, d, vz, vz, vz, 0, ext3 0 0 s.toNat⟩
  | .csetup h .off => some ⟨0x85, h, vz, vz, vz, vz, 0, 0⟩
  | .csetup h (.record a) => some ⟨0x85, h, vz, a, vz, vz, 1, 0⟩
  | .csetup h (.replay a) => some ⟨0x85, h, vz, a, vz, vz, 2, 0⟩
  | .cmut h a b n => some ⟨0x86, h, vz, a, b, vz, 0, ext3 0 0 n.toNat⟩
  | .cmutclr h => some ⟨0x87, h, vz, vz, vz, vz, 0, 0⟩
  | .cresult h a n => some ⟨0x88, h, vz, a, vz, vz, 0, ext3 0 0 n.toNat⟩
  | .crestart h x => some ⟨0x89, h, vz, vz, vz, vz, 0, x.toNat⟩
  | .caccept h d a b n => some ⟨0x8A, h, d, a, b, vz, 0, ext3 0 0 n.toNat⟩
  | .ccmp h d a n => some ⟨0x8B, h, d, a, vz, vz, 0, ext3 0 0 n.toNat⟩
  | .cpeek h d a s => some ⟨0x8C, h, d, a, vz, vz, 0, ext3 0 0 s.toNat⟩
  | .cseed h a => some ⟨0x8D, h, vz, a, vz, vz, 0, 0⟩
  | .ld h d a x sx => some ⟨0xA0, h, d, a, vz, vz, bit sx, extM x⟩
  | .st h a b x => some ⟨0xA1, h, vz, a, b, vz, 0, extM x⟩
  | .ldv h d a x => some ⟨0xA2, h, d, a, vz, vz, 0, extM x⟩
  | .stv h a b x => some ⟨0xA3, h, vz, a, b, vz, 0, extM x⟩
  | .ldk h d a x sx => some ⟨0xA4, h, d, a, vz, vz, bit sx, extM x⟩
  | .atom h d a b x o => some ⟨0xA5, h, d, a, b, vz, o.code, extM x⟩
  | .red h a b x o => some ⟨0xA6, h, vz, a, b, vz, o.code, extM x⟩
  | .cas h d a b c x => some ⟨0xA7, h, d, a, b, c, 0, extM x⟩
  | .fence h k s => some ⟨0xA8, h, vz, vz, vz, vz, k.code, extM ⟨0, .glob, .b, .plain, s, .normal⟩⟩
  | .icinv h a b o s => some ⟨0xA9, h, vz, a, b, vz, 0, extM ⟨o, .glob, .b, .plain, s, .normal⟩⟩
  | .cctl h a b i x => some ⟨0xAA, h, vz, a, b, vz, bit i, extM x⟩
  | .pref h a l x => some ⟨0xAB, h, vz, a, vz, vz, l.code, extM x⟩
  | .malg h a m r g => some ⟨0xC0, h, vz, a, vz, vz, 0, ext3 (bit r) m.toNat g.toNat⟩
  | .mwld h a b c m t g => some ⟨0xC1, h, vz, a, b, c, t.code, ext3 0 m.toNat g.toNat⟩
  | .mgath h a m => some ⟨0xC2, h, vz, a, vz, vz, 0, ext3 0 m.toNat 0⟩
  | .mscale h a m => some ⟨0xC3, h, vz, a, vz, vz, 0, ext3 0 m.toNat 0⟩
  | .mma h m t cb ca ow du k =>
    some ⟨0xC4, h, vz, vz, vz, vz, t.code,
      ext3 0 m.toNat (32 * bit cb + 16 * bit ca + 8 * bit ow + 2 * du.toNat + bit k)⟩
  | .mzero h m t k => some ⟨0xC5, h, vz, vz, vz, vz, t.code, ext3 0 m.toNat (bit k)⟩
  | .mldacc h a m t k => some ⟨0xC6, h, vz, a, vz, vz, t.code, ext3 0 m.toNat (bit k)⟩
  | .mdrain h d m k => some ⟨0xC7, h, d, vz, vz, vz, 0, ext3 0 m.toNat (bit k)⟩
  | .mdrst h a b m o sc rel sp k =>
    some ⟨0xC8, h, vz, a, b, vz, o.code, ext3 (16 * sc.code + 8 * bit rel + sp.code) m.toNat (bit k)⟩
  | .mstat h d m c => some ⟨0xC9, h, d, vz, vz, vz, bit c, ext3 0 m.toNat 0⟩
  | .copy h d a b x => some ⟨0xE0, h, d, a, b, vz, 0, extCopy x⟩
  | .cwait h d a => some ⟨0xE1, h, d, a, vz, vz, 0, 0⟩
  | .binit h a b => some ⟨0xE2, h, vz, a, vz, vz, 0, ext3 0 0 b.toNat⟩
  | .barv h d a m o b => some ⟨0xE3, h, d, a, vz, vz, o.code, ext3 0 m.toNat b.toNat⟩
  | .bwait h d a b => some ⟨0xE4, h, d, a, vz, vz, 0, ext3 0 0 b.toNat⟩
  | .btest h d p b => some ⟨0xE5, h, d, vz, vz, vz, bit p, ext3 0 0 b.toNat⟩
  | .bexpt h a b => some ⟨0xE6, h, vz, a, vz, vz, 0, ext3 0 0 b.toNat⟩
  | .discard h => some ⟨0xE7, h, vz, vz, vz, vz, 0, 0⟩
  | .samp h d a b c t => some ⟨0xE8, h, d, a, b, c, t.code, 0⟩
  | .sampinv h (some a) v => some ⟨0xE9, h, vz, a, vz, vz, 0, ext3 0 0 (bit v)⟩
  | .sampinv h none v => some ⟨0xE9, h, vz, vz, vz, vz, 1, ext3 0 0 (bit v)⟩
  | .tbox h d a b => some ⟨0xEA, h, d, a, b, vz, 0, 0⟩
  | .ttri h d a b k => some ⟨0xEB, h, d, a, b, vz, k.code, 0⟩
  | .spush h a b c m z n => some ⟨0xEC, h, vz, a, b, c, bit z, ext3 0 m.toNat n.toNat⟩
  | .spop h d b c m => some ⟨0xED, h, d, vz, b, c, 0, ext3 0 m.toNat 0⟩
  | .shray h d a b c x => some ⟨0xEE, h, d, a, b, c, bit x, 0⟩
  | .emitPayload h d a b c => some ⟨0xEF, h, d, a, b, c, 0, 0⟩
  | .emitVertex h a b c => some ⟨0xEF, h, vz, a, b, c, 1, 0⟩
  | .emitPrim h a b => some ⟨0xEF, h, vz, a, b, vz, 2, 0⟩
  | .emitColour h a => some ⟨0xEF, h, vz, a, vz, vz, 3, 0⟩
  | .trap h a k => some ⟨0xF0, h, vz, a, vz, vz, 0, ext3 0 0 k.toNat⟩
  | .trapretRetry h => some ⟨0xF1, h, vz, vz, vz, vz, 0, 0⟩
  | .trapretSkip h => some ⟨0xF1, h, vz, vz, vz, vz, 1, 0⟩
  | .trapretSupply h => some ⟨0xF1, h, vz, vz, vz, vz, 2, 0⟩
  | .trapretAccept h => some ⟨0xF1, h, vz, vz, vz, vz, 3, 0⟩
  | .launch h d a => some ⟨0xF2, h, d, a, vz, vz, 0, 0⟩
  | .tlbinv h (some (a, b)) => some ⟨0xF3, h, vz, a, b, vz, 0, 0⟩
  | .tlbinv h none => some ⟨0xF3, h, vz, vz, vz, vz, 1, 0⟩
  | .bkpt h k => some ⟨0xF4, h, vz, vz, vz, vz, 0, ext3 0 0 k.toNat⟩
  | .emptySlot .. | .fetchLine .. | .longLatencyResult .. | .lateTrapDelivery .. | .pageWalk ..
  | .portUpdate .. | .collectiveBody .. | .sleepWake .. | .bursarExit .. | .copyChunkSend .. | .copyChunkAck ..
  | .arrayRelease .. | .mdrstTileApply .. | .weightCacheFill .. | .walkerRay .. | .meshGroupStart ..
  | .taskSlotFree .. | .primitiveSetup .. | .pixelGroupStart .. | .tileFlush .. | .tileReload ..
  | .passEndWrite .. | .replayCheck .. | .escrowRollback .. | .teamRelaunch .. | .queueDoorbell ..
  | .launchPacket .. | .fencePacket .. | .fencePacketRelease .. | .signalPacket .. | .signalApply ..
  | .queueEnable .. | .queueDisable .. | .haltClear .. | .preemptSet .. | .preemptClear .. | .imageSeal ..
  | .teamAdmission .. | .launchCompletion .. | .detCommit .. | .detBufferFull .. | .faultAnswerMap ..
  | .faultAnswerRefuse .. | .managementWrite .. | .portDownClear .. | .powerRequestP0 .. | .powerRequestP1 ..
  | .powerRequestP2 .. | .powerRequestP3 .. | .retentionEntry .. | .stoptick .. | .clockRelease ..
  | .timeSeriesSample .. | .monitorRead .. | .monitorClear .. | .monitorSelect .. | .fatalDump ..
  | .tokenSubmit .. | .attest .. | .reset .. | .peerChunkReceive .. | .peerAckReceive .. | .heartbeatReceive ..
  | .heartbeatSend .. | .chunkRetransmit .. | .portDown .. | .firmwareImage .. | .bkptResumption ..
  | .icinvAcknowledgement .. | .tlbinvAcknowledgement .. | .sampinvAcknowledgement .. => none

/-- The word of a well-formed instruction; none for a device step. -/
def encode (i : Instr) : Option (BitVec 96) := (encodeFields i).map (fun f => BitVec.ofNat 96 f.toNat)

/-- The host's question: the instruction whose bits are w, bit 0 the least significant of the first byte. -/
def decodeTableWord (nbits w : Nat) : Option Instr :=
  match decode (BitVec.ofNat 96 (w % 2 ^ nbits)) with
  | .ok i => some i
  | .error _ => none

/-! ## Fetch lines -/

/-- A 64-byte fetch line as one number, little-endian (R28). -/
abbrev Line := BitVec 512

/-- The line word, bytes 60 to 63 (R28). -/
def Line.word (l : Line) : Word := BitVec.ofNat 32 (l.toNat / 2 ^ 480)

/-- The 96 bits of slot i (R28). -/
def Line.slot (l : Line) (i : Nat) : BitVec 96 := BitVec.ofNat 96 (l.toNat / 2 ^ (96 * i))

/-- VALID bit i of a line word (Table 2-1). -/
def lineValid (w : Word) (i : Nat) : Bool := w.getLsbD (9 + i)

/-- BTM bit i of a line word (Table 2-1). -/
def lineBtm (w : Word) (i : Nat) : Bool := w.getLsbD (4 + i)

/-- PAIR bit i of a line word (Table 2-1). -/
def linePair (w : Word) (i : Nat) : Bool := w.getLsbD i

/-- Is a reserved bit of the line word, [31:30] or [23:14], set (Table 2-1, R51)? -/
def lineReserved (w : Word) : Bool := bitsAt w.toNat 30 2 != 0 || bitsAt w.toNat 14 10 != 0

/-- The exclusive or of the low n bits of x (R29). -/
def parity : Nat → Nat → Bool
  | 0, _ => false
  | n + 1, x => (x % 2 == 1) != parity n (x / 2)

/-- Do SPAR for every slot and LPAR hold (R29, R31)? -/
def Line.sound (l : Line) : Bool :=
  (List.range 5).all (fun i => parity 96 (l.slot i).toNat == l.word.getLsbD (24 + i)) &&
    parity 29 l.word.toNat == l.word.getLsbD 29

/-- A line with these slots and this line word, its parity bits set as R29 says. -/
def Line.make (slots : List (BitVec 96)) (valid btm pair : Nat) : Line :=
  let body := (List.range 5).foldl (fun n i => n + 2 ^ (96 * i) * (slots.getD i 0).toNat) 0
  let spar := (List.range 5).foldl (fun n i => n + 2 ^ i * bit (parity 96 (slots.getD i 0).toNat)) 0
  let lw := spar * 2 ^ 24 + valid % 32 * 2 ^ 9 + btm % 32 * 2 ^ 4 + pair % 16
  BitVec.ofNat 512 (body + 2 ^ 480 * (lw + 2 ^ 29 * bit (parity 29 lw)))

end Sys2Proof
end

