-- ==== Sys2Proof/Machine/Parts.lean ====
section
/-! DEFINITION. The parts that State is made of, as plain data: threads, groups, teams, accesses, barriers, copies, the
bursar, the matrix array, the caches, the units of a core, of a pair and of a die, launches, queues and ports. -/

namespace Sys2Proof.Machine

/-- The condition codes of a lane or a bursar context (Table 1-5, R40). -/
structure CC where
  c : Bool
  z : Bool
  s : Bool
  o : Bool
deriving DecidableEq, Repr

/-- Every code clear. -/
def CC.zero : CC := ⟨false, false, false, false⟩

/-- A kernel descriptor (Table 3-4), with the address it was read at. -/
structure KDesc where
  addr : Nat
  entry : Word
  handler : Word
  gwidth : Nat
  nbar : Nat
  nreg : Nat
  scratch : Nat
  spans : Bool
  detok : Bool
  escrow : Bool
  idem : Bool
  chmode : Nat
  nsites : Nat
  maxocc : Nat
  maxdraws : Nat
  keysrc : Nat
  keyval : DWord
  coefAddr : Nat
  argBytes : Nat
  sig : BitVec 512
deriving DecidableEq, Repr

/-- The descriptor of no kernel: every field zero. -/
def KDesc.zero : KDesc :=
  ⟨0, 0, 0, 16, 0, 1, 0, false, false, false, false, 0, 0, 0, 0, 0, 0, 0, 0, 0⟩

/-- A launch record (Table 22-3). -/
structure LaunchRec where
  kdesc : Nat
  args : Nat
  seed : DWord
  pbase : Nat
  tsarr : Nat
  mutarr : Nat
  grid : Nat
  teamsz : Nat
  det : Bool
  escrow : Bool
  idem : Bool
  serial : Bool
  replay : Bool
  sysrel : Bool
  draw : Bool
  passend : Bool
  prio : Nat
  qclass : Nat
  ctr : Nat
  privb : Nat
deriving DecidableEq, Repr

/-- The record of no launch. -/
def LaunchRec.zero : LaunchRec :=
  ⟨0, 0, 0, 0, 0, 0, 1, 1, false, false, false, false, false, false, false, false, 0, 0, 0, 0⟩

/-- Where a byte lives: a physical address of HBM (R266), the direct part of a vault (R169), a team's scratchpad half
(R168), or host memory through a window (R414), coherent or not. -/
inductive Loc where
  | hbm (pa : Nat)
  | vault (a : Nat)
  | scr (uid : Nat) (side : Bool) (off : Nat)
  | host (hpa : Nat) (coherent : Bool)
deriving DecidableEq, Repr

/-- What a port update unit applies (R175, R176): a store, an update of Table 8-3, a bf16 addition to one half
(R237), an f32 added to a bf16 (`badd` of Table 15-5), or a compare-and-store. -/
inductive PortOp where
  | write
  | upd (op : UpdOp)
  | half
  | badd
  | cas (expected : Nat)
deriving DecidableEq, Repr

/-- The draw forms (R207). -/
inductive DrawForm where
  | unit
  | bits
  | below (n : Word)
  | normal
  | table
deriving DecidableEq, Repr

/-- The choice state of a thread (Tables 9-2 and 9-3). `pend` is held by the access that draws. -/
structure ChState where
  mode : Nat
  bank : Bool
  geom : Nat
  base : DWord
  key : DWord
  occ : List (Nat × Nat)
  didx : Word
  rcnt : List (Nat × Nat)
  rdcnt : Word
  iter : Word
  muts : List (Nat × DWord)
  sbase : DWord
deriving DecidableEq, Repr

/-- The choice state at thread start but for GEOM and K (Table 9-2). -/
def ChState.zero : ChState := ⟨0, false, 0, 0, 0, [], 0, [], 0, 0, [], 0⟩

/-- A consumed key: q and its coordinate c (R192, R206). -/
structure DrawKey where
  q : Nat
  c : DWord
deriving DecidableEq, Repr

/-- What an access does when it reaches its port. -/
inductive AccOp where
  /-- LD, LDV, LDK, SPOP: read; `sx` sign-extends a narrow value -/
  | load (sx : Bool)
  /-- ST, STV, SPUSH and the record stores of class 4 -/
  | store (data : Nat)
  /-- ATOM and RED -/
  | upd (op : UpdOp) (x : Nat)
  /-- CAS -/
  | cas (expected new : Nat)
  /-- SPOP: the entry, and the depth it leaves (R338) -/
  | pop (depth : Word)
  /-- SFN, MDRAIN: the values are known at issue and arrive later -/
  | known (vals : List Word)
  /-- the draw forms, with the choice state and the kernel's geometry at issue (R206) -/
  | draw (form : DrawForm) (keys : List DrawKey) (ch : ChState) (k : KDesc)
  /-- CPEEK (R209) -/
  | peek (key : DrawKey) (ch : ChState) (k : KDesc)
  /-- TBOX with its ray (R334) -/
  | tbox (ray : List Word)
  /-- TTRI with its ray (R335) -/
  | ttri (ray : List Word) (cull : Cull)
  /-- SAMP with its coordinates (R327) -/
  | samp (u v lam : Word) (filt : Filter)
deriving DecidableEq, Repr

/-- How far an access has come. -/
inductive AccStage where
  /-- issued, not yet translated or not yet sent -/
  | issued
  /-- held on a replayable fault of a die's fault queue (R270) -/
  | held (die num : Nat)
  /-- translated and checked -/
  | ready
  /-- a run of four registers whose first (false) or second (true) half has been performed (R174) -/
  | half (second : Bool)
  /-- an update of the non-coherent host window that has read its word, with the contents read, and has not yet written
  it (R180, R370) -/
  | fetched (old : Nat)
  /-- performed -/
  | done
  /-- found to trap (R46) -/
  | trapped (cause : Nat) (val addr : DWord)
deriving DecidableEq, Repr

/-- An access, or another long-latency instruction of one lane or context, from issue to result (R44 to R46, R178). `left`
is what its window has left, none once it has closed, at tick `shut`; `low` the lowest lane of its cohort; `born` the tick
of its issue; `watched` that a monitor may sample it, as a class-5 access (R409). -/
structure Access where
  id : Nat
  seq : Nat
  ag : Agent
  pc : Word
  op : AccOp
  dst : List Reg
  w : Bool
  space : Space
  ea : Nat
  ga : Nat
  len : Nat
  ord : Ord
  scope : Scope
  nl1 : Bool
  plain : Bool
  racy : Bool
  xl : List (Nat × Nat)
  stage : AccStage
  left : Option Nat
  vals : List Word
  flags : Option CC
  retry : Bool
  low : Nat
  born : Nat
  shut : Nat
  watched : Bool
deriving DecidableEq, Repr

/-- A late trap found and not yet delivered, with the access's saved operands (R46, R257). -/
structure Late where
  acc : Access
  cause : Nat
  val : DWord
  addr : DWord
deriving DecidableEq, Repr

/-- The trap special registers and hidden trap state of a thread (R254 to R257). `saved` is the trapped access of a
window trap; none for a trap at issue, whose instruction's destination is `dst`. -/
structure TrapState where
  lvl : Bool
  cause : Nat
  pc : Word
  val : DWord
  addr : DWord
  resume : Word
  saved : Option Access
  dst : List Reg
  pend : List Late
deriving DecidableEq, Repr

/-- No trap taken (R254). -/
def TrapState.zero : TrapState := ⟨false, 0, 0, 0, 0, 0, none, [], []⟩

/-- An iterator record (Table 11-2), with the address it was read at. -/
structure IterRec where
  addr : Nat
  inSp : Bool
  base : Nat
  space : Nat
  esize : Nat
  rank : Nat
  bcast : Nat
  peer : Nat
  pad : Nat
  shape : List Nat
  start : List Int
  stride : List Int
  box : List Nat
deriving DecidableEq, Repr

/-- An accepted copy's registers (R236). -/
structure CopyJob where
  src : IterRec
  dst : IterRec
  f : CopyF
  d : Reg
deriving DecidableEq, Repr

/-- A pass descriptor (Table 18-7). -/
structure PassDesc where
  cbase : Nat
  zbase : Nat
  width : Nat
  height : Nat
  ztest : Bool
  zwrite : Bool
  cull : Nat
deriving DecidableEq, Repr

/-- The kernels and the pass of a draw (Table 22-4). -/
structure DrawInfo where
  mesh : KDesc
  pixel : KDesc
  pass : PassDesc
  pixArgs : Nat
deriving DecidableEq, Repr

/-- What the front end has read of a launch and keeps from then on (R381, R382): the 64 bytes of its record, and of a draw
its block and its pass descriptor. -/
structure Reads where
  rec' : Nat
  block : Option Nat
  pass : Option Nat
deriving DecidableEq, Repr

/-- A child launch that a deterministic team submits at its commit, as read and checked at issue (R263). -/
structure Kid where
  lr : LaunchRec
  desc : KDesc
  draw : Option DrawInfo
deriving DecidableEq, Repr

/-- Why a lane or a context does not issue (R78, R81, R90, R92 to R95, R181 to R183, R226, R248, R263, R265). -/
inductive Park where
  /-- not parked -/
  | run
  /-- parked at its meeting address -/
  | meeting
  /-- parked on MWAIT of a mask -/
  | mwait (m : Nat)
  /-- signed on a mask, at its PC, to this instruction; `due` once every member has signed or withdrawn, with the place of
  that moment among those of the team's other bodies (R279) -/
  | signed (m : Nat) (due : Option Nat) (i : Instr)
  /-- asleep until the tick -/
  | sleept (tick : Nat)
  /-- asleep on a barrier's promise, waiting out a phase -/
  | sleepp (b : Nat) (phase : Bool)
  /-- parked on RDV of a context -/
  | rdv (c : Nat)
  /-- in WAIT of a barrier, for the phase given; `fixed` is the phase BARV reports, none for BWAIT -/
  | bar (b : Nat) (phase : Bool) (fixed : Option Bool) (d : Reg) (w : Bool)
  /-- FENCE waits for earlier accesses -/
  | fence (k : FenceKind) (sc : Scope)
  /-- CCTL acts (R183) -/
  | cctl
  /-- ICINV waits for acknowledgements -/
  | icinv
  /-- TLBINV waits for acknowledgements -/
  | tlbinv
  /-- SAMPINV waits for acknowledgements -/
  | sampinv
  /-- EXIT or DISCARD waits for its stores' checks; DISCARD of a pixel thread writes nothing -/
  | ending (discard : Bool)
  /-- held on a replayable fault; the instruction runs when the host has answered, for the first time or `again` -/
  | fault (die num : Nat) (again : Bool)
  /-- refused by the host: the instruction runs, for the first time or `again`, and takes PAGE_PROT with reason 4 -/
  | refused (va : Nat) (again : Bool)
  /-- not parked: an instruction that has issued goes on, which closes no window -/
  | again
  /-- COPY waits for a free slot, with its checked records -/
  | copySlot (j : CopyJob)
  /-- CWAIT waits for a slot -/
  | cwait (slot : Nat) (d : Reg) (w : Bool)
  /-- LAUNCH waits while 1,024 child launches are pending, with its checked record -/
  | launch (k : Kid) (d : Reg)
  /-- the stall of the cohort of one issue at FORK, SHRAY or EMIT.payload; `served` lanes wait for the others -/
  | stall (i : Instr) (issue : Nat) (served : Bool)
deriving DecidableEq, Repr

/-- A thread (Table 1-5, R78, Table 9-2, R256); a pixel thread has its output, its sample mask and its pixel (R350,
R351). `boot` is set while the entry of launch-level replay has not been loaded (R216); `reads` is what the front end keeps
of the record of a LAUNCH that waits (R381). -/
structure Thread where
  exited : Bool
  pc : Word
  meet : Word
  cc : CC
  regs : List (Nat × Word)
  park : Park
  starve : Nat
  trap : TrapState
  ch : ChState
  conv : BitVec 40
  rels : Nat
  out : Option (List Word)
  cover : BitVec 4
  px : Nat × Nat
  boot : Bool
  reads : Option Reads
deriving DecidableEq, Repr

/-- A lane that holds no thread. -/
def Thread.absent : Thread :=
  ⟨true, 0, 0xFFFFFFFF, .zero, [], .run, 0, .zero, .zero, 0, 0, none, 0, (0, 0), false, none⟩

/-- The stages of R343. -/
inductive Stage where
  | compute | task | mesh | pixel
deriving DecidableEq, Repr

/-- A group (Table 1-5, R20, R80). `eligible` is the tick from which it has had a ready thread, none while it has none;
`gapUntil` the tick at which its GAP has elapsed; `yielded` the port on which it ranks last for one selection (R43, R77); `unkeyed` is set while the group
has not read its SRKEY (R149). -/
structure Group where
  core : Nat
  part : Nat
  slot : Nat
  rows : Nat
  width : Nat
  masks : List (Nat × Nat)
  threads : List (Nat × Thread)
  srkey : DWord
  unkeyed : Bool
  eligible : Option Nat
  gapUntil : Nat
  yielded : Option Nat
  stopped : Bool
  rels : Nat
  verts : List (Nat × List Word)
  prims : List (Nat × Word)
  quad : Option (Nat × Nat × Nat)
deriving DecidableEq, Repr

/-- No group. -/
def Group.absent : Group :=
  ⟨0, 0, 0, 0, 16, [], [], 0, false, none, 0, none, false, 0, [], [], none⟩

/-- A named barrier (Table 11-8). WAIT is the lanes and contexts parked on it. `arrived` lists this phase's arrivals:
the group, and whether it arrived with `wait` signed by every lane of its m0 (R396). -/
structure Barrier where
  phase : Bool
  arr : Nat
  n : Nat
  tx : Int
  prom : Nat
  psn : Bool
  arrived : List (Nat × Bool)
deriving DecidableEq, Repr

/-- A barrier at team start (Table 11-8). -/
def Barrier.start (teamsz : Nat) : Barrier := ⟨false, teamsz, teamsz, 0, 0, false, []⟩

/-- An algebra record (R67). -/
structure AlgRec where
  tbl : DWord
  d : Nat
  mask : BitVec 4
deriving DecidableEq, Repr

/-- The `real` record (Table 3-8). -/
def AlgRec.real : AlgRec := ⟨0, 1, 0⟩

/-- A race tag of one word (Table 19-5): the last writer, its release count and the number of the issue that wrote; the
reading parties and their counts. -/
structure RaceTag where
  writer : Option (Nat × Nat × Nat × Nat)
  readers : List (Nat × Nat)
deriving DecidableEq, Repr

/-- No record. -/
def RaceTag.none : RaceTag := ⟨.none, []⟩

/-- A write or update that a speculative team or an escrow interval holds back (R391, R398). `ret` is the old value that
an ATOM or CAS with D other than vz returned; `key` its place in the order in which the team issued its writes; `plain` a
plain store's, already checked for a race. -/
structure Held where
  loc : Loc
  n : Nat
  op : PortOp
  data : Nat
  ret : Option Nat
  key : Nat
  plain : Bool
deriving DecidableEq, Repr

/-- A write of an engine or of a form that returns nothing, not yet in its place. -/
def Held.of (l : Loc) (n : Nat) (op : PortOp) (data : Nat) : Held := ⟨l, n, op, data, none, 0, false⟩

/-- A shadow ray with its contribution (R339), and the core that ran its SHRAY: `taken` by a lane of the walker, `held` on a
replayable fault, `lit` once it is known to be unoccluded, `applied` of its three components applied. -/
structure Ray where
  core : Nat
  launch : Nat
  uid : Nat
  root : Nat
  ray : List Word
  contrib : List Word
  target : Nat
  fx : Bool
  taken : Bool
  held : Option (Nat × Nat)
  lit : Bool
  applied : Nat
deriving DecidableEq, Repr

/-- The matrix array of a core (Table 14-1). `upset` lists MMA counts at which the assay row is to differ, with the
first differing column: a hardware failure, never produced by the model itself (R293). -/
structure MArray where
  holder : Option Nat
  a0 : List (Nat × Word)
  a1 : List (Nat × Word)
  t0 : BankTy
  t1 : BankTy
  arow : List (Nat × BitVec 1536)
  ascale : List (Nat × BitVec 96)
  wcol : List (Nat × BitVec 1536)
  wscale : List (Nat × BitVec 96)
  bfmt : BFmt
  balg : AlgRec
  count : Word
  upset : List (Nat × Nat)
  waiting : List Nat
deriving DecidableEq, Repr

/-- The array at acquisition (Table 14-1). -/
def MArray.start : MArray := ⟨none, [], [], .f32, .f32, [], [], [], [], .f32, .real, 0, [], []⟩

/-- The state of a resident or saved team. -/
inductive TeamStat where
  /-- issues -/
  | running
  /-- halted for pre-emption, work in flight being met (R271) -/
  | halting
  /-- its image is sealed (R272) -/
  | saved
  /-- killed by a double fault or a machine check, recovery not yet chosen; the cause's record (R259) -/
  | killed (kind cause : Nat) (pc : Word) (lane : Nat) (val addr : DWord)
  /-- a mesh or pixel team that was aborted, to be admitted again from ENTRY (R392) -/
  | aborted
  /-- no team -/
  | finished
deriving DecidableEq, Repr

/-- The checkpoint of an escrow boundary (R397); the undo copies of the interval are the old contents it holds. `heldAt`
and `raysAt` count the writes and rays held at the boundary, which a rollback keeps (R394). `rows` and `blocks` are what the
interval has saved: scratchpad rows by side, and register blocks by group, lane and block. -/
structure Ckpt where
  atStart : Bool
  groups : List (Nat × Group)
  bars : List (Nat × Barrier)
  algs : List (Nat × AlgRec)
  mstatus : Word
  scr : Memory
  scr2 : Memory
  arr0 : Option MArray
  arr1 : Option MArray
  rows : List (Bool × Nat)
  blocks : List (Nat × Nat × Nat)
  heldAt : Nat
  raysAt : Nat
deriving DecidableEq, Repr

/-- The run state of a movement context (R224). -/
inductive RunState where
  | free | ready | ended
deriving DecidableEq, Repr

/-- A movement context of a bursar (R224, R225). -/
structure BCtx where
  run : RunState
  park : Park
  pc : Word
  cc : CC
  uid : Nat
  priv : Bool
  trap : TrapState
deriving DecidableEq, Repr

/-- A free context. -/
def BCtx.free : BCtx := ⟨.free, .run, 0, .zero, 0, false, .zero⟩

/-- The state of a copy slot (R236, R239, R240). -/
inductive CopyStat where
  | sending
  | held (die num : Nat)
  | stopping (status : Nat)
  | finished (status : Nat)
deriving DecidableEq, Repr

/-- A chunk sent and not acknowledged (R232, R236): its number in the sweep, the bytes it writes, the writes not yet
applied at their ports, whether they are one indivisible update, and the port and sequence number of a network chunk. -/
structure SentChunk where
  id : Nat
  chunk : Nat
  bytes : Nat
  whole : Bool
  left : List Held
  net : Option (Nat × Nat)
deriving DecidableEq, Repr

/-- A copy slot (R242). `sent` lists chunks sent and not acknowledged; `owned` is false once its context has ended;
`base` is the destination record's address. -/
structure CopySlot where
  ctx : Nat
  owned : Bool
  uid : Nat
  job : CopyJob
  next : Nat
  acked : Nat
  sent : List SentChunk
  stat : CopyStat
  age : Nat
  halted : Bool
  idx : Nat
deriving DecidableEq, Repr

/-- A slot of a task ring (R345, R346), with the task team that published it. -/
structure RingSlot where
  busy : Bool
  launch : Nat
  uid : Nat
  size : Nat
  count : Nat
  base : Nat
  started : Nat
  done : Nat
deriving DecidableEq, Repr

/-- A free ring slot. -/
def RingSlot.free : RingSlot := ⟨false, 0, 0, 0, 0, 0, 0, 0⟩

/-- What an image begins with (Table 12-11): its version, and the GWIDTH, NREG, SCRATCH and SPANS of the team's kernel. -/
structure ImageHead where
  version : Nat
  gwidth : Nat
  nreg : Nat
  scratch : Nat
  spans : Bool
deriving DecidableEq, Repr

/-- What a fault record says: kind, cause, TRAPPC, LANE, TRAPVAL, TRAPADDR (Table 22-5). -/
structure ErrInfo where
  kind : Nat
  reason : Nat
  cause : Nat
  pc : Word
  teamid : Nat
  lane : Nat
  val : DWord
  addr : DWord
deriving DecidableEq, Repr

/-- A team (Table 1-5, R168, R243, R272, R391, R396). `wsig` is the write summary of a
non-speculative team's own writes (R392, R393); `order` places a mesh or pixel team among its launch's commits, and
`committed` says that it has (log entry 26); `last` is the last group to exit (R229); `stale` says that its draw's task team
has since written what it had read (log entry 26); `icinvs` lists the ICINVs executed while writes were held: the cores, the
context, the start and the length (R371). From `wasHeld` on the fields hold what a saved image has besides: arrays by side, the image's head, rays, contexts and
copy slots by 4 × side + context and 16 × side + slot, the contexts' accesses by side, the task ring's slots with their
payloads and the slot that its next grant takes, and the coefficient image. -/
structure Team where
  launch : Nat
  teamid : Nat
  stage : Stage
  core : Nat
  desc : KDesc
  stat : TeamStat
  groups : List (Nat × Group)
  scr : Memory
  scr2 : Memory
  bad : List (Bool × Nat)
  tags : List (Nat × RaceTag)
  tags2 : List (Nat × RaceTag)
  bars : List (Nat × Barrier)
  algs : List (Nat × AlgRec)
  mstatus : Word
  recov : Nat
  first : Option ErrInfo
  ckpt : Option Ckpt
  held : List Held
  rays : List Ray
  kids : List Kid
  sig : BitVec 2048
  wsig : BitVec 2048
  nonspec : Bool
  rels : Nat
  payload : Option (Nat × Nat)
  order : List Nat
  committed : Bool
  last : Nat
  stale : Bool
  icinvs : List (List Nat × Nat × Nat × Nat)
  wasHeld : List (Nat × MArray)
  image : Option ImageHead
  imgRays : List Ray
  imgCtxs : List (Nat × BCtx × List Word)
  imgSlots : List (Nat × CopySlot)
  imgAccs : List Access
  imgRing : List (Nat × RingSlot × Nat)
  imgNext : Nat
  imgCoef : BitVec 65536
deriving DecidableEq, Repr

/-- No team. -/
def Team.absent : Team :=
  { launch := 0, teamid := 0, stage := .compute, core := 0, desc := .zero, stat := .finished, groups := [], scr := [],
    scr2 := [], bad := [], tags := [], tags2 := [], bars := [], algs := [], mstatus := 0, recov := 0, first := none,
    ckpt := none, held := [], rays := [], kids := [], sig := 0, wsig := 0, nonspec := false, rels := 0, payload := none,
    order := [], committed := false, last := 0, stale := false, icinvs := [], wasHeld := [], image := none, imgRays := [], imgCtxs := [], imgSlots := [], imgAccs := [], imgRing := [],
    imgNext := 0, imgCoef := 0 }

/-- A line of a core's L1 (R172): the physical line, its bytes, the dirty mask a byte, the team of the dirty bytes, the
8-byte words that are marked poisoned (R189), and the plain stores whose bytes are dirty, each with its offset and length
in the line, for the check of Table 19-5 at the write-back. -/
structure L1Line where
  line : Nat
  data : BitVec 512
  dirty : BitVec 64
  uid : Nat
  bad : BitVec 8
  stores : List (Nat × Nat × Access)
deriving DecidableEq, Repr

/-- A cached translation of one 4 KiB page of a context (R268). -/
structure TlbEnt where
  ctx : Nat
  vpn : Nat
  ppn : Nat
  r : Bool
  w : Bool
  x : Bool
deriving DecidableEq, Repr

/-- An entry of a port's replay queue (R403, R404): the team, group, PC and instruction, the lanes with what they saved (the
thread as it was, and the group's key, which hold every operand; then the results and the codes), and the lanes still
unchecked. -/
structure RqEntry where
  uid : Nat
  g : Nat
  pc : Word
  instr : Instr
  lanes : List (Nat × Thread × DWord × List Word × CC)
  unchecked : List Nat
deriving DecidableEq, Repr

/-- A core (Table 1-6). `coef` is the coefficient memory; `walker` the resident walker's launch, partition and slot (R340); `rq` the replay queues by port, 2 × partition + port; `rqUpset` lists issues at which a lane's saved result is
to differ: a hardware failure, never produced by the model itself (R405). -/
structure Core where
  l1 : List L1Line
  icache : List (Nat × Line)
  tlb : List TlbEnt
  coef : BitVec 65536
  bregs : List (Nat × Word)
  ctxs : List (Nat × BCtx)
  lastCtx : Nat
  slots : List (Nat × CopySlot)
  copyAge : Nat
  array : MArray
  ringNext : Nat
  ring : List (Nat × RingSlot)
  rays : List Ray
  walker : Option (Nat × Nat × Nat)
  rq : List (Nat × List RqEntry)
  rqEnter : List (Nat × Nat)
  rqCheck : List (Nat × Nat)
  rqDrop : List (Nat × Nat)
  rqUpset : List (Nat × Nat)
deriving DecidableEq, Repr

/-- A core at reset (log entry 3). -/
def Core.start : Core := ⟨[], [], [], 0, [], [], 3, [], 0, .start, 0, [], [], none, [], [], [], [], []⟩

/-- An entry of a sampler's weight cache (R323). -/
structure WEntry where
  table : DWord
  gen : BitVec 16
  copy : BitVec 9216
  used : Nat
deriving DecidableEq, Repr

/-- A fill of a weight cache under way (R323, R324): the context that reads, its key, and the 8-byte words read so far, by
their place. -/
structure WFill where
  ctx : Nat
  table : DWord
  gen : BitVec 16
  words : List (Nat × Nat)
deriving DecidableEq, Repr

/-- A tile in progress (R350 to R352), by the context and the pass it belongs to: its samples within the target, by sample
number 4 × pixel + s of the tile, colour and depth. -/
structure TileBuf where
  ctx : Nat
  pass : PassDesc
  tx : Nat
  ty : Nat
  colour : List (Nat × List Word)
  depth : List (Nat × Word)
deriving DecidableEq, Repr

/-- A core pair: the sampler's weight cache with its fills under way, the L2 TLB, and the tile buffer. -/
structure CorePair where
  wcache : List WEntry
  wfills : List WFill
  wuse : Nat
  tlb2 : List TlbEnt
  tiles : List TileBuf
deriving DecidableEq, Repr

/-- A pair at reset. -/
def CorePair.start : CorePair := ⟨[], [], 0, [], []⟩

/-- The kind of a fault record (R270). -/
inductive FaultKind where
  | load | store | update | fetch | copy | sampler
deriving DecidableEq, Repr

/-- A fault record (R270). -/
structure FaultRec where
  num : Nat
  va : Nat
  ctx : Nat
  core : Nat
  kind : FaultKind
deriving DecidableEq, Repr

/-- A machine-check record (Table 23-2). -/
structure McRec where
  tick : Nat
  code : Nat
  die : Nat
  core : Nat
  launchid : Word
  teamid : Nat
  detail : Word
  addr : Nat
deriving DecidableEq, Repr

/-- A monitor (R409). -/
structure Monitor where
  src : Option MonSrc
  w : Nat
  min : Nat
  max : Nat
  count : Nat
  sum : DWord
  bins : List (Nat × Nat)
deriving DecidableEq, Repr

/-- A monitor with no samples. -/
def Monitor.zero : Monitor := ⟨none, 0, 0, 0, 0, 0, []⟩

/-- A compute die: the fault queue with the records that wait for room, the machine-check log, the monitors, the
walkers' cache of upper-level entries (R268, R270, R402, R409). -/
structure Die where
  faults : List FaultRec
  waiting : List FaultRec
  nextFault : Nat
  mclog : List McRec
  monitors : List (Nat × Monitor)
  upper : List (Nat × Nat × DWord)
deriving DecidableEq, Repr

/-- A die at reset. -/
def Die.start : Die := ⟨[], [], 0, [], [], []⟩

/-- A vertex after setup: fixed-point X and Y, depth, attributes (R349). -/
structure SetVert where
  x : Int
  y : Int
  z : Word
  attr : List Word
deriving DecidableEq, Repr

/-- The pixel work of a primitive in a tile it has begun (R350): the groups started, and the quads that no group has taken
yet, each its origin and the sample masks of its four pixels. -/
structure TileWork where
  tx : Nat
  ty : Nat
  groups : Nat
  quads : List (Nat × Nat × List Nat)
deriving DecidableEq, Repr

/-- A primitive after setup with its work left (R349, R350): its place in raster order, 160 × TEAMID + index (R347), its mesh
TEAMID and index, the tiles not yet begun, and those begun. -/
structure Prim where
  order : Nat
  teamid : Nat
  index : Nat
  v0 : SetVert
  v1 : SetVert
  v2 : SetVert
  tiles : List (Nat × Nat)
  begun : List TileWork
deriving DecidableEq, Repr

/-- A launch (R383 to R387). `faults` keeps the recoveries and the first fault of grid teams that have been aborted, by TEAMID
(R259). `passed` lists the mesh groups whose primitives have passed to setup (R347); `counted` says
that its counter has been added to (R387, R388). -/
structure Launch where
  launchid : Word
  queue : Nat
  parent : Option Nat
  ctx : Nat
  priv : Bool
  lr : LaunchRec
  desc : KDesc
  draw : Option DrawInfo
  next : Nat
  redo : List Nat
  faults : List (Nat × Nat × Option ErrInfo)
  kids : Nat
  keys : List DWord
  committed : List Nat
  ended : Bool
  errored : Bool
  complete : Bool
  meshTotal : Nat
  passed : List Nat
  prims : List Prim
  flushed : Bool
  counted : Bool
deriving DecidableEq, Repr

/-- A SIGNAL packet waiting for earlier launches (R380). -/
structure Signal where
  idx : Nat
  add : Word
  after : List Nat
deriving DecidableEq, Repr

/-- A queue (Table 22-1). `count` is s of R383; `pkt` the LAUNCH packet under way, and `reads` what has been read of its
launch; `hold` the entries of a FENCE packet that holds the parser; `wait` the fault the parser waits on, by die and number,
and `deny` a page whose fault the host refused it (R380). -/
structure Queue where
  base : DWord
  size : Word
  prio : Word
  rd : Word
  wr : Word
  en : Bool
  priv : Bool
  halt : Bool
  preempt : Bool
  ctrBase : DWord
  errBase : DWord
  saveBase : DWord
  ctx : Word
  count : Nat
  pkt : Option Nat
  reads : Option Reads
  hold : List (Nat × Nat)
  wait : Option (Nat × Nat)
  deny : Option Nat
  signals : List Signal
deriving DecidableEq, Repr

/-- A queue at reset (log entry 3): every register zero but QSIZE, whose limits begin at 16. -/
def Queue.start : Queue := ⟨0, 16, 0, 0, 0, false, false, false, false, 0, 0, 0, 0, 0, none, none, [], none, none, []⟩

/-- A context of the context table (Table 24-1, Table 12-6). -/
structure Ctx where
  ptroot : DWord
  codebase : DWord
  vread : DWord
  vwrite : DWord
  hncsz : DWord
  hcsz : DWord
  hncb : DWord
  hcb : DWord
deriving DecidableEq, Repr

/-- A context at reset (log entry 3). -/
def Ctx.zero : Ctx := ⟨0, 0, 0, 0, 0, 0, 0, 0⟩

/-- A quota class: per-core limits (R386), as written by the host: slots, register rows, scratchpad rows. -/
abbrev Quota := List (Nat × DWord)

/-- An attestation report (R423). -/
structure Report where
  nonce : List Byte
  firmware : List Byte
  version : Nat
  life : Nat
  splits : List Byte
  tick : Nat
  sig : List Byte
deriving DecidableEq, Repr

/-- The other management registers (Table 24-1). -/
structure Mgmt where
  boot : BitVec 8
  refused : Bool
  pwrReq : BitVec 2
  pwrCur : BitVec 2
  pwrCap : Word
  pkgid : Word
  peerType : Word
  vsplit : List (Nat × Nat)
  vrsv : List (Nat × Nat)
  stopTick : DWord
  tsCtl : DWord
  tsBase : DWord
  tsLen : DWord
  dumpBase : DWord
  mcLost : Nat
  token : DWord
  attestReg : DWord
  attest : Option Report
  route : List (Nat × Word)
deriving DecidableEq, Repr

/-- A network port (R417 to R419). A sequence number is 2^32 × the package at the other end + the number within that pair of
ports (log entry 93); `txSeq` has the next number to each package, `rxSeen` the numbers applied. `unacked` lists chunks sent
and not acknowledged: the flit, the core and slot, the tick
of its last sending; `pending` the chunks received whose page a fault waits for, with its die and number; `acks` the
acknowledgements sent, true when the chunk met COPY_PROT. -/
structure Port where
  enable : Bool
  up : Bool
  down : Bool
  lastRx : Nat
  txSeq : List (Nat × Nat)
  rxSeen : List Nat
  unacked : List (ChunkFlit × Nat × Nat × Nat)
  pending : List (ChunkFlit × Nat × Nat)
  acks : List (Nat × Bool)
  heartbeats : Nat
  lastBeat : Nat
deriving DecidableEq, Repr

/-- A port at reset (log entry 3). -/
def Port.start : Port := ⟨false, false, false, 0, [], [], [], [], [], 0, 0⟩

/-- The debug unit, the fuses' volatile side and the device's identity state (R407, R408, R410 to R412, R423). `samples` counts
the samples taken and `latched` is the tick of the last; `readout` is the monitor last read by the host. -/
structure Debug where
  armed : List Nat
  frozen : Bool
  features : BitVec 3
  challenges : Nat
  refusedTokens : Nat
  samples : Nat
  latched : Option Nat
  dumped : Bool
  firmware : Option FwImage
  reported : List (Nat × Nat)
  stopArmed : Bool
  readout : Option Monitor
  portsWereOff : Bool
deriving DecidableEq, Repr

/-- The debug unit at reset. -/
def Debug.start : Debug := ⟨[], false, 0, 0, 0, 0, none, false, none, [], false, none, false⟩

/-- An MDRST tile on its way to its port (R294, R310): its signers in rank order, the number that accesses issued after
it have or exceed, its base and stride, its cells as converted, and its page's physical address once translated. -/
structure Tile where
  id : Nat
  uid : Nat
  ags : List Agent
  pc : Word
  lane : Nat
  mark : Nat
  space : Space
  base : Nat
  stride : Nat
  rows : List (List Nat)
  esz : Nat
  op : PortOp
  pa : Option Nat
  stage : AccStage
deriving DecidableEq, Repr

/-- An entry of a cache, which replacement may drop: a line of a core's L1, a line of its instruction cache, a translation
in its TLB and the pair's, and an upper-level table entry of a die's walkers (R31, R172, R268; log entry 7). -/
inductive Cached where
  | line (core line : Nat)
  | code (core key : Nat)
  | page (core ctx vpn : Nat)
  | table (die ctx key : Nat)
deriving DecidableEq, Repr

/-- What the schedule says happens next (log entry 4): a port of a group's partition issues from it (R19, R77), a bursar issues, a device step of
spec/opcode_table.json takes place, time passes, the host stores bytes in memory, such as a page table's entry, a
ring's packet or a record (R266, R270, R378, R381, R413), or a cache replaces an entry. -/
inductive Turn where
  | issue (uid g port : Nat)
  | bursar (core : Nat)
  | event (i : Instr)
  | pass (n : Nat)
  | hostStore (l : Loc) (n v : Nat)
  | evict (c : Cached)
deriving DecidableEq, Repr

/-- The issue under way: its executing lanes or context, and its PC. -/
structure Issue where
  agents : List Agent
  pc : Word
deriving DecidableEq, Repr

end Sys2Proof.Machine
end

