-- ==== Sys2Proof/Machine/State.lean ====
section
/-! DEFINITION. The machine's state as plain data, the reasons a step can stop, and the state after reset. -/

namespace Sys2Proof.Machine

/-- The reasons the machine stops with a fault. -/
inductive Fault where
  /-- A device step of the schedule names a part that the package does not have, such as core 192 (R13, R14): raised by
  the device steps that name a core, a pair, a die, a queue, a port, a monitor or a sampler. Safe: the machine has no
  such part, so no such step happens. -/
  | absentPart
deriving DecidableEq, Repr

/-- The reasons the model gives no meaning. -/
inductive Refusal where
  /-- An instruction that has no meaning yet, by its mnemonic; raised by an arm of exec. Safe: nothing is claimed. -/
  | notModelled (mnemonic : String)
deriving DecidableEq, Repr

/-- The machine. Fields the spec gives, then the model's own: the schedule `turns`, the issue under way `cur`, and the
counters that number teams, accesses, launches and tiles. -/
structure State where
  /-- cycles of the arithmetic clock since reset; their low 64 bits are the global tick, one for both dies, which R17 lets
  differ by one (log entry 69) -/
  tick : Nat
  /-- resident, halted and saved teams, by the model's team number -/
  teams : List (Nat × Team)
  /-- accesses issued and not yet finished, in issue order (R45, R175) -/
  accs : List Access
  /-- MDRST tiles on their way (R294) -/
  tiles : List Tile
  /-- launches, by the model's launch number (R381 to R387) -/
  launches : List (Nat × Launch)
  /-- cores 0 to 191 (R13, R21) -/
  cores : List (Nat × Core)
  /-- core pairs 0 to 95: sampler, L2 TLB, tile buffer (R14, R21) -/
  pairs : List (Nat × CorePair)
  /-- compute dies 0 and 1 (R13) -/
  dies : List (Nat × Die)
  /-- HBM by physical address (R173, R266) -/
  hbm : Memory
  /-- HBM words marked poisoned, by address div 8 (R189) -/
  hbmBad : List Nat
  /-- the vaults, by vault × 2^24 + offset (R169, R416) -/
  vault : Memory
  /-- vault words marked poisoned, by address div 8 (R189) -/
  vaultBad : List Nat
  /-- host memory, by host physical address (R414) -/
  host : Memory
  /-- host words whose access is a bus error, by address div 8 (R414) -/
  hostBad : List Nat
  /-- race tags of space-0 words in the home slices, by physical word (R367) -/
  lineTags : List (Nat × RaceTag)
  /-- queues 0 to 63 (Table 22-1) -/
  queues : List (Nat × Queue)
  /-- the queue that last had its turn in admission (R386) -/
  lastQueue : Nat
  /-- contexts, by CTXID (Table 24-1) -/
  ctxs : List (Nat × Ctx)
  /-- quota classes 0 to 15 (R386) -/
  quotas : List (Nat × Quota)
  /-- the other management registers (Table 24-1) -/
  mgmt : Mgmt
  /-- network ports 0 to 11 (R417) -/
  ports : List (Nat × Port)
  /-- the debug unit (chapter 23) -/
  dbg : Debug
  /-- counters of the time series since the last latch, by 8,192 × die + offset (Table 23-5) -/
  counters : List (Nat × Word)
  /-- the schedule (log entry 4) -/
  turns : List Turn
  /-- the issue under way -/
  cur : Issue
  /-- the next team number -/
  nextUid : Nat
  /-- the next access number -/
  nextAcc : Nat
  /-- the next issue number -/
  nextSeq : Nat
  /-- the next launch number -/
  nextLaunch : Nat
  /-- the next tile number -/
  nextTile : Nat
deriving DecidableEq, Repr

/-- The management registers at reset: in reset hold (Table 24-2); PWRCAP and VRSV, whose limits exclude zero, at the
limit the log entry 3 names; every other register zero (log entry 3). -/
def Mgmt.start : Mgmt :=
  { boot := 0, refused := false, pwrReq := 0, pwrCur := 0, pwrCap := 2400, pkgid := 0, peerType := 0, vsplit := [],
    vrsv := [], stopTick := 0, tsCtl := 0, tsBase := 0, tsLen := 0, dumpBase := 0, mcLost := 0, token := 0,
    attestReg := 0, attest := none, route := [] }

/-- The machine right after reset (R422): both dies in reset hold, nothing resident, memory with nothing listed. -/
def State.reset : State :=
  { tick := 0, teams := [], accs := [], tiles := [], launches := [], cores := [], pairs := [], dies := [], hbm := [],
    hbmBad := [], vault := [], vaultBad := [], host := [], hostBad := [], lineTags := [], queues := [],
    lastQueue := 63, ctxs := [], quotas := [], mgmt := .start, ports := [], dbg := .start, counters := [],
    turns := [], cur := ⟨[], 0⟩, nextUid := 0, nextAcc := 0, nextSeq := 0, nextLaunch := 0, nextTile := 0 }

/-- The outcome of a step or of an instruction. -/
abbrev Out := Host.Outcome State Fault Refusal

end Sys2Proof.Machine
end

