-- ==== Sys2Proof/Machine/Get.lean ====
section
/-! DEFINITION. Reading and writing the parts of State: cores, pairs, dies, queues, launches, teams, groups, threads,
bursar contexts, and the registers, codes, PC and park of whoever issues (R19, R38, R39, R224). -/

namespace Sys2Proof.Machine

/-- No launch. -/
def Launch.absent : Launch :=
  { launchid := 0, queue := 0, parent := none, ctx := 0, priv := false, lr := .zero, desc := .zero, draw := none,
    next := 0, redo := [], faults := [], kids := 0, keys := [], committed := [], ended := false, errored := false,
    complete := true, meshTotal := 0, passed := [], prims := [], flushed := false, counted := false }

/-- Core n (R14). -/
def State.core (s : State) (n : Nat) : Core := aget Core.start s.cores n
/-- Replace core n. -/
def State.setCore (s : State) (n : Nat) (c : Core) : State := { s with cores := aput s.cores n c }
/-- Pair p (R14). -/
def State.pair (s : State) (p : Nat) : CorePair := aget CorePair.start s.pairs p
/-- Replace pair p. -/
def State.setPair (s : State) (p : Nat) (c : CorePair) : State := { s with pairs := aput s.pairs p c }
/-- Die d. -/
def State.die (s : State) (d : Nat) : Die := aget Die.start s.dies d
/-- Replace die d. -/
def State.setDie (s : State) (d : Nat) (c : Die) : State := { s with dies := aput s.dies d c }
/-- Queue q. -/
def State.queue (s : State) (q : Nat) : Queue := aget Queue.start s.queues q
/-- Replace queue q. -/
def State.setQueue (s : State) (q : Nat) (c : Queue) : State := { s with queues := aput s.queues q c }
/-- Network port n. -/
def State.port (s : State) (n : Nat) : Port := aget Port.start s.ports n
/-- Replace port n. -/
def State.setPort (s : State) (n : Nat) (c : Port) : State := { s with ports := aput s.ports n c }
/-- Context x (R264). -/
def State.ctx (s : State) (x : Nat) : Ctx := aget Ctx.zero s.ctxs x
/-- Launch l. -/
def State.launch (s : State) (l : Nat) : Launch := aget Launch.absent s.launches l
/-- Replace launch l. -/
def State.setLaunch (s : State) (l : Nat) (c : Launch) : State := { s with launches := aput s.launches l c }
/-- Team u. -/
def State.team (s : State) (u : Nat) : Team := aget Team.absent s.teams u
/-- Replace team u. -/
def State.setTeam (s : State) (u : Nat) (t : Team) : State := { s with teams := aput s.teams u t }
/-- Group g of a team. -/
def Team.grp (t : Team) (g : Nat) : Group := aget Group.absent t.groups g
/-- Replace group g of a team. -/
def Team.setGrp (t : Team) (g : Nat) (x : Group) : Team := { t with groups := aput t.groups g x }
/-- Group g of team u. -/
def State.grp (s : State) (u g : Nat) : Group := (s.team u).grp g
/-- Replace group g of team u. -/
def State.setGrp (s : State) (u g : Nat) (x : Group) : State := s.setTeam u ((s.team u).setGrp g x)
/-- The thread in a lane of a group. -/
def Group.thr (g : Group) (l : Nat) : Thread := aget Thread.absent g.threads l
/-- Replace the thread in a lane of a group. -/
def Group.setThr (g : Group) (l : Nat) (x : Thread) : Group := { g with threads := aput g.threads l x }
/-- The thread at team u, group g, lane l. -/
def State.thr (s : State) (u g l : Nat) : Thread := (s.grp u g).thr l
/-- Replace the thread at team u, group g, lane l. -/
def State.setThr (s : State) (u g l : Nat) (x : Thread) : State := s.setGrp u g ((s.grp u g).setThr l x)
/-- Context c of a core's bursar (R224). -/
def Core.ctx (k : Core) (c : Nat) : BCtx := aget BCtx.free k.ctxs c
/-- Context c of core k's bursar. -/
def State.bctx (s : State) (k c : Nat) : BCtx := (s.core k).ctx c
/-- Replace context c of core k's bursar. -/
def State.setBctx (s : State) (k c : Nat) (x : BCtx) : State :=
  s.setCore k { s.core k with ctxs := aput (s.core k).ctxs c x }

/-- The mask register m of a group; bits at or above GWIDTH are zero by construction (R80). -/
def Group.mask (g : Group) (m : Nat) : Nat := aget 0 g.masks m

/-- The lanes of a group whose bit is set in x, ascending. -/
def Group.lanesOf (g : Group) (x : Nat) : List Nat := (List.range g.width).filter (fun l => nbit x l)

/-! ## Who issues -/

/-- The team an agent acts for: its own, or the one its context is bound to (R225). -/
def State.uidOf (s : State) : Agent → Nat
  | .thread u _ _ => u
  | .ctx k c => (s.bctx k c).uid

/-- The core an agent runs on. -/
def State.coreOf (s : State) : Agent → Nat
  | .thread u g _ => (s.grp u g).core
  | .ctx k _ => k

/-- The kernel descriptor of an agent's team. -/
def State.descOf (s : State) (ag : Agent) : KDesc := (s.team (s.uidOf ag)).desc

/-- The launch of an agent's team. -/
def State.launchOf (s : State) (ag : Agent) : Launch := s.launch (s.team (s.uidOf ag)).launch

/-- Does the agent run in deterministic mode (R24, R225)? -/
def State.det (s : State) (ag : Agent) : Bool := (s.launchOf ag).lr.det

/-- Is the agent privileged (R264)? -/
def State.privOf (s : State) (ag : Agent) : Bool :=
  match ag with
  | .thread .. => (s.launchOf ag).priv
  | .ctx k c => (s.bctx k c).priv

/-- The address-space context of a team (R264). -/
def State.ctxNo (s : State) (u : Nat) : Nat := (s.launch (s.team u).launch).ctx

/-- Is it a bursar context? -/
def Agent.bursar : Agent → Bool
  | .thread .. => false
  | .ctx .. => true

/-- GROUPID: the group's number in its grid (R190, R346); a mesh or pixel team has one group. -/
def State.groupId (s : State) (u g : Nat) : Nat :=
  let t := s.team u
  let n := match t.stage with
    | .compute | .task => (s.launch t.launch).lr.teamsz
    | _ => 1
  t.teamid * n + g

/-- The PC of an agent. -/
def State.pc (s : State) : Agent → Word
  | .thread u g l => (s.thr u g l).pc
  | .ctx k c => (s.bctx k c).pc

/-- Set the PC of an agent. -/
def State.setPc (s : State) (ag : Agent) (p : Word) : State :=
  match ag with
  | .thread u g l => s.setThr u g l { s.thr u g l with pc := p }
  | .ctx k c => s.setBctx k c { s.bctx k c with pc := p }

/-- The condition codes of an agent. -/
def State.cc (s : State) : Agent → CC
  | .thread u g l => (s.thr u g l).cc
  | .ctx k c => (s.bctx k c).cc

/-- Set the condition codes of an agent. -/
def State.setCC (s : State) (ag : Agent) (x : CC) : State :=
  match ag with
  | .thread u g l => s.setThr u g l { s.thr u g l with cc := x }
  | .ctx k c => s.setBctx k c { s.bctx k c with cc := x }

/-- Why an agent does not issue. -/
def State.park (s : State) : Agent → Park
  | .thread u g l => (s.thr u g l).park
  | .ctx k c => (s.bctx k c).park

/-- Set why an agent does not issue. -/
def State.setPark (s : State) (ag : Agent) (p : Park) : State :=
  match ag with
  | .thread u g l => s.setThr u g l { s.thr u g l with park := p }
  | .ctx k c => s.setBctx k c { s.bctx k c with park := p }

/-- The trap state of an agent. -/
def State.trapOf (s : State) : Agent → TrapState
  | .thread u g l => (s.thr u g l).trap
  | .ctx k c => (s.bctx k c).trap

/-- Set the trap state of an agent. -/
def State.setTrap (s : State) (ag : Agent) (x : TrapState) : State :=
  match ag with
  | .thread u g l => s.setThr u g l { s.thr u g l with trap := x }
  | .ctx k c => s.setBctx k c { s.bctx k c with trap := x }

/-- Does the agent exist and may it act: an unexited lane of a running team, or a context that has been granted and has
not ended? -/
def State.live (s : State) : Agent → Bool
  | .thread u g l => (s.team u).stat == .running && !(s.thr u g l).exited
  | .ctx k c => (s.bctx k c).run == .ready

/-- Can the agent still take a trap: an unexited lane of a team that runs or is halted, or a granted context? -/
def State.traps (s : State) : Agent → Bool
  | .thread u g l => ((s.team u).stat == .running || (s.team u).stat == .halting) && !(s.thr u g l).exited
  | .ctx k c => (s.bctx k c).run == .ready

/-- The global tick (R17): the low 64 bits of the cycles that have passed. -/
def State.now (s : State) : Nat := s.tick % 2 ^ 64

/-! ## Registers (R38, R39, R224) -/

/-- The physical number of a bursar register (R224). -/
def bursarReg (c : Nat) (r : Reg) : Nat := (32 * c + r.toNat) % 128

/-- Read a register; vz reads as zero (R38). -/
def State.reg (s : State) (ag : Agent) (r : Reg) : Word :=
  if r = vz then 0
  else match ag with
    | .thread u g l => aget 0 (s.thr u g l).regs r.toNat
    | .ctx k c => aget 0 (s.core k).bregs (bursarReg c r)

/-- Write a register; vz discards (R38). -/
def State.setReg (s : State) (ag : Agent) (r : Reg) (v : Word) : State :=
  if r = vz then s
  else match ag with
    | .thread u g l => s.setThr u g l { s.thr u g l with regs := aput (s.thr u g l).regs r.toNat v }
    | .ctx k c => s.setCore k { s.core k with bregs := aput (s.core k).bregs (bursarReg c r) v }

/-- The register i places after r, in a run; a run that starts at vz stays there (R39). -/
def regAt (r : Reg) (i : Nat) : Reg := if r = vz then vz else r + BitVec.ofNat 9 i

/-- Read a pair (R39). -/
def State.reg64 (s : State) (ag : Agent) (r : Reg) : DWord := pair64 (s.reg ag r) (s.reg ag (regAt r 1))

/-- Write a pair (R39). -/
def State.setReg64 (s : State) (ag : Agent) (r : Reg) (v : DWord) : State :=
  (s.setReg ag r (lo32 v)).setReg ag (regAt r 1) (high32 v)

/-- Read a run of k registers (R39). -/
def State.regRun (s : State) (ag : Agent) (r : Reg) (k : Nat) : List Word :=
  (List.range k).map (fun i => s.reg ag (regAt r i))

/-- The k register names of a run. -/
def runOf (r : Reg) (k : Nat) : List Reg := (List.range k).map (regAt r)

/-- Write registers from lists of names and values. -/
def State.setRegs (s : State) (ag : Agent) : List Reg → List Word → State
  | r :: rs, v :: vs => (s.setReg ag r v).setRegs ag rs vs
  | _, _ => s

/-- Write a run of registers (R39). -/
def State.setRun (s : State) (ag : Agent) (r : Reg) (vs : List Word) : State := s.setRegs ag (runOf r vs.length) vs

/-- Read one register or a pair as a number, by width. -/
def State.regN (s : State) (ag : Agent) (w64 : Bool) (r : Reg) : Nat :=
  if w64 then (s.reg64 ag r).toNat else (s.reg ag r).toNat

/-- Write one register or a pair from a number, by width. -/
def State.setRegN (s : State) (ag : Agent) (w64 : Bool) (r : Reg) (x : Nat) : State :=
  if w64 then s.setReg64 ag r (BitVec.ofNat 64 x) else s.setReg ag r (BitVec.ofNat 32 x)

/-! ## Slots (R30) -/

/-- Is p a slot address: low six bits 0, 12, 24, 36 or 48 (R30)? -/
def slotOk (p : Word) : Bool :=
  let l := p.toNat % 64
  l == 0 || l == 12 || l == 24 || l == 36 || l == 48

/-- slotno of R30. -/
def slotno (p : Word) : Nat := p.toNat / 64 * 5 + p.toNat % 64 / 12

/-- slotpc of R30, on any integer. -/
def slotpc (g : Int) : Int := g / 5 * 64 + g % 5 * 12

/-- next of R30, wrapped to the code window's 32 bits (log entry 16). -/
def nextPc (p : Word) : Word := BitVec.ofInt 32 (slotpc (slotno p + 1))

/-- target of R30; it may lie outside the code window. -/
def targetPc (p : Word) (x : Disp) : Int := slotpc (slotno p + x.toInt)

/-- Does an exact target lie in the 32-bit code window? -/
def inWindow (t : Int) : Bool := decide (0 ≤ t) && decide (t < 4294967296)

end Sys2Proof.Machine
end

