-- ==== Sys2Proof/Machine/Real.lean ====
section
/-! DEFINITION. Exact numbers and RoundTo: the number types bit by bit (R140 to R144), RoundTo for each (R145, R146, R151),
and the IEEE special cases of sums and products (R120, R123). -/

namespace Sys2Proof.Machine

/-- The value a register of a number type holds: NaN, an infinity, or the exact n / d × 2^e; `neg` is the sign of a
zero (R5, R142). -/
inductive X where
  | nan
  | inf (neg : Bool)
  | fin (neg : Bool) (n : Int) (d : Nat) (e : Int)
deriving DecidableEq, Repr

/-- The integer i. -/
def X.int (i : Int) : X := .fin (decide (i < 0)) i 1 0

/-- i × 2^e. -/
def X.dy (i e : Int) : X := .fin (decide (i < 0)) i 1 e

/-- A zero with the sign given. -/
def X.zero (neg : Bool) : X := .fin neg 0 1 0

/-- The sign: of a zero or an infinity as well; a NaN counts as positive. -/
def X.isNeg : X → Bool
  | .nan => false
  | .inf s => s
  | .fin s n _ _ => if n = 0 then s else decide (n < 0)

/-- Is it a zero? -/
def X.isZero : X → Bool
  | .fin _ n _ _ => n == 0
  | _ => false

/-- Negation. -/
def X.neg : X → X
  | .nan => .nan
  | .inf s => .inf (!s)
  | .fin s n d e => .fin (!s) (-n) d e

/-- The magnitude. -/
def X.abs (x : X) : X := if x.isNeg then x.neg else x

/-- The exact product, with 0 × inf = NaN (R123). -/
def X.mul : X → X → X
  | .nan, _ => .nan
  | _, .nan => .nan
  | .inf s, y => if y.isZero then .nan else .inf (s != y.isNeg)
  | x, .inf t => if x.isZero then .nan else .inf (x.isNeg != t)
  | .fin s n d e, .fin t m c f =>
    .fin ((X.fin s n d e).isNeg != (X.fin t m c f).isNeg) (n * m) (d * c) (e + f)

/-- Integers i and j with x = i / k × 2^g and y = j / k × 2^g, for one k and g. -/
def alignQ (n : Int) (d : Nat) (e : Int) (m : Int) (c : Nat) (f : Int) : Int × Int × Nat × Int :=
  let g := min e f
  (n * c * 2 ^ (e - g).toNat, m * d * 2 ^ (f - g).toNat, d * c, g)

/-- The exact sum. inf − inf is NaN; an exact zero sum is +0, or −0 when `rm` holds, unless both are zeros of one sign
(R120, R123). -/
def X.add (rm : Bool) : X → X → X
  | .nan, _ => .nan
  | _, .nan => .nan
  | .inf s, .inf t => if s = t then .inf s else .nan
  | .inf s, .fin .. => .inf s
  | .fin .., .inf t => .inf t
  | .fin s n d e, .fin t m c f =>
    if n = 0 ∧ m = 0 then .fin (if s = t then s else rm) 0 1 0
    else
      let (i, j, k, g) := alignQ n d e m c f
      if i + j = 0 then .fin rm 0 1 0 else .fin (decide (i + j < 0)) (i + j) k g

/-- x < y for finite or infinite values; false with a NaN. −0 and +0 are equal. -/
def X.lt : X → X → Bool
  | .nan, _ => false
  | _, .nan => false
  | .inf s, .inf t => s && !t
  | .inf s, .fin .. => s
  | .fin .., .inf t => !t
  | .fin _ n d e, .fin _ m c f =>
    let (i, j, _, _) := alignQ n d e m c f
    decide (i < j)

/-- x = y as numbers; false with a NaN. -/
def X.eq (x y : X) : Bool :=
  match x, y with
  | .nan, _ => false
  | _, .nan => false
  | x, y => !x.lt y && !y.lt x

/-- The exact quotient of two finite values, the divisor not zero. -/
def X.quot (x y : X) : X :=
  match x, y with
  | .fin _ n d e, .fin _ m c f =>
    let k : Int := if m < 0 then -(n * c) else n * c
    .fin (x.isNeg != y.isNeg) k (d * m.natAbs) (e - f)
  | _, _ => .nan

/-- The greatest integer not above a finite value (R4); 0 for a special value. -/
def X.floor : X → Int
  | .fin _ n d e => if 0 ≤ e then (n * 2 ^ e.toNat) / (d : Int) else n / ((d * 2 ^ (-e).toNat : Nat) : Int)
  | _ => 0

/-- The floor of the base-2 logarithm of a / b, for a, b > 0. -/
def ilog (a b : Nat) : Int :=
  let l : Int := (Nat.log2 a : Int) - (Nat.log2 b : Int)
  if 0 ≤ l then (if a < b * 2 ^ l.toNat then l - 1 else l)
  else (if a * 2 ^ (-l).toNat < b then l - 1 else l)

/-- The choice between the neighbours of x (R145, R151): the lower neighbour is k units, the remainder r of d units. -/
def roundUp (mode : Rnd) (neg : Bool) (rnd k r d : Nat) : Bool :=
  if r = 0 then false
  else match mode with
    | .rn => decide (d < 2 * r) || (decide (2 * r = d) && k % 2 == 1)
    | .rna => decide (d ≤ 2 * r)
    | .rz => false
    | .rp => !neg
    | .rm => neg
    | .sr => decide (65536 ≤ r * 65536 / d + rnd)

/-- |x| as k whole units of 2^q and a remainder r / d of one. -/
def inUnits (n d : Nat) (e q : Int) : Nat × Nat × Nat :=
  if q ≤ e then
    let a := n * 2 ^ (e - q).toNat
    (a / d, a % d, d)
  else
    let b := d * 2 ^ (q - e).toNat
    (n / b, n % b, b)

/-- What RoundTo answers: the bits, whether the value differs from its argument, and whether it is a clamp (R146). -/
structure Rounded where
  bits : Nat
  inexact : Bool
  clamp : Bool
deriving DecidableEq, Repr

/-- A floating type (Table 7-1): exponent bits, fraction bits, bias, and whether it has infinities. -/
structure FFmt where
  eb : Nat
  mb : Nat
  bias : Nat
  ieee : Bool
deriving DecidableEq, Repr

/-- The types of Table 7-1. -/
def f64 : FFmt := ⟨11, 52, 1023, true⟩
/-- f32. -/
def f32 : FFmt := ⟨8, 23, 127, true⟩
/-- f16. -/
def f16 : FFmt := ⟨5, 10, 15, true⟩
/-- bf16. -/
def bf16 : FFmt := ⟨8, 7, 127, true⟩
/-- e4m3: no infinity, one NaN a sign. -/
def e4m3 : FFmt := ⟨4, 3, 7, false⟩
/-- e5m2. -/
def e5m2 : FFmt := ⟨5, 2, 15, true⟩
/-- e2m1: no special value. -/
def e2m1 : FFmt := ⟨2, 1, 1, false⟩

/-- Is it e4m3, the only type whose top code with all fraction bits set is NaN? -/
def FFmt.nanTop (f : FFmt) : Bool := !f.ieee && f.eb == 4

/-- The canonical NaN (Table 7-1); e2m1 has none and gives +0 (Table 7-2). -/
def FFmt.canon (f : FFmt) : Nat :=
  if f.ieee then (2 ^ f.eb - 1) * 2 ^ f.mb + 2 ^ (f.mb - 1) else if f.nanTop then 0x7F else 0

/-- The encoding of the largest finite magnitude. -/
def FFmt.maxEnc (f : FFmt) : Nat :=
  if f.ieee then (2 ^ f.eb - 1) * 2 ^ f.mb - 1 else if f.nanTop then 0x7E else 0x7

/-- The sign bit of a type. -/
def FFmt.signBit (f : FFmt) : Nat := 2 ^ (f.eb + f.mb)

/-- The value an encoding stands for (R142). -/
def FFmt.toX (f : FFmt) (b : Nat) : X :=
  let s := nbit b (f.eb + f.mb)
  let e := bitf b f.mb f.eb
  let m := bitf b 0 f.mb
  if f.ieee && e == 2 ^ f.eb - 1 then (if m = 0 then .inf s else .nan)
  else if f.nanTop && e == 15 && m == 7 then .nan
  else
    let k : Nat := if e = 0 then m else 2 ^ f.mb + m
    let q : Int := (if e = 0 then 1 else (e : Int)) - f.bias - f.mb
    .fin s (if s then -(k : Int) else k) 1 q

/-- The result beyond the largest finite magnitude (Table 7-2, first two columns). -/
def FFmt.over (f : FFmt) (neg satf : Bool) : Rounded :=
  let s := if neg then f.signBit else 0
  if f.ieee then
    if satf then ⟨s + f.maxEnc, true, true⟩ else ⟨s + (2 ^ f.eb - 1) * 2 ^ f.mb, true, false⟩
  else if f.nanTop && !satf then ⟨0x7F, true, true⟩
  else ⟨s + f.maxEnc, true, true⟩

/-- Is the mode a direction towards zero for this sign (R146)? -/
def towardsZero (mode : Rnd) (neg : Bool) : Bool :=
  match mode with
  | .rz => true
  | .rm => !neg
  | .rp => neg
  | _ => false

/-- RoundTo for a floating type (R145, R146). With SATF an infinity becomes ±Mx also when the type is its own source, as
Table 7-2 has it, where R155 calls a value of the type unchanged (log entry 84). -/
def FFmt.round (f : FFmt) (x : X) (mode : Rnd) (rnd : Nat) (satf : Bool) : Rounded :=
  match x with
  | .nan => ⟨f.canon, !f.ieee && !f.nanTop, !f.ieee && !f.nanTop⟩
  | .inf s => if f.ieee && !satf then ⟨(f.over s false).bits, false, false⟩ else f.over s satf
  | .fin s n d e =>
    let a := n.natAbs
    let sg := if (X.fin s n d e).isNeg then f.signBit else 0
    if a = 0 then ⟨sg, false, false⟩
    else
      let neg := decide (n < 0)
      let emin : Int := 1 - f.bias
      let q : Int := max (ilog a d + e) emin - f.mb
      let (k, r, u) := inUnits a d e q
      let k' := if roundUp mode neg rnd k r u then k + 1 else k
      let enc : Int := (q + f.mb + f.bias - 1) * 2 ^ f.mb + k'
      if enc ≤ (f.maxEnc : Int) then ⟨sg + enc.toNat, decide (r ≠ 0), false⟩
      else if towardsZero mode neg && (f.ieee || f.nanTop) then ⟨sg + f.maxEnc, true, false⟩
      else f.over neg satf

/-- RoundTo for an integer or fixed-point type of w bits with fb fraction bits (R145, Table 7-2). -/
def roundFix (w : Nat) (signed : Bool) (fb : Nat) (x : X) (mode : Rnd) (rnd : Nat) : Rounded :=
  let lo : Int := if signed then -(2 ^ (w - 1)) else 0
  let hi : Int := if signed then 2 ^ (w - 1) - 1 else 2 ^ w - 1
  match x with
  | .nan => ⟨0, true, true⟩
  | .inf s => ⟨wrapN w (if s then lo else hi), true, true⟩
  | .fin _ n d e =>
    let neg := decide (n < 0)
    let (k, r, u) := inUnits n.natAbs d e (-(fb : Int))
    let k' := if roundUp mode neg rnd k r u then k + 1 else k
    let v : Int := if neg then -(k' : Int) else k'
    if v < lo then ⟨wrapN w lo, true, true⟩
    else if hi < v then ⟨wrapN w hi, true, true⟩
    else ⟨wrapN w v, decide (r ≠ 0), false⟩

/-- A p2x2 term in units of 1/64 (R144). -/
def p2term (s : Bool) (c : Nat) : Int := if c = 0 then 0 else if s then -(2 ^ (7 - c)) else 2 ^ (7 - c)

/-- The value of a p2x2 byte, in units of 1/64 (R144). -/
def p2val (b : Nat) : Int := p2term (nbit b 7) (bitf b 4 3) + p2term (nbit b 3) (bitf b 0 3)

/-- The code of a term, if v is one; a zero term has s = 0. -/
def p2code (v : Int) : Option Nat :=
  ((List.range 8).map (fun c => (c, false)) ++ (List.range 8).map (fun c => (c, true))).findSome?
    (fun p => if p2term p.2 p.1 = v then some (8 * b2n p.2 + p.1) else none)

/-- The encoding that R66 chooses for v units of 1/64; none when v is not in P. -/
def p2enc (v : Int) : Option Nat :=
  if v = 0 then some 0
  else (List.range 14).findSome? (fun i =>
    let c1 := i / 2 + 1
    let s1 := i % 2 == 1
    (p2code (v - p2term s1 c1)).map (fun t => 16 * (8 * b2n s1 + c1) + t))

/-- The members of P that are not negative, rising. -/
def p2pos : List Nat := (List.range 129).filter (fun v => (p2enc v).isSome)

/-- RoundTo for p2x2 (R145, R146). -/
def roundP2 (x : X) (mode : Rnd) (rnd : Nat) : Rounded :=
  let out (neg : Bool) (k : Nat) (i c : Bool) : Rounded := ⟨(p2enc (if neg then -(k : Int) else k)).getD 0, i, c⟩
  match x with
  | .nan => ⟨0, true, true⟩
  | .inf s => out s 128 true true
  | .fin _ n d e =>
    let neg := decide (n < 0)
    let (k, r, u) := inUnits n.natAbs d e (-6)
    if 128 < k ∨ (k = 128 ∧ r ≠ 0) then out neg 128 true (!towardsZero mode neg)
    else
      let lo := (p2pos.filter (fun v => decide (v ≤ k))).getLastD 0
      let hi := (p2pos.find? (fun v => decide (k < v))).getD 128
      -- the argument lies t / u above lo, of a gap of w
      let t := (k - lo) * u + r
      let w := (hi - lo) * u
      if t = 0 then out neg lo false false
      else
        let up := match mode with
          | .rn => decide (w < 2 * t)
          | .rna => decide (w ≤ 2 * t)
          | .rz => false
          | .rp => !neg
          | .rm => neg
          | .sr => decide (65536 ≤ t * 65536 / w + rnd)
        out neg (if up then hi else lo) true false

/-- RoundTo for e8m0 (R143, R145, R146). -/
def roundE8 (x : X) (mode : Rnd) (rnd : Nat) : Rounded :=
  match x with
  | .nan => ⟨0xFF, false, false⟩
  | .inf s => if s then ⟨0xFF, true, true⟩ else ⟨0xFE, true, true⟩
  | .fin _ n d e =>
    if n ≤ 0 then ⟨0xFF, true, true⟩
    else
      let l := ilog n.natAbs d + e
      if l < -127 then ⟨0x00, true, true⟩
      else
        let (_, r, u) := inUnits n.natAbs d e l
        let b := l + 127
        let up := roundUp mode false rnd b.toNat r u
        let b' := if up then b + 1 else b
        if 254 < b' then ⟨0xFE, true, true⟩ else ⟨b'.toNat, decide (r ≠ 0), false⟩

/-! ## The types of Table 7-5 -/

/-- The width of a type in bits. -/
def NumTy.width : NumTy → Nat
  | .s64 | .n64 | .fx64 | .f64 => 64
  | .s32 | .n32 | .f32 => 32
  | .f16 | .bf16 => 16
  | .e2m1 => 4
  | _ => 8

/-- The value that an encoding of a type stands for (R140 to R144). -/
def NumTy.toX (t : NumTy) (b : Nat) : X :=
  match t with
  | .s32 => .int (sgn 32 b)
  | .n32 => .int (b % 2 ^ 32 : Nat)
  | .s64 => .int (sgn 64 b)
  | .n64 => .int (b % 2 ^ 64 : Nat)
  | .fx64 => .dy (sgn 64 b) (-32)
  | .f64 => f64.toX b
  | .f32 => f32.toX b
  | .f16 => f16.toX b
  | .bf16 => bf16.toX b
  | .e4m3 => e4m3.toX b
  | .e5m2 => e5m2.toX b
  | .e2m1 => e2m1.toX b
  | .e8m0 => if b % 256 = 255 then .nan else .dy 1 ((b % 256 : Nat) - 127)
  | .p2x2 => .dy (p2val b) (-6)
  | .s8 => .int (sgn 8 b)

/-- RoundTo (R7). -/
def NumTy.round (t : NumTy) (x : X) (mode : Rnd) (rnd : Nat) (satf : Bool) : Rounded :=
  match t with
  | .s32 => roundFix 32 true 0 x mode rnd
  | .n32 => roundFix 32 false 0 x mode rnd
  | .s64 => roundFix 64 true 0 x mode rnd
  | .n64 => roundFix 64 false 0 x mode rnd
  | .fx64 => roundFix 64 true 32 x mode rnd
  | .f64 => f64.round x mode rnd satf
  | .f32 => f32.round x mode rnd satf
  | .f16 => f16.round x mode rnd satf
  | .bf16 => bf16.round x mode rnd satf
  | .e4m3 => e4m3.round x mode rnd satf
  | .e5m2 => e5m2.round x mode rnd satf
  | .e2m1 => e2m1.round x mode rnd satf
  | .e8m0 => roundE8 x mode rnd
  | .p2x2 => roundP2 x mode rnd
  | .s8 => roundFix 8 true 0 x mode rnd

/-! ## f32 shorthands -/

/-- The value of an f32 register. -/
def xf (w : Word) : X := f32.toX w.toNat

/-- RoundTo(x, f32, mode, 0). -/
def rf (x : X) (mode : Rnd) : Word := BitVec.ofNat 32 (f32.round x mode 0 false).bits

/-- RoundTo(x, f32, rn, 0). -/
def rfn (x : X) : Word := rf x .rn

/-- RoundTo(a + b, f32, rn, 0) of two registers (R120). -/
def addf (a b : Word) : Word := rfn ((xf a).add false (xf b))

/-- RoundTo(a × b, f32, rn, 0) of two registers. -/
def mulf (a b : Word) : Word := rfn ((xf a).mul (xf b))

/-- The canonical f32 NaN (R120). -/
def nanf : Word := 0x7FC00000

/-- `min` and `max` of R126 on f32 encodings: NaN when either is NaN; −0 below +0. -/
def minmaxf (max : Bool) (a b : Word) : Word :=
  match xf a, xf b with
  | .nan, _ => nanf
  | _, .nan => nanf
  | x, y =>
    let less := x.lt y || (x.eq y && x.isNeg && !y.isNeg)
    if less != max then a else b

/-- `minn` and `maxn` of R126: the other operand when exactly one is NaN. -/
def minmaxnf (max : Bool) (a b : Word) : Word :=
  match xf a, xf b with
  | .nan, .nan => nanf
  | .nan, _ => b
  | _, .nan => a
  | _, _ => minmaxf max a b

/-! ## Exact sums of many terms, and the shapes of a sum (R136, R287) -/

/-- The exact sum of a list under IEEE rules for its special values (R136): a NaN or both infinities give NaN. -/
def xsum (xs : List X) : X :=
  match xs with
  | [] => .zero false
  | x :: t => t.foldl (X.add false) x

/-- The largest power of two below n, for n > 1. -/
def powBelow (n : Nat) : Nat := 2 ^ Nat.log2 (n - 1)

/-- The balanced tree T of R136: a rounding at every node. The fuel is the depth, which log2 n bounds. -/
def treeSum : Nat → List X → X
  | 0, xs => xs.headD (.zero false)
  | k + 1, xs =>
    if xs.length ≤ 1 then xs.headD (.zero false)
    else
      let p := powBelow xs.length
      xf (rfn ((treeSum k (xs.take p)).add false (treeSum k (xs.drop p))))

/-- Runs of 32 consecutive elements. -/
def runs32 : Nat → List X → List (List X)
  | 0, _ => []
  | k + 1, xs => if xs.isEmpty then [] else xs.take 32 :: runs32 k (xs.drop 32)

/-! ## Updates at a port (Table 8-3) -/

/-- RoundTo(a + b, bf16, rn, 0) of two bf16 encodings. -/
def addbf (a b : Nat) : Nat := (bf16.round ((bf16.toX (a % 65536)).add false (bf16.toX (b % 65536))) .rn 0 false).bits

/-- The new contents of an update of Table 8-3 of n bytes, from the old contents and the operand. -/
def UpdOp.apply (o : UpdOp) (n old x : Nat) : Nat :=
  let w := 8 * n
  let m := 2 ^ w
  let u := old % m
  let v := x % m
  match o with
  | .add => (u + v) % m
  | .sub => (u + m - v) % m
  | .smin => if sgn w u ≤ sgn w v then u else v
  | .smax => if sgn w u ≤ sgn w v then v else u
  | .umin => min u v
  | .umax => max u v
  | .and => u &&& v
  | .or => u ||| v
  | .xor => u ^^^ v
  | .exch => v
  | .fadd => (addf (BitVec.ofNat 32 u) (BitVec.ofNat 32 v)).toNat
  | .fadd2 => addbf u v + 65536 * addbf (u / 65536) (v / 65536)
  | .fxadd => (u + v) % m
  | .incw => if v ≤ u then 0 else u + 1
  | .fmin => (minmaxf false (BitVec.ofNat 32 u) (BitVec.ofNat 32 v)).toNat
  | .fmax => (minmaxf true (BitVec.ofNat 32 u) (BitVec.ofNat 32 v)).toNat

end Sys2Proof.Machine
end

