-- ==== Sys2Proof/Machine/Mem.lean ====
section
/-! DEFINITION. Memory as the agents see it: locations, poison, the page walk with its caches, fault records, L1, the
held writes of speculative teams and escrow intervals, read signatures and race tags. -/

namespace Sys2Proof.Machine

/-! ## Parts of the package (R14, R173) -/

/-- The die of a core. -/
def dieOf (core : Nat) : Nat := core / 96
/-- The other core of a pair. -/
def otherCore (core : Nat) : Nat := if core % 2 = 0 then core + 1 else core - 1

/-! ## Locations -/

/-- The location i bytes further on. -/
def Loc.plus (l : Loc) (i : Nat) : Loc :=
  match l with
  | .hbm a => .hbm (a + i)
  | .vault a => .vault (a + i)
  | .scr u sd o => .scr u sd (o + i)
  | .host a c => .host (a + i) c

/-- A team's scratchpad half: the one on its first core, or the other (R168). -/
def Team.half (t : Team) (side : Bool) : Memory := if side then t.scr2 else t.scr

/-- The numbers of the protected words, of w bytes, that n bytes at a touch (R189). -/
def touched (w a n : Nat) : List Nat := (List.range (ceilDiv (a % w + n) w)).map (fun i => a / w + i)

/-- The numbers of the protected words that n bytes at a cover whole (R189). -/
def covered (w a n : Nat) : List Nat := (touched w a n).filter (fun k => decide (a ≤ k * w) && decide (k * w + w ≤ a + n))

/-- The pieces of n bytes at va that lie in one line each. -/
def linePieces (va n : Nat) : List (Nat × Nat) :=
  (touched 64 va n).map (fun k => (max va (64 * k), min (va + n) (64 * k + 64) - max va (64 * k)))

/-- The bytes of HBM5: eight stacks of 64 GiB (Table 1-2). -/
def hbmSize : Nat := 2 ^ 39

/-- The n bytes at a physical address; beyond HBM5 there is no memory, and they are a free value (log entry 10). -/
def State.hbmRead (s : State) (a n : Nat) : Nat :=
  if a + n ≤ hbmSize then s.hbm.read a n else Config.absentBytes s.tick a n % 2 ^ (8 * n)

/-- Store n bytes at a physical address; beyond HBM5 nothing holds them (log entry 10). Words covered whole are no longer
poisoned (R189). -/
def State.hbmWrite (s : State) (a n x : Nat) : State :=
  if a + n ≤ hbmSize then
    { s with hbm := s.hbm.write a n x, hbmBad := s.hbmBad.filter (fun k => !(covered 8 a n).contains k) }
  else s

/-- The n bytes at a location, as the port that owns it holds them (R175). -/
def State.rawRead (s : State) (l : Loc) (n : Nat) : Nat :=
  match l with
  | .hbm a => s.hbmRead a n
  | .vault a => s.vault.read a n
  | .scr u sd o => ((s.team u).half sd).read o n
  | .host a _ => s.host.read a n

/-- Does a read of n bytes at a location consume a poisoned word (R189), or meet a bus error of the host (R414)? -/
def State.poisoned (s : State) (l : Loc) (n : Nat) : Bool :=
  match l with
  | .hbm a => (touched 8 a n).any (fun k => s.hbmBad.contains k)
  | .vault a => (touched 8 a n).any (fun k => s.vaultBad.contains k)
  | .scr u sd o => (touched 4 o n).any (fun k => (s.team u).bad.contains (sd, k))
  | .host a _ => (touched 8 a n).any (fun k => s.hostBad.contains k)

/-- Would a write of n bytes meet a bus error of the host (R414)? -/
def State.busError (s : State) (l : Loc) (n : Nat) : Bool :=
  match l with
  | .host .. => s.poisoned l n
  | _ => false

/-- Store n bytes at a scratchpad offset: the row joins the saved rows of an open interval (R397), and a word covered
whole is no longer poisoned (R189). -/
def Team.scrWrite (t : Team) (sd : Bool) (o n x : Nat) : Team :=
  let t := { t with
    bad := t.bad.filter (fun e => !(e.1 == sd && (covered 4 o n).contains e.2)),
    ckpt := t.ckpt.map (fun (c : Ckpt) =>
      { c with rows := (touched 1024 o n).foldl (fun r k => if r.contains (sd, k) then r else r ++ [(sd, k)]) c.rows }) }
  if sd then { t with scr2 := t.scr2.write o n x } else { t with scr := t.scr.write o n x }

/-- Store n bytes at a location, at its port; words covered whole are no longer poisoned (R189). -/
def State.rawWrite (s : State) (l : Loc) (n x : Nat) : State :=
  match l with
  | .hbm a => s.hbmWrite a n x
  | .vault a =>
    { s with vault := s.vault.write a n x, vaultBad := s.vaultBad.filter (fun k => !(covered 8 a n).contains k) }
  | .scr u sd o => s.setTeam u ((s.team u).scrWrite sd o n x)
  | .host a _ => { s with host := s.host.write a n x }

/-- The host stores n bytes of HBM, of a vault or of its own memory; a scratchpad is out of its reach (log entry 54). -/
def State.hostStore (s : State) (l : Loc) (n v : Nat) : State :=
  match l with
  | .scr .. => s
  | _ => s.rawWrite l n v

/-- What a port update unit leaves in place of the old contents (R10, R175, R176). -/
def PortOp.apply (op : PortOp) (n old x : Nat) : Nat :=
  match op with
  | .write => x
  | .upd o => UpdOp.apply o n old x
  | .half => addbf old x
  | .badd => (bf16.round ((bf16.toX (old % 65536)).add false (f32.toX (x % 2 ^ 32))) .rn 0 false).bits
  | .cas e => if old = e % 2 ^ (8 * n) then x else old

/-- Does an operation write when it finds these old contents: all but a failing compare-and-store (R180)? -/
def PortOp.writes (op : PortOp) (n old : Nat) : Bool :=
  match op with
  | .cas e => old == e % 2 ^ (8 * n)
  | _ => true

/-- Count an event of a time-series record (R408): a die and the offset of its word. -/
def State.tally (s : State) (dn off : Nat) : State :=
  { s with counters := amod 0 s.counters (8192 * dn + off) (fun x => x + 1) }

/-- Count what reads and what writes the direct part of a vault (Table 23-5, log entry 95). -/
def State.tallyVault (s : State) (l : Loc) (reads writes : Bool) : State :=
  match l with
  | .vault x =>
    let v := x / 2 ^ 24
    let at' := 0x1B40 + 32 * (v % 24)
    let s := if reads then s.tally (v / 24) at' else s
    if writes then s.tally (v / 24) (at' + 4) else s
  | _ => s

/-- PortUpdate at a location (R10): the new state and the old contents. -/
def State.portUpdate (s : State) (l : Loc) (n : Nat) (op : PortOp) (x : Nat) : State × Nat :=
  let old := s.rawRead l n
  let s := s.tallyVault l (op != .write) (match op with
    | .cas e => decide (old = e % 2 ^ (8 * n))
    | _ => true)
  match op with
  | .cas e => if old = e % 2 ^ (8 * n) then (s.rawWrite l n x, old) else (s, old)
  | _ => (s.rawWrite l n (op.apply n old x), old)

/-! ## Translation (R266 to R270) -/

/-- What an access asks of a page: updates count as writes (R267). -/
inductive Need where
  | read | write | fetch
deriving DecidableEq, Repr

/-- The end of a walk (R269). -/
inductive Walk where
  | ok (e : TlbEnt)
  | missing
  | bad (reason : Nat)
deriving DecidableEq, Repr

/-- Is an entry at this level malformed (R267)? -/
def pteBad (lvl e : Nat) : Bool :=
  bitf e 52 12 != 0 || bitf e 5 7 != 0 || (lvl == 4 && nbit e 4) || (lvl == 1 && !nbit e 4) ||
    (!nbit e 4 && bitf e 1 3 != 0) || (nbit e 4 && lvl == 3 && bitf e 12 18 != 0) ||
    (nbit e 4 && lvl == 2 && bitf e 12 9 != 0)

/-- PA[51:12] of an entry, as an address. -/
def ptePfn (e : Nat) : Nat := bitf e 12 40 * 4096

/-- The number of an upper-level entry in the walkers' cache: its level and the address bits that index down to it. -/
def upperKey (lvl va : Nat) : Nat := lvl * 2 ^ 48 + va / 2 ^ (12 + 9 * (lvl - 1))

/-- Walk from a level's table (R266): the end, and the upper-level entries met. An entry whose V is 0 is met first. A walker
reads poisoned entries as they stand (log entry 106). -/
def walkFrom (s : State) (cache : List (Nat × Nat × DWord)) (ctx va : Nat) :
    Nat → Nat → Walk × List (Nat × Nat × DWord)
  | 0, _ => (.bad 5, [])
  | l + 1, table =>
    let idx := va / 2 ^ (12 + 9 * l) % (if l = 3 then 2 ^ 18 else 512)
    let key := upperKey (l + 1) va
    let e := match cache.find? (fun c => c.1 == ctx && c.2.1 == key) with
      | some c => c.2.2.toNat
      | none => s.hbmRead (table + 8 * idx) 8
    if !nbit e 0 then (.missing, [])
    else if pteBad (l + 1) e then (.bad 5, [])
    else if nbit e 4 then
      (.ok ⟨ctx, va / 4096, ptePfn e / 4096 + va / 4096 % 2 ^ (9 * l), nbit e 1, nbit e 2, nbit e 3⟩, [])
    else
      let (w, up) := walkFrom s cache ctx va l (ptePfn e)
      (w, (ctx, key, BitVec.ofNat 64 e) :: up)

/-- Add entries at the end of a cache of at most cap entries, the oldest leaving. -/
def pushCap {α : Type} (cap : Nat) (l : List α) (x : α) : List α := (l ++ [x]).drop (l.length + 1 - cap)

/-- Translate a page of a context for a core: L1 TLB, L2 TLB, then a walk whose results are cached (R268). -/
def State.walk (s : State) (core ctx va : Nat) : State × Walk :=
  let hit := fun (e : TlbEnt) => e.ctx == ctx && e.vpn == va / 4096
  match (s.core core).tlb.find? hit with
  | some e => (s, .ok e)
  | none =>
    let keep1 := fun (s : State) e => s.setCore core { s.core core with tlb := pushCap 256 (s.core core).tlb e }
    match (s.pair (core / 2)).tlb2.find? hit with
    | some e => (keep1 s e, .ok e)
    | none =>
      let d := s.die (dieOf core)
      let (w, up) := walkFrom s d.upper ctx va 4 (s.ctx ctx).ptroot.toNat
      let s := s.setDie (dieOf core) { d with upper := d.upper ++ up.filter (fun u => !d.upper.contains u) }
      match w with
      | .ok e =>
        let p := s.pair (core / 2)
        (keep1 (s.setPair (core / 2) { p with tlb2 := pushCap 4096 p.tlb2 e }) e, .ok e)
      | w => (s, w)

/-- The reason of Table 12-8 for which a page turns an access away, if any: no R first. -/
def TlbEnt.deny (e : TlbEnt) (n : Need) : Option Nat :=
  if !e.r then some 2
  else match n with
    | .read => none
    | .write => if e.w then none else some 1
    | .fetch => if e.x then none else some 3

/-- The end of a translation with its permission check. -/
inductive Paged where
  | pa (x : Nat)
  | missing
  | bad (reason : Nat)
deriving DecidableEq, Repr

/-- Translate a virtual address of a context for an access (R171, R269). -/
def State.translate (s : State) (core ctx va : Nat) (n : Need) : State × Paged :=
  match s.walk core ctx va with
  | (s, .ok e) =>
    match e.deny n with
    | some r => (s, .bad r)
    | none => (s, .pa (e.ppn * 4096 + va % 4096))
  | (s, .missing) => (s, .missing)
  | (s, .bad r) => (s, .bad r)

/-- Post a record of its own on a die (R270): the fault number. -/
def State.postRecord (s : State) (dn core ctx va : Nat) (kind : FaultKind) : State × Nat :=
  let d := s.die dn
  let f : FaultRec := ⟨d.nextFault % 65536, va, ctx, core, kind⟩
  let d := { d with nextFault := d.nextFault + 1 }
  let d := if d.faults.length < 256 then { d with faults := d.faults ++ [f] }
    else { d with waiting := d.waiting ++ [f] }
  (s.setDie dn d, f.num)

/-- Post a fault on a die, or share the record of one context and page (R270): the fault number. -/
def State.postFaultOn (s : State) (dn core ctx va : Nat) (kind : FaultKind) : State × Nat :=
  let d := s.die dn
  match (d.faults ++ d.waiting).find? (fun f => f.ctx == ctx && f.va / 4096 == va / 4096) with
  | some f => (s, f.num)
  | none => s.postRecord dn core ctx va kind

/-- Post a fault of a core. -/
def State.postFault (s : State) (core ctx va : Nat) (kind : FaultKind) : State × Nat :=
  s.postFaultOn (dieOf core) core ctx va kind

/-! ## Race tags (R367, Table 19-5) -/

/-- Clear the writer record of the space-0 words that n bytes at a touch. -/
def clearWriter (tags : List (Nat × RaceTag)) (a n : Nat) : List (Nat × RaceTag) :=
  (touched 4 a n).foldl (fun ts k =>
    match afind ts k with
    | some t => aput ts k { t with writer := none }
    | none => ts) tags

/-- An update or an engine's write at a location clears the writer records of its words. -/
def State.clearTag (s : State) (l : Loc) (n : Nat) : State :=
  match l with
  | .hbm a => { s with lineTags := clearWriter s.lineTags a n }
  | .scr u sd o =>
    let t := s.team u
    if sd then s.setTeam u { t with tags2 := clearWriter t.tags2 o n }
    else s.setTeam u { t with tags := clearWriter t.tags o n }
  | _ => s

/-- Does a plain access meet an unreleased conflicting access in a tag? `me` is the party of the access, (group or team,
lane), `seq` its issue, `wrels` and `rrels` the release counts, `same` whether a party counts. The lanes of one ST may name
one word (R175), so the accesses of one issue do not race (log entry 70). -/
def RaceTag.races (t : RaceTag) (me : Nat × Nat) (seq : Nat) (write : Bool) (wrels : Nat × Nat → Nat)
    (rrels : Nat → Nat) (same : Nat → Bool) : Bool :=
  (match t.writer with
    | .some (g, l, n, i) => (g, l) != me && i != seq && same g && wrels (g, l) == n
    | .none => false) ||
  (write && t.readers.any (fun r => r.1 != me.1 && same r.1 && rrels r.1 == r.2))

/-- The tag after a checked access (R367). -/
def RaceTag.note (t : RaceTag) (me : Nat × Nat) (seq : Nat) (write : Bool) (wr rr : Nat) : RaceTag :=
  if write then ⟨some (me.1, me.2, wr, seq), []⟩ else { t with readers := aput t.readers me.1 rr }

/-- Does an access of team u that reaches a home slice race there (Table 19-5)? Never under DET. -/
def State.lineRaces (s : State) (u pa n : Nat) (write : Bool) : Bool :=
  !(s.launch (s.team u).launch).lr.det && (touched 4 pa n).any (fun k =>
    (aget RaceTag.none s.lineTags k).races (u, 0) (s.nextSeq + 1) write (fun p => (s.team p.1).rels)
      (fun v => (s.team v).rels)
      (fun v => (afind s.teams v).isSome && decide ((s.team v).launch = (s.team u).launch)))

/-- Record an access of team u that reaches a home slice, word by word. -/
def State.lineNote (s : State) (u pa n : Nat) (write : Bool) : State :=
  if (s.launch (s.team u).launch).lr.det then s
  else { s with lineTags := (touched 4 pa n).foldl (fun ts k =>
    aput ts k ((aget RaceTag.none ts k).note (u, 0) 0 write (s.team u).rels (s.team u).rels)) s.lineTags }

/-! ## L1 (R172) -/

/-- The bytes of a line that its mask marks dirty, as positions. -/
def L1Line.dirtyBytes (l : L1Line) : List Nat := (List.range 64).filter (fun i => l.dirty.getLsbD i)

/-- Byte i of a line. -/
def L1Line.byte (l : L1Line) (i : Nat) : Nat := bitf l.data.toNat (8 * i) 8

/-- Are all eight bytes of word k of a line dirty? -/
def L1Line.wholeDirty (l : L1Line) (k : Nat) : Bool := bitf l.dirty.toNat (8 * k) 8 == 255

/-- Does a range of a line hold byte i? -/
def inSpan (o n i : Nat) : Bool := decide (o ≤ i) && decide (i < o + n)

/-- Does a recorded store of a dirty line race at the home slice: its lane can still take the trap, and it is not accepted
as racy (R367; log entry 71)? -/
def State.raceHit (s : State) (l : L1Line) (e : Nat × Nat × Access) : Bool :=
  !e.2.2.racy && s.traps e.2.2.ag && s.lineRaces l.uid (64 * l.line + e.1) e.2.1 true

/-- The stores of a dirty line that are not performed, as they race at the home slice: each with all its parts. -/
def State.racing (s : State) (l : L1Line) : List (Nat × Nat × Access) :=
  l.stores.filter (fun e => l.stores.any (fun f => f.2.2.id == e.2.2.id && s.raceHit l f))

/-- A store found to race at its write-back: a late trap, with the address of the event (R367). -/
def raceOf (e : Nat × Nat × Access) : Access :=
  let a := e.2.2
  { a with stage := .trapped 0x0C 0 (BitVec.ofNat 64 (a.ea + (if a.len = 16 && e.1 % 16 ≥ 8 then 8 else 0))) }

/-- What a later write of n bytes at o leaves of a recorded store: the parts before it and after it. -/
def storeRest (o n : Nat) (e : Nat × Nat × Access) : List (Nat × Nat × Access) :=
  [(e.1, min (e.1 + e.2.1) o - e.1, e.2.2),
    (max e.1 (o + n), e.1 + e.2.1 - max e.1 (o + n), e.2.2)].filter (fun p => p.2.1 != 0)

/-- The racing stores of a line become late traps, each once. -/
def State.trapRacing (s : State) (es : List (Nat × Nat × Access)) : State :=
  es.foldl (fun s e => if s.accs.any (fun a => a.id == e.2.2.id) then s else { s with accs := s.accs ++ [raceOf e] }) s

/-- Write back the dirty bytes of a line at its home slice (R172): racing stores are not performed; the words of plain
stores are tagged with the team whose bytes they are, and the others lose their writer record (R367); words written whole
are no longer poisoned (R189). -/
def State.writeBack (s : State) (l : L1Line) : State :=
  let out := s.racing l
  let keep := l.dirtyBytes.filter (fun i => !out.any (fun e => inSpan e.1 e.2.1 i))
  let words := (List.range 16).filter (fun k => keep.any (inSpan (4 * k) 4))
  let plain := fun (k : Nat) => l.stores.any (fun e => decide (e.1 < 4 * k + 4) && decide (4 * k < e.1 + e.2.1))
  let whole := (List.range 8).filter (fun k =>
    !l.bad.getLsbD k && ((List.range 8).map (fun i => 8 * k + i)).all keep.contains)
  let s := s.trapRacing (l.stores.filter (s.raceHit l))
  let s := keep.foldl (fun s i => s.hbmWrite (64 * l.line + i) 1 (l.byte i)) s
  let s := { s with hbmBad := s.hbmBad.filter (fun k => !(whole.map (fun j => 8 * l.line + j)).contains k) }
  words.foldl (fun s k => if plain k then s.lineNote l.uid (64 * l.line + 4 * k) 4 true
    else s.clearTag (.hbm (64 * l.line + 4 * k)) 4) s

/-- The line of a core's L1 that holds a physical line, if present. -/
def State.l1Find (s : State) (core line : Nat) : Option L1Line := (s.core core).l1.find? (fun l => l.line == line)

/-- Replace or add a line of L1, the oldest line leaving with a write-back when L1 holds 2,048. -/
def State.l1Put (s : State) (core : Nat) (l : L1Line) : State :=
  let k := s.core core
  if k.l1.any (fun x => x.line == l.line) then
    s.setCore core { k with l1 := k.l1.map (fun x => if x.line == l.line then l else x) }
  else if k.l1.length < 2048 then s.setCore core { k with l1 := k.l1 ++ [l] }
  else match k.l1 with
    | [] => s.setCore core { k with l1 := [l] }
    | old :: t => (s.writeBack old).setCore core { k with l1 := t ++ [l] }

/-- Write back a line of L1: what stays of it. The copy of a line with a racing store does not stay. -/
def State.cleanLine (s : State) (l : L1Line) (drop : Bool) : State × List L1Line :=
  if drop || !(s.racing l).isEmpty then (s.writeBack l, [])
  else (s.writeBack l, [{ l with dirty := 0, stores := [] }])

/-- Write back and keep, or drop, every line of a core's L1 that `which` selects. -/
def State.l1Clean (s : State) (core : Nat) (which : L1Line → Bool) (drop : Bool) : State :=
  let r := (s.core core).l1.foldl (fun (p : State × List L1Line) l =>
    if which l then
      let (s, k) := p.1.cleanLine l drop
      (s, p.2 ++ k)
    else (p.1, p.2 ++ [l])) (s, [])
  r.1.setCore core { r.1.core core with l1 := r.2 }

/-- Write back every dirty byte of a core's L1: the release action at dev scope (Table 8-2). -/
def State.l1WriteBackAll (s : State) (core : Nat) : State := s.l1Clean core (fun l => l.dirty != 0) false

/-- Write back and drop a core's copy of the line that holds pa (R180). -/
def State.l1Flush (s : State) (core pa : Nat) : State := s.l1Clean core (fun l => l.line == pa / 64) true

/-- A cache drops an entry; a line of L1 is written back first (R172). -/
def State.evict (s : State) (c : Cached) : State :=
  match c with
  | .line core n => if core < 192 then s.l1Flush core (64 * n) else s
  | .code core key =>
    if core < 192 then s.setCore core { s.core core with icache := (s.core core).icache.filter (fun e => e.1 != key) } else s
  | .page core ctx vpn =>
    let keep := fun (e : TlbEnt) => !(e.ctx == ctx && e.vpn == vpn)
    if core < 192 then
      let s := s.setCore core { s.core core with tlb := (s.core core).tlb.filter keep }
      s.setPair (core / 2) { s.pair (core / 2) with tlb2 := (s.pair (core / 2)).tlb2.filter keep }
    else s
  | .table dn ctx key =>
    if dn < 2 then
      s.setDie dn { s.die dn with upper := (s.die dn).upper.filter (fun e => !(e.1 == ctx && e.2.1 == key)) }
    else s

/-- A line fetched from its home slice, with the poison of its words (R189). -/
def State.homeLine (s : State) (line uid : Nat) : L1Line :=
  ⟨line, BitVec.ofNat 512 (s.hbmRead (64 * line) 64), 0, uid,
    BitVec.ofNat 8 (((List.range 8).filter (fun k => s.hbmBad.contains (8 * line + k))).foldl (fun b k => b + 2 ^ k) 0), []⟩

/-- Replace the n bytes at position o of a line's data. -/
def putBits (d : BitVec 512) (o n x : Nat) : BitVec 512 :=
  let m := (2 ^ (8 * n) - 1) * 2 ^ (8 * o)
  BitVec.ofNat 512 (d.toNat - (d.toNat &&& m) + x % 2 ^ (8 * n) * 2 ^ (8 * o))

/-- A line's dirty bytes over a fresh copy of the line. -/
def L1Line.over (l h : L1Line) : L1Line :=
  { l with
    data := l.dirtyBytes.foldl (fun d i => putBits d i 1 (l.byte i)) h.data,
    bad := BitVec.ofNat 8 (((List.range 8).filter (fun k =>
      if l.wholeDirty k then l.bad.getLsbD k
      else h.bad.getLsbD k || (l.bad.getLsbD k && bitf l.dirty.toNat (8 * k) 8 != 0))).foldl (fun b k => b + 2 ^ k) 0) }

/-- The acquire action at dev scope (Table 8-2): every line of a core's L1 that holds no dirty byte goes; of the others the
dirty bytes stay, and what a later load reads of the rest is no older than the acquire (R361; log entry 72). -/
def State.l1DropClean (s : State) (core : Nat) : State :=
  s.setCore core { s.core core with
    l1 := ((s.core core).l1.filter (fun l => l.dirty != 0)).map (fun l => l.over (s.homeLine l.line l.uid)) }

/-- Read n bytes through L1, filling the line on a miss; `true` when the line was missed. -/
def State.l1Read (s : State) (core uid pa n : Nat) : State × Nat × Bool :=
  match s.l1Find core (pa / 64) with
  | some l => (s, bitf l.data.toNat (8 * (pa % 64)) (8 * n), false)
  | none =>
    let l := s.homeLine (pa / 64) uid
    (s.l1Put core l, bitf l.data.toNat (8 * (pa % 64)) (8 * n), true)

/-- Does a read of n bytes through L1 consume a poisoned word: of the copy that L1 holds, or of the home slice (R189)? -/
def State.l1Poison (s : State) (core pa n : Nat) : Bool :=
  match s.l1Find core (pa / 64) with
  | some l => (touched 8 (pa % 64) n).any (fun k => l.bad.getLsbD k)
  | none => s.poisoned (.hbm pa) n

/-- Write n bytes into L1, allocating the line; another team's dirty bytes are written back first. `src` is the plain
store of space 0 that writes them, which the write-back checks (R367). -/
def State.l1Write (s : State) (core uid pa n x : Nat) (src : Option Access) : State :=
  let s := match s.l1Find core (pa / 64) with
    | some l => if l.uid != uid && l.dirty != 0 then s.l1Clean core (fun y => y.line == pa / 64) false else s
    | none => s
  let l := match s.l1Find core (pa / 64) with
    | some l => l
    | none => s.homeLine (pa / 64) uid
  let o := pa % 64
  let kept := l.stores.flatMap (storeRest o n)
  s.l1Put core { l with
    data := putBits l.data o n x, dirty := l.dirty ||| BitVec.ofNat 64 ((2 ^ n - 1) * 2 ^ o), uid := uid,
    bad := l.bad &&& ~~~(BitVec.ofNat 8 ((covered 8 o n).foldl (fun b k => b + 2 ^ k) 0)),
    stores := match src with
      | some a => kept ++ [(o, n, a)]
      | none => kept }

/-! ## Held writes (R391, R398) -/

/-- Does the team's launch run speculatively under DET (R391, R393)? -/
def State.speculative (s : State) (u : Nat) : Bool :=
  let t := s.team u
  (s.launch t.launch).lr.det && !t.nonspec

/-- Are the team's writes to spaces 0, 3 and 5 held back (R391, R398)? -/
def State.holds (s : State) (u : Nat) : Bool := s.speculative u || (s.team u).ckpt.isSome

/-- Does the team of a DET launch go on non-speculatively, its accesses going directly to memory (R393)? -/
def State.direct (s : State) (u : Nat) : Bool :=
  (s.launch (s.team u).launch).lr.det && (s.team u).nonspec

/-- Does a write store the byte at a place? -/
def Held.stores (h : Held) (l : Loc) : Bool := h.op == .write && (List.range h.n).any (fun i => h.loc.plus i == l)

/-- Do writes that land together store each of the n bytes at a place? -/
def coverAll (hs : List Held) (l : Loc) (n : Nat) : Bool :=
  (List.range n).all (fun i => hs.any (fun h => h.stores (l.plus i)))

/-- The protected words that writes landing together cover whole are no longer poisoned (R189): those of one chunk in one
block (R232), of one tile (R294), of one store. -/
def State.mend (s : State) (hs : List Held) : State :=
  { s with
    hbmBad := s.hbmBad.filter (fun k => !coverAll hs (.hbm (8 * k)) 8),
    vaultBad := s.vaultBad.filter (fun k => !coverAll hs (.vault (8 * k)) 8),
    teams := s.teams.map (fun t => if t.2.bad.isEmpty then t
      else (t.1, { t.2 with bad := t.2.bad.filter (fun e => !coverAll hs (.scr t.1 e.1 (4 * e.2)) 4) })) }

/-- Apply held writes in order at their ports (R392, R398). A plain store was checked and tagged when it was held; those of
one place in the team's order land together. -/
def State.applyHeld (s : State) (hs : List Held) : State :=
  hs.foldl (fun s h =>
    let t := ((s.portUpdate h.loc h.n h.op h.data).1).mend (hs.filter (fun g => g.key == h.key))
    if h.plain then t else t.clearTag h.loc h.n) s

/-- The cores a team's agents may act on: its core, and the pair's other core when it spans (R20). -/
def Team.cores (t : Team) : List Nat := if t.desc.spans then [t.core, otherCore t.core] else [t.core]

/-- No copy of the lines of held writes of a team stays in the L1 of its cores. -/
def State.flushHeld (s : State) (u : Nat) (hs : List Held) : State :=
  hs.foldl (fun s h => match h.loc with
    | .hbm pa => (s.team u).cores.foldl (fun s c => s.l1Flush c pa) s
    | _ => s) s

/-- Drop the instruction-cache lines of a core that hold a byte of a context's code-window range (R182). -/
def State.icInvalidate (s : State) (core ctx start n : Nat) : State :=
  let c := s.core core
  let lo := ctx * 2 ^ 26 + start / 64
  let hi := ctx * 2 ^ 26 + (start + n - 1) / 64
  s.setCore core { c with icache := c.icache.filter (fun e => !(decide (lo ≤ e.1) && decide (e.1 ≤ hi))) }

/-- The ICINVs that a team executed while its writes were held act again once they are applied, so that what they made
visible is what a later fetch finds (R371). -/
def State.icAgain (s : State) (u : Nat) : State :=
  let is := (s.team u).icinvs
  if is.isEmpty then s
  else is.foldl (fun s i => i.1.foldl (fun s k => s.icInvalidate k i.2.1 i.2.2.1 i.2.2.2) s)
    (s.setTeam u { s.team u with icinvs := [] })

/-- Apply held writes of a team for good. -/
def State.commitHeld (s : State) (u : Nat) (hs : List Held) : State := ((s.flushHeld u hs).applyHeld hs).icAgain u

/-- The address a location has in the read signature and the held lines, shifted right by 6; none outside spaces 0, 3
and 5. -/
def Loc.lineNo : Loc → Option Nat
  | .hbm a => some (a / 64)
  | .vault a => some (2 ^ 46 + a / 64)
  | _ => none

/-- The signature bit of a line address (R391). -/
def sigBit (la : Nat) : Nat := bitf la 0 11 ^^^ bitf la 11 11 ^^^ bitf la 22 11

/-- The signature bit of a location; a vault address counts as its own 30-bit address (R391). -/
def Loc.sigBit : Loc → Option Nat
  | .hbm a => some (Machine.sigBit (a / 64))
  | .vault a => some (Machine.sigBit (a / 64))
  | _ => none

/-- A speculative team's read sets its signature bit (R391). -/
def State.signRead (s : State) (u : Nat) (l : Loc) : State :=
  match s.speculative u, l.sigBit with
  | true, some b => s.setTeam u { s.team u with sig := (s.team u).sig ||| BitVec.ofNat 2048 (2 ^ b) }
  | _, _ => s

/-- The mesh and pixel teams of a launch that have read a line of this signature bit have read what is now old. -/
def State.markStale (s : State) (l b : Nat) : State :=
  { s with teams := s.teams.map (fun t =>
      if t.2.launch = l && (t.2.stage == .mesh || t.2.stage == .pixel) && t.2.sig.getLsbD b then (t.1, { t.2 with stale := true })
      else t) }

/-- A write of a non-speculative team enters the write summary of its commit (R392, R393); that of a task team also makes
stale what the later teams of its draw have read (log entry 26). -/
def State.noteDirect (s : State) (u : Nat) (l : Loc) : State :=
  match s.direct u, l.sigBit with
  | true, some b =>
    let s := s.setTeam u { s.team u with wsig := (s.team u).wsig ||| BitVec.ofNat 2048 (2 ^ b) }
    if (s.team u).stage = .task then s.markStale (s.team u).launch b else s
  | _, _ => s

/-- The distinct lines that held writes touch (R393, R398). -/
def heldLines (hs : List Held) : List Nat :=
  (hs.filterMap (fun h => h.loc.lineNo)).foldl (fun ls l => if ls.contains l then ls else ls ++ [l]) []

/-- Put a held write in its place: held writes stand in the order in which the team issued them (R392, R398). -/
def insertHeld : List Held → Held → List Held
  | [], h => [h]
  | x :: t, h => if h.key < x.key then h :: x :: t else x :: insertHeld t h

/-- The memory as a team sees it past L1: with its own held writes, those that stand before `key` in its order when it is
given (R391). -/
def State.withHeld (s : State) (u : Nat) (key : Option Nat) : State :=
  s.applyHeld (match key with
    | some k => (s.team u).held.filter (fun h => decide (h.key < k))
    | none => (s.team u).held)

/-- What a team reads at a location of spaces 0, 3 and 5 past L1: its own held writes where it has any (R391). -/
def State.heldRead (s : State) (u : Nat) (l : Loc) (n : Nat) : Nat := (s.withHeld u none).rawRead l n

/-- Rays enter the queues of the cores that ran their SHRAYs (R339, R340). -/
def State.addRays (s : State) (rs : List Ray) : State :=
  rs.foldl (fun s r => s.setCore r.core { s.core r.core with rays := (s.core r.core).rays ++ [r] }) s

/-- The interval is committed early: held writes applied, held rays queued, undo copies discarded (R399, R342). The team's
loads now go through L1 again, so its clean lines go: none is older than what the team has read past L1 (R361). -/
def State.commitEarly (s : State) (u : Nat) : State :=
  let t := s.team u
  if t.ckpt.isSome && !s.speculative u then
    let s := (s.commitHeld u t.held).addRays t.rays
    let s := s.setTeam u { s.team u with held := [], rays := [], ckpt := none }
    t.cores.foldl (fun s c => s.l1DropClean c) s
  else if t.ckpt.isSome then s.setTeam u { t with ckpt := none }
  else s

/-- The bytes of a core's undo area that the checkpoints of the teams there take, with the register blocks and scratchpad rows
that their intervals have saved (R397; log entry 92). -/
def State.undoUsed (s : State) (core : Nat) : Nat :=
  (s.teams.map (fun t => match t.2.ckpt with
    | none => 0
    | some c =>
      if !t.2.cores.contains core then 0
      else Config.ckptBytes ((c.groups.filter (fun g => (t.2.grp g.1).core == core)).map (fun g => g.2.threads.length)).sum +
        256 * (c.blocks.filter (fun b => (t.2.grp b.1).core == core)).length +
        1024 * (c.rows.filter (fun r => r.1 == (core != t.2.core))).length)).sum

/-- A write of a team in an interval that would save n bytes more on a core finds its 4 MiB undo area full: the interval is
committed early (R399). -/
def State.undoRoom (s : State) (u core n : Nat) : State :=
  if n != 0 && decide (s.undoUsed core + n > 2 ^ 22) then s.commitEarly u else s

/-- Room in the undo area for the rows that a write of n bytes at a place of a scratchpad half is the first to touch. -/
def State.roomAt (s : State) (l : Loc) (n : Nat) : State :=
  match l with
  | .scr u sd o =>
    match (s.team u).ckpt with
    | none => s
    | some c =>
      s.undoRoom u (if sd then otherCore (s.team u).core else (s.team u).core)
        (1024 * ((touched 1024 o n).filter (fun k => !c.rows.contains (sd, k))).length)
  | _ => s

/-- Hold writes back together, at their place `key` in the team's order; in an interval, a buffer that they would fill past
1,024 lines commits the interval early, and they are applied whole (R294, R398, R399). -/
def State.holdAll (s : State) (u key : Nat) (hs : List Held) : State :=
  let hs := hs.map (fun h => { h with key := key })
  let t := s.team u
  let all := hs.foldl insertHeld t.held
  if !s.speculative u && decide ((heldLines all).length > 1024) then (s.commitEarly u).commitHeld u hs
  else s.setTeam u { t with held := all }

/-- Hold one write back. -/
def State.hold (s : State) (u key : Nat) (h : Held) : State := s.holdAll u key [h]

/-- Do writes to these places, together, fit into a speculative team's buffer (R393)? -/
def State.holdsFit (s : State) (u : Nat) (hs : List Held) : Bool :=
  !s.speculative u || decide ((heldLines ((s.team u).held ++ hs)).length ≤ 1024)

/-! ## Reads and writes by the device's own units, at the home slices -/

/-- Read bytes of a context's virtual memory page by page, with read permission; none where a page does not
translate. -/
def State.peekByte (s : State) (ctx va : Nat) : Option Byte :=
  if va ≥ 2 ^ 57 then none
  else match (walkFrom s [] ctx va 4 (s.ctx ctx).ptroot.toNat).1 with
    | .ok e => if e.r then some (BitVec.ofNat 8 (s.hbmRead (e.ppn * 4096 + va % 4096) 1)) else none
    | _ => none

/-- The first physical piece of n bytes of a context's virtual memory that holds a poisoned word (R189), if any. -/
def State.unitBad (s : State) (ctx va n : Nat) : Option Nat :=
  if s.hbmBad.isEmpty then none
  else (linePieces va n).findSome? (fun p =>
    if p.1 ≥ 2 ^ 57 then none
    else match (walkFrom s [] ctx p.1 4 (s.ctx ctx).ptroot.toNat).1 with
      | .ok e => if e.r && s.poisoned (.hbm (e.ppn * 4096 + p.1 % 4096)) p.2 then some (e.ppn * 4096 + p.1 % 4096) else none
      | _ => none)

/-- Write n bytes of a context's virtual memory at the home slices; a byte whose page does not translate or may not be
written is dropped (log entry 17). -/
def State.unitWrite (s : State) (ctx va n x : Nat) : State :=
  (linePieces va n).foldl (fun s p =>
    if p.1 ≥ 2 ^ 57 then s
    else match (walkFrom s [] ctx p.1 4 (s.ctx ctx).ptroot.toNat).1 with
      | .ok e =>
        if e.r && e.w then
          let l := Loc.hbm (e.ppn * 4096 + p.1 % 4096)
          (s.rawWrite l p.2 (bitf x (8 * (p.1 - va)) (8 * p.2))).clearTag l p.2
        else s
      | _ => s) s

/-- Read n bytes of a context's virtual memory at the home slices; a byte that cannot be read counts as zero
(log entry 17). -/
def State.unitRead (s : State) (ctx va n : Nat) : Nat :=
  ofBytes ((List.range n).map (fun i => (s.peekByte ctx (va + i)).getD 0))

end Sys2Proof.Machine
end

