-- ==== Sys2Proof/Machine/Ops.lean ====
section
/-! DEFINITION. The named operations over agents: lookahead windows and results (R45, R46), parking and release, meetings
and MWAIT (R78, R79, R90), the end of a lane (R87), taking an exception and returning from one (R256 to R258), double
faults and machine checks with their escalation (R228, R259, R388, R401). -/

namespace Sys2Proof.Machine

/-! ## Accesses and windows (R45) -/

/-- Replace every access of an agent. -/
def State.mapAccs (s : State) (ag : Agent) (f : Access → Access) : State :=
  { s with accs := s.accs.map (fun a => if a.ag = ag then f a else a) }

/-- The accesses of an agent, in issue order. -/
def State.accsOf (s : State) (ag : Agent) : List Access := s.accs.filter (fun a => decide (a.ag = ag))

/-- Remove an access. -/
def State.dropAcc (s : State) (id : Nat) : State := { s with accs := s.accs.filter (fun a => a.id != id) }

/-- Replace an access by its number. -/
def State.putAcc (s : State) (x : Access) : State :=
  { s with accs := s.accs.map (fun a => if a.id = x.id then x else a) }

/-- Does the access return its values to registers when its window closes? -/
def Access.writesBack (a : Access) : Bool := a.stage == .done && a.left == none

/-- Write an access's result and its codes, if it sets any (R45). -/
def State.writeResult (s : State) (a : Access) : State :=
  let s := s.setRegs a.ag a.dst a.vals
  match a.flags with
  | some c => s.setCC a.ag c
  | none => s

/-- Do two windows that closed at the same moment name a common destination, or both the codes (R45)? -/
def Access.meets (a b : Access) : Bool :=
  a.left == none && b.left == none && b.shut == a.shut && (b.dst.any (fun r => r != vz && a.dst.contains r) || (a.w && b.w))

/-- Has an access been found to trap? It writes nothing. -/
def Access.traps (a : Access) : Bool :=
  match a.stage with
  | .trapped .. => true
  | _ => false

/-- Of an agent's accesses in program order, those that write now: a result that has arrived and whose window has closed,
but not before those of `kept`, earlier ones that are still to write what it names too (R45). -/
def dueOf (kept : List Access) : List Access → List Access
  | [] => []
  | a :: t =>
    if a.traps then dueOf kept t
    else if a.writesBack && !kept.any a.meets then a :: dueOf kept t
    else dueOf (kept ++ [a]) t

/-- Has an access been performed, or been found never to be? -/
def Access.past (a : Access) : Bool :=
  match a.stage with
  | .done | .trapped .. => true
  | _ => match a.op with
    | .known _ => true
    | _ => false

/-- Does a page hold up an access: its own, or that of an earlier access of its agent? -/
def State.pageHeld (s : State) (a : Access) : Bool :=
  (s.accsOf a.ag).any (fun b => decide (b.id ≤ a.id) && (match b.stage with
    | .held .. => true
    | _ => false))

/-- Have the results of an access's instruction arrived: those of its lanes arrive together, but for the lanes that a page
holds up (R376; log entry 91)? -/
def State.arrived (s : State) (a : Access) : Bool := s.accs.all (fun b => b.seq != a.seq || b.past || s.pageHeld b)

/-- The accesses of an agent with the results that have arrived. -/
def State.seenAccs (s : State) (ag : Agent) : List Access :=
  (s.accsOf ag).map (fun a => if a.stage == .done && !s.arrived a then { a with stage := .ready } else a)

/-- Write the arrived results whose windows have closed, in program order, and finish their accesses (R45). -/
def State.settleAccs (s : State) (ag : Agent) : State :=
  let due := dueOf [] (s.seenAccs ag)
  let s := due.foldl State.writeResult s
  { s with accs := s.accs.filter (fun a => !due.any (fun b => b.id == a.id)) }

/-- The window closes at a tick. -/
def Access.close (tick : Nat) (a : Access) : Access :=
  match a.left with
  | some _ => { a with left := none, shut := tick }
  | none => a

/-- Close every window of an agent (R45). -/
def State.closeWindows (s : State) (ag : Agent) : State := (s.mapAccs ag (Access.close s.tick)).settleAccs ag

/-- One more slot of its agent issues: a window with no slot left closes, another loses one (R45). -/
def Access.tick (tick : Nat) (a : Access) : Access :=
  match a.left with
  | some (n + 1) => { a with left := some n }
  | _ => a.close tick

/-- One more slot of the agent issues (R45). -/
def State.tickWindows (s : State) (ag : Agent) : State := (s.mapAccs ag (Access.tick s.tick)).settleAccs ag

/-- Put an access among others in program order. -/
def insertAcc (x : Access) : List Access → List Access
  | [] => [x]
  | y :: t => if x.id < y.id then x :: y :: t else y :: insertAcc x t

/-- The late traps of an agent that are due, in program order (R46). -/
def State.dueTraps (s : State) (ag : Agent) : List Access :=
  ((s.accsOf ag).filter (fun a => match a.stage, a.left with
    | .trapped .., none => true
    | _, _ => false)).foldr insertAcc []

/-- The late trap that an access in stage `trapped` stands for. -/
def Access.late (a : Access) : Late :=
  match a.stage with
  | .trapped c v x => ⟨a, c, v, x⟩
  | _ => ⟨a, 0, 0, 0⟩

/-! ## Holding the array (R277) -/

/-- Replace the array of a core. -/
def State.setArray (s : State) (core : Nat) (m : MArray) : State := s.setCore core { s.core core with array := m }

/-- Has every thread of a team exited? -/
def Team.allExited (t : Team) : Bool := t.groups.all (fun e => e.2.threads.all (fun l => l.2.exited))

/-- May the team keep waiting for an array: it is resident and not all its groups have exited? -/
def State.mayHold (s : State) (u : Nat) : Bool := (s.team u).stat == .running && !(s.team u).allExited

/-- An array at acquisition by a team (Table 14-1). -/
def MArray.acquire (m : MArray) (u : Nat) : MArray :=
  { MArray.start with holder := some u, upset := m.upset, waiting := m.waiting.filter (fun w => w != u) }

/-- The forms that act on the array (R277). -/
def arrayForm (i : Instr) : Bool :=
  match i with
  | .mwld .. | .mgath .. | .mscale .. | .mma .. | .mzero .. | .mldacc .. | .mdrain .. | .mdrst .. => true
  | _ => false

/-- The place of a due body of an array form among its team's, by the moment at which its last member signed (R279). -/
def Park.arrayPlace (p : Park) : Option Nat :=
  match p with
  | .signed _ due i => if arrayForm i then due else none
  | _ => none

/-- The places of a team's due bodies of array forms that have not begun on a core. -/
def State.arrayDue (s : State) (u core : Nat) : List Nat :=
  (s.team u).groups.flatMap (fun g => if g.2.core != core then []
    else g.2.threads.filterMap (fun l => if l.2.exited then none else l.2.park.arrayPlace))

/-- Does a team wait for the array of a core: it may hold it, and a body of it is due there? -/
def State.waitsArray (s : State) (core u : Nat) : Bool := s.mayHold u && !(s.arrayDue u core).isEmpty

/-- The array of a core becomes free: the team whose body has waited longest takes it (R277). -/
def State.handArray (s : State) (core : Nat) : State :=
  let m := (s.core core).array
  match m.waiting.filter (s.waitsArray core) with
  | w :: _ => s.setArray core (m.acquire w)
  | [] => s.setArray core { m with holder := none, waiting := [] }

/-! ## Copies and engine work of a team -/

/-- Change every copy slot of a core that `which` selects. -/
def State.mapSlots (s : State) (core : Nat) (f : CopySlot → CopySlot) : State :=
  let c := s.core core
  s.setCore core { c with slots := c.slots.map (fun e => (e.1, f e.2)) }

/-- A double fault stops a team's copies at a chunk boundary with status 0x04 (R228, R259), those too whose chunks have all been
sent or that were stopping with another status (log entry 101); their contexts have ended, so nobody owns the slots (R242). -/
def CopySlot.kill (uid : Nat) (c : CopySlot) : CopySlot :=
  if c.uid = uid then
    match c.stat with
    | .finished _ => { c with owned := false }
    | _ => { c with stat := .stopping 4, owned := false }
  else c

/-- Is a slot free to go: finished, with no context that owns it (R242)? -/
def CopySlot.free (c : CopySlot) : Bool :=
  !c.owned && (match c.stat with
    | .finished _ => true
    | _ => false)

/-- A context of a team ends; it is free at once (R229). -/
def BCtx.endIf (uid : Nat) (b : BCtx) : BCtx :=
  if b.uid = uid && b.run == .ready then { b with run := .ended, park := .run } else b

/-- End a team's contexts and stop its copies (R259). -/
def State.stopBursar (s : State) (uid : Nat) : State :=
  (s.team uid).cores.foldl (fun s k =>
    let c := s.core k
    s.setCore k { c with
      ctxs := c.ctxs.map (fun e => (e.1, e.2.endIf uid)),
      slots := (c.slots.map (fun e => (e.1, e.2.kill uid))).filter (fun e => !e.2.free) }) s

/-- Does an agent belong to a team? -/
def State.ofTeam (s : State) (uid : Nat) (ag : Agent) : Bool := decide (s.uidOf ag = uid)

/-- Does an access complete although its team is killed: a store or an update (R259)? -/
def AccOp.stands : AccOp → Bool
  | .store _ | .upd .. | .cas .. => true
  | _ => false

/-- Does EXIT wait for an access: for a store or an update, and for a draw that stores to the record (R87, R221)? -/
def AccOp.outlasts (op : AccOp) : Bool :=
  op.stands || (match op with
    | .draw _ _ ch _ => ch.mode != 0
    | _ => false)

/-! ## Machine-check records and fatal errors (R402, R410) -/

/-- Log a machine check in its die's log of 64 records (R402). -/
def State.logCheck (s : State) (r : McRec) : State :=
  let d := s.die r.die
  if d.mclog.length < 64 then s.setDie r.die { d with mclog := d.mclog ++ [r] }
  else { s with mgmt := { s.mgmt with mcLost := s.mgmt.mcLost + 1 } }

/-- The clocks stop, and the dump with its signed digest is written at DUMPBASE (R410): once, while firmware runs. -/
def State.fatalDump (s : State) : State :=
  if s.dbg.dumped || s.mgmt.boot != 1 then s
  else
    let bs := Config.dumpBytes s.nextAcc
    let digest := Config.sha512 bs
    let all := bs ++ digest ++ Config.identitySign digest
    { s.rawWrite (.hbm s.mgmt.dumpBase.toNat) all.length (ofBytes all) with
      nextAcc := s.nextAcc + 1,
      dbg := { s.dbg with frozen := true, dumped := true, stopArmed := false, portsWereOff := false } }

/-- MEM_UNCORR charged to no team, found at a place of a space by a die (R401): it is logged with CORE 0xFFFF, and a fatal
error (R410), whose dump follows at once (log entry 90). -/
def State.unitCheck (s : State) (dn space addr : Nat) : State :=
  (s.logCheck ⟨s.now, 0x42, dn, 65535, 0, 0, BitVec.ofNat 32 space, addr⟩).fatalDump

/-- The home die of a physical address (R173). -/
def homeDie (pa : Nat) : Nat := pa / 4096 % 8 / 4

/-- ATOM.add of 4 bytes of a context's memory by the device itself (R380, R387, R388): a poisoned word is not updated
(R189), and is a check charged to no team. -/
def State.unitAdd (s : State) (ctx va x : Nat) : State :=
  match s.unitBad ctx va 4 with
  | some pa => s.unitCheck (homeDie pa) 0 pa
  | none => s.unitWrite ctx va 4 ((s.unitRead ctx va 4 + x) % 2 ^ 32)

/-! ## Ending a launch with an error (R259, R388) -/

/-- The 64 bytes of an error record (Table 22-5). -/
def ErrInfo.record (e : ErrInfo) (launchid : Word) : Nat :=
  launchid.toNat + e.kind * 2 ^ 32 + e.reason * 2 ^ 40 + e.pc.toNat * 2 ^ 64 + e.teamid * 2 ^ 96 + e.lane * 2 ^ 128 +
    e.cause * 2 ^ 160 + e.val.toNat * 2 ^ 192 + e.addr.toNat * 2 ^ 256

/-- Report an error of a queue: write the record and set HALT, or count LOST in the record that stands (R388). -/
def State.queueError (s : State) (q : Nat) (launchid : Word) (e : ErrInfo) : State :=
  let k := s.queue q
  let ctx := k.ctx.toNat
  if k.halt then s.unitAdd ctx (k.errBase.toNat + 0x28) 1
  else (s.setQueue q { k with halt := true }).unitWrite ctx k.errBase.toNat 64 (e.record launchid)

/-- A team no longer waits for an array (R277). -/
def State.unwait (s : State) (uid : Nat) : State :=
  (s.team uid).cores.foldl (fun s k =>
    let c := s.core k
    s.setCore k { c with array := { c.array with waiting := c.array.waiting.filter (fun w => w != uid) } }) s

/-- Stop a team for good: its threads stop, its contexts end, its copies stop, its loads are dropped; stores and updates
already issued complete (R259). -/
def State.stopTeam (s : State) (uid : Nat) (st : TeamStat) : State :=
  let s := (s.stopBursar uid).unwait uid
  let s := { s with accs := s.accs.filter (fun a => !s.ofTeam uid a.ag || a.op.stands) }
  s.setTeam uid { s.team uid with stat := st }

/-- The launch ends with an error: recorded once, its resident teams killed, no further team admitted (R259, R388). -/
def State.launchError (s : State) (l : Nat) (e : ErrInfo) : State :=
  let k := s.launch l
  if k.errored then s
  else
    let s := s.queueError k.queue k.launchid e
    let s := s.setLaunch l { k with ended := true, errored := true }
    ((akeys s.teams).filter (fun u => (s.team u).launch == l)).foldl
      (fun s u => s.stopTeam u (.killed e.kind e.cause e.pc e.lane e.val e.addr)) s

/-- Recovery after a double fault or a machine check (R259): `roll` says whether a rollback is open to it, `idem`
whether a relaunch is, and with neither the launch ends at once. A killed team waits for its rollback or relaunch; the stores
it had held in an interval stand when it is relaunched. An error record describes the team's first fault, but the machine
check that ends the launch (R401; log entry 73). -/
def State.recover (s : State) (uid : Nat) (roll idem : Bool) (e : ErrInfo) : State :=
  let t := s.team uid
  let s := s.stopTeam uid (.killed e.kind e.cause e.pc e.lane e.val e.addr)
  let s := s.setTeam uid { s.team uid with first := some (t.first.getD e) }
  if !roll && !idem then s.launchError t.launch e
  else if t.recov ≥ 3 then s.launchError t.launch { t.first.getD e with kind := 4 }
  else if roll && t.ckpt.isSome then s
  else if idem && (s.launch t.launch).lr.idem then s.commitEarly uid
  else s.launchError t.launch (if e.cause ≥ 0x40 then e else { t.first.getD e with kind := e.kind })

/-- A double fault kills the team and chooses its recovery (R259). -/
def State.doubleFault (s : State) (uid cause : Nat) (pc : Word) (lane : Nat) (val addr : DWord) : State :=
  match (s.team uid).stat with
  | .killed .. => s
  | _ => s.recover uid true true ⟨2, 0, cause, pc, (s.team uid).teamid, lane, val, addr⟩

/-- Is a team killed for good: its launch has ended (R259)? -/
def State.dead (s : State) (uid : Nat) : Bool :=
  (s.launch (s.team uid).launch).ended && (match (s.team uid).stat with
    | .killed .. => true
    | _ => false)

/-! ## Machine checks (R401, R402) -/

/-- Every trace of a team leaves the machine: its contexts, copies, accesses, tiles and the team itself. -/
def State.removeTeam (s : State) (uid : Nat) : State :=
  let t := s.team uid
  let s := t.cores.foldl (fun s k =>
    let c := s.core k
    let s := s.setCore k { c with
      ctxs := c.ctxs.map (fun e => (e.1, e.2.endIf uid)),
      slots := c.slots.filter (fun e => e.2.uid != uid),
      array := { c.array with waiting := c.array.waiting.filter (fun w => w != uid) } }
    if c.array.holder = some uid then s.handArray k else s) s
  { s with
    accs := s.accs.filter (fun a => !s.ofTeam uid a.ag),
    tiles := s.tiles.filter (fun x => x.uid != uid),
    teams := adel s.teams uid }

/-- Is a team one of the grid of its launch: of the compute or the task stage (R343)? -/
def Team.ofGrid (t : Team) : Bool := t.stage == .compute || t.stage == .task

/-- Has a team of a DET launch committed (R392)? -/
def Launch.hasCommitted (l : Launch) (t : Team) : Bool :=
  if t.ofGrid then l.committed.contains t.teamid else t.committed

/-- A speculative team is aborted: it loses everything and is admitted again from ENTRY (R392), a mesh or pixel team at its
own place in its draw; its recoveries stay counted, with its first fault (R259). -/
def State.abortTeam (s : State) (uid : Nat) : State :=
  let t := s.team uid
  let l := s.launch t.launch
  let s := s.removeTeam uid
  if t.ofGrid then
    s.setLaunch t.launch { l with redo := l.redo ++ [t.teamid], faults := aput l.faults t.teamid (t.recov, t.first) }
  else
    s.setTeam uid { t with
      stat := .aborted, held := [], rays := [], kids := [], sig := 0, wsig := 0, ckpt := none, stale := false, icinvs := [] }

/-- Raise a machine check against a team (Table 23-1): it is logged, and a team that runs, is halted or is saved recovers.
`scrRow` is the scratchpad row concerned, for MEM_UNCORR there; one found while the team is halted for its image, or later,
goes to step 2 of R259. -/
def State.machineCheck (s : State) (uid core code : Nat) (detail : Word) (addr : Nat) (pc : Word) (lane : Nat)
    (scrRow : Option (Bool × Nat)) : State :=
  let t := s.team uid
  let s := s.logCheck ⟨s.now, code, dieOf core, core, (s.launch t.launch).launchid, t.teamid, detail, addr⟩
  match t.stat with
  | .killed .. | .aborted | .finished => s
  | _ =>
    if s.speculative uid then s.abortTeam uid
    else
      let e : ErrInfo := ⟨2, 0, code, pc, t.teamid, lane, BitVec.ofNat 64 detail.toNat, BitVec.ofNat 64 addr⟩
      if t.stat != .running then s.recover uid false true e
      else if code = 0x42 then
        match scrRow with
        | some r => s.recover uid (match t.ckpt with
            | some c => c.rows.contains r
            | none => false) true e
        | none => s.recover uid false false e
      else s.recover uid true true e

/-! ## Meetings and MWAIT (R78, R79, R90) -/

/-- The lanes of a group that hold a thread which has not exited. -/
def Group.unexited (g : Group) : List Nat := (g.threads.filter (fun e => !e.2.exited)).map (fun e => e.1)

/-- Are all threads with this meeting address parked there, and is there one (R79)? -/
def Group.met (g : Group) (x : Word) : Bool :=
  let w := g.unexited.filter (fun l => (g.thr l).meet == x)
  !w.isEmpty && w.all (fun l => (g.thr l).park == .meeting)

/-- Release the threads of every meeting whose members are all parked there (R79). -/
def Group.meetings (g : Group) : Group :=
  { g with threads := g.threads.map (fun e =>
      if !e.2.exited && e.2.park == .meeting && g.met e.2.meet then (e.1, { e.2 with park := .run }) else e) }

/-- Evaluate the meeting conditions of a group. -/
def State.meetings (s : State) (u g : Nat) : State := s.setGrp u g (s.grp u g).meetings

/-- Evaluate the meeting conditions where an agent belongs. -/
def State.meet (s : State) (ag : Agent) : State :=
  match ag with
  | .thread u g _ => s.meetings u g
  | .ctx .. => s

/-! ## Taking an exception (R256, R257) -/

/-- Put a late trap among those held pending, in program order (R46). -/
def insertLate : List Late → Late → List Late
  | [], x => [x]
  | y :: t, x => if x.acc.id < y.acc.id then x :: y :: t else y :: insertLate t x

/-- The late traps of an agent that are due are held pending (R46). -/
def State.pendDue (s : State) (ag : Agent) : State :=
  match s.dueTraps ag with
  | [] => s
  | due =>
    let t := s.trapOf ag
    let s := { s with accs := s.accs.filter (fun x => !due.any (fun d => d.id == x.id)) }
    s.setTrap ag { t with pend := (due.map Access.late).foldl insertLate t.pend }

/-- Record a trap and enter the handler (R8, R256): every window closes, and the late traps then due are held pending
(R46); the registers that save the cause, the PC, the value and the address, the resume point, TRAPLVL, the handler's
address, and the comparison of R78. -/
def State.enterHandler (s : State) (ag : Agent) (cause : Nat) (tpc : Word) (val addr : DWord) (resume : Word)
    (saved : Option Access) : State :=
  let h := (s.descOf ag).handler
  let s := (s.closeWindows ag).pendDue ag
  let t := s.trapOf ag
  let s := s.setTrap ag
    { t with lvl := true, cause := cause, pc := tpc, val := val, addr := addr, resume := resume, saved := saved }
  let s := (s.setPc ag h).setPark ag .run
  match ag with
  | .thread u g l => if (s.thr u g l).meet = h then (s.setPark ag .meeting).meetings u g else s
  | .ctx .. => s

/-- The lane that a fault record names; a context has none. -/
def Agent.lane : Agent → Nat
  | .thread _ _ l => l
  | .ctx .. => 0

/-- Take a trap: enter the handler at TRAPLVL 0 in a kernel that has one; otherwise, and on the bursar, a double fault
(R59, R228, R256, R259). -/
def State.takeTrap (s : State) (ag : Agent) (cause : Nat) (tpc : Word) (val addr : DWord) (resume : Word)
    (saved : Option Access) : State :=
  let u := s.uidOf ag
  if Agent.bursar ag || (s.trapOf ag).lvl || (s.descOf ag).handler == 0 then
    let s := match ag with
      | .ctx k c => s.setBctx k c { s.bctx k c with run := .ended }
      | .thread .. => s
    s.doubleFault u cause tpc (Agent.lane ag) val addr
  else s.enterHandler ag cause tpc val addr resume saved

/-- Deliver the earliest due late trap, the others staying pending (R46); none if no late trap is due. -/
def State.takeLate (s : State) (ag : Agent) (resume : Word) : Option State :=
  match s.dueTraps ag with
  | [] => none
  | a :: rest =>
    let ids := (a :: rest).map (fun x => x.id)
    let s := { s with accs := s.accs.filter (fun x => !ids.contains x.id) }
    let t := s.trapOf ag
    let s := s.setTrap ag { t with pend := (rest.map Access.late).foldl insertLate t.pend }
    let x := a.late
    some (s.takeTrap ag x.cause a.pc x.val x.addr resume (some { a with stage := .ready }))

/-- Is a retried access of an agent still under way (R258)? -/
def State.retrying (s : State) (ag : Agent) : Bool := (s.accsOf ag).any (fun a => a.retry)

/-- Deliver the earliest late trap held pending, once the handler has returned and a retried access is over (R46, R258);
none if there is none to deliver. -/
def State.takePend (s : State) (ag : Agent) (resume : Word) : Option State :=
  let t := s.trapOf ag
  match t.pend with
  | [] => none
  | x :: rest =>
    if t.lvl || s.retrying ag then none
    else some ((s.setTrap ag { t with pend := rest }).takeTrap ag x.cause x.acc.pc x.val x.addr resume
      (some { x.acc with stage := .ready }))

/-- A trap raised at issue: the windows close; a late trap then due is delivered in its place (R46, R256). -/
def State.raiseTrap (s : State) (ag : Agent) (cause : Nat) (val addr : DWord) : State :=
  let p := s.pc ag
  let s := s.closeWindows ag
  match s.takeLate ag p with
  | some s => s
  | none => s.takeTrap ag cause p val addr p none

/-! ## Parking, advancing and transferring (R45, R78, R426) -/

/-- Park: the windows close first, and a late trap then due is delivered instead (R81, R257). -/
def State.parkOn (s : State) (ag : Agent) (p : Park) : State :=
  let s := s.closeWindows ag
  match s.takeLate ag (s.pc ag) with
  | some s => s
  | none => s.setPark ag p

/-- Compare the new PC with MEET, and park at the meeting if they are equal (R78). -/
def State.compareMeet (s : State) (ag : Agent) : State :=
  match ag with
  | .thread u g l => if (s.thr u g l).meet = (s.thr u g l).pc then (s.parkOn ag .meeting).meetings u g else s
  | .ctx .. => s

/-- The instruction is done: step to the next slot (R30) and compare with MEET (R78). -/
def State.advance (s : State) (ag : Agent) : State :=
  ((s.setPc ag (nextPc (s.pc ag))).setPark ag .run).compareMeet ag

/-- A taken transfer: it closes the windows; a late trap then due, or one held pending at the end of a handler, resumes at
the target (R45, R46, R257). -/
def State.transfer (s : State) (ag : Agent) (t : Word) : State :=
  let s := ((s.setPc ag t).setPark ag .run).closeWindows ag
  match s.takePend ag t, s.takeLate ag t with
  | some s, _ => s
  | none, some s => s
  | none, none => s.compareMeet ag

/-- Release an agent whose parking instruction has completed: it continues at the next slot (R426). -/
def State.release (s : State) (ag : Agent) : State := s.advance ag

/-- Release an agent whose instruction runs again. -/
def State.unpark (s : State) (ag : Agent) : State := s.setPark ag .run

/-- The lanes of a group parked on MWAIT of a mask. -/
def Group.mwaiters (g : Group) (m : Nat) : List Nat := g.unexited.filter (fun l => (g.thr l).park == .mwait m)

/-- Evaluate the MWAIT condition of each mask of a group (R90). -/
def State.mwaits (s : State) (u g : Nat) : State :=
  (List.range 12).foldl (fun s m =>
    let k := s.grp u g
    let ws := k.mwaiters m
    if !ws.isEmpty && (k.lanesOf (k.mask m)).all (fun l => ws.contains l) then
      ws.foldl (fun s l => s.release (.thread u g l)) s
    else s) s

/-! ## The end of a lane (R87, R82) -/

/-- Clear a lane's bit in every mask. -/
def Group.clearLane (g : Group) (l : Nat) : Group :=
  { g with masks := g.masks.map (fun e => (e.1, if nbit e.2 l then e.2 - 2 ^ l else e.2)) }

/-- The lane ends: loads in flight are discarded, its mask bits are cleared, EXIT counts as a release for the race tags,
and the meeting and MWAIT conditions are evaluated (R87). The last lane of a team ends its escrow interval. -/
def State.endLane (s : State) (u g l : Nat) : State :=
  let ag := Agent.thread u g l
  let s := { s with accs := s.accs.filter (fun a => !(decide (a.ag = ag) && !a.op.stands)) }
  let t := s.thr u g l
  let k := ((s.grp u g).setThr l { t with exited := true, park := .run, rels := t.rels + 1 }).clearLane l
  let s := s.setGrp u g { k with rels := k.rels + 1 }
  let s := s.setTeam u { s.team u with
    rels := (s.team u).rels + 1, last := if (s.grp u g).unexited.isEmpty then g else (s.team u).last }
  let s := if (s.team u).allExited then s.commitEarly u else s
  (s.meetings u g).mwaits u g

/-- A release side of Table 19-3 counts for the race tags (R367): `dev` when its scope is dev or wider. -/
def State.countRelease (s : State) (ag : Agent) (dev : Bool) : State :=
  let s := match ag with
    | .thread u g l =>
      let k := s.grp u g
      s.setGrp u g { (k.setThr l { k.thr l with rels := (k.thr l).rels + 1 }) with rels := k.rels + 1 }
    | .ctx .. => s
  if dev then
    let u := s.uidOf ag
    s.setTeam u { s.team u with rels := (s.team u).rels + 1 }
  else s

/-- End a bursar context (R229): it is free at once, and the threads parked on RDV for it are released. -/
def State.releaseRdv (s : State) (core c : Nat) : State :=
  s.teams.foldl (fun s t =>
    t.2.groups.foldl (fun s g =>
      if g.2.core = core then
        g.2.threads.foldl (fun s l =>
          if l.2.park == .rdv c && s.traps (.thread t.1 g.1 l.1) then s.release (.thread t.1 g.1 l.1)
          else s) s
      else s) s) s

/-- The L1 actions of an acquire (Table 8-2): scope dev or sys, or team in a spanning team. -/
def State.acquireAction (s : State) (ag : Agent) (sc : Scope) : State :=
  let wide := match sc with
    | .grp => false
    | .team => (s.descOf ag).spans
    | _ => true
  if wide then s.l1DropClean (s.coreOf ag) else s

/-- The L1 actions of a release (Table 8-2), then its count for the race tags: what it writes back is released (R366, R367). -/
def State.releaseAction (s : State) (ag : Agent) (sc : Scope) : State :=
  let wide := match sc with
    | .grp => false
    | .team => (s.descOf ag).spans
    | _ => true
  let s := if wide then s.l1WriteBackAll (s.coreOf ag) else s
  s.countRelease ag (sc == .dev || sc == .sys)

/-- Has the agent no access on its way that a release must wait for (R179, Table 8-2)? -/
def State.quiet (s : State) (ag : Agent) : Bool :=
  (s.accsOf ag).all (fun a => match a.stage with
    | .done | .trapped .. => true
    | _ => match a.op with
      | .known _ => true
      | _ => false)

/-- Is the agent quiet, and every MDRST tile that counts as its own store or update applied (R310, R368)? -/
def State.settled (s : State) (ag : Agent) : Bool := s.quiet ag && s.tiles.all (fun t => !t.ags.contains ag)

end Sys2Proof.Machine
end

