-- ==== Sys2Proof/Machine/Operands.lean ====
section
/-! DEFINITION. Register operands with their checks (R38, R39), the checks that depend on the executing agent (R50, R51,
R227, R264, R343), the conditions (R40), special registers (R109, R110), effective addresses with their checks and the
places they name (R166 to R174, R186, R187). -/

namespace Sys2Proof.Machine

/-! ## Conditions (Table 2-5) -/

/-- Is a condition true on these codes? -/
def Cond.holds (c : Cond) (x : CC) : Bool :=
  match c with
  | .eq => x.z
  | .ne => !x.z
  | .lt => x.s != x.o
  | .ge => x.s == x.o
  | .gt => !x.z && x.s == x.o
  | .le => x.z || x.s != x.o
  | .hs => x.c
  | .lo => !x.c
  | .hi => x.c && !x.z
  | .ls => !x.c || x.z
  | .mi => x.s
  | .pl => !x.s
  | .vs => x.o
  | .vc => !x.o
  | .nv => false
  | .al => true

/-! ## Register operands -/

/-- A register operand: its first index, how many registers it names, and whether it is a pair on an even index. -/
structure Opd where
  r : Reg
  k : Nat
  pair : Bool
deriving DecidableEq, Repr

/-- One register. -/
def o1 (r : Reg) : Opd := ⟨r, 1, false⟩
/-- A pair (R39). -/
def o2 (r : Reg) : Opd := ⟨r, 2, true⟩
/-- One register or a pair. -/
def oW (w64 : Bool) (r : Reg) : Opd := if w64 then o2 r else o1 r
/-- A run of k registers (R39). -/
def oN (k : Nat) (r : Reg) : Opd := ⟨r, k, false⟩
/-- An optional operand. -/
def oO (r : Option Reg) (f : Reg → Opd) : List Opd :=
  match r with
  | some r => [f r]
  | none => []

/-- The register names of an operand; none for vz. -/
def Opd.regs (o : Opd) : List Reg := if o.r = vz then [] else runOf o.r o.k

/-- The index at which an operand breaks R38 or R39 under a register limit, if it does: of a run or a pair that crosses
the limit the limit itself, and of several operands the first in the order D, A, B, C (log entry 74). -/
def Opd.bad (lim : Nat) (o : Opd) : Option Nat :=
  let n := o.r.toNat
  if o.r = vz then none
  else if n ≥ lim then some n
  else if o.pair && n % 2 == 1 then some n
  else if n + o.k > lim then some lim
  else none

/-- How many registers an access of this size takes. -/
def Size.regs : Size → Nat
  | .b | .h | .w => 1
  | .d | .x2 => 2
  | .x4 => 4

/-- The byte count of an access size (Table 2-4). -/
def Size.bytes : Size → Nat
  | .b => 1
  | .h => 2
  | .w => 4
  | .d => 8
  | .x2 => 8
  | .x4 => 16

/-- A value operand of an access: one register, a pair for 8 bytes, a run for x2 and x4 (Table 8-4). -/
def oZ (z : Size) (r : Reg) : Opd :=
  match z with
  | .d => o2 r
  | .x2 => oN 2 r
  | .x4 => oN 4 r
  | _ => o1 r

/-- Is the base of this space a pair (Table 8-1)? -/
def Space.wide : Space → Bool
  | .glob | .hnc | .hc => true
  | _ => false

/-- Is a type of Table 7-5 held in a pair? -/
def NumTy.wide : NumTy → Bool
  | .s64 | .n64 | .fx64 | .f64 => true
  | _ => false

/-- Is an integer type of I2I held in a pair? -/
def I2ITy.wide : I2ITy → Bool
  | .s64 | .n64 => true
  | _ => false

/-- Is an integer type of IMINMAX held in a pair? -/
def IntTy.wide : IntTy → Bool
  | .s64 | .n64 => true
  | _ => false

/-- How many elements UNPQ unpacks (Table 7-4). -/
def UnpTy.count : UnpTy → Nat
  | .f16 | .bf16 => 2
  | .e2m1 => 8
  | _ => 4

/-- Is a special register 64 bits wide (Tables 5-3 and 12-6)? -/
def srWide (n : Nat) : Bool :=
  n == 0x011 || n == 0x031 || (decide (0x032 ≤ n) && decide (n ≤ 0x035)) || n == 0x040 || n == 0x052 || n == 0x054 ||
    (decide (0x801 ≤ n) && decide (n ≤ 0x806))

/-- The register operands of an instruction, D first, then A, B, C. `g64` says the group has 64 lanes (R80); `alg` gives
the dimension of an algebra slot. -/
def Instr.opds (g64 : Bool) (alg : Nat → Nat) : Instr → List Opd
  | .brx _ a => [o1 a]
  | .call _ d (.disp _) => [o1 d]
  | .call _ d (.reg a) => [o1 d, o1 a]
  | .ret _ a => [o1 a]
  | .meetset _ d _ => [o1 d]
  | .meetrst _ r => oO r o1
  | .mset _ a _ _ => [oW g64 a]
  | .mget _ d _ op => [oW (g64 && op == .bits) d]
  | .vote _ d a _ op => [oW (g64 && op == .ballot) d, o1 a]
  | .sleept _ a => [o2 a]
  | .sleepp _ a _ => [o1 a]
  | .fork _ d a _ => [o1 d, o1 a]
  | .rdv _ a => [o1 a]
  | .iadd _ d a b _ w => [oW w d, oW w a, oW w b]
  | .isub _ d a b _ w => [oW w d, oW w a, oW w b]
  | .imul _ d a b w => [oW w d, oW w a, oW w b]
  | .imulh _ d a b _ => [o1 d, o1 a, o1 b]
  | .imad _ d a b c m => [oW (m != .lo) d, o1 a, o1 b, oW (m != .lo) c]
  | .iminmax _ d a b _ t => [oW (IntTy.wide t) d, oW (IntTy.wide t) a, oW (IntTy.wide t) b]
  | .bool _ d a b c _ _ => [o1 d, o1 a, o1 b, o1 c]
  | .shf _ d a b c _ => [o1 d, o1 a, o1 b, o1 c]
  | .bfx _ d a b _ => [o1 d, o1 a, o1 b]
  | .bfi _ d a b c => [o1 d, o1 a, o1 b, o1 c]
  | .bitc _ d a _ => [o1 d, o1 a]
  | .icmp _ a b w => [oW w a, oW w b]
  | .sel _ d a b w _ => [oW w d, oW w a, oW w b]
  | .mov _ d a w => [oW w d, oW w a]
  | .movi _ d _ w => [oW w d]
  | .lea _ d a b _ _ => [o2 d, o2 a, o1 b]
  | .srd _ d n => [oW (srWide n.toNat) d]
  | .swr _ a n => [oW (srWide n.toNat) a]
  | .shfl _ d a b c _ _ => [o1 d, o1 a, o1 b, o1 c]
  | .vcomp _ d a b _ => [o1 d, o1 a, o1 b]
  | .vexp _ d a b _ => [o1 d, o1 a, o1 b]
  | .iscan _ d a _ _ _ => [o1 d, o1 a]
  | .ired _ d a _ _ => [o1 d, o1 a]
  | .bysel _ d a b c => [o1 d, o1 a, o1 b, o1 c]
  | .fadd _ d a b _ _ => [o1 d, o1 a, o1 b]
  | .fmul _ d a b _ _ => [o1 d, o1 a, o1 b]
  | .ffma _ d a b c _ _ => [o1 d, o1 a, o1 b, o1 c]
  | .fminmax _ d a b _ => [o1 d, o1 a, o1 b]
  | .fcmp _ a b => [o1 a, o1 b]
  | .fclass _ d a _ => [o1 d, o1 a]
  | .frnd _ d a _ => [o1 d, o1 a]
  | .fscale _ d a b _ => [o1 d, o1 a, o1 b]
  | .dadd _ d a b _ _ => [o2 d, o2 a, o2 b]
  | .dmul _ d a b _ _ => [o2 d, o2 a, o2 b]
  | .dfma _ d a b c _ _ => [o2 d, o2 a, o2 b, o2 c]
  | .dcmp _ a b => [o2 a, o2 b]
  | .hadd2 _ d a b _ _ _ => [o1 d, o1 a, o1 b]
  | .hmul2 _ d a b _ _ _ => [o1 d, o1 a, o1 b]
  | .hfma2 _ d a b c _ _ _ => [o1 d, o1 a, o1 b, o1 c]
  | .sfn _ d a _ => [o1 d, o1 a]
  | .aconj _ d a s => [oN (alg s.toNat) d, oN (alg s.toNat) a]
  | .anorm _ d a s _ => [o1 d, oN (alg s.toNat) a]
  | .amul _ d a b s _ _ _ => [oN (alg s.toNat) d, oN (alg s.toNat) a, oN (alg s.toNat) b]
  | .fred _ d a _ _ _ => [o1 d, o1 a]
  | .fscan _ d a _ _ _ _ => [o1 d, o1 a]
  | .cvt _ d a dt st _ _ => [oW (NumTy.wide dt) d, oW (NumTy.wide st) a]
  | .cvth2 _ d a b _ _ _ => [o1 d, o1 a, o1 b]
  | .cvtq8 _ d a b _ _ _ _ => [o1 d, oN 4 a, o1 b]
  | .cvtq4 _ d a b _ _ _ => [o1 d, oN 8 a, o1 b]
  | .cvtw _ d a op _ _ _ => [oW (op == .sf64 || op == .f64s) d, oW (op == .sf64 || op == .f64s) a]
  | .unpq _ d a b t _ _ _ => [oN (UnpTy.count t) d, o1 a, o1 b]
  | .bscale _ d a _ _ => [o1 d, o1 a]
  | .srseed _ a => [o2 a]
  | .i2i _ d a dt st _ => [oW (I2ITy.wide dt) d, oW (I2ITy.wide st) a]
  | .draw _ d _ => [o1 d]
  | .drawb _ d _ => [o1 d]
  | .drawi _ d b _ => [o1 d, o1 b]
  | .drawn _ d _ => [o1 d]
  | .drawt _ d _ => [o1 d]
  | .csetup _ .off => []
  | .csetup _ (.record a) => [o2 a]
  | .csetup _ (.replay a) => [o2 a]
  | .cmut _ a b _ => [o2 a, o2 b]
  | .cresult _ a n => [oN (n.toNat + 1) a]
  | .caccept _ d a b _ => [o1 d, o1 a, o1 b]
  | .ccmp _ d a _ => [o1 d, o1 a]
  | .cpeek _ d a _ => [o1 d, o1 a]
  | .cseed _ a => [o2 a]
  | .ld _ d a f _ => [oZ f.size d, oW (Space.wide f.space) a]
  | .st _ a b f => [oW (Space.wide f.space) a, oZ f.size b]
  | .ldv _ d a f => [oZ f.size d, oW (Space.wide f.space) a]
  | .stv _ a b f => [oW (Space.wide f.space) a, oZ f.size b]
  | .ldk _ d a f _ => [oZ f.size d, o1 a]
  | .atom _ d a b f _ => [oZ f.size d, oW (Space.wide f.space) a, oZ f.size b]
  | .red _ a b f _ => [oW (Space.wide f.space) a, oZ f.size b]
  | .cas _ d a b c f => [oZ f.size d, oW (Space.wide f.space) a, oZ f.size b, oZ f.size c]
  | .icinv _ a b _ _ => [o1 a, o1 b]
  | .cctl _ a b _ f => [oW (Space.wide f.space) a, o1 b]
  | .pref _ a _ f => [oW (Space.wide f.space) a]
  | .malg _ a _ rsp _ => [oW (!rsp) a]
  | .mwld _ a b c _ _ _ => [o1 a, o1 b, o1 c]
  | .mgath _ a _ => [o1 a]
  | .mscale _ a _ => [oN 3 a]
  | .mldacc _ a _ _ _ => [oN 32 a]
  | .mdrain _ d _ _ => [oN 32 d]
  | .mdrst _ a b _ _ _ _ spc _ => [oW (spc == .glob) a, o1 b]
  | .mstat _ d _ _ => [o1 d]
  | .copy _ d a b f => [o1 d, oW (!f.srs) a, oW (!f.drs) b]
  | .cwait _ d a => [o1 d, o1 a]
  | .binit _ a _ => [o1 a]
  | .barv _ d a _ _ _ => [o1 d, o1 a]
  | .bwait _ d a _ => [o1 d, o1 a]
  | .btest _ d pt _ => [oW pt d]
  | .bexpt _ a _ => [o1 a]
  | .samp _ d a b c _ => [oN 5 d, o2 a, oN 2 b, o1 c]
  | .sampinv _ r _ => oO r o2
  | .tbox _ d a b => [oN 5 d, oN 8 a, o2 b]
  | .ttri _ d a b _ => [oN 4 d, oN 8 a, o2 b]
  | .spush _ a b c _ _ n => [oN (n.toNat + 1) a, o1 b, o1 c]
  | .spop _ d b c _ => [o1 d, o1 b, o1 c]
  | .shray _ d a b c _ => [o2 d, oN 8 a, oN 3 b, o2 c]
  | .emitPayload _ d a b c => [o1 d, o1 a, o1 b, o1 c]
  | .emitVertex _ a b c => [o1 a, oN 4 b, oN 4 c]
  | .emitPrim _ a b => [o1 a, o1 b]
  | .emitColour _ a => [oN 4 a]
  | .trap _ a _ => [o1 a]
  | .launch _ d a => [o1 d, o2 a]
  | .tlbinv _ (some (a, b)) => [o2 a, o1 b]
  | _ => []

/-- The common fields of an encoded form; of a device step, none. -/
def Instr.hdr : Instr → Option Hdr
  | .nop h | .bra h _ | .brx h _ | .call h _ _ | .ret h _ | .exit h | .meetset h _ _ | .meetrst h _ | .mjoin h _
  | .mleave h _ | .mwait h _ | .mset h _ _ _ | .mget h _ _ _ | .vote h _ _ _ _ | .sleept h _ | .sleepp h _ _
  | .fork h _ _ _ | .rdv h _ | .iadd h _ _ _ _ _ | .isub h _ _ _ _ _ | .imul h _ _ _ _ | .imulh h _ _ _ _
  | .imad h _ _ _ _ _ | .iminmax h _ _ _ _ _ | .bool h _ _ _ _ _ _ | .shf h _ _ _ _ _ | .bfx h _ _ _ _
  | .bfi h _ _ _ _ | .bitc h _ _ _ | .icmp h _ _ _ | .sel h _ _ _ _ _ | .mov h _ _ _ | .movi h _ _ _
  | .lea h _ _ _ _ _ | .srd h _ _ | .swr h _ _ | .shfl h _ _ _ _ _ _ | .vcomp h _ _ _ _ | .vexp h _ _ _ _
  | .iscan h _ _ _ _ _ | .ired h _ _ _ _ | .bysel h _ _ _ _ | .fadd h _ _ _ _ _ | .fmul h _ _ _ _ _
  | .ffma h _ _ _ _ _ _ | .fminmax h _ _ _ _ | .fcmp h _ _ | .fclass h _ _ _ | .frnd h _ _ _ | .fscale h _ _ _ _
  | .dadd h _ _ _ _ _ | .dmul h _ _ _ _ _ | .dfma h _ _ _ _ _ _ | .dcmp h _ _ | .hadd2 h _ _ _ _ _ _
  | .hmul2 h _ _ _ _ _ _ | .hfma2 h _ _ _ _ _ _ _ | .sfn h _ _ _ | .aconj h _ _ _ | .anorm h _ _ _ _
  | .amul h _ _ _ _ _ _ _ | .fred h _ _ _ _ _ | .fscan h _ _ _ _ _ _ | .cvt h _ _ _ _ _ _ | .cvth2 h _ _ _ _ _ _
  | .cvtq8 h _ _ _ _ _ _ _ | .cvtq4 h _ _ _ _ _ _ | .cvtw h _ _ _ _ _ _ | .unpq h _ _ _ _ _ _ _
  | .bscale h _ _ _ _ | .srseed h _ | .i2i h _ _ _ _ _ | .draw h _ _ | .drawb h _ _ | .drawi h _ _ _ | .drawn h _ _
  | .drawt h _ _ | .csetup h _ | .cmut h _ _ _ | .cmutclr h | .cresult h _ _ | .crestart h _ | .caccept h _ _ _ _
  | .ccmp h _ _ _ | .cpeek h _ _ _ | .cseed h _ | .ld h _ _ _ _ | .st h _ _ _ | .ldv h _ _ _ | .stv h _ _ _
  | .ldk h _ _ _ _ | .atom h _ _ _ _ _ | .red h _ _ _ _ | .cas h _ _ _ _ _ | .fence h _ _ | .icinv h _ _ _ _
  | .cctl h _ _ _ _ | .pref h _ _ _ | .malg h _ _ _ _ | .mwld h _ _ _ _ _ _ | .mgath h _ _ | .mscale h _ _
  | .mma h _ _ _ _ _ _ _ | .mzero h _ _ _ | .mldacc h _ _ _ _ | .mdrain h _ _ _ | .mdrst h _ _ _ _ _ _ _ _
  | .mstat h _ _ _ | .copy h _ _ _ _ | .cwait h _ _ | .binit h _ _ | .barv h _ _ _ _ _ | .bwait h _ _ _
  | .btest h _ _ _ | .bexpt h _ _ | .discard h | .samp h _ _ _ _ _ | .sampinv h _ _ | .tbox h _ _ _
  | .ttri h _ _ _ _ | .spush h _ _ _ _ _ _ | .spop h _ _ _ _ | .shray h _ _ _ _ _ | .emitPayload h _ _ _ _
  | .emitVertex h _ _ _ | .emitPrim h _ _ | .emitColour h _ | .trap h _ _ | .trapretRetry h | .trapretSkip h
  | .trapretSupply h | .trapretAccept h | .launch h _ _ | .tlbinv h _ | .bkpt h _ => some h
  | _ => none

/-- The dimension of an algebra slot of a team (R290). -/
def Team.algDim (t : Team) (i : Nat) : Nat := (aget AlgRec.real t.algs i).d

/-- The register limit of an agent: the declared count, v511 unnamed (R38); 128 on the bursar (R224). -/
def State.regLimit (s : State) (ag : Agent) : Nat :=
  match ag with
  | .thread .. => Nat.min (s.descOf ag).nreg 511
  | .ctx .. => 128

/-- The first register operand of an instruction that breaks R38 or R39 for an agent. -/
def State.regBad (s : State) (ag : Agent) (i : Instr) : Option Nat :=
  let t := s.team (s.uidOf ag)
  (Instr.opds (t.desc.gwidth == 64) t.algDim i).findSome? (Opd.bad (s.regLimit ag))

/-- The registers an instruction names. -/
def State.regsOf (s : State) (ag : Agent) (i : Instr) : List Reg :=
  let t := s.team (s.uidOf ag)
  (Instr.opds (t.desc.gwidth == 64) t.algDim i).flatMap Opd.regs

/-! ## Encodings illegal for the executing agent -/

/-- May SRD (or, with `wr`, SWR) of a special register be made by an agent (R109, R264)? -/
def srOk (n : Nat) (wr bursar priv : Bool) : Bool :=
  if n ≥ 0x800 then !wr && priv && decide (n ≤ 0x806)
  else if wr then !bursar && (n == 0x020 || n == 0x052)
  else if n == 0x005 || n == 0x006 || n == 0x010 || n == 0x011 then true
  else !bursar && ([0x000, 0x001, 0x002, 0x003, 0x004, 0x020, 0x030, 0x031, 0x032, 0x033, 0x034, 0x035, 0x036, 0x040,
    0x050, 0x051, 0x052, 0x053, 0x054, 0x060].contains n)

/-- The forms that the bursar executes (Table 11-1). -/
def bursarOk (i : Instr) : Bool :=
  match i with
  | .nop _ | .bra .. | .brx .. | .call .. | .ret .. | .exit _ | .sleept .. => true
  | .rdv _ a => a == vz
  | .iadd .. | .isub .. | .imul .. | .imulh .. | .imad .. | .iminmax .. | .bool .. | .shf .. | .bfx .. | .bfi ..
  | .bitc .. | .icmp .. | .sel .. | .mov .. | .movi .. | .lea .. | .srd .. | .swr .. | .bysel .. => true
  | .fadd .. | .fmul .. | .ffma .. | .fminmax .. | .fcmp .. | .fclass .. | .frnd .. | .fscale .. => true
  | .cvt _ _ _ _ _ _ r => r != .sr
  | .cvtw _ _ _ _ _ _ r => r != .sr
  | .i2i .. => true
  | .ld _ _ _ f _ => f.space != .priv
  | .st _ _ _ f | .ldv _ _ _ f | .stv _ _ _ f => f.space != .priv
  | .ldk .. | .fence .. | .icinv .. => true
  | .atom _ _ _ _ f _ => f.space != .priv
  | .red _ _ _ f _ => f.space != .priv
  | .cas _ _ _ _ _ f => f.space != .priv
  | .cctl _ _ _ _ f | .pref _ _ _ f => f.space != .priv
  | .copy .. | .cwait .. | .binit .. | .bwait .. | .btest .. | .bexpt .. | .trap .. | .bkpt .. | .tlbinv .. => true
  | _ => false

/-- The site number of a draw form. -/
def siteOf : Instr → Option Nat
  | .draw _ _ s | .drawb _ _ s | .drawn _ _ s | .drawt _ _ s | .cpeek _ _ _ s => some s.toNat
  | .drawi _ _ _ s => some s.toNat
  | _ => none

/-- The barrier that an instruction names. -/
def barOf : Instr → Option Nat
  | .sleepp _ _ b | .binit _ _ b | .bwait _ _ _ b | .btest _ _ _ b | .bexpt _ _ b => some b.toNat
  | .barv _ _ _ _ _ b => some b.toNat
  | .copy _ _ _ _ f => f.bar.map (fun b => b.toNat)
  | _ => none

/-- Is the form ILLEGAL for this agent now (R49: form not permitted to the executing agent)? -/
def State.illegal (s : State) (ag : Agent) (i : Instr) : Bool :=
  let d := s.descOf ag
  let t := s.team (s.uidOf ag)
  let b := Agent.bursar ag
  (b && !bursarOk i) ||
  (match barOf i with
    | some n => decide (n ≥ d.nbar)
    | none => false) ||
  (match siteOf i with
    | some n => d.chmode != 1 && n != 0
    | none => false) ||
  (match i with
    | .copy .. | .cwait .. => !b
    | .srd _ _ n => !srOk n.toNat false b (s.privOf ag)
    | .swr _ _ n => !srOk n.toNat true b (s.privOf ag)
    | .tlbinv .. => !s.privOf ag
    | .emitPayload .. => t.stage != .task
    | .emitVertex .. | .emitPrim .. => t.stage != .mesh
    | .emitColour .. => t.stage != .pixel
    | .trapretRetry _ | .trapretSkip _ | .trapretSupply _ => !(s.trapOf ag).lvl
    | .trapretAccept _ => !(s.trapOf ag).lvl || (s.trapOf ag).cause != 0x0C
    | _ => false)

/-! ## Effective addresses (R166 to R170, R186) -/

/-- The code of a space (Table 8-1). -/
def spaceNo : Space → Nat
  | .glob => 0
  | .sp => 1
  | .psp => 2
  | .vlt => 3
  | .karg => 4
  | .priv => 5
  | .hnc => 6
  | .hc => 7

/-- The scratchpad bytes a space-1 or space-2 address may reach (R168). -/
def KDesc.half (d : KDesc) : Nat := if d.spans then ceilDiv d.scratch 8 * 4 else d.scratch

/-- The effective address, exactly (R166). -/
def State.ea (s : State) (ag : Agent) (spc : Space) (a : Reg) (ofs : BitVec 20) : Int :=
  (if Space.wide spc then ((s.reg64 ag a).toNat : Int) else ((s.reg ag a).toNat : Int)) + ofs.toInt

/-- The argument bytes an agent may read: ARGBYTES, or the payload of a mesh group (R167, R346). -/
def State.argBytes (s : State) (ag : Agent) : Nat :=
  match (s.team (s.uidOf ag)).payload with
  | some (_, b) => b
  | none => (s.descOf ag).argBytes

/-- The direct bytes of a vault (R169). -/
def State.vaultBytes (s : State) (v : Nat) : Nat := aget 0 s.mgmt.vsplit v * 2 ^ 20

/-- Do the n bytes at an address lie in the range of a space for an agent (Table 8-1)? -/
def State.inRange (s : State) (ag : Agent) (spc : Space) (x : Int) (n : Nat) : Bool :=
  let d := s.descOf ag
  let c := s.ctx (s.ctxNo (s.uidOf ag))
  let fits := fun (top : Nat) => decide (0 ≤ x) && decide (x + n ≤ (top : Int))
  match spc with
  | .glob => fits (2 ^ 57)
  | .sp => fits d.half
  | .psp => d.spans && fits d.half
  | .vlt => decide (0 ≤ x) && decide (x < 48 * 2 ^ 24) &&
      decide (x % 2 ^ 24 + n ≤ (s.vaultBytes (x / 2 ^ 24).toNat : Int))
  | .karg => fits (s.argBytes ag)
  | .priv => fits (s.launchOf ag).lr.privb
  | .hnc => fits c.hncsz.toNat
  | .hc => fits c.hcsz.toNat

/-- How an access uses its location. -/
inductive Use where
  | read | write | update
deriving DecidableEq, Repr

/-- Are the vault masks set for a use of vault v (R169)? -/
def State.vaultOk (s : State) (ag : Agent) (v : Nat) (u : Use) : Bool :=
  let c := s.ctx (s.ctxNo (s.uidOf ag))
  match u with
  | .read => c.vread.getLsbD v
  | .write => c.vwrite.getLsbD v
  | .update => c.vread.getLsbD v && c.vwrite.getLsbD v

/-- A trap's cause, TRAPVAL and TRAPADDR. -/
structure Trap where
  cause : Nat
  val : DWord
  addr : DWord
deriving DecidableEq, Repr

/-- The checks made at issue on an address, in the order of R186: ADDR_RANGE, ALIGN, VAULT_PROT. `align` is the size the
address must be a multiple of; `code` what TRAPVAL gives for ADDR_RANGE. -/
def State.checkAddr (s : State) (ag : Agent) (spc : Space) (x : Int) (n align : Nat) (u : Use) (code : Nat) :
    Option Trap :=
  if !s.inRange ag spc x n then some ⟨0x08, BitVec.ofNat 64 code, BitVec.ofInt 64 x⟩
  else if x % align != 0 then some ⟨0x09, BitVec.ofNat 64 align, BitVec.ofInt 64 x⟩
  else if spc == .vlt && !s.vaultOk ag (x / 2 ^ 24).toNat u then
    some ⟨0x0A, BitVec.ofInt 64 (x / 2 ^ 24), BitVec.ofInt 64 x⟩
  else none

/-- The linear index of a thread in its grid (R170). -/
def State.threadIndex (s : State) (u g l : Nat) : Nat := s.groupId u g * (s.team u).desc.gwidth + l

/-- The number of threads in a team's grid (R170); of a mesh or pixel stage, a free value (log entry 18). -/
def State.gridThreads (s : State) (u : Nat) : Nat :=
  let t := s.team u
  let l := s.launch t.launch
  match t.stage with
  | .compute | .task => l.lr.grid * l.lr.teamsz * t.desc.gwidth
  | .mesh => Config.stageThreads l.launchid.toNat 1
  | .pixel => Config.stageThreads l.launchid.toNat 2

/-- Where a private byte lies in space 0 (R170). -/
def State.swizzle (s : State) (ag : Agent) (o : Nat) : Nat :=
  match ag with
  | .thread u g l =>
    (s.launchOf ag).lr.pbase + (o / 8 * s.gridThreads u + s.threadIndex u g l) * 8 + o % 8
  | .ctx .. => o

/-- The base of the argument space in space 0: the launch's ARGS, or PIXARGS for the pixel kernel (R167, R382). -/
def State.argBase (s : State) (ag : Agent) : Nat :=
  let k := s.launchOf ag
  match (s.team (s.uidOf ag)).stage, k.draw with
  | .pixel, some d => d.pixArgs
  | _, _ => k.lr.args

/-- The team's scratchpad half that a space names for an agent: the half on the executing core, or the other (R168). -/
def State.side (s : State) (ag : Agent) (spc : Space) : Bool :=
  let t := s.team (s.uidOf ag)
  let own := s.coreOf ag != t.core
  if spc == .psp then !own else own

/-- The virtual address, for spaces that are translated (R171); arguments are read at their own address. -/
def State.va (s : State) (ag : Agent) (spc : Space) (ea : Nat) : Option Nat :=
  match spc with
  | .glob => some ea
  | .priv => some (s.swizzle ag ea)
  | .karg => match (s.team (s.uidOf ag)).payload with
    | some _ => none
    | none => some (s.argBase ag + ea)
  | _ => none

/-- The place that an address of an untranslated space names. -/
def State.place (s : State) (ag : Agent) (spc : Space) (ea : Nat) : Loc :=
  let c := s.ctx (s.ctxNo (s.uidOf ag))
  match spc with
  | .sp | .psp => .scr (s.uidOf ag) (s.side ag spc) ea
  | .hnc => .host (c.hncb.toNat + ea) false
  | .hc => .host (c.hcb.toNat + ea) true
  | .karg => match (s.team (s.uidOf ag)).payload with
    | some (a, _) => .vault (a + ea)
    | none => .vault ea
  | _ => .vault ea

/-! ## Special registers (R109 to R111, R264) -/

/-- The sealed promise of a barrier (R92). -/
def sealed (b : Nat) : DWord := BitVec.ofNat 64 (0xFFFFFFFFFFFFFFF0 + b % 16)

/-- CHSTATE: MODE, BANK and GEOM (Table 9-3). -/
def ChState.word (c : ChState) : Word := BitVec.ofNat 32 (c.mode % 4 + 4 * b2n c.bank + 8 * (c.geom % 4))

end Sys2Proof.Machine
end

