-- ==== Sys2Proof/Machine/Flags.lean ====
section
/-! DEFINITION. The condition-code computations: result flags (R99), addition and subtraction (R42, R100), float compares
(R42, R127), status flags that report zero (R242, R247 to R249), and results written with their codes. -/

namespace Sys2Proof.Machine

/-- The result flags of a w-bit result: Z and S, C and O clear (R99). -/
def resultFlags (w r : Nat) : CC := ⟨false, r % 2 ^ w == 0, nbit r (w - 1), false⟩

/-- Z alone (R180, R242, R247). -/
def zFlag (z : Bool) : CC := ⟨false, z, false, false⟩

/-- C, Z, S, O of a compare of floats: less, equal, greater, unordered (R42). -/
def floatFlags (x y : X) : CC :=
  match x, y with
  | .nan, _ | _, .nan => ⟨true, false, false, true⟩
  | x, y => if x.lt y then ⟨false, false, true, false⟩ else if x.eq y then ⟨true, true, false, false⟩
      else ⟨true, false, false, false⟩

/-- The sum of R100 at width w: the result and its codes. `sub` complements b and carries in 1; `cin` replaces the
carry. -/
def addCore (w : Nat) (sub : Bool) (cin : Option Bool) (a b : Nat) : Nat × CC :=
  let b' := if sub then 2 ^ w - 1 - b else b
  let c0 := match cin with
    | some c => b2n c
    | none => b2n sub
  let x := a + b' + c0
  let r := x % 2 ^ w
  (r, ⟨decide (x ≥ 2 ^ w), r == 0, nbit r (w - 1), (nbit a (w - 1) == nbit b' (w - 1)) && nbit r (w - 1) != nbit a (w - 1)⟩)

/-- IADD and ISUB (R100): the result and its codes. -/
def addSub (w : Nat) (sub : Bool) (mode : AddMode) (c : Bool) (a b : Nat) : Nat × CC :=
  let (r, f) := addCore w sub (if mode == .ci then some c else none) a b
  match mode with
  | .wrap | .ci => (r, f)
  | .sats =>
    let e := if sub then sgn w a - sgn w b else sgn w a + sgn w b
    let hi : Int := 2 ^ (w - 1) - 1
    let lo : Int := -(2 ^ (w - 1))
    let (r, clamp) := if e > hi then (2 ^ (w - 1) - 1, true) else if e < lo then (2 ^ (w - 1), true) else (r, false)
    (r, { f with z := r % 2 ^ w == 0, s := nbit r (w - 1), o := clamp })
  | .satu =>
    let e : Int := if sub then (a : Int) - b else a + b
    let (r, clamp) := if e > 2 ^ w - 1 then (2 ^ w - 1, true) else if e < 0 then (0, true) else (r, false)
    (r, { f with z := r % 2 ^ w == 0, s := nbit r (w - 1), o := clamp })

/-- Set the codes when W = 1 (R42). -/
def State.flagIf (s : State) (ag : Agent) (h : Hdr) (c : CC) : State := if h.w then s.setCC ag c else s

/-- Write a result of one register or a pair, with codes when W = 1 (R42, R99). -/
def State.result (s : State) (ag : Agent) (h : Hdr) (w64 : Bool) (d : Reg) (r : Nat) (c : CC) : State :=
  (s.setRegN ag w64 d r).flagIf ag h c

/-- Write a result with the result flags of its width (R99). -/
def State.resultRF (s : State) (ag : Agent) (h : Hdr) (w64 : Bool) (d : Reg) (r : Nat) : State :=
  s.result ag h w64 d r (resultFlags (if w64 then 64 else 32) r)

end Sys2Proof.Machine
end

