-- ==== Sys2Proof/Machine/Lane.lean ====
section
/-! DEFINITION. The frame of every per-lane form: the checks that each executing lane makes in the order of R51, the
condition (R41), the instruction's own effect, and what follows it (R30, R45, R78). -/

namespace Sys2Proof.Machine

/-- How an instruction leaves a lane or a context. -/
inductive LaneOut where
  /-- done: the PC steps to the next slot -/
  | done (s : State)
  /-- a taken transfer -/
  | jump (s : State) (t : Word)
  /-- it parks at this PC -/
  | park (s : State) (p : Park)
  /-- everything has been seen to -/
  | stay (s : State)
  /-- a trap at issue, after the effect on the state given -/
  | trap (s : State) (t : Trap)
deriving DecidableEq, Repr

/-- Is the first register operand of a form its destination D? -/
def hasDst (i : Instr) : Bool :=
  match i with
  | .brx .. | .ret .. | .meetrst .. | .mset .. | .sleept .. | .sleepp .. | .rdv .. | .icmp .. | .swr .. | .fcmp ..
  | .dcmp .. | .srseed .. | .csetup .. | .cmut .. | .cresult .. | .cseed .. | .st .. | .stv .. | .red .. | .icinv ..
  | .cctl .. | .pref .. | .malg .. | .mwld .. | .mgath .. | .mscale .. | .mldacc .. | .mdrst .. | .binit .. | .bexpt ..
  | .sampinv .. | .spush .. | .shray .. | .emitVertex .. | .emitPrim .. | .emitColour .. | .trap .. | .tlbinv .. => false
  | _ => true

/-- The registers of an instruction's destination, for an agent. -/
def State.dstOf (s : State) (ag : Agent) (i : Instr) : List Reg :=
  let t := s.team (s.uidOf ag)
  if hasDst i then
    match Instr.opds (t.desc.gwidth == 64) t.algDim i with
    | o :: _ => Opd.regs o
    | [] => []
  else []

/-- Raise a trap at issue of an instruction with these destination registers, which TRAPRET.supply may write (R258). -/
def State.raiseAs (s : State) (ag : Agent) (dst : List Reg) (t : Trap) : State :=
  (s.setTrap ag { s.trapOf ag with dst := dst }).raiseTrap ag t.cause t.val t.addr

/-- Raise a trap at issue of an instruction. -/
def State.raise (s : State) (ag : Agent) (i : Instr) (t : Trap) : State := s.raiseAs ag (s.dstOf ag i) t

/-- Raise a trap of a body at one of its signers. -/
def State.raiseSigned (s : State) (ag : Agent) (t : Trap) : State :=
  match s.park ag with
  | .signed _ _ i => s.raise ag i t
  | _ => s.raiseAs ag [] t

/-- What follows an instruction's effect. -/
def LaneOut.run (i : Instr) (ag : Agent) : LaneOut → State
  | .done s => s.advance ag
  | .jump s t => s.transfer ag t
  | .park s p => s.parkOn ag p
  | .stay s => s
  | .trap s t => s.raise ag i t

/-- The cause ILLEGAL (Table 12-1). -/
def trapIllegal : Trap := ⟨0x01, 0, 0⟩
/-- The cause REG_RANGE with the offending index (Table 12-1). -/
def trapReg (r : Nat) : Trap := ⟨0x02, BitVec.ofNat 64 r, 0⟩

/-- The encoding traps of an agent at an instruction (R49, R51): ILLEGAL before REG_RANGE. -/
def State.encodingTrap (s : State) (ag : Agent) (i : Instr) : Option Trap :=
  if s.illegal ag i then some trapIllegal else (s.regBad ag i).map trapReg

/-- Is the instruction's condition true for an agent (R40)? -/
def State.condOk (s : State) (ag : Agent) (i : Instr) : Bool :=
  match Instr.hdr i with
  | some h => Cond.holds h.cnd (s.cc ag)
  | none => true

/-- Does an agent execute an instruction: it acts, meets no encoding trap, and its condition is true (R40, R51)? -/
def State.executes (s : State) (ag : Agent) (i : Instr) : Bool :=
  s.live ag && (s.encodingTrap ag i).isNone && s.condOk ag i

/-- One lane executes an instruction whose own effect is f. ILLEGAL is decided lane by lane: it falls on all lanes alike, but for
TRAPRET, where only the lanes at TRAPLVL 0 raise it (R51; log entry 97). -/
def laneStep (i : Instr) (f : Agent → State → LaneOut) (s : State) (ag : Agent) : State :=
  if !s.live ag then s
  else match s.encodingTrap ag i with
    | some t => s.raise ag i t
    | none => if s.condOk ag i then (f ag s).run i ag else s.advance ag

/-- The cohort executes an instruction, lane by lane in ascending order (R41, R97). -/
def perLane (i : Instr) (f : Agent → State → LaneOut) (s : State) : Out :=
  .next (s.cur.agents.foldl (laneStep i f) s)

/-- A per-lane form that only changes registers, codes or memory and then steps on. -/
def simple (i : Instr) (f : Agent → State → State) (s : State) : Out := perLane i (fun ag s => .done (f ag s)) s

/-- The executing lanes of a cohort (R89): lanes that trap or whose condition is false are seen to first. -/
def cohort (i : Instr) (s : State) : State × List Agent :=
  s.cur.agents.foldl (fun (p : State × List Agent) ag =>
    let s := p.1
    if !s.live ag then p
    else match s.encodingTrap ag i with
      | some t => (s.raise ag i t, p.2)
      | none => if s.condOk ag i then (s, p.2 ++ [ag]) else (s.advance ag, p.2)) (s, [])

/-! ## Stalls of a cohort (R94, R339, R345) -/

/-- Serve the lanes of a stalling cohort in order; the first that cannot be served holds the rest. When every lane has
been served the cohort goes on. `n` is the number of its issue. -/
def stallRun (i : Instr) (n : Nat) (serve : Agent → State → Option State) (ags : List Agent) (s : State) : State :=
  let r := ags.foldl (fun (p : State × Bool) ag =>
    if p.1.park ag = .stall i n true then p
    else if p.2 then (p.1.setPark ag (.stall i n false), true)
    else match serve ag p.1 with
      | some s => (s.setPark ag (.stall i n true), false)
      | none => (p.1.setPark ag (.stall i n false), true)) (s, false)
  if r.2 then r.1 else ags.foldl State.release r.1

/-- The issue whose cohort's stall a lane is in. -/
def Park.stallNo : Park → Option Nat
  | .stall _ n _ => some n
  | _ => none

/-- The lanes of a group that stall in the cohort of an issue (R375). -/
def State.stalled (s : State) (u g n : Nat) : List Agent :=
  (((s.grp u g).unexited.filter (fun l => ((s.grp u g).thr l).park.stallNo == some n)).mergeSort).map (Agent.thread u g)

/-! ## Opening an access -/

/-- Does an instruction of the agent that has issued go on, which closes no window? -/
def Park.goesOn : Park → Bool
  | .again | .refused _ true => true
  | _ => false

/-- An access that an instruction of an agent opens, with the window its LA gives (R45), before its own fields are
set. -/
def State.blank (s : State) (ag : Agent) (h : Hdr) : Access :=
  { id := s.nextAcc, seq := s.nextSeq, ag := ag, pc := s.pc ag, op := .known [], dst := [], w := h.w, space := .glob,
    ea := 0, ga := 0, len := 0, ord := .plain, scope := .grp, nl1 := false, plain := false, racy := false, xl := [],
    stage := .issued, left := some h.la.toNat, vals := [], flags := none, retry := false,
    low := Agent.lane (s.cur.agents.headD ag), born := s.tick, shut := s.tick, watched := false }

/-- Issue an access. -/
def State.push (s : State) (a : Access) : State := { s with accs := s.accs ++ [a], nextAcc := s.nextAcc + 1 }

/-- A long-latency form whose values are known at issue and arrive later (R44, R45). -/
def State.later (s : State) (ag : Agent) (h : Hdr) (dst : List Reg) (vals : List Word) (c : Option CC) : State :=
  s.push { s.blank ag h with op := .known vals, dst := dst, flags := c }

end Sys2Proof.Machine
end

