-- ==== Sys2Proof/Machine/CrossLane.lean ====
section
/-! DEFINITION. The bodies of the class-0 and class-1 collectives: VOTE, SHFL, VCOMP, VEXP, ISCAN, IRED (R91, R112 to
R116). A body acts for its signers in ascending lane order, reads every operand before it writes, and releases them. -/

namespace Sys2Proof.Machine

/-- Release the signers of a body (R81). -/
def State.releaseAll (s : State) (m : List Agent) : State := m.foldl State.release s

/-- A whole-operation trap goes to every signer, with no other effect (R83). -/
def State.trapAll (s : State) (m : List Agent) (t : Trap) : State :=
  m.foldl (fun s ag => s.raiseSigned ag t) s

/-- Write one result to each signer, with codes when W = 1, and release them all. -/
def State.finish (s : State) (m : List Agent) (h : Hdr) (w64 : Bool) (d : Reg) (r : List (Nat × CC)) : State :=
  ((m.zip r).foldl (fun s e => s.result e.1 h w64 d e.2.1 e.2.2) s).releaseAll m

/-- The low register of each signer's operand. -/
def State.column (s : State) (m : List Agent) (a : Reg) : List Nat := m.map (fun ag => (s.reg ag a).toNat)

/-- The lane of each signer. -/
def lanes (m : List Agent) : List Nat := m.map Agent.lane

/-- The bits of the signers for which p holds. -/
def ballot (ls xs : List Nat) : Nat :=
  (ls.zip xs).foldl (fun b e => if e.2 = 0 then b else b ||| 2 ^ e.1) 0

/-- Does the group of a signer have 64 lanes (R80)? -/
def State.g64 (s : State) (m : List Agent) : Bool :=
  match m with
  | ag :: _ => (s.descOf ag).gwidth == 64
  | [] => false

/-- VOTE (R91). -/
def bodyVote (h : Hdr) (d a : Reg) (op : VoteOp) (m : List Agent) (s : State) : State :=
  let xs := s.column m a
  let b := ballot (lanes m) xs
  let w64 := op == .ballot && s.g64 m
  let r := match op with
    | .all => b2n (xs.all (fun x => x != 0))
    | .any => b2n (b != 0)
    | .uni => b2n (xs.all (fun x => x == xs.headD 0))
    | .ballot => b
  s.finish m h w64 d (m.map (fun _ => (r, resultFlags (if w64 then 64 else 32) r)))

/-- SHFL (R113). -/
def bodyShfl (h : Hdr) (d a b c : Reg) (op : ShflOp) (m : List Agent) (s : State) : State :=
  let src := (lanes m).zip (s.column m a)
  s.finish m h false d (m.map (fun ag =>
    let l := Agent.lane ag
    let k := (s.reg ag b).toNat
    let from' : Option Nat := match op with
      | .idx => some k
      | .up => if k ≤ l then some (l - k) else none
      | .down => some (l + k)
      | .xor => some (l ^^^ k)
    match from'.bind (afind src) with
    | some v => (v, { resultFlags 32 v with c := true })
    | none =>
      let v := (s.reg ag c).toNat
      (v, resultFlags 32 v)))

/-- The predicated signers of VCOMP and VEXP, ascending (R114). -/
def State.picked (s : State) (m : List Agent) (b : Reg) : List Agent := m.filter (fun ag => s.reg ag b != 0)

/-- Write some signers' destinations, and every signer's Z, S, C, O when W = 1; release all. -/
def State.finishSome (s : State) (m : List Agent) (h : Hdr) (d : Reg) (w : List (Agent × Word)) (z : List Bool) :
    State :=
  let s := w.foldl (fun s e => s.setReg e.1 d e.2) s
  ((m.zip z).foldl (fun s e => s.flagIf e.1 h (zFlag e.2)) s).releaseAll m

/-- VCOMP (R114). -/
def bodyVcomp (h : Hdr) (d a b : Reg) (m : List Agent) (s : State) : State :=
  let p := s.picked m b
  s.finishSome m h d (m.zip (p.map (fun ag => s.reg ag a))) ((List.range m.length).map (fun i => decide (i ≥ p.length)))

/-- VEXP (R115). -/
def bodyVexp (h : Hdr) (d a b : Reg) (m : List Agent) (s : State) : State :=
  let p := s.picked m b
  s.finishSome m h d (p.zip (m.map (fun ag => s.reg ag a))) (m.map (fun ag => !p.contains ag))

/-- x ⊙ y of Table 5-4. -/
def scanOp (op : ScanOp) (x y : Nat) : Nat :=
  match op with
  | .add => (x + y) % 2 ^ 32
  | .smin => if sgn 32 x < sgn 32 y then x else y
  | .smax => if sgn 32 x < sgn 32 y then y else x
  | .umin => if x < y then x else y
  | .umax => if x < y then y else x
  | .and => x &&& y
  | .or => x ||| y
  | .xor => x ^^^ y

/-- The identity of Table 5-4. -/
def scanId (op : ScanOp) : Nat :=
  match op with
  | .smin => 0x7FFFFFFF
  | .smax => 0x80000000
  | .umin | .and => 0xFFFFFFFF
  | _ => 0

/-- The running results of a scan: inclusive, or exclusive from the value x. -/
def scanList (op : ScanOp) (excl : Bool) (x : Nat) : List Nat → List Nat
  | [] => []
  | y :: t => (if excl then x else scanOp op x y) :: scanList op excl (scanOp op x y) t

/-- ISCAN (R116). -/
def bodyIscan (h : Hdr) (d a : Reg) (op : ScanOp) (excl : Bool) (m : List Agent) (s : State) : State :=
  s.finish m h false d ((scanList op excl (scanId op) (s.column m a)).map (fun r => (r, resultFlags 32 r)))

/-- IRED (R116). -/
def bodyIred (h : Hdr) (d a : Reg) (op : ScanOp) (m : List Agent) (s : State) : State :=
  let r := (s.column m a).foldl (scanOp op) (scanId op)
  s.finish m h false d (m.map (fun _ => (r, resultFlags 32 r)))

end Sys2Proof.Machine
end

