-- ==== Sys2Proof/Machine/Float.lean ====
section
/-! DEFINITION. Class 2: floating-point arithmetic, compares, special functions, algebra elements, and the bodies of FRED
and FSCAN (chapter 06). -/

namespace Sys2Proof.Machine

/-- The float result flags of an encoding (R121). -/
def floatRF (f : FFmt) (b : Nat) : CC :=
  match f.toX b with
  | .nan => ⟨false, false, false, true⟩
  | x => ⟨false, x.isZero, x.isNeg, false⟩

/-- The clamp of SAT on an encoding (R122). -/
def satClamp (f : FFmt) (b : Nat) : Nat :=
  match f.toX b with
  | .nan => 0
  | x => if x.isNeg then 0 else if (X.int 1).lt x then f.bias * 2 ^ f.mb else b

/-- Round to a float type and clamp when SAT is set (R122, R123). -/
def roundSat (f : FFmt) (sat : Bool) (r : Rnd) (x : X) : Nat :=
  let b := (f.round x r 0 false).bits
  if sat then satClamp f b else b

/-- The three arithmetic operations of R123. -/
inductive FArith where
  | add | mul | fma
deriving DecidableEq, Repr

/-- The exact value of R123; `rm` decides the sign of a zero sum (R120). -/
def FArith.exact (o : FArith) (rm : Bool) (a b c : X) : X :=
  match o with
  | .add => a.add rm b
  | .mul => a.mul b
  | .fma => (a.mul b).add rm c

/-- The result of R123 on encodings of a type. -/
def FArith.value (o : FArith) (f : FFmt) (sat : Bool) (r : Rnd) (a b c : Nat) : Nat :=
  roundSat f sat r (o.exact (r == .rm) (f.toX a) (f.toX b) (f.toX c))

/-- Write a float result with the flags of R121. -/
def State.resultF (s : State) (ag : Agent) (h : Hdr) (w64 : Bool) (d : Reg) (r : Nat) : State :=
  s.result ag h w64 d r (floatRF (if w64 then f64 else f32) r)

/-- R123 on f32 registers or f64 pairs. -/
def State.arith (s : State) (ag : Agent) (h : Hdr) (w64 : Bool) (o : FArith) (d a b c : Reg) (sat : Bool) (r : Rnd) :
    State :=
  s.resultF ag h w64 d
    (o.value (if w64 then f64 else f32) sat r (s.regN ag w64 a) (s.regN ag w64 b) (s.regN ag w64 c))

/-- FADD (R123). -/
def execFadd (h : Hdr) (d a b : Reg) (sat : Bool) (r : Rnd) (s : State) : Out :=
  simple (.fadd h d a b sat r) (fun ag s => s.arith ag h false .add d a b vz sat r) s

/-- FMUL (R123). -/
def execFmul (h : Hdr) (d a b : Reg) (sat : Bool) (r : Rnd) (s : State) : Out :=
  simple (.fmul h d a b sat r) (fun ag s => s.arith ag h false .mul d a b vz sat r) s

/-- FFMA (R123). -/
def execFfma (h : Hdr) (d a b c : Reg) (sat : Bool) (r : Rnd) (s : State) : Out :=
  simple (.ffma h d a b c sat r) (fun ag s => s.arith ag h false .fma d a b c sat r) s

/-- DADD (R123). -/
def execDadd (h : Hdr) (d a b : Reg) (sat : Bool) (r : Rnd) (s : State) : Out :=
  simple (.dadd h d a b sat r) (fun ag s => s.arith ag h true .add d a b vz sat r) s

/-- DMUL (R123). -/
def execDmul (h : Hdr) (d a b : Reg) (sat : Bool) (r : Rnd) (s : State) : Out :=
  simple (.dmul h d a b sat r) (fun ag s => s.arith ag h true .mul d a b vz sat r) s

/-- DFMA (R123). -/
def execDfma (h : Hdr) (d a b c : Reg) (sat : Bool) (r : Rnd) (s : State) : Out :=
  simple (.dfma h d a b c sat r) (fun ag s => s.arith ag h true .fma d a b c sat r) s

/-- The format of a packed half type. -/
def HalfTy.fmt : HalfTy → FFmt
  | .f16 => f16
  | .bf16 => bf16

/-- R124: an operation on each half of a register. -/
def packed (o : FArith) (f : FFmt) (sat : Bool) (r : Rnd) (a b c : Word) : Nat :=
  let half := fun (x : Word) (i : Nat) => bitf x.toNat (16 * i) 16
  o.value f sat r (half a 0) (half b 0) (half c 0) + 65536 * o.value f sat r (half a 1) (half b 1) (half c 1)

/-- HADD2 (R124). -/
def execHadd2 (h : Hdr) (d a b : Reg) (t : HalfTy) (sat : Bool) (r : Rnd) (s : State) : Out :=
  simple (.hadd2 h d a b t sat r) (fun ag s =>
    s.setRegN ag false d (packed .add (HalfTy.fmt t) sat r (s.reg ag a) (s.reg ag b) 0)) s

/-- HMUL2 (R124). -/
def execHmul2 (h : Hdr) (d a b : Reg) (t : HalfTy) (sat : Bool) (r : Rnd) (s : State) : Out :=
  simple (.hmul2 h d a b t sat r) (fun ag s =>
    s.setRegN ag false d (packed .mul (HalfTy.fmt t) sat r (s.reg ag a) (s.reg ag b) 0)) s

/-- HFMA2 (R124). -/
def execHfma2 (h : Hdr) (d a b c : Reg) (t : HalfTy) (sat : Bool) (r : Rnd) (s : State) : Out :=
  simple (.hfma2 h d a b c t sat r) (fun ag s =>
    s.setRegN ag false d (packed .fma (HalfTy.fmt t) sat r (s.reg ag a) (s.reg ag b) (s.reg ag c))) s

/-- A finite value rounded to an integer under a mode, its magnitude and then its sign (R125). -/
def roundInt (r : Rnd) (x : X) : Int :=
  match x with
  | .fin _ n d e =>
    let (k, q, u) := inUnits n.natAbs d e 0
    let k := if roundUp r (decide (n < 0)) 0 k q u then k + 1 else k
    if n < 0 then -(k : Int) else k
  | _ => 0

/-- FRND's result (R125). -/
def frndValue (r : Rnd) (a : Word) : Word :=
  match xf a with
  | .nan => nanf
  | .inf _ => a
  | x =>
    if (X.int (2 ^ 23)).lt x.abs || (X.int (2 ^ 23)).eq x.abs then a
    else
      let i := roundInt r x
      rfn (if i = 0 then .zero x.isNeg else .int i)

/-- FRND (R125). -/
def execFrnd (h : Hdr) (d a : Reg) (r : Rnd) (s : State) : Out :=
  simple (.frnd h d a r) (fun ag s => s.resultF ag h false d (frndValue r (s.reg ag a)).toNat) s

/-- FSCALE's result (R125). An exponent beyond ±600 scales every finite f32 out of range as ±600 does. -/
def fscaleValue (r : Rnd) (a b : Word) : Word :=
  match xf a with
  | .nan => nanf
  | .inf _ => a
  | x => rf (x.mul (.dy 1 (max (-600) (min 600 b.toInt)))) r

/-- FSCALE (R125). -/
def execFscale (h : Hdr) (d a b : Reg) (r : Rnd) (s : State) : Out :=
  simple (.fscale h d a b r) (fun ag s => s.resultF ag h false d (fscaleValue r (s.reg ag a) (s.reg ag b)).toNat) s

/-- FMINMAX's result (R126). -/
def fminmaxValue (op : FMinMax) (a b : Word) : Word :=
  match op with
  | .min => minmaxf false a b
  | .max => minmaxf true a b
  | .minn => minmaxnf false a b
  | .maxn => minmaxnf true a b

/-- FMINMAX (R126). -/
def execFminmax (h : Hdr) (d a b : Reg) (op : FMinMax) (s : State) : Out :=
  simple (.fminmax h d a b op) (fun ag s => s.resultF ag h false d (fminmaxValue op (s.reg ag a) (s.reg ag b)).toNat) s

/-- FCMP (R127). -/
def execFcmp (h : Hdr) (a b : Reg) (s : State) : Out :=
  simple (.fcmp h a b) (fun ag s => s.setCC ag (floatFlags (xf (s.reg ag a)) (xf (s.reg ag b)))) s

/-- DCMP (R127). -/
def execDcmp (h : Hdr) (a b : Reg) (s : State) : Out :=
  simple (.dcmp h a b) (fun ag s =>
    s.setCC ag (floatFlags (f64.toX (s.reg64 ag a).toNat) (f64.toX (s.reg64 ag b).toNat))) s

/-- The class bit of an f32 encoding (Table 6-2). -/
def classBit (a : Nat) : Nat :=
  let neg := nbit a 31
  let ex := bitf a 23 8
  let fr := bitf a 0 23
  if ex = 255 then (if fr = 0 then (if neg then 0 else 7) else if nbit a 22 then 9 else 8)
  else if ex = 0 then (if fr = 0 then (if neg then 3 else 4) else if neg then 2 else 5)
  else if neg then 1 else 6

/-- FCLASS (R128). -/
def execFclass (h : Hdr) (d a : Reg) (mask : BitVec 10) (s : State) : Out :=
  simple (.fclass h d a mask) (fun ag s =>
    let k := classBit (s.reg ag a).toNat
    s.result ag h false d (2 ^ k) (zFlag (!mask.getLsbD k))) s

/-! ## Special functions (R129 to R132) -/

/-- Byte i of a coefficient image. -/
def coefByte (img : BitVec 65536) (i : Nat) : Nat := bitf img.toNat (8 * i) 8

/-- The f32 at byte i of a coefficient image. -/
def coefWord (img : BitVec 65536) (i : Nat) : Word := BitVec.ofNat 32 (bitf img.toNat (8 * i) 32)

/-- The cubic of segment j of a slot, at u (R131): one FMA a step. Zeros when the slot has no segments. -/
def segment (img : BitVec 65536) (slot j : Nat) (u : X) : Word :=
  let n := coefByte img (8 * slot + 1)
  let base := bitf img.toNat (8 * (8 * slot + 4)) 16 + 16 * j
  let c := fun k => if n = 0 then .zero false else xf (coefWord img (base + 4 * k))
  let step := fun (p : X) (k : Nat) => xf (rfn ((p.mul u).add false (c k)))
  rfn ((((step (step (c 3) 2) 1).mul u)).add false (c 0))

/-- The cubic at t = tn / td in half h of a split slot, or of a slot that is not split (R131). -/
def segmentAt (img : BitVec 65536) (slot : Nat) (split : Bool) (h tn td : Nat) : Word :=
  let n := coefByte img (8 * slot + 1)
  let m := if split then n / 2 else n
  let j := tn * m / td
  segment img slot ((if split then h * m else 0) + j) (.fin false (tn * m % td : Nat) td 0)

/-- m − 1 as a numerator and denominator, and k, of a finite nonzero n × 2^e (R130). -/
def mantissa (n : Nat) (e : Int) : Nat × Nat × Int :=
  let l := Nat.log2 n
  (n - 2 ^ l, 2 ^ l, l + e)

/-- abs(x) mod 2, doubled, as q and t = tn / td (R131). -/
def halfTurns (n : Nat) (e : Int) : Nat × Nat × Nat :=
  let num := if 0 ≤ e then n * 2 ^ e.toNat else n
  let den := if 0 ≤ e then 1 else 2 ^ (-e).toNat
  let r := 2 * (num % (2 * den))
  (r / den, r % den, den)

/-- Is a finite x integral? -/
def X.integral (x : X) : Bool :=
  match x with
  | .fin _ n d e => (X.int x.floor).eq (.fin false n d e)
  | _ => false

/-- ±1.0 with a sign. -/
def signOne (neg : Bool) : Word := if neg then 0xBF800000 else 0x3F800000
/-- ±0 with a sign. -/
def signZero (neg : Bool) : Word := if neg then 0x80000000 else 0
/-- ±inf with a sign. -/
def signInf (neg : Bool) : Word := if neg then 0xFF800000 else 0x7F800000

/-- The special inputs of the slot kinds (Table 6-4). -/
def sfnSpecial (kd : Nat) (a : Word) (x : X) : Option Word :=
  let neg := x.isNeg
  match kd, x with
  | _, .nan => some nanf
  | 1, .inf _ => some (signZero neg)
  | 1, x => if x.isZero then some (signInf neg) else none
  | 2, .inf s => some (if s then nanf else 0)
  | 2, x => if x.isZero then some (signInf neg) else if neg then some nanf else none
  | 3, .inf s => some (if s then nanf else signInf false)
  | 3, x => if x.isZero then some (signZero neg) else if neg then some nanf else none
  | 4, .inf s => some (if s then 0 else signInf false)
  | 4, x => if !x.lt (.int 128) then some (signInf false) else if x.lt (.int (-150)) then some 0 else none
  | 5, .inf s => some (if s then nanf else signInf false)
  | 5, x => if x.isZero then some (signInf true) else if neg then some nanf else none
  | 6, .inf _ => some nanf
  | 6, x => if x.integral then some (signZero neg) else none
  | 7, .inf _ => some nanf
  | 7, x => if (x.add false (.dy 1 (-1))).integral then some 0 else none
  | 8, .inf _ => some (signOne neg)
  | 8, x => if !x.abs.lt (.int 16) then some (signOne neg) else if x.abs.lt (.dy 1 (-12)) then some a else none
  | _, .inf _ => some nanf
  | _, _ => none

/-- SFN of a slot of an image (R131). -/
def sfnValue (img : BitVec 65536) (slot : Nat) (a : Word) : Word :=
  let kd := coefByte img (8 * slot)
  match sfnSpecial kd a (xf a), xf a with
  | some r, _ => r
  | none, .fin s n _ e =>
    let x := xf a
    let m := n.natAbs
    let (tn, td, k) := mantissa m e
    let (q, pn, pd) := halfTurns m e
    let sgnd := fun (neg : Bool) (y : X) => rfn (if neg then y.neg else y)
    match kd with
    | 1 => sgnd x.isNeg ((xf (segmentAt img slot false 0 tn td)).mul (.dy 1 (-k)))
    | 2 => rfn ((xf (segmentAt img slot true (k % 2).toNat tn td)).mul (.dy 1 (-(k / 2))))
    | 3 => rfn ((xf (segmentAt img slot true (k % 2).toNat tn td)).mul (.dy 1 (k / 2)))
    | 4 =>
      let fl := x.floor
      let den : Nat := if 0 ≤ e then 1 else 2 ^ (-e).toNat
      let num := (if 0 ≤ e then n * 2 ^ e.toNat else n) - fl * den
      rfn ((xf (segmentAt img slot false 0 num.toNat den)).mul (.dy 1 fl))
    | 5 => rfn ((X.int k).add false (xf (segmentAt img slot false 0 tn td)))
    | 6 => sgnd (decide (2 ≤ q) != s) (xf (segmentAt img slot true (q % 2) pn pd))
    | 7 =>
      let q := (q + 1) % 4
      sgnd (decide (2 ≤ q)) (xf (segmentAt img slot true (q % 2) pn pd))
    | 8 =>
      match xf (rfn (x.abs.mul (.dy 1 (-4)))) with
      | .fin _ n' _ e' =>
        let num := if 0 ≤ e' then n'.natAbs * 2 ^ e'.toNat else n'.natAbs
        let den := if 0 ≤ e' then 1 else 2 ^ (-e').toNat
        sgnd x.isNeg (xf (segmentAt img slot false 0 num den))
      | _ => 0
    | _ => segment img slot 0 x
  | none, _ => nanf

/-- SFN (R131): long-latency. -/
def execSfn (h : Hdr) (d a : Reg) (slot : BitVec 4) (s : State) : Out :=
  simple (.sfn h d a slot) (fun ag s =>
    let r := sfnValue (s.core (s.coreOf ag)).coef slot.toNat (s.reg ag a)
    s.later ag h [d] [r] (if h.w then some (floatRF f32 r.toNat) else none)) s

/-! ## Algebra elements (R134, R135) -/

/-- Conjugation: the masked components change sign (R135). -/
def conjRun (r : AlgRec) (x : List Word) : List Word :=
  (x.zip (List.range x.length)).map (fun e => if r.mask.getLsbD e.2 then e.1 ^^^ 0x80000000 else e.1)

/-- The nibble of basis pair (i, j) (R67). -/
def AlgRec.nibble (r : AlgRec) (i j : Nat) : Nat := bitf r.tbl.toNat (4 * (4 * i + j)) 4

/-- The exact products that contribute to component k (R135). -/
def AlgRec.terms (r : AlgRec) (k : Nat) (x y : List X) : List X :=
  (List.range r.d).flatMap (fun i => (List.range r.d).filterMap (fun j =>
    let nb := r.nibble i j
    if nb % 4 = k && nb / 4 != 2 then
      let p := (x.getD i (.zero false)).mul (y.getD j (.zero false))
      some (if nb / 4 = 1 then p.neg else p)
    else none))

/-- The exact sum of products under IEEE rules for special values; `rm` decides the sign of a mixed zero (R135). The spec gives
a component to which no product contributes no sign, and the model makes it +0 (log entry 83). -/
def sumTerms (rm : Bool) (ts : List X) : X :=
  match ts with
  | [] => .zero false
  | t :: r => r.foldl (X.add rm) t

/-- AMUL of two elements (R135). -/
def AlgRec.product (r : AlgRec) (rnd : Rnd) (x y : List Word) : List Word :=
  (List.range r.d).map (fun k => rf (sumTerms (rnd == .rm) (r.terms k (x.map xf) (y.map xf))) rnd)

/-- An agent's team's algebra slot, as it stands (R134). -/
def State.algebra (s : State) (ag : Agent) (i : BitVec 2) : AlgRec :=
  aget AlgRec.real (s.team (s.uidOf ag)).algs i.toNat

/-- An f32 as a class-2 form writes it: a NaN is the canonical one (R120). -/
def canonical (x : Word) : Word := if xf x == .nan then nanf else x

/-- ACONJ (R120, R135). -/
def execAconj (h : Hdr) (d a : Reg) (alg : BitVec 2) (s : State) : Out :=
  simple (.aconj h d a alg) (fun ag s =>
    let r := s.algebra ag alg
    s.setRun ag d ((conjRun r (s.regRun ag a r.d)).map canonical)) s

/-- ANORM (R135). -/
def execAnorm (h : Hdr) (d a : Reg) (alg : BitVec 2) (rnd : Rnd) (s : State) : Out :=
  simple (.anorm h d a alg rnd) (fun ag s =>
    let r := s.algebra ag alg
    let x := s.regRun ag a r.d
    s.resultF ag h false d (((r.product rnd x (conjRun r x)).headD 0).toNat)) s

/-- AMUL (R135). -/
def execAmul (h : Hdr) (d a b : Reg) (alg : BitVec 2) (ca cb : Bool) (rnd : Rnd) (s : State) : Out :=
  simple (.amul h d a b alg ca cb rnd) (fun ag s =>
    let r := s.algebra ag alg
    let x := s.regRun ag a r.d
    let y := s.regRun ag b r.d
    s.setRun ag d (r.product rnd (if ca then conjRun r x else x) (if cb then conjRun r y else y))) s

/-! ## FRED and FSCAN (R136) -/

/-- The special values of a sum: a NaN or both infinities, or one infinity (R136). -/
def sumSpecial (xs : List X) : Option Word :=
  let pos := xs.contains (.inf false)
  let neg := xs.contains (.inf true)
  if xs.contains .nan || (pos && neg) then some nanf
  else if pos then some (signInf false) else if neg then some (signInf true) else none

/-- S of a list under a ductus (R136). -/
def ductSum (t : BitVec 2) (xs : List Word) : Word :=
  let vs := xs.map xf
  let run := fun (l : List Word) => match l with
    | [] => (0 : Word)
    | x :: r => r.foldl addf x
  match sumSpecial vs with
  | some r => r
  | none => match t.toNat with
    | 0 => run xs
    | 1 => rfn (treeSum 7 vs)
    | 2 => run ((runs32 64 vs).map (fun l => rfn (xsum l)))
    | _ => rfn (xsum vs)

/-- The value over a list of FRED's and FSCAN's operations; the identity of an empty list (R136). -/
def fredValue (op : FRedOp) (t : BitVec 2) (xs : List Word) : Word :=
  let ext := fun (mx : Bool) => match xs with
    | [] => signInf !mx
    | [x] => minmaxf mx x x
    | x :: r => r.foldl (minmaxf mx) x
  match op with
  | .add => ductSum t xs
  | .min => match xs with
    | [] => signInf false
    | _ => ext false
  | .max => match xs with
    | [] => signInf true
    | _ => ext true

/-- FRED (R136), of the registers as they stand (log entry 96). -/
def bodyFred (h : Hdr) (d a : Reg) (op : FRedOp) (t : BitVec 2) (m : List Agent) (s : State) : State :=
  let r := (fredValue op t (m.map (fun ag => s.reg ag a))).toNat
  s.finish m h false d (m.map (fun _ => (r, floatRF f32 r)))

/-- FSCAN (R136), of the registers as they stand (log entry 96). -/
def bodyFscan (h : Hdr) (d a : Reg) (op : FRedOp) (t : BitVec 2) (excl : Bool) (m : List Agent) (s : State) : State :=
  let xs := m.map (fun ag => s.reg ag a)
  s.finish m h false d ((List.range m.length).map (fun i =>
    let r := (fredValue op t (xs.take (if excl then i else i + 1))).toNat
    (r, floatRF f32 r)))

end Sys2Proof.Machine
end

