-- ==== Sys2Proof/Machine/Convert.lean ====
section
/-! DEFINITION. Class 3: conversions between number formats, stochastic rounding and block scales (chapter 07). -/

namespace Sys2Proof.Machine

/-! ## Stochastic rounding (R149, R150) -/

/-- rotl32 (R6). -/
def rotl32 (x k : Nat) : Nat := x * 2 ^ (k % 32) % 2 ^ 32 + x / 2 ^ (32 - k % 32)

/-- The random value of element e in a lane (R150). -/
def srRandom (key : DWord) (gid : Nat) (c : BitVec 40) (lane e : Nat) : Nat :=
  let g := high32 (mix64 (key ^^^ BitVec.ofNat 64 (gid * 2 ^ 40) ^^^ BitVec.ofNat 64 ((c + BitVec.ofNat 40 e).toNat)))
  rotl32 g.toNat (7 * lane % 32) % 65536

/-- The random values of n elements in a lane under sr, and the advanced count; zeros in the other modes (R150). -/
def State.rounding (s : State) (ag : Agent) (r : Rnd) (n : Nat) : State × List Nat :=
  match r, ag with
  | .sr, .thread u g l =>
    let t := s.thr u g l
    let rs := (List.range n).map (srRandom (s.grp u g).srkey (s.groupId u g) t.conv l)
    (s.setThr u g l { t with conv := t.conv + BitVec.ofNat 40 n }, rs)
  | _, _ => (s, List.replicate n 0)

/-! ## Converting elements -/

/-- Round a list of values to one type. -/
def convAll (t : NumTy) (satf : Bool) (r : Rnd) (xs : List X) (rs : List Nat) : List Rounded :=
  (xs.zip rs).map (fun e => NumTy.round t e.1 r e.2 satf)

/-- Elements packed from bit 0 upwards. -/
def packAll (w : Nat) : List Rounded → Nat
  | [] => 0
  | x :: t => x.bits + 2 ^ w * packAll w t

/-- The flags of a class-3 conversion (Table 7-6). -/
def convFlags (t : NumTy) (rs : List Rounded) : CC :=
  let vs := rs.map (fun x => NumTy.toX t x.bits)
  ⟨rs.any (fun x => x.inexact), vs.all X.isZero, (vs.headD (.zero false)).isNeg, rs.any (fun x => x.clamp)⟩

/-- Convert, write the packed result, set the flags (R154). -/
def State.convert (s : State) (ag : Agent) (h : Hdr) (wide : Bool) (d : Reg) (t : NumTy) (satf : Bool) (r : Rnd)
    (xs : List X) : State :=
  let (s, rs) := s.rounding ag r xs.length
  let ys := convAll t satf r xs rs
  s.result ag h wide d (packAll (NumTy.width t) ys) (convFlags t ys)

/-- CVT (R155). -/
def execCvt (h : Hdr) (d a : Reg) (dt st : NumTy) (satf : Bool) (r : Rnd) (s : State) : Out :=
  simple (.cvt h d a dt st satf r) (fun ag s =>
    s.convert ag h (NumTy.wide dt) d dt satf r
      [NumTy.toX st (s.regN ag (NumTy.wide st) a % 2 ^ NumTy.width st)]) s

/-- The number type of a packed half type. -/
def HalfTy.ty : HalfTy → NumTy
  | .f16 => .f16
  | .bf16 => .bf16

/-- CVTH2 (R156). -/
def execCvth2 (h : Hdr) (d a b : Reg) (t : HalfTy) (satf : Bool) (r : Rnd) (s : State) : Out :=
  simple (.cvth2 h d a b t satf r) (fun ag s =>
    s.convert ag h false d (HalfTy.ty t) satf r [xf (s.reg ag a), xf (s.reg ag b)]) s

/-- x × 2^(127 − e), or NaN for e = 0xFF, when SCL is set (R157). -/
def unscale (scl : Bool) (e : Nat) (x : X) : X :=
  if !scl then x else if e = 255 then .nan else x.mul (.dy 1 (127 - e))

/-- The number type of CVTQ8. -/
def Q8Ty.ty : Q8Ty → NumTy
  | .e4m3 => .e4m3
  | .e5m2 => .e5m2
  | .p2x2 => .p2x2
  | .s8 => .s8

/-- CVTQ8 (R157). -/
def execCvtq8 (h : Hdr) (d a b : Reg) (t : Q8Ty) (scl satf : Bool) (r : Rnd) (s : State) : Out :=
  simple (.cvtq8 h d a b t scl satf r) (fun ag s =>
    s.convert ag h false d (Q8Ty.ty t) satf r
      ((s.regRun ag a 4).map (fun w => unscale scl ((s.reg ag b).toNat % 256) (xf w)))) s

/-- CVTQ4 (R157). -/
def execCvtq4 (h : Hdr) (d a b : Reg) (scl satf : Bool) (r : Rnd) (s : State) : Out :=
  simple (.cvtq4 h d a b scl satf r) (fun ag s =>
    s.convert ag h false d .e2m1 satf r
      ((s.regRun ag a 8).map (fun w => unscale scl ((s.reg ag b).toNat % 256) (xf w)))) s

/-- Is a CVTW operation one on 64-bit pairs (R159)? -/
def CvtwOp.wide : CvtwOp → Bool
  | .sf64 | .f64s => true
  | _ => false

/-- CVTW (R159). -/
def execCvtw (h : Hdr) (d a : Reg) (op : CvtwOp) (q : BitVec 6) (satf : Bool) (r : Rnd) (s : State) : Out :=
  simple (.cvtw h d a op q satf r) (fun ag s =>
    let v := s.regN ag (CvtwOp.wide op) a
    let up := X.dy 1 q.toNat
    let down := X.dy 1 (-(q.toNat : Int))
    let (t, x) : NumTy × X := match op with
      | .sf32 => (.s32, (f32.toX v).mul up)
      | .nf32 => (.n32, (f32.toX v).mul up)
      | .sf64 => (.s64, (f64.toX v).mul up)
      | .f32s => (.f32, (X.int (sgn 32 v)).mul down)
      | .f32n => (.f32, (X.int v).mul down)
      | .f64s => (.f64, (X.int (sgn 64 v)).mul down)
    s.convert ag h (CvtwOp.wide op) d t satf r [x]) s

/-- The number type of UNPQ. -/
def UnpTy.ty : UnpTy → NumTy
  | .f16 => .f16
  | .bf16 => .bf16
  | .e4m3 => .e4m3
  | .e5m2 => .e5m2
  | .e2m1 => .e2m1
  | .p2x2 => .p2x2
  | .s8 => .s8

/-- UNPQ (R158). -/
def execUnpq (h : Hdr) (d a b : Reg) (t : UnpTy) (scl satf : Bool) (r : Rnd) (s : State) : Out :=
  simple (.unpq h d a b t scl satf r) (fun ag s =>
    let w := NumTy.width (UnpTy.ty t)
    let e := (s.reg ag b).toNat % 256
    let xs := (List.range (UnpTy.count t)).map (fun k =>
      let x := NumTy.toX (UnpTy.ty t) (bitf (s.reg ag a).toNat (w * k) w)
      if !scl then x else if e = 255 then .nan else x.mul (.dy 1 ((e : Int) - 127)))
    let ys := convAll .f32 satf r xs (List.replicate xs.length 0)
    (s.setRun ag d (ys.map (fun y => BitVec.ofNat 32 y.bits))).flagIf ag h (convFlags .f32 ys)) s

/-- The width, signedness of an I2I type (Table 7-4). -/
def I2ITy.shape : I2ITy → Nat × Bool
  | .s8 => (8, true)
  | .n8 => (8, false)
  | .s16 => (16, true)
  | .n16 => (16, false)
  | .s32 => (32, true)
  | .n32 => (32, false)
  | .s64 => (64, true)
  | .n64 => (64, false)

/-- I2I's result as written, and whether it was clamped (R160). -/
def i2iValue (dt st : I2ITy) (sat : Bool) (v : Nat) : Nat × Bool :=
  let (sw, ss) := I2ITy.shape st
  let (dw, ds) := I2ITy.shape dt
  let x : Int := if ss then sgn sw v else (v % 2 ^ sw : Nat)
  let lo : Int := if ds then -(2 ^ (dw - 1)) else 0
  let hi : Int := if ds then 2 ^ (dw - 1) - 1 else 2 ^ dw - 1
  let (y, clamp) := if sat && decide (x < lo) then (lo, true) else if sat && decide (hi < x) then (hi, true)
    else (x, false)
  let z : Int := if ds then sgn dw (wrapN dw y) else wrapN dw y
  (wrapN (if dw = 64 then 64 else 32) z, clamp)

/-- I2I (R160). -/
def execI2i (h : Hdr) (d a : Reg) (dt st : I2ITy) (sat : Bool) (s : State) : Out :=
  simple (.i2i h d a dt st sat) (fun ag s =>
    let (r, clamp) := i2iValue dt st sat (s.regN ag (I2ITy.wide st) a)
    s.result ag h (I2ITy.wide dt) d r
      { resultFlags (if I2ITy.wide dt then 64 else 32) r with o := clamp }) s

/-- EMAX of a block-scaled type (R161). -/
def BscTy.emax : BscTy → Int
  | .e4m3 => 8
  | .e5m2 => 15
  | .e2m1 => 2
  | .p2x2 => 1
  | .s8 => 6

/-- The scale of a block of values, and whether it was clamped; the last says the block is all zero (R161). -/
def blockScale (t : BscTy) (xs : List X) : Nat × Bool × Bool :=
  if xs.any (fun x => match x with
      | .fin .. => false
      | _ => true) then (255, true, false)
  else
    let a := xs.foldl (fun m x => if m.lt x.abs then x.abs else m) (.zero false)
    match a with
    | .fin _ n d e =>
      if n = 0 then (127, false, true)
      else
        let k := ilog n.natAbs d + e - BscTy.emax t + 127
        ((max k 0).toNat, decide (k < 0), false)
    | _ => (255, true, false)

/-- BSCALE (R161). -/
def bodyBscale (h : Hdr) (d a : Reg) (t : BscTy) (m : List Agent) (s : State) : State :=
  let (e, clamp, zero) := blockScale t (m.map (fun ag => xf (s.reg ag a)))
  s.finish m h false d (m.map (fun _ => (e, ⟨false, zero, false, clamp⟩)))

/-- SRSEED (R162): the group's key from the lowest executing lane, every lane's count to 0. -/
def execSrseed (h : Hdr) (a : Reg) (s : State) : Out :=
  let (s, ex) := cohort (.srseed h a) s
  match ex with
  | .thread u g l :: _ =>
    let k := s.grp u g
    let s' := s.setGrp u g { k with
      srkey := s.reg64 (.thread u g l) a,
      threads := k.threads.map (fun e => (e.1, { e.2 with conv := 0 })) }
    .next (ex.foldl State.advance s')
  | _ => .next (ex.foldl State.advance s)

end Sys2Proof.Machine
end

