-- ==== Sys2Proof/Machine/Memory.lean ====
section
/-! DEFINITION. Class 5: how an access is checked and issued, translated, and performed at its port (chapter 08, R355 to
R367), and the fetch of code lines (R31, R266, R371). -/

namespace Sys2Proof.Machine

/-! ## Pieces of an access (R174) -/

/-- The single-copy atomic pieces of an access: its offset and length; a run of four registers has two. -/
def piecesOf (len : Nat) : List (Nat × Nat) := if len = 16 then [(0, 8), (8, 8)] else [(0, len)]

/-- Is a space translated for an agent (R171)? -/
def State.translated (s : State) (ag : Agent) (x : Space) : Bool := (s.va ag x 0).isSome

/-- What an access asks of a page (R267, R269). -/
def AccOp.need : AccOp → Need
  | .store _ | .upd .. | .cas .. => .write
  | _ => .read

/-- The kind of a fault record for an access (R270). -/
def AccOp.kind : AccOp → FaultKind
  | .store _ => .store
  | .upd .. | .cas .. => .update
  | .samp .. => .sampler
  | _ => .load

/-- The place of piece i of an access, once translated. -/
def State.placeOf (s : State) (a : Access) (i : Nat) : Loc :=
  match afind a.xl i with
  | some pa => .hbm pa
  | none => s.place a.ag a.space (a.ea + 8 * i)

/-! ## Checks at issue (R186, R187) -/

/-- Is an update order-dependent (R187)? -/
def UpdOp.ordered : UpdOp → Bool
  | .exch | .fadd | .fadd2 | .incw | .fmin | .fmax => true
  | _ => false

/-- Does the last byte of an access lie beyond space 0, once swizzled (R170) or added to the arguments' base? -/
def State.beyond (s : State) (ag : Agent) (x : Space) (ea : Int) (n : Nat) : Bool :=
  s.inRange ag x ea n && (match s.va ag x (ea.toNat + n - 1) with
    | some v => decide (v ≥ 2 ^ 57)
    | none => false)

/-- The checks of an access at issue in the order of R186; `timed` says whether DET_TIMING holds for its form. -/
def State.checkAccess (s : State) (ag : Agent) (x : Space) (ea : Int) (n align : Nat) (u : Use) (timed : Bool) :
    Option Trap :=
  let code := BitVec.ofNat 64 (spaceNo x)
  if s.det ag && (timed || x == .hnc || x == .hc) then some ⟨0x0D, code, 0⟩
  else if s.beyond ag x ea n then some ⟨0x08, code, BitVec.ofInt 64 ea⟩
  else s.checkAddr ag x ea n align u (spaceNo x)

/-- Is a space held back by speculation and escrow (R391, R398)? -/
def Space.held : Space → Bool
  | .glob | .vlt | .priv => true
  | _ => false

/-- Does an access commit its team's escrow interval early (R399)? -/
def commitsEarly (x : Space) (atomic : Bool) : Bool := x == .hnc || x == .hc || (atomic && Space.held x)

/-- Check and issue one access of a lane (R178, R180). -/
def State.issueAcc (s : State) (ag : Agent) (h : Hdr) (f : MemF) (a : Reg) (op : AccOp) (dst : List Reg) (u : Use)
    (atomic timed plain window : Bool) : LaneOut :=
  let n := Size.bytes f.size
  let ea := s.ea ag f.space a f.ofs
  match s.checkAccess ag f.space ea n n u timed with
  | some t => .trap s t
  | none =>
    let s := if commitsEarly f.space atomic then s.commitEarly (s.uidOf ag) else s
    .done (s.push { s.blank ag h with
      op := op, dst := dst, space := f.space, ea := ea.toNat, ga := (s.va ag f.space ea.toNat).getD 0, len := n,
      ord := f.ord, scope := f.scope, nl1 := f.hint == .nl1, plain := plain, watched := true,
      stage := if s.translated ag f.space then .issued else .ready,
      left := if window then some h.la.toNat else none })

/-- The destination registers of a value of a size. -/
def Size.dst (z : Size) (d : Reg) : List Reg := runOf d (Size.regs z)

/-- The value of a data operand of a size, as a number (R178). -/
def State.data (s : State) (ag : Agent) (z : Size) (b : Reg) : Nat :=
  ofWords (s.regRun ag b (Size.regs z)) % 2 ^ (8 * Size.bytes z)

/-- LD (R178). -/
def execLd (h : Hdr) (d a : Reg) (f : MemF) (sx : Bool) (s : State) : Out :=
  perLane (.ld h d a f sx) (fun ag s =>
    s.issueAcc ag h f a (.load sx) (Size.dst f.size d) .read false false (f.ord == .plain) true) s

/-- LDV (R178). -/
def execLdv (h : Hdr) (d a : Reg) (f : MemF) (s : State) : Out :=
  perLane (.ldv h d a f) (fun ag s =>
    s.issueAcc ag h f a (.load false) (Size.dst f.size d) .read false false (f.ord == .plain) true) s

/-- LDK (R178): never checked for RACE (R186). -/
def execLdk (h : Hdr) (d a : Reg) (f : MemF) (sx : Bool) (s : State) : Out :=
  perLane (.ldk h d a f sx) (fun ag s =>
    s.issueAcc ag h f a (.load sx) (Size.dst f.size d) .read false false false true) s

/-- ST (R178): no window. -/
def execSt (h : Hdr) (a b : Reg) (f : MemF) (s : State) : Out :=
  perLane (.st h a b f) (fun ag s =>
    s.issueAcc ag h f a (.store (s.data ag f.size b)) [] .write false false (f.ord == .plain) false) s

/-- STV (R178): no window. -/
def execStv (h : Hdr) (a b : Reg) (f : MemF) (s : State) : Out :=
  perLane (.stv h a b f) (fun ag s =>
    s.issueAcc ag h f a (.store (s.data ag f.size b)) [] .write false false (f.ord == .plain) false) s

/-- Is a space a scratchpad space? -/
def Space.scratch : Space → Bool
  | .sp | .psp => true
  | _ => false

/-- ATOM (R180, R187). -/
def execAtom (h : Hdr) (d a b : Reg) (f : MemF) (op : UpdOp) (s : State) : Out :=
  perLane (.atom h d a b f op) (fun ag s =>
    s.issueAcc ag h f a (.upd op (s.data ag f.size b)) (Size.dst f.size d) .update true (Space.scratch f.space) false
      true) s

/-- RED (R180, R187): no window. -/
def execRed (h : Hdr) (a b : Reg) (f : MemF) (op : UpdOp) (s : State) : Out :=
  perLane (.red h a b f op) (fun ag s =>
    s.issueAcc ag h f a (.upd op (s.data ag f.size b)) [] .update false (Space.scratch f.space && UpdOp.ordered op)
      false false) s

/-- CAS (R180, R187). -/
def execCas (h : Hdr) (d a b c : Reg) (f : MemF) (s : State) : Out :=
  perLane (.cas h d a b c f) (fun ag s =>
    s.issueAcc ag h f a (.cas (s.data ag f.size b) (s.data ag f.size c)) (Size.dst f.size d) .update true
      (Space.scratch f.space) false true) s

/-! ## PAGE_WALK (R171, R266 to R270) -/

/-- Translate the pieces of an access, in order: the first that fails decides. -/
def State.walkPieces (s : State) (core ctx : Nat) (n : Need) : List (Nat × Nat) → State × List (Nat × Nat) × Option (Nat × Paged)
  | [] => (s, [], none)
  | (i, va) :: t =>
    match s.translate core ctx va n with
    | (s, .pa x) =>
      let (s, xl, e) := s.walkPieces core ctx n t
      (s, (i, x) :: xl, e)
    | (s, p) => (s, [], some (va, p))

/-- An access is found to trap: a killed agent's access only disappears (R46, R259); that of a halted one keeps its trap
until the agent issues again (R270, R271). -/
def State.trapAcc (s : State) (a : Access) (cause : Nat) (val addr : DWord) : State :=
  if s.traps a.ag then s.putAcc { a with stage := .trapped cause val addr } else s.dropAcc a.id

/-- The walk of an issued access completes (R269). -/
def State.walkAcc (s : State) (a : Access) : State :=
  let core := s.coreOf a.ag
  let ctx := s.ctxNo (s.uidOf a.ag)
  let vas := (piecesOf a.len).map (fun p => (p.1 / 8, (s.va a.ag a.space (a.ea + p.1)).getD 0))
  match s.walkPieces core ctx a.op.need vas with
  | (s, xl, none) => s.putAcc { a with xl := xl, stage := .ready }
  | (s, _, some (va, .missing)) =>
    let (s, n) := s.postFault core ctx va a.op.kind
    s.putAcc { a with stage := .held (dieOf core) n }
  | (s, _, some (va, .bad r)) => s.trapAcc a 0x0B (BitVec.ofNat 64 r) (BitVec.ofNat 64 va)
  | (s, _, some (_, .pa _)) => s

/-! ## Race checks (R367) -/

/-- Check and record a plain access of a thread to a scratchpad half, word by word. -/
def State.raceScr (s : State) (u g l seq : Nat) (side : Bool) (o n : Nat) (write : Bool) : Bool × State :=
  let t := s.team u
  let tags := if side then t.tags2 else t.tags
  let ws := touched 4 o n
  let wrels := fun (p : Nat × Nat) => (s.thr u p.1 p.2).rels
  let rrels := fun (k : Nat) => (s.grp u k).rels
  let bad := ws.any (fun k => (aget RaceTag.none tags k).races (g, l) seq write wrels rrels (fun _ => true))
  let tags := ws.foldl (fun ts k =>
    aput ts k ((aget RaceTag.none ts k).note (g, l) seq write (wrels (g, l)) (rrels g))) tags
  (bad, if side then s.setTeam u { t with tags2 := tags } else s.setTeam u { t with tags := tags })

/-! ## PORT_UPDATE (R175, R178, R180) -/

/-- The bytes of a value read, as the registers receive them (R178). -/
def loadWords (sx : Bool) (n x : Nat) : List Word :=
  if n < 4 then [BitVec.ofInt 32 (if sx then sgn (8 * n) x else (x : Int))] else wordsOf x (n / 4)

/-- What happened to one piece at its port. -/
inductive PieceOut where
  | ok (s : State) (value : Nat)
  | race
  | poison (l : Loc)
deriving DecidableEq, Repr

/-- Record a plain thread access that reaches a tag; true when it races (R367). -/
def State.raceAt (s : State) (a : Access) (l : Loc) (n : Nat) (write atHome : Bool) : Bool × State :=
  if !a.plain then (false, if write then s.clearTag l n else s)
  else match l, a.ag with
    | .scr u sd o, .thread _ g ln => s.raceScr u g ln a.seq sd o n write
    | .hbm pa, .thread u _ _ =>
      if atHome && a.space == .glob then (s.lineRaces u pa n write, s.lineNote u pa n write) else (false, s)
    | _, _ => (false, if write then s.clearTag l n else s)

/-- Does an access of a team that does not hold its writes pass L1 by: with nl1, or of a non-speculative team of a DET
launch (R393)? -/
def State.pastL1 (s : State) (a : Access) : Bool := a.nl1 || s.direct (s.uidOf a.ag)

/-- The place of an access among its team's writes (R392): after every one issued before it, lanes ascending. -/
def Access.key (a : Access) : Nat := 2 * a.id + 1

/-- The core's own copy of a line leaves L1 (R180). -/
def State.flushLoc (s : State) (core : Nat) (l : Loc) : State :=
  match l with
  | .hbm pa => s.l1Flush core pa
  | _ => s

/-- An update at its port (R175, R180): applied at once, or held back with the value it returned, which is that of its place
in the team's order (R391, R392). -/
def State.portRmw (s : State) (a : Access) (l : Loc) (n : Nat) (op : PortOp) (y : Nat) : PieceOut :=
  let u := s.uidOf a.ag
  let s := (s.roomAt l n).flushLoc (s.coreOf a.ag) l
  if s.holds u && l.lineNo.isSome then
    if (s.withHeld u (some a.key)).poisoned l n then .poison l
    else
      let old := (s.withHeld u (some a.key)).rawRead l n
      .ok ((s.signRead u l).hold u a.key
        ⟨l, n, op, y, if a.dst.any (fun r => r != vz) then some old else none, 0, false⟩) old
  else if s.poisoned l n then .poison l
  else
    let (s, old) := (s.noteDirect u l).portUpdate l n op y
    .ok (if op.writes n old then s.clearTag l n else s) old

/-- A store at its port or in L1 (R172, R175); a bus error of the host at a window is a machine check (R414). -/
def State.portStore (s : State) (a : Access) (l : Loc) (n y : Nat) : PieceOut :=
  let s := s.roomAt l n
  let u := s.uidOf a.ag
  let core := s.coreOf a.ag
  let held := s.holds u && l.lineNo.isSome
  let home := held || s.pastL1 a || (match l with
    | .hbm _ => false
    | _ => true)
  let (r, t) := s.raceAt a l n true home
  if s.busError l n then .poison l
  else if r && !a.racy then .race
  else if held then .ok (t.hold u a.key { Held.of l n .write y with plain := a.plain }) 0
  else match l with
    | .hbm pa =>
      if s.pastL1 a then .ok (((t.l1Flush core pa).noteDirect u l).rawWrite l n y) 0
      else .ok (t.l1Write core u pa n y (if a.plain && a.space == .glob then some a else none)) 0
    | _ => .ok (((t.noteDirect u l).tallyVault l false true).rawWrite l n y) 0

/-- A load at its port or from L1 (R172, R175). -/
def State.portLoad (s : State) (a : Access) (l : Loc) (n : Nat) : PieceOut :=
  let u := s.uidOf a.ag
  let core := s.coreOf a.ag
  let held := s.holds u && l.lineNo.isSome
  let hit := match l with
    | .hbm pa => !held && !s.pastL1 a && (s.l1Find core (pa / 64)).isSome
    | _ => false
  let s := if s.pastL1 a then s.flushLoc core l else s
  let bad := if held then (s.withHeld u none).poisoned l n
    else match l with
      | .hbm pa => if s.pastL1 a then s.poisoned l n else s.l1Poison core pa n
      | _ => s.poisoned l n
  let (r, t) := s.raceAt a l n false (!hit)
  if bad then .poison l
  else if r && !a.racy then .race
  else if held then .ok ((t.signRead u l).tallyVault l true false) (t.heldRead u l n)
  else match l with
    | .hbm pa =>
      if s.pastL1 a then .ok t (t.rawRead l n)
      else
        let (t, x, _) := t.l1Read core u pa n
        .ok t x
    | _ => .ok (t.tallyVault l true false) (t.rawRead l n)

/-- One piece of an access at its port (R175): its place, its length, and its position in the data. -/
def State.portPiece (s : State) (a : Access) (l : Loc) (n pos : Nat) : PieceOut :=
  match a.op with
  | .store x => s.portStore a l n (bitf x (8 * pos) (8 * n))
  | .upd op x => s.portRmw a l n (.upd op) (bitf x (8 * pos) (8 * n))
  | .cas e x => s.portRmw a l n (.cas e) x
  | _ => s.portLoad a l n

/-- The physical address, or the scratchpad offset, that a machine-check record gives (Table 23-2). -/
def Loc.addr : Loc → Nat
  | .hbm a | .vault a | .host a _ => a
  | .scr _ _ o => o

/-- The SPACE that a machine-check record gives for a place (Table 23-2). -/
def Loc.space : Loc → Nat
  | .hbm _ => 0
  | .scr .. => 1
  | .vault _ => 3
  | .host _ c => if c then 7 else 6

/-- The scratchpad row of a place. -/
def Loc.row : Loc → Option (Bool × Nat)
  | .scr _ sd o => some (sd, o / 1024)
  | _ => none

/-- An access consumes a poisoned word: it writes no destination and is not applied (R189, R401). -/
def State.poisonAcc (s : State) (a : Access) (l : Loc) : State :=
  let s := s.dropAcc a.id
  s.machineCheck (s.uidOf a.ag) (s.coreOf a.ag) 0x42 (BitVec.ofNat 32 (spaceNo a.space)) l.addr a.pc a.low l.row

/-- What follows an access's last piece: the acquire action, then its result or its end (R178, R179). -/
def State.endAcc (s : State) (a : Access) (value : Nat) : State :=
  let s := if a.ord == .acq || a.ord == .ar then s.acquireAction a.ag a.scope else s
  match a.op with
  | .store _ => s.dropAcc a.id
  | .upd .. => if a.dst.isEmpty then s.dropAcc a.id else s.putAcc { a with stage := .done, vals := wordsOf value (a.len / 4) }
  | .cas e _ =>
    s.putAcc { a with
      stage := .done, vals := wordsOf value (a.len / 4),
      flags := if a.w then some (zFlag (value == e % 2 ^ (8 * a.len))) else none }
  | .load sx => s.putAcc { a with stage := .done, vals := loadWords sx a.len value }
  | .pop dp =>
    s.putAcc { a with
      stage := .done, vals := [BitVec.ofNat 32 value, dp], flags := if a.w then some (zFlag false) else none }
  | _ => s

/-- The port update unit that owns a place: a scratchpad bank group, a vault slice, a home slice, a window (R175). -/
def Loc.unit : Loc → Nat × Nat × Nat
  | .scr u sd o => (0, 2 * u + b2n sd, o / 4 % 384 / 16)
  | .vault a => (1, a / 2 ^ 24, 0)
  | .hbm pa => (1, 24 * (pa / 4096 % 8 / 4) + pa / 32768 % 24, 0)
  | .host _ c => (2, b2n c, 0)

/-- What came of an access at its port. -/
def PieceOut.settle (o : PieceOut) (s : State) (a : Access) (i : Nat) (go : State → Nat → State) : State :=
  match o with
  | .race => s.trapAcc a 0x0C 0 (BitVec.ofNat 64 (a.ea + 8 * i))
  | .poison l => s.poisonAcc a l
  | .ok t x => go t x

/-- One half of a run of four registers at its port (R174). -/
def State.halfPiece (s : State) (a : Access) (i : Nat) : PieceOut := s.portPiece a (s.placeOf a i) 8 (8 * i)

/-- A run of four registers at its port: both halves when one unit owns them, where nothing may fall between them (R175);
otherwise the half named, or the one that is left. A half that races or is poisoned leaves the other unperformed (R46). -/
def State.performWide (s : State) (a : Access) (half : Bool) : State :=
  match a.stage with
  | .half b =>
    let i := b2n !b
    (s.halfPiece a i).settle s a i (fun t x => t.endAcc a (ofWords a.vals + x * 2 ^ (64 * i)))
  | _ =>
    let i := b2n half
    (s.halfPiece a i).settle s a i (fun t x =>
      if (s.placeOf a 0).unit == (s.placeOf a 1).unit then
        (t.halfPiece a (1 - i)).settle s a (1 - i) (fun r y => r.endAcc a (x * 2 ^ (64 * i) + y * 2 ^ (64 * (1 - i))))
      else t.putAcc { a with stage := .half half, vals := wordsOf (x * 2 ^ (64 * i)) 4 })

/-- What an update leaves in place of n bytes at position o of an 8-byte word, and of the others what the word held. -/
def patch (word o n x : Nat) : Nat := word - bitf word (8 * o) (8 * n) * 2 ^ (8 * o) + x % 2 ^ (8 * n) * 2 ^ (8 * o)

/-- An update of the non-coherent host window: it reads the 8-byte word that holds its bytes, and writes it whole in a
later step, so that a host store may fall between and is lost (R180, R370). -/
def State.performSplit (s : State) (a : Access) (hpa : Nat) (op : PortOp) (y : Nat) : State :=
  let w := hpa / 8 * 8
  let o := hpa % 8
  match a.stage with
  | .fetched word =>
    let old := bitf word (8 * o) (8 * a.len)
    let s := if op.writes a.len old then
        s.rawWrite (.host w false) 8 (patch word o a.len (op.apply a.len old y))
      else s
    s.endAcc a old
  | _ =>
    if s.poisoned (.host hpa false) a.len then s.poisonAcc a (.host hpa false)
    else s.putAcc { a with stage := .fetched (s.rawRead (.host w false) 8) }

/-- Perform an access at its port (R174, R175): an ordered one takes its release action first. -/
def State.performAcc (s : State) (a : Access) (half : Bool) : State :=
  let s := if a.ord == .rel || a.ord == .ar then
      (match a.stage with
        | .half _ | .fetched _ => s
        | _ => s.releaseAction a.ag a.scope)
    else s
  if a.len = 16 then s.performWide a half
  else match s.placeOf a 0, a.op with
    | .host hpa false, .upd op x => s.performSplit a hpa (.upd op) x
    | .host hpa false, .cas e x => s.performSplit a hpa (.cas e) x
    | l, _ => (s.portPiece a l a.len 0).settle s a 0 (fun t x => t.endAcc a x)

/-- Does an access read or write several places that its operands do not name: TBOX, TTRI, SAMP and the draws? -/
def AccOp.multi : AccOp → Bool
  | .tbox _ | .ttri .. | .samp .. | .draw .. | .peek .. => true
  | _ => false

/-- The bytes of each piece of an access. -/
def Access.pieceLen (a : Access) : Nat := if a.len = 16 then 8 else a.len

/-- Do two accesses of one agent touch a common byte, as far as is known: by place when both are translated, and by
position in the page otherwise (R178)? An access of several places counts as touching any byte of its spaces
(log entry 6). -/
def State.mayOverlap (s : State) (a b : Access) : Bool :=
  let rng := fun (x : Nat) (n : Nat) (y : Nat) (m : Nat) => decide (x < y + m) && decide (y < x + n)
  let ta := s.translated a.ag a.space
  let tb := s.translated b.ag b.space
  if ta != tb then false
  else if ta && (a.op.multi || b.op.multi) then true
  else if !ta then
    match s.place a.ag a.space a.ea, s.place b.ag b.space b.ea with
    | .vault x, .vault y => rng x a.len y b.len
    | .scr u d x, .scr v e y => u == v && d == e && rng x a.len y b.len
    | .host x _, .host y _ => rng x a.len y b.len
    | _, _ => false
  else if a.xl.isEmpty || b.xl.isEmpty then
    (piecesOf a.len).any (fun p => (piecesOf b.len).any (fun q =>
      rng (((s.va a.ag a.space (a.ea + p.1)).getD 0) % 4096) p.2 (((s.va b.ag b.space (b.ea + q.1)).getD 0) % 4096) q.2))
  else a.xl.any (fun p => b.xl.any (fun q => rng p.2 a.pieceLen q.2 b.pieceLen))

/-- Does a tile touch a byte of an access (R178, R310)? A tile that has no page yet may touch any byte of its page
number's position. -/
def State.tileOverlaps (s : State) (t : Tile) (a : Access) : Bool :=
  let span := t.stride * (t.rows.length - 1) + 32 * t.esz
  let rng := fun (x n y m : Nat) => decide (x < y + m) && decide (y < x + n)
  match t.space with
  | .glob => s.translated a.ag a.space &&
      (match t.pa with
        | some p => if a.xl.isEmpty then true else a.xl.any (fun q => rng p span q.2 a.pieceLen)
        | none => true)
  | _ => !s.translated a.ag a.space &&
      (match s.place (t.ags.headD a.ag) t.space t.base, s.place a.ag a.space a.ea with
        | .vault x, .vault y => rng x span y a.len
        | .scr u d x, .scr v e y => u == v && d == e && rng x span y a.len
        | _, _ => false)

/-- Does an update of another instruction than `seq`, or of a copy, stand between its read and its write at the unit of a
place (R370)? -/
def State.unitBusy (s : State) (seq : Nat) (l : Loc) : Bool :=
  s.accs.any (fun b => b.seq != seq && (match b.stage with
    | .fetched _ => (s.placeOf b 0).unit == l.unit
    | _ => false)) ||
  s.cores.any (fun k => k.2.slots.any (fun c => c.2.sent.any (fun e => e.left.any (fun w =>
    w.ret.isSome && w.loc.unit == l.unit))))

/-- May an access reach its port now: after every earlier access of its agent to the same place, after an earlier
acquire, and, for a release, after every earlier access (R178, R179); and while no update of another instruction stands
between its read and its write at the unit (R370)? The accesses of its own instruction go before it in the run that it is
part of (R175). -/
def State.mayPerform (s : State) (a : Access) : Bool :=
  let earlier := (s.accsOf a.ag).filter (fun b => decide (b.id < a.id) && b.seq != a.seq && !b.past)
  (match a.stage with
    | .ready | .half _ | .fetched _ => true
    | _ => false) &&
  earlier.all (fun b => !s.mayOverlap a b && !(b.ord == .acq || b.ord == .ar)) &&
  (!(a.ord == .rel || a.ord == .ar) ||
    (earlier.isEmpty && s.tiles.all (fun t => !(t.ags.contains a.ag && decide (t.mark ≤ a.id))))) &&
  s.tiles.all (fun t => !(t.ags.contains a.ag && decide (t.mark ≤ a.id) && s.tileOverlaps t a)) &&
  !s.unitBusy a.seq (s.placeOf a 0)

/-- The places that an access touches, by its pieces. -/
def State.placesOf (s : State) (a : Access) : List Loc := (piecesOf a.len).map (fun p => s.placeOf a (p.1 / 8))

/-- Is an access's place unknown: not yet translated? -/
def State.unplaced (s : State) (a : Access) : Bool := a.xl.isEmpty && s.translated a.ag a.space

/-- The accesses of one instruction that reach, or may yet reach, a unit that an access reaches: one uninterrupted run in
ascending lane order (R175). -/
def State.portRun (s : State) (a : Access) : List Access :=
  let us := (s.placesOf a).map Loc.unit
  s.accs.filter (fun b => b.seq == a.seq && !b.past && !b.op.multi &&
    (s.unplaced b || (s.placesOf b).any (fun l => us.contains l.unit)))

/-- Does the buffer of a speculative team take the run of an access whole (R393)? -/
def State.runFits (s : State) (a : Access) : Bool :=
  a.op.need != .write || s.holdsFit (s.uidOf a.ag)
    ((s.portRun a).flatMap (fun b => (s.placesOf b).map (fun l => Held.of l 0 .write 0)))

/-- May the run of an access reach its unit now: every access of it (R175)? -/
def State.mayRun (s : State) (a : Access) : Bool := (s.portRun a).all s.mayPerform && s.runFits a

/-! ## FENCE, CCTL, PREF, ICINV (R181 to R184) -/

/-- Are the earlier accesses of a FENCE past: for `acq`, those whose results the thread waits for; for the others, all,
with the tiles it signed (R181)? -/
def State.fenceReady (s : State) (ag : Agent) (k : FenceKind) : Bool :=
  (s.accsOf ag).all (fun a => k == .acq && a.op.stands && a.dst.isEmpty) &&
  (k == .acq || s.tiles.all (fun t => !t.ags.contains ag))

/-- A FENCE whose earlier accesses are past takes its actions and releases its agent (R181, Table 8-2); one of them that is
found to trap is delivered with the FENCE as the resume point (log entry 89). A `sc` fence of scope dev or wider lets no
write of an escrow interval stay behind it (R365; log entry 80). -/
def State.tryFence (s : State) (ag : Agent) : State :=
  match s.park ag with
  | .fence k sc =>
    match s.takeLate ag (s.pc ag) with
    | some s => s
    | none =>
    if s.fenceReady ag k then
      let s := if k == .sc && (sc == .dev || sc == .sys) then s.commitEarly (s.uidOf ag) else s
      let s := if k == .acq then s else s.releaseAction ag sc
      let s := if k == .rel then s else s.acquireAction ag sc
      s.release ag
    else s
  | _ => s

/-- FENCE (R181). -/
def execFence (h : Hdr) (k : FenceKind) (sc : Scope) (s : State) : Out :=
  perLane (.fence h k sc) (fun ag s => .stay ((s.parkOn ag (.fence k sc)).tryFence ag)) s

/-- The physical address of a virtual one, where the tables give one now. -/
def State.peekPa (s : State) (ctx va : Nat) : Option Nat :=
  if va ≥ 2 ^ 57 then none
  else match (walkFrom s [] ctx va 4 (s.ctx ctx).ptroot.toNat).1 with
    | .ok e => if e.r then some (e.ppn * 4096 + va % 4096) else none
    | _ => none

/-- The physical lines of the bytes [ea, ea + n) of space 0 or 5, for an agent. -/
def State.linesIn (s : State) (ag : Agent) (x : Space) (ea n : Nat) : List Nat :=
  let ctx := s.ctxNo (s.uidOf ag)
  let unit := if x == .priv then 8 else 64
  (if n = 0 then [] else touched unit ea n).filterMap (fun k =>
    ((s.va ag x (k * unit)).bind (s.peekPa ctx)).map (fun pa => pa / 64))

/-- A parked CCTL acts, and its agent goes on (R183). -/
def State.cctl (s : State) (ag : Agent) (ls : List Nat) (inv : Bool) : State :=
  if s.park ag = .cctl then (s.l1Clean (s.coreOf ag) (fun l => ls.contains l.line) inv).release ag else s

/-- CCTL (R183): the range is checked under R166, EA itself also when its length is 0; the thread parks, and the lines
present are written back, and dropped by `wbinv`. It acts at once: its own earlier stores that have not reached L1 are not
waited for (log entry 75). -/
def execCctl (h : Hdr) (a b : Reg) (inv : Bool) (f : MemF) (s : State) : Out :=
  perLane (.cctl h a b inv f) (fun ag s =>
    let ea := s.ea ag f.space a f.ofs
    let n := (s.reg ag b).toNat
    match s.checkAccess ag f.space ea (max n 1) 1 .read false with
    | some t => .trap s t
    | none => .stay ((s.parkOn ag .cctl).cctl ag (s.linesIn ag f.space ea.toNat n) inv)) s

/-- PREF (R184): brings the line into L1 for spaces 0 and 5; it never traps. The vault's cache slices are transparent
(log entry 9). -/
def execPref (h : Hdr) (a : Reg) (lvl : PrefLvl) (f : MemF) (s : State) : Out :=
  simple (.pref h a lvl f) (fun ag s =>
    let ea := s.ea ag f.space a f.ofs
    match lvl, s.checkAccess ag f.space ea 1 1 .read false, s.va ag f.space ea.toNat with
    | .l1, none, some va =>
      match s.peekPa (s.ctxNo (s.uidOf ag)) va with
      | some pa => (s.l1Read (s.coreOf ag) (s.uidOf ag) pa 1).1
      | none => s
    | _, _, _ => s) s

/-- The key of an instruction-cache line: a context's code-window line. -/
def lineKey (ctx : Nat) (p : Word) : Nat := ctx * 2 ^ 26 + p.toNat / 64

/-- ICINV (R182): the lane parks until every core concerned has acknowledged. While its team holds writes back it is noted,
to act again when they are applied (R371). -/
def execIcinv (h : Hdr) (a b : Reg) (ofs : BitVec 20) (sc : Scope) (s : State) : Out :=
  perLane (.icinv h a b ofs sc) (fun ag s =>
    let start : Int := (s.reg ag a).toNat + ofs.toInt
    let n := (s.reg ag b).toNat
    if n = 0 then .done s
    else if start < 0 || start + n > 2 ^ 32 then .trap s ⟨0x08, 9, BitVec.ofInt 64 start⟩
    else
      let ctx := s.ctxNo (s.uidOf ag)
      let cores := match sc with
        | .dev | .sys => List.range 192
        | _ => if (s.descOf ag).spans then [s.coreOf ag, otherCore (s.coreOf ag)] else [s.coreOf ag]
      let u := s.uidOf ag
      let s := if (s.team u).held.isEmpty then s
        else s.setTeam u { s.team u with icinvs := (s.team u).icinvs ++ [(cores, ctx, start.toNat, n)] }
      .park (cores.foldl (fun s k => s.icInvalidate k ctx start.toNat n) s) .icinv) s

/-! ## Fetch (R31, R266, R371) -/

/-- The end of a fetch of a code line. -/
inductive Fetched where
  | line (l : Line)
  | missing (die num : Nat)
  | prot (reason : Nat) (va : Nat)
  | parity
  | poison (pa : Nat)
deriving DecidableEq, Repr

/-- The sound copy of a line that a fetch takes from a level, checked there and once more at the next level (R31): the
home slice is the last level that the model has (log entry 9), so its second copy is the same. -/
def soundCopy (first second : Line) : Option Line :=
  if first.sound then some first else if second.sound then some second else none

/-- Fetch the line of a PC for a core and a context at its home slice (R31, R266): CODEBASE + p is translated. -/
def State.fetchHome (s : State) (core ctx : Nat) (p : Word) : State × Fetched :=
  let va := (s.ctx ctx).codebase.toNat + p.toNat
  if va ≥ 2 ^ 57 then (s, .prot 5 va)
  else match s.translate core ctx va .fetch with
    | (s, .missing) =>
      let (s, n) := s.postFault core ctx va .fetch
      (s, .missing (dieOf core) n)
    | (s, .bad r) => (s, .prot r va)
    | (s, .pa x) =>
      let pa := x - p.toNat % 64
      if s.poisoned (.hbm pa) 64 then (s, .poison pa)
      else
        let l : Line := BitVec.ofNat 512 (s.hbmRead pa 64)
        match soundCopy l l with
        | some l =>
          let c := s.core core
          (s.setCore core { c with
            icache := pushCap 1024 (c.icache.filter (fun e => e.1 != lineKey ctx p)) (lineKey ctx p, l) }, .line l)
        | none => (s, .parity)

/-- Fetch the line of a PC for a core and a context: the instruction cache, each copy checked on every fetch, then the home
slice (R31). -/
def State.fetch (s : State) (core ctx : Nat) (p : Word) : State × Fetched :=
  match afind (s.core core).icache (lineKey ctx p) with
  | some l => if l.sound then (s, .line l) else s.fetchHome core ctx p
  | none => s.fetchHome core ctx p

/-- The line of a PC with a team's own held writes in it, when it has any there (R371, R391): it is not kept in the cache,
where other teams would find it. -/
def State.heldCode (s : State) (u ctx : Nat) (p : Word) : Option Line :=
  if (s.team u).held.isEmpty then none
  else
    let va := (s.ctx ctx).codebase.toNat + p.toNat
    if va ≥ 2 ^ 57 then none
    else match (walkFrom s [] ctx va 4 (s.ctx ctx).ptroot.toNat).1 with
      | .ok e =>
        let pa := e.ppn * 4096 + va % 4096 / 64 * 64
        if (e.deny .fetch).isNone && (heldLines (s.team u).held).contains (pa / 64) then
          some (BitVec.ofNat 512 (s.heldRead u (.hbm pa) 64))
        else none
      | _ => none

/-- Fetch the line of an agent's PC (R31): with its team's own held writes where it has any there, else as any fetch. -/
def State.fetchFor (s : State) (ag : Agent) (p : Word) : State × Fetched :=
  let ctx := s.ctxNo (s.uidOf ag)
  match s.heldCode (s.uidOf ag) ctx p with
  | some l => (s, if l.sound then .line l else .parity)
  | none => s.fetch (s.coreOf ag) ctx p

/-- The slot number of a PC in its line (R30). -/
def slotOf (p : Word) : Nat := p.toNat % 64 / 12

/-- How a taken transfer finds its target (R32). -/
inductive Target where
  /-- the line is there; its BTM bit for the slot -/
  | btm (ok : Bool)
  /-- the line's translation is missing: the transfer waits -/
  | wait (die num : Nat)
  /-- the line cannot be fetched: the transfer takes effect unchecked -/
  | unchecked
deriving DecidableEq, Repr

/-- Fetch the target line of a taken transfer (R32). -/
def State.target (s : State) (ag : Agent) (t : Word) : State × Target :=
  match s.fetchFor ag t with
  | (s, .line l) => (s, .btm (lineBtm l.word (slotOf t)))
  | (s, .missing d n) => (s, .wait d n)
  | (s, _) => (s, .unchecked)

end Sys2Proof.Machine
end

