-- ==== Sys2Proof/Machine/Plain.lean ====
section
/-! DEFINITION. Plain reads and writes made by forms other than class 5 (R178, R196 to R198, R300, R327, R336): in program
order with the agent's own accesses, through translation and L1, or past it for a team whose writes are held. -/

namespace Sys2Proof.Machine

/-- An access that stands for a read of n bytes made for an agent. -/
def probe (ag : Agent) (spc : Space) (ea n : Nat) (xl : List (Nat × Nat)) : Access :=
  { id := 0, seq := 0, ag := ag, pc := 0, op := .load false, dst := [], w := false, space := spc, ea := ea, ga := 0,
    len := n, ord := .plain, scope := .grp, nl1 := false, plain := false, racy := false, xl := xl, stage := .ready,
    left := none, vals := [], flags := none, retry := false, low := 0, born := 0, shut := 0, watched := false }

/-- Are the agent's accesses numbered below `before`, to the bytes that an access names, past, as its program order asks
(R178), and is no earlier acquire still on its way (R179)? -/
def State.clearFor (s : State) (before : Nat) (a : Access) : Bool :=
  (s.accsOf a.ag).all (fun b => decide (before ≤ b.id) || b.past ||
    (!s.mayOverlap a b && !(b.ord == .acq || b.ord == .ar))) &&
  s.tiles.all (fun t => !(t.ags.contains a.ag && decide (t.mark ≤ before) && s.tileOverlaps t a))

/-- A plain load of a place: through L1, past it with `nl1` or of a team that goes on non-speculatively (R393), or with
the team's own held writes (R172, R391). -/
def State.plainRead (s : State) (ag : Agent) (nl1 : Bool) (l : Loc) (n : Nat) : State × Nat :=
  let u := s.uidOf ag
  match l with
  | .hbm pa =>
    if s.holds u then (s.signRead u l, s.heldRead u l n)
    else if nl1 || s.direct u then ((s.l1Flush (s.coreOf ag) pa), (s.l1Flush (s.coreOf ag) pa).rawRead l n)
    else
      let (s, x, _) := s.l1Read (s.coreOf ag) u pa n
      (s, x)
  | _ => if s.holds u && l.lineNo.isSome then (s.signRead u l, s.heldRead u l n) else (s, s.rawRead l n)

/-- A plain store of the access numbered `id` to a place of space 0, likewise; it never races (R198). -/
def State.plainWrite (s : State) (ag : Agent) (id : Nat) (l : Loc) (n x : Nat) : State :=
  let u := s.uidOf ag
  let core := s.coreOf ag
  if s.holds u then s.hold u (2 * id + 1) (Held.of l n .write x)
  else match l with
    | .hbm pa => if s.direct u then (((s.l1Flush core pa).noteDirect u l).rawWrite l n x).clearTag l n
      else s.l1Write core u pa n x none
    | _ => s.rawWrite l n x

/-- Would a plain load of a place consume a poisoned word (R189)? -/
def State.plainPoison (s : State) (ag : Agent) (nl1 : Bool) (l : Loc) (n : Nat) : Bool :=
  let u := s.uidOf ag
  if s.holds u && l.lineNo.isSome then (s.withHeld u none).poisoned l n
  else match l with
    | .hbm pa => if nl1 || s.direct u then s.poisoned l n else s.l1Poison (s.coreOf ag) pa n
    | _ => s.poisoned l n

/-- Has the host refused the fault that the agent's instruction met on this page (R270)? -/
def State.refusedAt (s : State) (ag : Agent) (va : Nat) : Bool :=
  match s.park ag with
  | .refused v _ => v / 4096 == va / 4096
  | _ => false

/-- What a plain access by virtual address comes to. -/
inductive Got (α : Type) where
  | ok (x : α)
  /-- an earlier access of the agent must be performed first -/
  | wait
  /-- the page's translation is missing: the fault's die and number -/
  | missing (die num : Nat)
  /-- the page turns the access away, for a reason of Table 12-8; 0 where the address lies beyond space 0 -/
  | bad (reason va : Nat)
  /-- it would consume a poisoned word -/
  | poison (l : Loc)
deriving DecidableEq, Repr

/-- The trap of an access that is turned away: ADDR_RANGE beyond space 0 (R167), PAGE_PROT otherwise (Table 12-1). -/
def badTrap (reason va : Nat) : Trap :=
  if reason = 0 then ⟨0x08, 0, BitVec.ofNat 64 va⟩ else ⟨0x0B, BitVec.ofNat 64 reason, BitVec.ofNat 64 va⟩

/-- Go on with what was got. -/
def andThen {α β : Type} (r : State × Got α) (f : State → α → State × Got β) : State × Got β :=
  match r with
  | (s, .ok x) => f s x
  | (s, .wait) => (s, .wait)
  | (s, .missing d n) => (s, .missing d n)
  | (s, .bad q v) => (s, .bad q v)
  | (s, .poison l) => (s, .poison l)

/-- The physical pieces of the bytes of a plain access, in order (R171, R178). -/
def State.findPieces (s : State) (ag : Agent) (before : Nat) (need : Need) (kind : FaultKind) :
    List (Nat × Nat) → State × Got (List (Nat × Nat))
  | [] => (s, .ok [])
  | (va, n) :: t =>
    let core := s.coreOf ag
    let ctx := s.ctxNo (s.uidOf ag)
    match s.translate core ctx va need with
    | (s, .bad r) => (s, .bad r va)
    | (s, .missing) =>
      if s.refusedAt ag va then (s, .bad 4 va)
      else
        let (s, k) := s.postFault core ctx va kind
        (s, .missing (dieOf core) k)
    | (s, .pa x) =>
      if !s.clearFor before (probe ag .glob va n [(0, x)]) then (s, .wait)
      else match s.findPieces ag before need kind t with
        | (s, .ok ps) => (s, .ok ((x, n) :: ps))
        | r => r

/-- Read the pieces found: little-endian, the first lowest. -/
def State.readPieces (s : State) (ag : Agent) (nl1 : Bool) : List (Nat × Nat) → State × Got Nat
  | [] => (s, .ok 0)
  | (pa, n) :: t =>
    if s.plainPoison ag nl1 (.hbm pa) n then (s, .poison (.hbm pa))
    else
      let (s, x) := s.plainRead ag nl1 (.hbm pa) n
      match s.readPieces ag nl1 t with
      | (s, .ok y) => (s, .ok (x + 2 ^ (8 * n) * y))
      | r => r

/-- Read n bytes of space 0 as a plain load of an agent. -/
def State.readVa (s : State) (ag : Agent) (before : Nat) (nl1 : Bool) (kind : FaultKind) (va n : Nat) :
    State × Got Nat :=
  if va + n > 2 ^ 57 then (s, .bad 0 va)
  else match s.findPieces ag before .read kind (linePieces va n) with
  | (s, .ok ps) => s.readPieces ag nl1 ps
  | (s, .wait) => (s, .wait)
  | (s, .missing d k) => (s, .missing d k)
  | (s, .bad r v) => (s, .bad r v)
  | (s, .poison l) => (s, .poison l)

/-- Read several runs of bytes; the first that cannot be read decides. -/
def State.readMany (s : State) (ag : Agent) (before : Nat) (nl1 : Bool) (kind : FaultKind) :
    List (Nat × Nat) → State × Got (List Nat)
  | [] => (s, .ok [])
  | (va, n) :: t =>
    match s.readVa ag before nl1 kind va n with
    | (s, .ok x) =>
      match s.readMany ag before nl1 kind t with
      | (s, .ok xs) => (s, .ok (x :: xs))
      | r => r
    | (s, .wait) => (s, .wait)
    | (s, .missing d k) => (s, .missing d k)
    | (s, .bad r v) => (s, .bad r v)
    | (s, .poison l) => (s, .poison l)

/-- Where several stores of space 0 go: (address, length, value) triples, all found before any is made. -/
def State.findStores (s : State) (ag : Agent) (before : Nat) :
    List (Nat × Nat × Nat) → State × Got (List (Nat × Nat × Nat))
  | [] => (s, .ok [])
  | (va, n, x) :: t =>
    match s.findPieces ag before .write .store (linePieces va n) with
    | (s, .ok ps) =>
      match s.findStores ag before t with
      | (s, .ok r) =>
        let here := (ps.foldl (fun (acc : Nat × List (Nat × Nat × Nat)) p =>
          (acc.1 + p.2, acc.2 ++ [(p.1, p.2, bitf x (8 * acc.1) (8 * p.2))])) (0, [])).2
        (s, .ok (here ++ r))
      | r => r
    | (s, .wait) => (s, .wait)
    | (s, .missing d k) => (s, .missing d k)
    | (s, .bad r v) => (s, .bad r v)
    | (s, .poison l) => (s, .poison l)

/-- Make stores at places already found. -/
def State.makeStores (s : State) (ag : Agent) (id : Nat) (ws : List (Nat × Nat × Nat)) : State :=
  ws.foldl (fun s w => s.plainWrite ag id (.hbm w.1) w.2.1 w.2.2) s

/-- A form that makes plain accesses at once cannot go on: it waits for its own earlier accesses or for the host and runs
again, takes PAGE_PROT as a trap at issue (R198, R269; log entry 99), or consumes a poisoned word (R189, R270). -/
def Got.stop {α : Type} (r : Got α) (ag : Agent) (s : State) : LaneOut :=
  match r with
  | .ok _ | .wait => .stay (s.setPark ag .again)
  | .missing d k => .stay (s.setPark ag (.fault d k true))
  | .bad r va => .trap s (badTrap r va)
  | .poison l =>
    .stay (s.machineCheck (s.uidOf ag) (s.coreOf ag) 0x42 (BitVec.ofNat 32 l.space) l.addr (s.pc ag) (Agent.lane (s.cur.agents.headD ag)) l.row)

/-! ## Taken transfers (R30, R32, R86) -/

/-- How a taken transfer finds its target (R32). -/
inductive Aim where
  /-- no slot of the code window, or not marked as a target -/
  | bad
  /-- its line's translation is missing -/
  | hold (die num : Nat)
  /-- it takes effect; `carry` when the host has refused the target's page, whose fate falls there -/
  | go (carry : Bool)
deriving DecidableEq, Repr

/-- Check the target of a taken transfer (R30, R32): a missing line only delays it, and one that cannot be fetched leaves
its fate to the target. -/
def State.aim (s : State) (ag : Agent) (t : Int) : State × Aim :=
  let p := BitVec.ofInt 32 t
  let va := (s.ctx (s.ctxNo (s.uidOf ag))).codebase.toNat + p.toNat / 64 * 64
  if !inWindow t || !slotOk p then (s, .bad)
  else match s.target ag p with
    | (s, .btm true) => (s, .go false)
    | (s, .btm false) => (s, .bad)
    | (s, .unchecked) => (s, .go false)
    | (s, .wait d n) => (s, if s.refusedAt ag va then .go true else .hold d n)

/-- BRANCH_TARGET (Table 12-1). -/
def badTarget (t : Int) : Trap := ⟨0x03, 0, BitVec.ofInt 64 t⟩

/-- Go to a target that has been checked. -/
def State.depart (s : State) (ag : Agent) (t : Int) (carry : Bool) : LaneOut :=
  let p := BitVec.ofInt 32 t
  if carry then
    let r := match s.park ag with
      | .refused va _ => Park.refused va false
      | r => r
    let s := s.transfer ag p
    .stay (if s.park ag = .run && s.pc ag == p then s.setPark ag r else s)
  else .jump s p

/-- A taken transfer to t, with `effect` made once the target is known to be sound (R86). -/
def State.branch (s : State) (ag : Agent) (t : Int) (effect : State → State) : LaneOut :=
  match s.aim ag t with
  | (s, .bad) => .trap s (badTarget t)
  | (s, .hold d n) => .stay (s.setPark ag (.fault d n true))
  | (s, .go carry) => (effect s).depart ag t carry

end Sys2Proof.Machine
end

