-- ==== Sys2Proof/Machine/Choice.lean ====
section
/-! DEFINITION. Class 4, choice vectors (chapter 09): the mint, coordinates and keys, the choice record, replay and
mutation, the draw forms and their conversions, setup, and the Metropolis forms. -/

namespace Sys2Proof.Machine

/-! ## The mint (R190, R195) -/

/-- The stream key of a thread (R190). -/
def mintKey (seed : DWord) (launchid : Word) (t : Nat) : DWord :=
  mix64 (seed + 0x9E3779B97F4A7C15#64 * BitVec.ofNat 64 (launchid.toNat * 2 ^ 32 + t + 1))

/-- The raw draw at a coordinate (R190). -/
def mint (key c : DWord) : Word := high32 (mix64 (key ^^^ (c * 0xD1B54A32D192ED03#64)))

/-- The fresh coordinate j of c (R195). -/
def fresh (iter : Word) (c : DWord) (j : Nat) : DWord := BitVec.ofNat 64 (2 ^ 63 + iter.toNat * 2 ^ 27 + j * 2 ^ 26) + c

/-- The linear index that a thread's key takes: a mesh thread's streams lie apart (R190). -/
def State.mintIndex (s : State) (u g l : Nat) : Nat :=
  s.threadIndex u g l + (if (s.team u).stage == .mesh then 2 ^ 40 else 0)

/-- The stream key of a lane from a seed (R190, R211). -/
def State.laneKey (s : State) (ag : Agent) (seed : DWord) : DWord :=
  match ag with
  | .thread u g l => mintKey seed (s.launchOf ag).launchid (s.mintIndex u g l)
  | .ctx .. => 0

/-! ## The choice state of a lane -/

/-- The choice state of an agent. -/
def State.chOf (s : State) (ag : Agent) : ChState :=
  match ag with
  | .thread u g l => (s.thr u g l).ch
  | .ctx .. => .zero

/-- Replace it. -/
def State.setCh (s : State) (ag : Agent) (c : ChState) : State :=
  match ag with
  | .thread u g l => s.setThr u g l { s.thr u g l with ch := c }
  | .ctx .. => s

/-- The written bank WB (Table 9-4). -/
def ChState.wb (c : ChState) : Nat := if c.mode = 2 then 1 - b2n c.bank else b2n c.bank

/-- Σ OCC (sited) or DIDX (positional) (R202). -/
def ChState.drawn (c : ChState) : Nat :=
  if c.geom = 1 then (c.occ.map (fun e => e.2)).sum else c.didx.toNat

/-! ## The record (R196, R197) -/

/-- idx(q) (R197). -/
def KDesc.slotIdx (k : KDesc) (q : Nat) : Nat := if k.chmode = 1 then q / 64 * k.maxocc + q % 64 else q

/-- S of R197. -/
def KDesc.slotBytes (k : KDesc) : Nat := if k.chmode = 1 then k.nsites * k.maxocc * 4 else k.maxdraws * 4

/-- BANKSZ (R197). -/
def KDesc.bankSz (k : KDesc) : Nat := 64 + 64 * ceilDiv k.slotBytes 64

/-- Where bank b of a record begins (R197). -/
def KDesc.bankAt (k : KDesc) (base b : Nat) : Nat := base + 64 + b * k.bankSz

/-- Slot(b, q) of a record (R197). -/
def KDesc.slotAt (k : KDesc) (base b q : Nat) : Nat := k.bankAt base b + 64 + 4 * k.slotIdx q

/-- May a record lie at a base (R196)? -/
def KDesc.recordOk (k : KDesc) (base : Nat) : Bool :=
  base % 64 == 0 && decide (base + 64 + 2 * k.bankSz ≤ 2 ^ 57)

/-- The stores of a flush (R202): the counts of bank WB and its DCNT. -/
def ChState.flush (c : ChState) (k : KDesc) : List (Nat × Nat × Nat) :=
  let counts := if c.geom = 1 then ofBytes ((List.range 63).map (fun s => BitVec.ofNat 8 (aget 0 c.occ s))) else 0
  [(k.bankAt c.base.toNat c.wb, 63, counts), (c.base.toNat + 0x20 + 4 * c.wb, 4, c.drawn)]

/-- The stores of a flush, if the mode is not off. -/
def ChState.flushIf (c : ChState) (k : KDesc) : List (Nat × Nat × Nat) := if c.mode = 0 then [] else c.flush k

/-! ## Replay (R203, R204) -/

/-- KIND, QLO, QHI and PARAM of a descriptor (Table 9-5). -/
def mutKind (m : DWord) : Nat := bitf m.toNat 60 4
/-- QLO. -/
def mutLo (m : DWord) : Nat := bitf m.toNat 44 16
/-- QHI. -/
def mutHi (m : DWord) : Nat := bitf m.toNat 28 16
/-- PARAM. -/
def mutParam (m : DWord) : Nat := bitf m.toNat 0 28

/-- The descriptor that covers a key: the lowest-numbered (R203). -/
def ChState.covering (c : ChState) (q : Nat) : Option DWord :=
  ((List.range 4).map (fun n => aget 0 c.muts n)).find? (fun m =>
    mutKind m != 0 && decide (mutLo m ≤ q) && decide (q ≤ mutHi m))

/-- Valid(q) (R204). -/
def ChState.valid (c : ChState) (q : Nat) : Bool :=
  if c.geom = 1 then decide (q % 64 < aget 0 c.rcnt (q / 64)) else decide (q < c.rdcnt.toNat)

/-- Box–Muller of two raw draws, through slots 4, 2 and 6 of an image (R207). -/
def boxMuller (img : BitVec 65536) (a b : Word) : Word :=
  let y := rfn ((X.int 1).add false (.dy (-((a.toNat / 256 : Nat) : Int)) (-24)))
  let l := sfnValue img 4 y
  let t := mulf l 0xBFB17218
  let s := sfnValue img 2 t
  let w := sfnValue img 6 (rfn (.dy ((b.toNat / 256 : Nat) : Int) (-23)))
  mulf s w

/-- Normal(c) of R204. -/
def ChState.normal (ch : ChState) (img : BitVec 65536) (c : DWord) : Word :=
  boxMuller img (mint ch.key (fresh ch.iter c 0)) (mint ch.key (fresh ch.iter c 1))

/-- Base(q, c) (R204): a load of the slot, or the mint. -/
def State.baseRaw (s : State) (ag : Agent) (before : Nat) (ch : ChState) (k : KDesc) (key : DrawKey) : State × Got Word :=
  if ch.valid key.q then
    match s.readVa ag before false .load (k.slotAt ch.base.toNat (b2n ch.bank) key.q) 4 with
    | (s, .ok x) => (s, .ok (BitVec.ofNat 32 x))
    | (s, .wait) => (s, .wait)
    | (s, .missing d n) => (s, .missing d n)
    | (s, .bad r v) => (s, .bad r v)
    | (s, .poison l) => (s, .poison l)
  else (s, .ok (mint ch.key key.c))

/-- Apply a function to what was got. -/
def Got.map {α β : Type} (g : Got α) (f : α → β) : Got β :=
  match g with
  | .ok x => .ok (f x)
  | .wait => .wait
  | .missing d n => .missing d n
  | .bad r v => .bad r v
  | .poison l => .poison l

/-- Replayed(q, c) (R204). The record at SBASE is read where SBASE says, aligned or not (log entry 77). -/
def State.replayed (s : State) (ag : Agent) (before : Nat) (ch : ChState) (k : KDesc) (key : DrawKey) :
    State × Got Word :=
  let img := (s.core (s.coreOf ag)).coef
  let read := fun (s : State) (va n : Nat) => s.readVa ag before false .load va n
  match ch.covering key.q with
  | none => s.baseRaw ag before ch k key
  | some m =>
    let p := mutParam m
    match mutKind m with
    | 1 => andThen (s.baseRaw ag before ch k key) (fun s b => (s, .ok (b + BitVec.ofInt 32 (16 * sgn 28 p))))
    | 2 => andThen (s.baseRaw ag before ch k key) (fun s b =>
        let x := (X.int (16 * (p : Int))).mul (xf (ch.normal img key.c))
        (s, .ok (b + BitVec.ofNat 32 (roundFix 64 true 0 x .rn 0).bits)))
    | 3 => (s, .ok (mint ch.key (fresh ch.iter key.c 0)))
    | 4 =>
      let d := sgn 28 p
      let lim : Int := if ch.geom = 1 then k.maxocc else k.maxdraws
      let i : Int := (if ch.geom = 1 then key.q % 64 else key.q : Nat) + d
      let q2 := (if ch.geom = 1 then key.q / 64 * 64 else 0) + i.toNat
      if decide (0 ≤ i) && decide (i < lim) && ch.valid q2 then
        andThen (read s (k.slotAt ch.base.toNat (b2n ch.bank) q2) 4) (fun s x => (s, .ok (BitVec.ofNat 32 x)))
      else (s, .ok (mint ch.key key.c))
    | 5 =>
      let sb := ch.sbase.toNat
      andThen (read s (sb + 6) 1) (fun s x =>
        let b2 := x % 2
        let there := if ch.geom = 1 then read s (k.bankAt sb b2 + key.q / 64) 1 else read s (sb + 0x20 + 4 * b2) 4
        andThen there (fun s n =>
          if (if ch.geom = 1 then key.q % 64 else key.q) < n then
            andThen (read s (k.slotAt sb b2 key.q) 4) (fun s x => (s, .ok (BitVec.ofNat 32 x)))
          else s.baseRaw ag before ch k key))
    | _ => s.baseRaw ag before ch k key

/-- ADDR_RANGE of a replayed key that is known at issue (R46, R204): a splice at SBASE reads the bank byte of the record, and
then a count at or above that of bank 0. What only the bank byte in memory can put out of range is found later
(log entry 77). -/
def ChState.spliceTrap (ch : ChState) (k : KDesc) (key : DrawKey) : Option Trap :=
  match if ch.mode = 2 then ch.covering key.q else none with
  | none => none
  | some m =>
    let sb := ch.sbase.toNat
    let count := if ch.geom = 1 then (k.bankAt sb 0 + key.q / 64, 1) else (sb + 0x20, 4)
    if mutKind m = 5 then
      ([(sb + 6, 1), count].find? (fun p => decide (p.1 + p.2 > 2 ^ 57))).map (fun p => badTrap 0 p.1)
    else none

/-! ## Draws (R192, R193, R206 to R208) -/

/-- The key of a draw of a site, at counter offset j (R192, R206). -/
def ChState.keyAt (ch : ChState) (site j : Nat) : DrawKey :=
  if ch.geom = 1 then
    let k := aget 0 ch.occ site + j
    ⟨site * 64 + k, BitVec.ofNat 64 (site * 2 ^ 20 + k)⟩
  else
    let i := (ch.didx + BitVec.ofNat 32 j).toNat
    ⟨i, BitVec.ofNat 64 i⟩

/-- Consume nd keys (R192). -/
def ChState.consume (ch : ChState) (site nd : Nat) : ChState :=
  if ch.geom = 1 then { ch with occ := aput ch.occ site (aget 0 ch.occ site + nd) }
  else { ch with didx := ch.didx + BitVec.ofNat 32 nd }

/-- CHOICE_OVERFLOW for nd keys from a counter value (R193). -/
def overflow (k : KDesc) (site value nd : Nat) : Option Trap :=
  let bad := (List.range nd).find? (fun j =>
    if k.chmode = 1 then decide (site ≥ k.nsites) || decide (value + j ≥ k.maxocc)
    else if k.chmode = 2 then decide (value + j ≥ k.maxdraws) else false)
  bad.map (fun j => ⟨0x11, BitVec.ofNat 64 site, BitVec.ofNat 64 (value + j)⟩)

/-- The counter that a site's draw uses. -/
def ChState.counter (ch : ChState) (site : Nat) : Nat := if ch.geom = 1 then aget 0 ch.occ site else ch.didx.toNat

/-- Point i of slot 15's table (R208). -/
def drawPoint (img : BitVec 65536) (i : Nat) : X :=
  xf (coefWord img (bitf img.toNat (8 * (8 * 15 + 4)) 16 + 4 * i))

/-- Does slot 15 hold a point table (R208)? -/
def drawTableOk (img : BitVec 65536) : Bool :=
  coefByte img (8 * 15) == 0 && decide (bitf img.toNat (8 * (8 * 15 + 6)) 16 ≥ 1028)

/-- The conversion of raw draws (Table 9-7, R208). -/
def convertDraw (img : BitVec 65536) (form : DrawForm) (raws : List Word) : Word :=
  let r := raws.headD 0
  match form with
  | .unit => rfn (.dy ((r.toNat / 256 : Nat) : Int) (-24))
  | .bits => r
  | .below n => BitVec.ofNat 32 (r.toNat * n.toNat / 2 ^ 32)
  | .normal => boxMuller img r (raws.getD 1 0)
  | .table =>
    let i := r.toNat / 2 ^ 24
    let f := X.dy ((r.toNat / 256 % 65536 : Nat) : Int) (-16)
    let d := xf (rfn ((drawPoint img (i + 1)).add false (drawPoint img i).neg))
    rfn ((f.mul d).add false (drawPoint img i))

/-- How many keys a form consumes (R206). -/
def DrawForm.keys : DrawForm → Nat
  | .normal => 2
  | _ => 1

/-- The draw forms of one lane (R206): keys are consumed at issue, and the result arrives later. -/
def State.drawLane (s : State) (h : Hdr) (d : Reg) (site : Nat) (form : DrawForm) (ag : Agent) : LaneOut :=
  let ch := s.chOf ag
  let k := s.descOf ag
  let img := (s.core (s.coreOf ag)).coef
  let nd := form.keys
  match overflow k site (ch.counter site) nd with
  | some t => .trap s t
  | none =>
    if form == .table && !drawTableOk img then .trap s ⟨0x14, 0, 0⟩
    else
      let keys := (List.range nd).map (ch.keyAt site)
      match keys.findSome? (ch.spliceTrap k) with
      | some t => .trap s t
      | none =>
        let s := s.setCh ag (ch.consume site nd)
        if ch.mode = 0 then
          .done (s.later ag h [d] [convertDraw img form (keys.map (fun q => mint ch.key q.c))] none)
        else
          let va := k.slotAt ch.base.toNat ch.wb (keys.headD ⟨0, 0⟩).q
          .done (s.push { s.blank ag h with op := .draw form keys ch k, dst := [d], ea := va, ga := va, len := 4 })

/-- DRAW (R207). -/
def execDraw (h : Hdr) (d : Reg) (site : BitVec 6) (s : State) : Out :=
  perLane (.draw h d site) (fun ag s => s.drawLane h d site.toNat .unit ag) s

/-- DRAWB (R207). -/
def execDrawb (h : Hdr) (d : Reg) (site : BitVec 6) (s : State) : Out :=
  perLane (.drawb h d site) (fun ag s => s.drawLane h d site.toNat .bits ag) s

/-- DRAWI (R207). -/
def execDrawi (h : Hdr) (d b : Reg) (site : BitVec 6) (s : State) : Out :=
  perLane (.drawi h d b site) (fun ag s => s.drawLane h d site.toNat (.below (s.reg ag b)) ag) s

/-- DRAWN (R207). -/
def execDrawn (h : Hdr) (d : Reg) (site : BitVec 6) (s : State) : Out :=
  perLane (.drawn h d site) (fun ag s => s.drawLane h d site.toNat .normal ag) s

/-- DRAWT (R208). -/
def execDrawt (h : Hdr) (d : Reg) (site : BitVec 6) (s : State) : Out :=
  perLane (.drawt h d site) (fun ag s => s.drawLane h d site.toNat .table ag) s

/-- The raw values of a draw's keys (R201, R206). -/
def State.rawDraws (s : State) (ag : Agent) (before : Nat) (ch : ChState) (k : KDesc) : List DrawKey → State × Got (List Word)
  | [] => (s, .ok [])
  | q :: t =>
    let one := if ch.mode = 2 then s.replayed ag before ch k q else (s, .ok (mint ch.key q.c))
    andThen one (fun s r => andThen (s.rawDraws ag before ch k t) (fun s rs => (s, .ok (r :: rs))))

/-- A draw in record or replay performs its loads and stores (R206): the result of its register. -/
def State.performDraw (s : State) (a : Access) (form : DrawForm) (keys : List DrawKey) (ch : ChState) (k : KDesc) :
    State × Got (List Word) :=
  andThen (s.rawDraws a.ag a.id ch k keys) (fun s raws =>
    andThen (s.findStores a.ag a.id ((keys.zip raws).map (fun p =>
        (k.slotAt ch.base.toNat ch.wb p.1.q, 4, p.2.toNat)))) (fun s ws =>
      let img := (s.core (s.coreOf a.ag)).coef
      if s.holdsFit (s.uidOf a.ag) (ws.map (fun w => Held.of (.hbm w.1) w.2.1 .write 0)) then
        (s.makeStores a.ag a.id ws, .ok [convertDraw img form raws])
      else (s, .wait)))

/-- CPEEK of one lane (R209). -/
def State.peekLane (s : State) (h : Hdr) (d a : Reg) (site : Nat) (ag : Agent) : LaneOut :=
  let ch := s.chOf ag
  let k := s.descOf ag
  let v := (s.reg ag a).toNat
  match overflow k site v 1 with
  | some t => .trap s t
  | none =>
    let key : DrawKey := if ch.geom = 1 then ⟨site * 64 + v, BitVec.ofNat 64 (site * 2 ^ 20 + v)⟩ else ⟨v, BitVec.ofNat 64 v⟩
    let used := decide (v < ch.counter site)
    let fl := if h.w then some (zFlag used) else none
    if ch.mode = 0 || (ch.mode = 1 && !used) then .done (s.later ag h [d] [mint ch.key key.c] fl)
    else match if used then none else ch.spliceTrap k key with
    | some t => .trap s t
    | none =>
      let va := k.slotAt ch.base.toNat ch.wb key.q
      .done (s.push { s.blank ag h with op := .peek key ch k, dst := [d], ea := va, ga := va, len := 4, flags := fl })

/-- CPEEK (R209). -/
def execCpeek (h : Hdr) (d a : Reg) (site : BitVec 6) (s : State) : Out :=
  perLane (.cpeek h d a site) (fun ag s => s.peekLane h d a site.toNat ag) s

/-- CPEEK performs its load (R209): a key consumed in this run from the written bank, else as a replayed draw. -/
def State.performPeek (s : State) (a : Access) (key : DrawKey) (ch : ChState) (k : KDesc) : State × Got (List Word) :=
  let used := if ch.geom = 1 then decide (key.q % 64 < aget 0 ch.occ (key.q / 64)) else decide (key.q < ch.didx.toNat)
  if used then
    andThen (s.readVa a.ag a.id false .load (k.slotAt ch.base.toNat ch.wb key.q) 4) (fun s x =>
      (s, .ok [BitVec.ofNat 32 x]))
  else andThen (s.replayed a.ag a.id ch k key) (fun s r => (s, .ok [r]))

/-! ## Setup (R210, R211) -/

/-- The 64 bytes of a new record's header (R210). -/
def KDesc.header (k : KDesc) : Nat :=
  0x43484F49 + (if k.chmode = 1 then 1 + 256 * k.maxocc + 2 ^ 24 * k.nsites else 2) * 2 ^ 32 +
    (if k.chmode = 1 then 0 else k.maxdraws) * 2 ^ 64

/-- Does a header belong to a kernel (R210)? BANK's bit 0 is free. -/
def KDesc.headerOk (k : KDesc) (x : Nat) : Bool :=
  x % 2 ^ 48 == k.header % 2 ^ 48 && bitf x 56 72 == bitf k.header 56 72 && bitf x 49 7 == 0

/-- The traps of `rec` and `rep` before any effect (R210). -/
def State.setupTrap (s : State) (ag : Agent) (base : Nat) : Option Trap :=
  let ch := s.chOf ag
  if ch.geom = 0 then some ⟨0x13, BitVec.ofNat 64 ch.mode, 0⟩
  else if !(s.descOf ag).recordOk base then some ⟨0x12, 0, BitVec.ofNat 64 base⟩
  else none

/-- Issue record stores: plain stores of the thread in program order, which open no window and never race (R46, R198,
R210). Each lies in one line, since a record is aligned on 64. -/
def State.storing (s : State) (ag : Agent) (h : Hdr) (ws : List (Nat × Nat × Nat)) : State :=
  ws.foldl (fun s w => s.push { s.blank ag h with
    op := .store w.2.2, space := .glob, ea := w.1, ga := w.1, len := w.2.1, left := none }) s

/-- The flush that comes before a form's own effect (R202), made once: a form that goes on after a wait has made it. -/
def State.flushFirst (s : State) (ag : Agent) (h : Hdr) (ws : List (Nat × Nat × Nat)) : State :=
  if (s.park ag).goesOn then s else s.storing ag h ws

/-- Load a record into a thread's choice state for replay (R210). A count byte of 128 or more loses its top bit in the 7
bits of RCNT (log entry 76). -/
def State.loadRecord (s : State) (ag : Agent) (base : Nat) : State × Got (Option ChState) :=
  let k := s.descOf ag
  let ch := s.chOf ag
  andThen (s.readVa ag s.nextAcc false .load base 64) (fun s x =>
    if !k.headerOk x then (s, .ok none)
    else
      let b := bitf x 48 1
      andThen (s.readVa ag s.nextAcc false .load (k.bankAt base b) 63) (fun s y =>
        (s, .ok (some { ch with
          mode := 2, bank := b == 1, base := BitVec.ofNat 64 base, occ := [], didx := 0,
          rcnt := if ch.geom = 1 then (List.range 63).map (fun i => (i, bitf y (8 * i) 8 % 128)) else [],
          rdcnt := BitVec.ofNat 32 (bitf x (8 * (0x20 + 4 * b)) 32), iter := 0 }))))

/-- CSETUP (R210). -/
def execCsetup (h : Hdr) (op : CsetupOp) (s : State) : Out :=
  perLane (.csetup h op) (fun ag s =>
    let ch := s.chOf ag
    let k := s.descOf ag
    match op with
    | .off => .done ((s.storing ag h (ch.flushIf k)).setCh ag { ch with mode := 0 })
    | .record a =>
      let base := (s.reg64 ag a).toNat
      match s.setupTrap ag base with
      | some t => .trap s t
      | none =>
        .done ((s.storing ag h (ch.flushIf k ++ [(base, 64, k.header), (k.bankAt base 0, 64, 0)])).setCh ag { ch with
          mode := 1, bank := false, base := BitVec.ofNat 64 base, occ := [], didx := 0, rcnt := [], rdcnt := 0,
          iter := 0 })
    | .replay a =>
      let base := (s.reg64 ag a).toNat
      match s.setupTrap ag base with
      | some t => .trap s t
      | none =>
        match (s.flushFirst ag h (ch.flushIf k)).loadRecord ag base with
        | (s, .ok (some c)) => .done (s.setCh ag c)
        | (s, .ok none) => .trap s ⟨0x12, 0, BitVec.ofNat 64 base⟩
        | (s, g) => g.stop ag s) s

/-- Does CMUT refuse a descriptor (R211)? -/
def mutBad (m : DWord) : Bool := decide (mutKind m ≥ 6) || (mutKind m == 3 && mutParam m != 0)

/-- CMUT (R211). -/
def execCmut (h : Hdr) (a b : Reg) (n : BitVec 2) (s : State) : Out :=
  perLane (.cmut h a b n) (fun ag s =>
    let ch := s.chOf ag
    let m := s.reg64 ag a
    if mutBad m then .trap s ⟨0x12, m, ch.base⟩
    else .done (s.setCh ag { ch with
      muts := aput ch.muts n.toNat m, sbase := if b = vz then ch.sbase else s.reg64 ag b })) s

/-- CMUTCLR (R211). -/
def execCmutclr (h : Hdr) (s : State) : Out :=
  simple (.cmutclr h) (fun ag s => s.setCh ag { s.chOf ag with muts := [] }) s

/-- CSEED (R211). -/
def execCseed (h : Hdr) (a : Reg) (s : State) : Out :=
  simple (.cseed h a) (fun ag s => s.setCh ag { s.chOf ag with key := s.laneKey ag (s.reg64 ag a) }) s

/-! ## The Metropolis forms (R212 to R215) -/

/-- CHOICE_MODE with the mode (Table 12-1). -/
def modeTrap (ch : ChState) : Trap := ⟨0x13, BitVec.ofNat 64 ch.mode, 0⟩

/-- CRESULT (R212). -/
def execCresult (h : Hdr) (a : Reg) (cnt : BitVec 2) (s : State) : Out :=
  perLane (.cresult h a cnt) (fun ag s =>
    let ch := s.chOf ag
    let n := cnt.toNat + 1
    if ch.mode = 0 then .trap s (modeTrap ch)
    else .done (s.storing ag h ((ch.base.toNat + (if ch.mode = 1 then 0x10 else 0x30), 4 * n,
      ofWords (s.regRun ag a n)) :: ch.flush (s.descOf ag)))) s

/-- The state after CRESTART's steps (R213). -/
def ChState.restart (ch : ChState) : ChState :=
  let ch := if ch.mode = 1 then { ch with rcnt := ch.occ, rdcnt := ch.didx } else ch
  { ch with occ := [], didx := 0, mode := 2, iter := ch.iter + 1 }

/-- CRESTART (R213): the label is checked before any step. -/
def execCrestart (h : Hdr) (disp : Disp) (s : State) : Out :=
  perLane (.crestart h disp) (fun ag s =>
    let ch := s.chOf ag
    if ch.mode = 0 then .trap s (modeTrap ch)
    else
      let t := targetPc (s.pc ag) disp
      match s.aim ag t with
      | (s, .bad) => .trap s (badTarget t)
      | (s, .hold d n) => .stay (s.setPark ag (.fault d n true))
      | (s, .go carry) => ((s.storing ag h (ch.flush (s.descOf ag))).setCh ag ch.restart).depart ag t carry) s

/-- new / old with its special cases, rounded (R214, R215). -/
def ratio (new old : Word) : Word :=
  let x := xf new
  let y := xf old
  let neg := x.isNeg != y.isNeg
  match x, y with
  | .nan, _ => nanf
  | _, .nan => nanf
  | .inf _, .inf _ => nanf
  | .inf _, _ => signInf neg
  | _, .inf _ => signZero neg
  | x, y => if y.isZero then (if x.isZero then nanf else signInf neg)
      else if x.isZero then signZero neg else rfn (x.quot y)

/-- CCMP (R214). -/
def execCcmp (h : Hdr) (d a : Reg) (comp : BitVec 2) (s : State) : Out :=
  perLane (.ccmp h d a comp) (fun ag s =>
    let ch := s.chOf ag
    if ch.mode ≠ 2 then .trap s (modeTrap ch)
    else match s.readVa ag s.nextAcc false .load (ch.base.toNat + 0x10 + 4 * comp.toNat) 4 with
      | (s, .ok x) =>
        let old := BitVec.ofNat 32 x
        let new := s.reg ag a
        let r := if (xf old).isZero then signInf false else ratio new old
        .done ((s.setReg ag d r).flagIf ag h (floatFlags (xf new) (xf old)))
      | (s, g) => g.stop ag s) s

/-- The acceptance ratio a (R215). -/
def acceptance (new old : Word) : Word :=
  if xf new == .nan || xf old == .nan then 0
  else if (xf old).isZero then 0x3F800000
  else
    let x := ratio new old
    if xf x == .nan then 0 else minmaxf false 0x3F800000 x

/-- CACCEPT (R215). -/
def execCaccept (h : Hdr) (d a b : Reg) (comp : BitVec 2) (s : State) : Out :=
  perLane (.caccept h d a b comp) (fun ag s =>
    let ch := s.chOf ag
    let k := s.descOf ag
    let base := ch.base.toNat
    if ch.mode ≠ 2 then .trap s (modeTrap ch)
    else match (s.flushFirst ag h (ch.flush k)).readMany ag s.nextAcc false .load
        [(base + 0x10, 16), (base + 0x28, 8), (base + 0x30, 16), (k.bankAt base ch.wb + 63, 1)] with
      | (s, .ok [res, cnt, pres, n]) =>
        let word := fun o => bitf cnt (8 * (o - 0x28)) 32
        let old := BitVec.ofNat 32 (bitf res (32 * comp.toNat) 32)
        let new := s.reg ag a
        let r := acceptance new old
        let acc := (xf (s.reg ag b)).lt (xf r)
        let count := fun (o : Nat) => (base + o, 4, word o + 1)
        let yes := if acc then
            [(base + 0x10, 16, pres), (base + 0x10 + 4 * comp.toNat, 4, new.toNat), (base + 6, 1, ch.wb),
              (k.bankAt base ch.wb + 63, 1, n + 1), count 0x28]
          else []
        let c := if acc then
            { ch with bank := ch.wb == 1, rcnt := ch.occ, rdcnt := BitVec.ofNat 32 ch.drawn }
          else ch
        .done ((((s.storing ag h (count 0x2C :: yes)).setCh ag c).setReg ag d r).flagIf ag h
          ⟨false, acc, false, xf new == .nan || xf old == .nan⟩)
      | (s, g) => g.stop ag s) s

end Sys2Proof.Machine
end

