-- ==== Sys2Proof/Machine/Barrier.lean ====
section
/-! DEFINITION. Named barriers (R243 to R251): the updates of one barrier with their evaluation, the release of its
waiters, the escrow checkpoint at a full-team barrier (R396, R397), and the barrier forms BINIT, BWAIT, BTEST, BEXPT,
SLEEPT and SLEEPP with the body of BARV. -/

namespace Sys2Proof.Machine

/-- Barrier b of a team. -/
def Team.bar (t : Team) (b : Nat) : Barrier := aget (Barrier.start t.groups.length) t.bars b
/-- Barrier b of team u. -/
def State.bar (s : State) (u b : Nat) : Barrier := (s.team u).bar b
/-- Replace barrier b of team u. -/
def State.setBar (s : State) (u b : Nat) (x : Barrier) : State :=
  s.setTeam u { s.team u with bars := aput (s.team u).bars b x }

/-- The phase as a number. -/
def Barrier.ph (b : Barrier) : Nat := b2n b.phase

/-- Poison a barrier (R245). -/
def Barrier.poison (b : Barrier) : Barrier := { b with psn := true, tx := 0 }

/-- Add to TX; out of the s32 range the barrier is poisoned; ignored while it is poisoned (R244, R245). -/
def Barrier.addTx (b : Barrier) (x : Int) : Barrier :=
  if b.psn then b
  else if b.tx + x < -(2 ^ 31) || b.tx + x > 2 ^ 31 - 1 then b.poison
  else { b with tx := b.tx + x }

/-- One arrival; a surplus one poisons the barrier and is not counted (R244). -/
def Barrier.arrive (b : Barrier) : Barrier := if b.arr = 0 then b.poison else { b with arr := b.arr - 1 }

/-- Are both counts zero, so that the phase advances (R244)? -/
def Barrier.due (b : Barrier) : Bool := b.arr == 0 && b.tx == 0

/-- The advance of the phase (R244). -/
def Barrier.advance (b : Barrier) : Barrier := { b with phase := !b.phase, arr := b.n, prom := 0, arrived := [] }

/-- The status word of BTEST.st (Table 11-9). -/
def Barrier.word (b : Barrier) : Nat := b.n % 128 * 512 + b.arr % 128 * 4 + 2 * b2n b.psn + b.ph

/-- The agents parked on barrier b of a team, with their lanes ascending, then its contexts. -/
def State.barAgents (s : State) (u b : Nat) : List Agent :=
  let here := fun (ag : Agent) => match s.park ag with
    | .bar k .. => k == b
    | _ => false
  let ths := (s.team u).groups.flatMap (fun g => (List.range g.2.width).map (fun l => Agent.thread u g.1 l))
  let cts := (s.team u).cores.flatMap (fun k => ((List.range 4).filter (fun c => (s.bctx k c).uid == u &&
    (s.bctx k c).run == .ready)).map (fun c => Agent.ctx k c))
  (ths ++ cts).filter (fun ag => here ag && s.traps ag)

/-- Release an agent from WAIT: its status result and codes, the acquire at team scope (R247, R248, R251). -/
def State.barRelease (s : State) (u : Nat) (ag : Agent) : State :=
  match s.park ag with
  | .bar b _ fixed d w =>
    let x := s.bar u b
    let p := match fixed with
      | some p => b2n p
      | none => x.ph
    let s := s.setReg ag d (BitVec.ofNat 32 (p + 2 * b2n x.psn))
    let s := if w then s.setCC ag (zFlag (!x.psn)) else s
    (s.acquireAction ag .team).release ag
  | _ => s

/-! ## Escrow checkpoints (R396, R397) -/

/-- The array state a team holds on a core (R295, R397). -/
def State.heldArray (s : State) (u core : Nat) : Option MArray :=
  let m := (s.core core).array
  if m.holder = some u then some m else none

/-- Write a team's checkpoint. -/
def State.checkpoint (s : State) (u : Nat) (atStart : Bool) : State :=
  let t := s.team u
  s.setTeam u { t with ckpt := some {
    atStart := atStart, groups := t.groups, bars := t.bars, algs := t.algs, mstatus := t.mstatus, scr := t.scr,
    scr2 := t.scr2, arr0 := s.heldArray u t.core, arr1 := s.heldArray u (otherCore t.core), rows := [], blocks := [],
    heldAt := t.held.length, raysAt := t.rays.length } }

/-- Drop a team's unchecked entries from the replay queues of a core; one with no lane checked counts (R404, R405). -/
def State.dropReplay (s : State) (u core : Nat) : State :=
  let c := s.core core
  let drop := c.rq.map (fun p => (p.1, (p.2.filter (fun e => e.uid == u && e.unchecked.length == e.lanes.length)).length))
  s.setCore core { c with
    rq := c.rq.map (fun p => (p.1, p.2.filter (fun e => e.uid != u))),
    rqDrop := drop.foldl (fun ds p => amod 0 ds p.1 (fun n => n + p.2)) c.rqDrop }

/-- Is the advance of a barrier that holds these arrivals an escrow boundary of its team (R396)? -/
def State.fullTeam (s : State) (u : Nat) (b : Barrier) : Bool :=
  let t := s.team u
  b.n == t.groups.length && b.arrived.length == t.groups.length &&
    (akeys t.groups).all (fun g => b.arrived.contains (g, true)) &&
    t.cores.all (fun k => (List.range 4).all (fun c => !((s.bctx k c).uid == u && (s.bctx k c).run == .ready)) &&
      (s.core k).slots.all (fun e => e.2.uid != u || (match e.2.stat with
        | .finished _ => true
        | _ => false)))

/-- A result that was known at issue arrives. -/
def Access.arrive (a : Access) : Access :=
  match a.op, a.stage with
  | .known vs, .issued => { a with stage := .done, vals := vs }
  | _, _ => a

/-- The results of a team's array bodies and special functions are written (R292, R397). -/
def State.deliver (s : State) (u : Nat) : State :=
  let mine := s.accs.filter (fun a => s.ofTeam u a.ag)
  let s := { s with accs := s.accs.map (fun (a : Access) => if s.ofTeam u a.ag then a.arrive else a) }
  mine.foldl (fun s a => s.settleAccs a.ag) s

/-- An escrow boundary: the results of the array bodies begun before it are written; the held writes of the interval are
applied and its rays queued, unless the team is speculative (R394); the dirty lines of its cores are written back, as its
reads now pass L1 by, and must find there what they found in L1 (R361); then the checkpoint is written (R397, R398). A team that goes on non-speculatively under DET has no
rollback point, as its accesses go directly to memory (R393). -/
def State.boundary (s : State) (u : Nat) : State :=
  let s := s.deliver u
  let t := s.team u
  let s := if s.speculative u then s
    else ((s.commitHeld u t.held).addRays t.rays).setTeam u { (s.commitHeld u t.held).team u with held := [], rays := [] }
  let s := t.cores.foldl (fun s k => s.l1WriteBackAll k) s
  t.cores.foldl (fun s k => s.dropReplay u k) (if s.direct u then s else s.checkpoint u false)

/-- The agents that wait on a barrier for a phase that is over are released (R244, R248, R273). -/
def State.wakeBar (s : State) (u b : Nat) : State :=
  let ph := (s.bar u b).phase
  ((s.barAgents u b).filter (fun ag => match s.park ag with
    | .bar _ p .. => p != ph
    | _ => false)).foldl (fun s ag => s.barRelease u ag) s

/-- Evaluate a barrier after an operation (R244). The waiters of a halted team are released as well, so that a later advance
cannot hold them. -/
def State.evalBar (s : State) (u b : Nat) : State :=
  let x := s.bar u b
  if x.due then
    let full := (s.launch (s.team u).launch).lr.escrow && s.fullTeam u x
    let s := s.setBar u b x.advance
    (if full then s.boundary u else s).wakeBar u b
  else s

/-- One update of a barrier, then its evaluation (R244). -/
def State.barUpdate (s : State) (u b : Nat) (f : Barrier → Barrier) : State := (s.setBar u b (f (s.bar u b))).evalBar u b

/-! ## The forms -/

/-- BINIT (R246). -/
def execBinit (h : Hdr) (a : Reg) (bar : BarNo) (s : State) : Out :=
  perLane (.binit h a bar) (fun ag s =>
    let n := (s.reg ag a).toNat
    if n < 1 || n > 127 then .trap s ⟨0x16, BitVec.ofNat 64 n, 0⟩
    else .done (s.barUpdate (s.uidOf ag) bar.toNat (fun x =>
      { x with n := n, arr := n, tx := 0, prom := 0, psn := false, arrived := [] }))) s

/-- BEXPT (R250). -/
def execBexpt (h : Hdr) (a : Reg) (bar : BarNo) (s : State) : Out :=
  perLane (.bexpt h a bar) (fun ag s =>
    let n := (s.reg ag a).toNat
    if n > 2 ^ 31 - 1 then .trap s ⟨0x16, BitVec.ofNat 64 n, 0⟩
    else .done (s.barUpdate (s.uidOf ag) bar.toNat (fun x => x.addTx n))) s

/-- BWAIT (R248). -/
def execBwait (h : Hdr) (d a : Reg) (bar : BarNo) (s : State) : Out :=
  perLane (.bwait h d a bar) (fun ag s =>
    let x := s.bar (s.uidOf ag) bar.toNat
    let p := (s.reg ag a).getLsbD 0
    if x.phase != p then
      .done ((s.result ag h false d (x.ph + 2 * b2n x.psn) (zFlag (!x.psn))).acquireAction ag .team)
    else .park s (.bar bar.toNat p none d h.w)) s

/-- BTEST (R249, R252): `pt` reads the promise, sealed under DET. -/
def execBtest (h : Hdr) (d : Reg) (pt : Bool) (bar : BarNo) (s : State) : Out :=
  perLane (.btest h d pt bar) (fun ag s =>
    let x := s.bar (s.uidOf ag) bar.toNat
    if pt then .done (s.setReg64 ag d (if s.det ag then sealed bar.toNat else BitVec.ofNat 64 x.prom))
    else if s.det ag then .trap s ⟨0x0E, BitVec.ofNat 64 bar.toNat, 0⟩
    else .done (s.result ag h false d x.word (zFlag (!x.psn)))) s

/-- SLEEPT (R92): a tick, or a sealed promise under DET. -/
def execSleept (h : Hdr) (a : Reg) (s : State) : Out :=
  perLane (.sleept h a) (fun ag s =>
    let v := (s.reg64 ag a).toNat
    let b := v % 16
    if s.det ag then
      if v / 16 = (2 ^ 64 - 1) / 16 && decide (b < (s.descOf ag).nbar) then
        .park s (.bar b (s.bar (s.uidOf ag) b).phase none vz false)
      else .trap s ⟨0x0D, 0, 0⟩
    else if s.now ≥ v then .done s else .park s (.sleept v)) s

/-- The end of a sleep on a promise (R93): the phase has moved on, or the promise was missed; under DET the lane waits on
as BWAIT would. -/
def State.sleepEnd (s : State) (ag : Agent) (b : Nat) (p : Bool) : LaneOut :=
  let x := s.bar (s.uidOf ag) b
  if x.phase != p then .done (s.acquireAction ag .team)
  else if s.det ag then .park s (.bar b p none vz false)
  else .trap s ⟨0x10, BitVec.ofNat 64 (x.prom % 2 ^ 32), 0⟩

/-- SLEEPP (R93). -/
def execSleepp (h : Hdr) (a : Reg) (bar : BarNo) (s : State) : Out :=
  perLane (.sleepp h a bar) (fun ag s =>
    let x := s.bar (s.uidOf ag) bar.toNat
    let p := (s.reg ag a).getLsbD 0
    if x.phase != p || s.now ≥ x.prom then s.sleepEnd ag bar.toNat p
    else .park s (.sleepp bar.toNat p)) s

/-- BARV's body (R247): the release of every signer, one update of the barrier, and the signers' results. -/
def bodyBarv (h : Hdr) (d a : Reg) (op : BarvOp) (bar : BarNo) (m : List Agent) (s : State) : State :=
  match m with
  | .thread u g l :: _ =>
    let b := bar.toNat
    let x := if op == .expect then (s.reg (.thread u g l) a).toNat else 0
    if x > 2 ^ 31 - 1 then s.trapAll m ⟨0x16, BitVec.ofNat 64 x, 0⟩
    else
      let s := m.foldl (fun s ag => s.releaseAction ag .team) s
      let p := (s.bar u b).phase
      let whole := op == .wait && (s.grp u g).unexited.all (fun l => m.contains (.thread u g l))
      let step := fun (y : Barrier) =>
        let y := (if op == .expect then y.addTx x else y).arrive
        { y with arrived := y.arrived ++ [(g, whole)] }
      if op == .wait then
        (m.foldl (fun s ag => s.setPark ag (.bar b p (some p) d h.w)) s).barUpdate u b step
      else
        let y := step (s.bar u b)
        let s := m.foldl (fun s ag => s.result ag h false d (b2n p + 2 * b2n y.psn) (zFlag (!y.psn))) s
        (s.barUpdate u b step).releaseAll m
  | _ => s

end Sys2Proof.Machine
end

