-- ==== Sys2Proof/Machine/Matrix.lean ====
section
/-! DEFINITION. Class 6 and the matrix array (chapters 14 and 15): holding the array, array addresses, what a cell computes
under each ductus, and the bodies of the class-6 forms. A body that cannot begin yet leaves the state as it is but for its
place in the queue for the array, and its signers stay parked. -/

namespace Sys2Proof.Machine

/-! ## Holding the array (R277) -/

/-- The core that executes a tile: its signers' own now (R294, R295). -/
def State.tileCore (s : State) (t : Tile) : Nat := s.coreOf (t.ags.headD (.thread t.uid 0 0))

/-- Is an MDRST of this team on this core still to be applied? -/
def State.tilesOf (s : State) (u core : Nat) : Bool := s.tiles.any (fun t => t.uid == u && s.tileCore t == core)

/-- A team none of whose bodies waits for an array leaves its queue (R82, R277). -/
def State.pruneWaits (s : State) (u : Nat) : State :=
  (s.team u).cores.foldl (fun s k =>
    let m := (s.core k).array
    s.setArray k { m with waiting := m.waiting.filter (fun w => w != u || s.waitsArray k u) }) s

/-- Begin the body of an array form: the team holds the array, or takes it when it is free and no other team has waited
longer; otherwise it joins the queue (R277). -/
def State.beginArray (s : State) (u core : Nat) : State × Bool :=
  let m := (s.core core).array
  match m.holder with
  | some v => if v = u then (s, true) else if m.waiting.contains u then (s, false)
      else (s.setArray core { m with waiting := m.waiting ++ [u] }, false)
  | none =>
    match m.waiting.filter (fun w => w == u || s.waitsArray core w) with
    | w :: _ => if w = u then (s.setArray core (m.acquire u), true) else if m.waiting.contains u then (s, false)
        else (s.setArray core { m with waiting := m.waiting ++ [u] }, false)
    | [] => (s.setArray core (m.acquire u), true)

/-- The holder gives up an array when its last group has exited and its tiles have been applied; the team that has waited
longest takes it (R277). -/
def State.freeArray (s : State) (core : Nat) : State :=
  let m := (s.core core).array
  match m.holder with
  | none => s
  | some u =>
    if ((s.team u).allExited || s.dead u) && !s.tilesOf u core then s.handArray core else s

/-- ARRAY_RELEASE (R277). -/
def execArrayRelease (core : Nat) (s : State) : Out :=
  if core ≥ 192 then .fault .absentPart else .next (s.freeArray core)

/-- The team, core and first signer of a body. -/
def State.bodyOf (s : State) (m : List Agent) : Option (Nat × Nat × Agent) :=
  match m with
  | [] => none
  | ag :: _ => some (s.uidOf ag, s.coreOf ag, ag)

/-- Is a body of an array form of the team, which came due before that of an agent, still to begin on the core (R279)? -/
def State.bodyBefore (s : State) (u core : Nat) (ag : Agent) : Bool :=
  match (s.park ag).arrayPlace with
  | some n => (s.arrayDue u core).any (fun k => decide (k < n))
  | none => false

/-- The frame of an array form's body: nothing for no signer; the team's earlier bodies; the array; at most 32 members
(R277, R279, R280, R299). -/
def arrayBody (m : List Agent) (f : Nat → Nat → Agent → State → State) (s : State) : State :=
  match s.bodyOf m with
  | none => s
  | some (u, core, ag) =>
    if s.bodyBefore u core ag then s
    else match s.beginArray u core with
    | (s, false) => s
    | (s, true) => if m.length > 32 then s.trapAll m ⟨0x07, BitVec.ofNat 64 m.length, 0⟩ else f u core ag s

/-- The frame of MALG and MSTAT, which do not acquire the array. -/
def teamBody (m : List Agent) (f : Nat → Nat → Agent → State → State) (s : State) : State :=
  match s.bodyOf m with
  | none => s
  | some (u, core, ag) => if m.length > 32 then s.trapAll m ⟨0x07, BitVec.ofNat 64 m.length, 0⟩ else f u core ag s

/-- Set sticky bits of MSTATUS (R301). -/
def State.sticky (s : State) (u : Nat) (ovf unf : Bool) : State :=
  s.setTeam u { s.team u with mstatus := (s.team u).mstatus ||| BitVec.ofNat 32 (b2n ovf + 2 * b2n unf) }

/-! ## Reads by a body -/

/-- A body consumes a poisoned word (R189, R401): its signers' team takes the machine check, with no other effect. -/
def State.bodyPoison (s : State) (u core : Nat) (ag : Agent) (spc : Space) (l : Loc) : State :=
  s.machineCheck u core 0x42 (BitVec.ofNat 32 (spaceNo spc)) l.addr (s.pc ag) (Agent.lane ag) l.row

/-! ## Array addresses (R300) -/

/-- A row that a form reads: the member that supplies it, its array address, its length. -/
structure ARow where
  ag : Agent
  o : Nat
  n : Nat
deriving DecidableEq, Repr

/-- Does a row lie within one half? -/
def ARow.fits (d : KDesc) (r : ARow) : Bool :=
  decide (r.o + r.n ≤ d.half) || (d.spans && decide (d.half ≤ r.o) && decide (r.o + r.n ≤ 2 * d.half))

/-- The space and offset that a row's array address names. -/
def ARow.at (d : KDesc) (r : ARow) : Space × Nat := if r.o < d.half then (.sp, r.o) else (.psp, r.o - d.half)

/-- The checks of the rows a form reads, in the order of R186: ADDR_RANGE of any, then ALIGN; `odd` is the address that a
stride which is no multiple of 4 gives (R300). -/
def rowTrap (d : KDesc) (odd : Option Nat) (rows : List ARow) : Option Trap :=
  match rows.find? (fun r => !r.fits d), odd with
  | some r, _ => some ⟨0x08, if r.o < d.half then 1 else 2, BitVec.ofNat 64 r.o⟩
  | none, some x => some ⟨0x09, 4, BitVec.ofNat 64 x⟩
  | none, none => (rows.find? (fun r => r.o % 4 != 0)).map (fun r => ⟨0x09, 4, BitVec.ofNat 64 r.o⟩)

/-- The place of a row. -/
def State.rowLoc (s : State) (r : ARow) : Loc :=
  let (spc, o) := r.at (s.descOf r.ag)
  s.place r.ag spc o

/-- The bytes of a row, little-endian. -/
def State.rowRead (s : State) (r : ARow) : Nat := s.rawRead (s.rowLoc r) r.n

/-- Read rows, then act on what they hold: waiting for their suppliers' earlier accesses, with the traps of R300 and the
machine check of a poisoned word. -/
def State.withRows (s : State) (m : List Agent) (u core : Nat) (odd : Option Nat) (rows : List ARow)
    (f : State → State) : State :=
  match rowTrap (s.team u).desc odd rows with
  | some t => s.trapAll m t
  | none =>
    if !rows.all (fun r =>
        let (spc, o) := r.at (s.team u).desc
        s.clearFor s.nextAcc (probe r.ag spc o r.n [])) then s
    else match rows.find? (fun r => s.poisoned (s.rowLoc r) r.n) with
      | some r => s.bodyPoison u core (m.headD r.ag) (r.at (s.team u).desc).1 (s.rowLoc r)
      | none => f s

/-! ## MALG (R290, R302) -/

/-- The TRAPVAL of a malformed algebra record, if it is one (R290, Table 12-1). -/
def algebraBad (x : Nat) : Option Nat :=
  let d := bitf x 64 8
  if d != 1 && d != 2 && d != 4 then some (16 + 8)
  else if bitf x 72 8 / 16 != 0 then some (16 + 9)
  else match (List.range 6).find? (fun i => bitf x (80 + 8 * i) 8 != 0) with
    | some i => some (16 + 10 + i)
    | none =>
      let nib := fun (i j : Nat) => bitf x (4 * (4 * i + j)) 4
      ((List.range d).flatMap (fun i => (List.range d).map (fun j => (i, j)))).findSome? (fun p =>
        let v := nib p.1 p.2
        if v / 4 == 3 || v % 4 ≥ d ||
          (v / 4 != 2 && (List.range p.2).any (fun q => nib p.1 q / 4 != 2 && nib p.1 q % 4 == v % 4)) then
          some (4 * p.1 + p.2)
        else none)

/-- MALG's body (R302). -/
def bodyMalg (a : Reg) (rsp : Bool) (alg : BitVec 2) (m : List Agent) (s : State) : State :=
  teamBody m (fun u core ag s =>
    let spc : Space := if rsp then .sp else .glob
    let addr := if rsp then (s.reg ag a).toNat else (s.reg64 ag a).toNat
    let load := fun (s : State) (l : Loc) =>
      if s.plainPoison ag false l 16 then s.bodyPoison u core ag spc l
      else
        let (s, x) := s.plainRead ag false l 16
        match algebraBad x with
        | some v => s.trapAll m ⟨0x18, BitVec.ofNat 64 v, 0⟩
        | none =>
          let r : AlgRec := ⟨BitVec.ofNat 64 x, bitf x 64 8, BitVec.ofNat 4 (x / 2 ^ 72)⟩
          (s.setTeam u { s.team u with algs := aput (s.team u).algs alg.toNat r }).releaseAll m
    match s.checkAccess ag spc addr 16 16 .read false with
    | some t => s.trapAll m t
    | none =>
      if rsp then
        if s.clearFor s.nextAcc (probe ag .sp addr 16 []) then load s (s.place ag .sp addr) else s
      else match s.translate core (s.ctxNo u) addr .read with
        | (s, .bad r) => s.trapAll m ⟨0x0B, BitVec.ofNat 64 r, BitVec.ofNat 64 addr⟩
        | (s, .missing) => (s.postFault core (s.ctxNo u) addr .load).1
        | (s, .pa x) => if s.clearFor s.nextAcc (probe ag .glob addr 16 [(0, x), (1, x + 8)]) then load s (.hbm x) else s) s

/-! ## Operands: MWLD, MGATH, MSCALE (R303 to R305) -/

/-- Twelve bytes of 0x7F: no scaling (Table 14-1). -/
def unitScale : BitVec 96 := 0x7F7F7F7F7F7F7F7F7F7F7F7F

/-- The type an operand format names. -/
def BFmt.ty : BFmt → NumTy
  | .f32 => .f32
  | .f16 => .f16
  | .bf16 => .bf16
  | .e4m3 => .e4m3
  | .e5m2 => .e5m2
  | .e2m1 => .e2m1
  | .p2x2 => .p2x2
  | .s8 => .s8

/-- The type an A format names. -/
def AFmt.ty : AFmt → NumTy
  | .f32 => .f32
  | .f16 => .f16
  | .bf16 => .bf16
  | .e4m3 => .e4m3
  | .e5m2 => .e5m2
  | .e2m1 => .e2m1
  | .s8 => .s8

/-- Element columns in the latch columns they fill, d copies each (R283). -/
def spread {α : Type} (d : Nat) (xs : List α) : List (Nat × α) :=
  (xs.zip (List.range xs.length)).flatMap (fun p => (List.range d).map (fun k => (d * p.2 + k, p.1)))

/-- MWLD's body (R303). -/
def bodyMwld (a b c : Reg) (fmt : BFmt) (alg : BitVec 2) (m : List Agent) (s : State) : State :=
  arrayBody m (fun u core ag s =>
    let rec' := s.algebra ag alg
    let ncol := 32 / rec'.d
    let base := (s.reg ag a).toNat
    let stride := (s.reg ag b).toNat
    let sc := (s.reg ag c).toNat
    let cols := (List.range ncol).map (fun e => (⟨ag, base + e * stride, 192⟩ : ARow))
    let scs := if BFmt.narrow fmt then (List.range ncol).map (fun e => (⟨ag, sc + 16 * e, 16⟩ : ARow)) else []
    let nb := if fmt == .e2m1 then 12 else 6
    s.withRows m u core (if stride % 4 = 0 then none else some (base + stride)) (cols ++ scs) (fun s =>
      let col := fun (r : ARow) => BitVec.ofNat 1536 (s.rowRead r)
      let scale := fun (r : ARow) =>
        let x := s.rowRead r
        BitVec.ofNat 96 (x % 2 ^ (8 * nb) + unitScale.toNat / 2 ^ (8 * nb) * 2 ^ (8 * nb))
      let arr := (s.core core).array
      (s.setArray core { arr with
        wcol := spread rec'.d (cols.map col),
        wscale := if BFmt.narrow fmt then spread rec'.d (scs.map scale) else [],
        bfmt := fmt, balg := rec' }).releaseAll m)) s

/-- MGATH's body (R304). -/
def bodyMgath (a : Reg) (m : List Agent) (s : State) : State :=
  arrayBody m (fun u core _ s =>
    let rows := m.map (fun ag => (⟨ag, (s.reg ag a).toNat, 192⟩ : ARow))
    s.withRows m u core none rows (fun s =>
      let arr := (s.core core).array
      (s.setArray core { arr with
        arow := (rows.zip (List.range rows.length)).map (fun p => (p.2, BitVec.ofNat 1536 (s.rowRead p.1))),
        ascale := [] }).releaseAll m)) s

/-- MSCALE's body (R305). -/
def bodyMscale (a : Reg) (m : List Agent) (s : State) : State :=
  arrayBody m (fun _ core _ s =>
    let arr := (s.core core).array
    (s.setArray core { arr with
      ascale := (m.zip (List.range m.length)).map (fun p => (p.2, BitVec.ofNat 96 (ofWords (s.regRun p.1 a 3)))) }
    ).releaseAll m) s

/-! ## What a cell computes (R284 to R291) -/

/-- The K and the bank type of a legal pair (Table 14-2). -/
def pairOf (a : AFmt) (b : BFmt) : Option (Nat × BankTy) :=
  match a, b with
  | .e4m3, .e4m3 | .e4m3, .e5m2 | .e5m2, .e4m3 | .e5m2, .e5m2 => some (192, .f32)
  | .e4m3, .p2x2 | .e5m2, .p2x2 => some (192, .f32)
  | .e2m1, .e2m1 => some (384, .f32)
  | .e2m1, .p2x2 => some (192, .f32)
  | .s8, .s8 => some (192, .s32)
  | .f16, .f16 => some (96, .f32)
  | .f16, .p2x2 => some (96, .f32)
  | .bf16, .bf16 => some (96, .f32)
  | .f32, .f32 => some (48, .f32)
  | _, _ => none

/-- May the pair be used under an algebra of more than one dimension (R284)? -/
def algebraPair (a : AFmt) (b : BFmt) : Bool :=
  match a, b with
  | .f16, .f16 | .bf16, .bf16 | .f32, .f32 => true
  | _, _ => false

/-- Is a type narrow, so that its blocks are scaled (R285)? -/
def NumTy.scaled : NumTy → Bool
  | .e4m3 | .e5m2 | .e2m1 | .p2x2 | .s8 => true
  | _ => false

/-- Element k of a row, and its block's scale (R285). -/
def elemOf (t : NumTy) (row scale k : Nat) : X × Nat :=
  (NumTy.toX t (bitf row (NumTy.width t * k) (NumTy.width t)),
    if NumTy.scaled t then bitf scale (8 * (k / 32)) 8 else 0x7F)

/-- x × 2^k. -/
def X.shift (x : X) (k : Int) : X :=
  match x with
  | .fin s n d e => .fin s n d (e + k)
  | y => y

/-- The term of two scaled elements (R286). -/
def termOf (a b : X × Nat) : X :=
  if a.2 = 255 || b.2 = 255 then .nan else (a.1.mul b.1).shift ((a.2 : Int) - 127 + ((b.2 : Int) - 127))

/-- The terms of cell component c of an output element, in K order (R286, R291). -/
def cellTerms (r : AlgRec) (k c : Nat) (as bs : List (X × Nat)) : List X :=
  if r.d ≤ 1 then
    match r.nibble 0 0 / 4 with
    | 0 => (as.zip bs).map (fun p => termOf p.1 p.2)
    | 1 => (as.zip bs).map (fun p => (termOf p.1 p.2).neg)
    | _ => []
  else (List.range (k / r.d)).flatMap (fun i => (List.range r.d).filterMap (fun p =>
    ((List.range r.d).find? (fun q => r.nibble p q % 4 == c && r.nibble p q / 4 != 2)).map (fun q =>
      let t := termOf (as.getD (r.d * i + p) (.zero false, 0x7F)) (bs.getD (r.d * i + q) (.zero false, 0x7F))
      if r.nibble p q / 4 = 1 then t.neg else t)))

/-- Conjugate a row of elements under the latched mask (R291). -/
def conjRow (r : AlgRec) (xs : List (X × Nat)) : List (X × Nat) :=
  (xs.zip (List.range xs.length)).map (fun p => if r.mask.getLsbD (p.2 % r.d) then (p.1.1.neg, p.1.2) else p.1)

/-- A value with the sticky bits OVF and UNF that its roundings set (R148). -/
structure Acc where
  x : X
  ovf : Bool
  unf : Bool
deriving DecidableEq, Repr

/-- Is it finite? -/
def X.finite : X → Bool
  | .fin .. => true
  | _ => false

/-- RoundTo(x, f32, rn, 0) with its sticky bits (R148). -/
def Acc.round (x : X) (ovf unf : Bool) : Acc :=
  let r := f32.round x .rn 0 false
  let y := f32.toX r.bits
  ⟨y, ovf || (x.finite && !y.finite),
    unf || (x.finite && !x.isZero && r.inexact && x.abs.lt (.dy 1 (-126)))⟩

/-- One rounded addition. -/
def Acc.add (a : Acc) (t : X) : Acc := Acc.round (a.x.add false t) a.ovf a.unf

/-- The balanced tree of R136 with its sticky bits. -/
def treeAcc : Nat → List X → Acc
  | 0, xs => ⟨xs.headD (.zero false), false, false⟩
  | k + 1, xs =>
    if xs.length ≤ 1 then ⟨xs.headD (.zero false), false, false⟩
    else
      let p := powBelow xs.length
      let a := treeAcc k (xs.take p)
      let b := treeAcc k (xs.drop p)
      Acc.round (a.x.add false b.x) (a.ovf || b.ovf) (a.unf || b.unf)

/-- The new value of a cell of an f32 bank under a ductus (R287). -/
def cellF32 (duct : BitVec 2) (c : X) (ts : List X) : Acc :=
  match duct.toNat with
  | 0 => ts.foldl Acc.add ⟨c, false, false⟩
  | 1 =>
    let t := treeAcc 10 ts
    Acc.round (c.add false t.x) t.ovf t.unf
  | 2 => (runs32 64 ts).foldl (fun a l => a.add (xsum l)) ⟨c, false, false⟩
  | _ => Acc.round (xsum (c :: ts)) false false

/-- The new value of a cell of an s32 bank, with its sticky bits (R288). -/
def cellS32 (c : Int) (ts : List X) : Word × Bool × Bool :=
  let us := (runs32 64 ts).map (fun l =>
    let x := xsum l
    (x, roundFix 64 true 0 x .rn 0))
  if ts.contains .nan then (0x80000000, true, us.any (fun u => u.1.finite && u.2.inexact))
  else
    let v := us.foldl (fun a u => a + sgn 64 u.2.bits) c
    (BitVec.ofInt 32 v, decide (v < -(2 ^ 31)) || decide (v > 2 ^ 31 - 1) || us.any (fun u => u.2.clamp), us.any (fun u => u.2.inexact))

/-- The bank a form names. -/
def MArray.bank (a : MArray) (b : Bool) : List (Nat × Word) := if b then a.a1 else a.a0
/-- Its type. -/
def MArray.ty (a : MArray) (b : Bool) : BankTy := if b then a.t1 else a.t0
/-- Replace a bank and its type. -/
def MArray.setBank (a : MArray) (b : Bool) (cells : List (Nat × Word)) (t : BankTy) : MArray :=
  if b then { a with a1 := cells, t1 := t } else { a with a0 := cells, t0 := t }
/-- Cell (i, j) of a bank. -/
def MArray.cell (a : MArray) (b : Bool) (i j : Nat) : Word := aget 0 (a.bank b) (32 * i + j)

/-- The A elements of row i of a format (R285). -/
def MArray.aRow (a : MArray) (t : NumTy) (k i : Nat) : List (X × Nat) :=
  let row := (aget (0 : BitVec 1536) a.arow i).toNat
  let sc := (aget unitScale a.ascale i).toNat
  (List.range k).map (elemOf t row sc)

/-- The B elements of column j (R285). -/
def MArray.bCol (a : MArray) (k j : Nat) : List (X × Nat) :=
  let col := (aget (0 : BitVec 1536) a.wcol j).toNat
  let sc := (aget unitScale a.wscale j).toNat
  (List.range k).map (elemOf (BFmt.ty a.bfmt) col sc)

/-- The new cells of a bank and the sticky bits (R286 to R288, R291). -/
def MArray.mma (a : MArray) (fmt : AFmt) (k : Nat) (bt : BankTy) (cb ca ow : Bool) (duct : BitVec 2) (bank : Bool) :
    List (Nat × Word) × Bool × Bool :=
  let r := a.balg
  let rows := (List.range 32).map (fun i =>
    let x := a.aRow (AFmt.ty fmt) k i
    if ca then conjRow r x else x)
  let cols := (List.range 32).map (fun j =>
    let x := a.bCol k j
    if cb then conjRow r x else x)
  let cells := (rows.zip (List.range 32)).flatMap (fun p => (cols.zip (List.range 32)).map (fun q =>
    let ts := cellTerms r k (q.2 % (max r.d 1)) p.1 q.1
    let c : Word := if ow then 0 else a.cell bank p.2 q.2
    match bt with
    | .f32 =>
      let v := cellF32 duct (xf c) ts
      (32 * p.2 + q.2, rfn v.x, v.ovf, v.unf)
    | .s32 =>
      let v := cellS32 c.toInt ts
      (32 * p.2 + q.2, v.1, v.2.1, v.2.2)))
  (cells.map (fun c => (c.1, c.2.1)), cells.any (fun c => c.2.2.1), cells.any (fun c => c.2.2.2))

/-- The assay of an MMA (R293, R301): a difference, where the hardware has one, is recorded and raises ASSAY. -/
def State.assay (s : State) (u core : Nat) (count : Word) (pc : Word) (lane : Nat) : State :=
  match afind (s.core core).array.upset count.toNat with
  | none => s
  | some col =>
    let row := count.toNat % 32
    let t := s.team u
    let s := if t.mstatus.getLsbD 2 then s
      else
        let x := 4 + 8 * row + 256 * (col % 32) + 65536 * (count.toNat % 65536)
        s.setTeam u { t with mstatus := t.mstatus ||| BitVec.ofNat 32 x }
    s.machineCheck u core 0x40 (BitVec.ofNat 32 (row + 256 * (col % 32) + 65536 * (count.toNat % 65536))) 0 pc lane
      none

/-- MMA's body (R306). -/
def bodyMma (fmt : AFmt) (cb ca ow : Bool) (duct : BitVec 2) (bank : Bool) (m : List Agent) (s : State) : State :=
  arrayBody m (fun u core ag s =>
    let arr := (s.core core).array
    let trap : Trap := ⟨0x17, BitVec.ofNat 64 (256 * AFmt.code fmt + BFmt.code arr.bfmt), 0⟩
    match pairOf fmt arr.bfmt with
    | none => s.trapAll m trap
    | some (k, bt) =>
      if arr.balg.d > 1 && !algebraPair fmt arr.bfmt then s.trapAll m trap
      else if !ow && arr.ty bank != bt then s.trapAll m trap
      else
        let (cells, ovf, unf) := arr.mma fmt k bt cb ca ow duct bank
        let p := s.pc ag
        let s := s.setArray core { arr.setBank bank cells bt with count := arr.count + 1 }
        let s := (s.sticky u ovf unf).releaseAll m
        s.assay u core arr.count p (Agent.lane ag)) s

/-! ## Banks (R307, R308, R311) -/

/-- MZERO's body (R307). -/
def bodyMzero (ty : BankTy) (bank : Bool) (m : List Agent) (s : State) : State :=
  arrayBody m (fun _ core _ s => (s.setArray core ((s.core core).array.setBank bank [] ty)).releaseAll m) s

/-- MLDACC's body (R307). -/
def bodyMldacc (a : Reg) (ty : BankTy) (bank : Bool) (m : List Agent) (s : State) : State :=
  arrayBody m (fun _ core _ s =>
    let cells := (m.zip (List.range m.length)).flatMap (fun p =>
      ((s.regRun p.1 a 32).zip (List.range 32)).map (fun q => (32 * p.2 + q.2, q.1)))
    (s.setArray core ((s.core core).array.setBank bank cells ty)).releaseAll m) s

/-- MDRAIN's body (R308): each member's run arrives later. -/
def bodyMdrain (h : Hdr) (d : Reg) (bank : Bool) (m : List Agent) (s : State) : State :=
  arrayBody m (fun _ core _ s =>
    let arr := (s.core core).array
    let s := if d = vz then s
      else (m.zip (List.range m.length)).foldl (fun s p =>
        s.later p.1 h (runOf d 32) ((List.range 32).map (fun j => arr.cell bank p.2 j)) none) s
    s.releaseAll m) s

/-- Are results of a team's array bodies still on their way: drained rows, or tiles (R311)? -/
def State.arrayOwes (s : State) (u : Nat) : Bool :=
  s.accs.any (fun a => s.ofTeam u a.ag && a.dst.length == 32) || s.tiles.any (fun t => t.uid == u)

/-- MSTAT's body (R311): it waits for the results of the team's array bodies. -/
def bodyMstat (h : Hdr) (d : Reg) (clr : Bool) (m : List Agent) (s : State) : State :=
  teamBody m (fun u _ _ s =>
    if s.arrayOwes u then s
    else
    let v := (s.team u).mstatus
    let s := if clr then s.setTeam u { s.team u with mstatus := 0 } else s
    s.finish m h false d (m.map (fun _ => (v.toNat, zFlag (v == 0))))) s

/-! ## MDRST (R294, R309, R310) -/

/-- The element size of an operation (Table 15-5). -/
def MdrstOp.esz : MdrstOp → Nat
  | .badd => 2
  | .xadd => 8
  | _ => 4

/-- Does Table 15-5 allow the operation on a bank of this type? -/
def MdrstOp.ok : MdrstOp → BankTy → Bool
  | .fadd, t | .badd, t => t == .f32
  | .iadd, t => t == .s32
  | _, _ => true

/-- The update at the port (Table 15-5). -/
def MdrstOp.port (o : MdrstOp) (t : BankTy) : PortOp :=
  match o with
  | .st => .write
  | .fadd => .upd .fadd
  | .badd => .badd
  | .iadd => .upd .add
  | .xadd => .upd .fxadd
  | .min => .upd (if t == .f32 then .fmin else .smin)
  | .max => .upd (if t == .f32 then .fmax else .smax)

/-- The converted cell with the sticky bits it sets (Table 15-5, R310). -/
def MdrstOp.cell (o : MdrstOp) (t : BankTy) (v : Word) : Nat × Bool × Bool :=
  match o with
  | .xadd =>
    let x := if t == .f32 then xf v else .int v.toInt
    let r := roundFix 64 true 32 x .rn 0
    (r.bits, r.clamp, !x.isZero && x.finite && x.abs.lt (.dy 1 (-32)))
  | _ => (v.toNat, false, false)

/-- The space an MDRST names. -/
def MSpace.space : MSpace → Space
  | .glob => .glob
  | .sp => .sp
  | .psp => .psp
  | .vlt => .vlt

/-- The parts of a row of n bytes: one, or one in each of two vaults that it lies in (R169, R294). -/
def vaultParts (spc : Space) (x n : Nat) : List (Nat × Nat) :=
  let k := 2 ^ 24 - x % 2 ^ 24
  if spc == .vlt && decide (k < n) then [(x, k), (x + k, n - k)] else [(x, n)]

/-- The region a tile must keep to (R294). -/
def regionOf (spc : Space) (a : Nat) : Nat :=
  match spc with
  | .glob => a / 4096
  | .vlt => a / 2 ^ 24
  | _ => 0

/-- How the pages of a tile's rows translate: the first that turns the access away; else whether one is missing. -/
def State.tilePages (s : State) (core ctx : Nat) (n : Need) : List Nat → State × Option (Nat × Nat) × Bool
  | [] => (s, none, false)
  | va :: t =>
    match s.translate core ctx va n with
    | (s, .bad r) => (s, some (r, va), false)
    | (s, .missing) =>
      let (s, b, _) := s.tilePages core ctx n t
      (s, b, true)
    | (s, .pa _) => s.tilePages core ctx n t

/-- The page of a tile translates, is missing, or turns the tile away (R294). -/
def State.tileWalk (s : State) (t : Tile) : State × Tile × Option Nat :=
  let ctx := s.ctxNo t.uid
  let core := s.tileCore t
  match s.translate core ctx t.base .write with
  | (s, .pa x) => (s, { t with pa := some x, stage := .ready }, none)
  | (s, .missing) =>
    let (s, n) := s.postFault core ctx t.base (if t.op == .write then .store else .update)
    (s, { t with stage := .held (dieOf core) n }, none)
  | (s, .bad r) => (s, t, some r)

/-- MDRST's body (R310): the checks, the release, and the tile on its way. -/
def bodyMdrst (a b : Reg) (op : MdrstOp) (scope : Scope) (rel : Bool) (space : MSpace) (bank : Bool) (m : List Agent)
    (s : State) : State :=
  arrayBody m (fun u core ag s =>
    let arr := (s.core core).array
    let bt := arr.ty bank
    let spc := MSpace.space space
    let e := MdrstOp.esz op
    let base : Nat := if spc == .glob then (s.reg64 ag a).toNat else (s.reg ag a).toNat
    let stride := (s.reg ag b).toNat
    let starts : List Nat := (List.range m.length).map (fun i => base + i * stride)
    let use : Use := if op == .st then .write else .update
    let parts := starts.flatMap (fun x => vaultParts spc x (32 * e))
    let range := (parts.find? (fun (p : Nat × Nat) => !s.inRange ag spc p.1 p.2)).map (fun p => p.1)
    let vlt := (parts.find? (fun (p : Nat × Nat) => spc == .vlt && !s.vaultOk ag (p.1 / 2 ^ 24) use)).map (fun p => p.1)
    if !MdrstOp.ok op bt then
      s.trapAll m ⟨0x17, BitVec.ofNat 64 (65536 + 256 * (if bt == .f32 then 6 else 0) + MdrstOp.code op), 0⟩
    else match range, vlt with
    | some x, _ => s.trapAll m ⟨0x08, BitVec.ofNat 64 (spaceNo spc), BitVec.ofNat 64 x⟩
    | none, vlt =>
      if base % e != 0 || stride % e != 0 then s.trapAll m ⟨0x09, BitVec.ofNat 64 e, BitVec.ofNat 64 base⟩
      else match vlt with
      | some x => s.trapAll m ⟨0x0A, BitVec.ofNat 64 (x / 2 ^ 24), BitVec.ofNat 64 x⟩
      | none =>
        let pages := if spc == .glob then starts.flatMap (fun x =>
            if x / 4096 = (x + 32 * e - 1) / 4096 then [x] else [x, (x / 4096 + 1) * 4096]) else []
        match s.tilePages core (s.ctxNo u) .write pages with
        | (s, some (r, va), _) => s.trapAll m ⟨0x0B, BitVec.ofNat 64 r, BitVec.ofNat 64 va⟩
        | (s, none, _) =>
          let last := base + (m.length - 1) * stride + 32 * e - 1
          if regionOf spc base != regionOf spc last then s.trapAll m ⟨0x19, 0, BitVec.ofNat 64 base⟩
          else if s.det ag && (spc == .sp || spc == .psp) &&
              (op == .fadd || op == .badd || op == .min || op == .max) then
            s.trapAll m ⟨0x0D, BitVec.ofNat 64 (spaceNo spc), 0⟩
          else if rel && !m.all s.settled then s
          else
            let cells := (List.range m.length).map (fun i => (List.range 32).map (fun j =>
              MdrstOp.cell op bt (arr.cell bank i j)))
            let flat := cells.flatten
            let s := s.sticky u (flat.any (fun c => c.2.1)) (flat.any (fun c => c.2.2))
            let s := if rel then m.foldl (fun s x => s.releaseAction x scope) s else s
            let t : Tile := {
              id := s.nextTile, uid := u, ags := m, pc := s.pc ag, lane := Agent.lane ag,
              mark := s.nextAcc, space := spc, base := base, stride := stride,
              rows := cells.map (fun r => r.map (fun c => c.1)), esz := e, op := MdrstOp.port op bt, pa := none,
              stage := .ready }
            let (s, t, _) := if spc == .glob then s.tileWalk t else (s, t, none)
            State.releaseAll { s with tiles := s.tiles ++ [t], nextTile := s.nextTile + 1 } m) s

/-! ## MDRST_TILE_APPLY (R294, R310) -/

/-- The elements of a tile in order: the position from its base, and the operand. -/
def Tile.elems (t : Tile) : List (Nat × Nat) :=
  (t.rows.zip (List.range t.rows.length)).flatMap (fun r =>
    (r.1.zip (List.range 32)).map (fun c => (r.2 * t.stride + c.2 * t.esz, c.1)))

/-- The place of a tile's base. -/
def State.tileLoc (s : State) (t : Tile) : Loc :=
  match t.space, t.pa with
  | .glob, some p => .hbm p
  | _, _ => s.place (t.ags.headD (.thread t.uid 0 0)) t.space t.base

/-- The updates of a tile, in order. -/
def State.tileWrites (s : State) (t : Tile) : List Held :=
  t.elems.map (fun e => Held.of ((s.tileLoc t).plus e.1) t.esz t.op e.2)

/-- May a translated tile be applied: every signer's earlier accesses to its bytes, and its earlier acquires, are past, and
a speculative team's buffer has room (R178, R179, R310, R368, R393)? -/
def State.tileReady (s : State) (t : Tile) : Bool :=
  t.stage == .ready &&
  s.accs.all (fun a => !(t.ags.contains a.ag && decide (a.id < t.mark) && !a.past &&
    (s.tileOverlaps t a || a.ord == .acq || a.ord == .ar))) &&
  s.tiles.all (fun x => !(decide (x.id < t.id) && x.uid == t.uid && x.space == t.space &&
    x.ags.any (fun ag => t.ags.contains ag))) &&
  s.holdsFit t.uid (s.tileWrites t)

/-- Would a tile consume a poisoned word (R189)? The place of the first. -/
def State.tilePoison (s : State) (t : Tile) : Option Loc :=
  let seen := if Space.held t.space && s.holds t.uid then s.withHeld t.uid none else s
  ((s.tileWrites t).find? (fun w => w.op != .write && seen.poisoned w.loc w.n)).map (fun w => w.loc)

/-- Apply a tile whole (R294): held back, at its place in the team's order, where its team's writes are, else at its
port. -/
def State.applyTile (s : State) (t : Tile) : State :=
  let s := { s with tiles := s.tiles.filter (fun x => x.id != t.id) }
  let l := s.tileLoc t
  if Space.held t.space && s.holds t.uid then s.holdAll t.uid (2 * t.mark) (s.tileWrites t)
  else
    let lines := t.elems.filterMap (fun e => match l.plus e.1 with
      | .hbm a => some (a / 64)
      | _ => none)
    let s := s.l1Clean (s.tileCore t) (fun x => lines.contains x.line) true
    (t.elems.foldl (fun s e =>
      (((s.roomAt (l.plus e.1) t.esz).noteDirect t.uid (l.plus e.1)).portUpdate (l.plus e.1) t.esz t.op e.2).1.clearTag (l.plus e.1) t.esz) s).mend
      (s.tileWrites t)

/-- A tile is dropped whole and its team takes a double fault (R294). -/
def State.dropTile (s : State) (t : Tile) (reason : Nat) : State :=
  ({ s with tiles := s.tiles.filter (fun x => x.id != t.id) }).doubleFault t.uid 0x0B t.pc t.lane
    (BitVec.ofNat 64 reason) (BitVec.ofNat 64 t.base)

end Sys2Proof.Machine
end

