-- ==== Sys2Proof/Machine/Rays.lean ====
section
/-! DEFINITION. The ray forms (chapter 18): TBOX and TTRI with their tests, the traversal stacks of SPUSH and SPOP, SHRAY
and the resident walker. -/

namespace Sys2Proof.Machine

/-! ## Exact comparisons (R334, R335) -/

/-- The smaller of two values. -/
def xmin (x y : X) : X := if y.lt x then y else x
/-- The larger of two values. -/
def xmax (x y : X) : X := if x.lt y then y else x
/-- x ≤ y, for values that are no NaN. -/
def X.le (x y : X) : Bool := !y.lt x

/-! ## TBOX (R332 to R334) -/

/-- Word i of a little-endian block of memory. -/
def wordAt (x i : Nat) : Word := BitVec.ofNat 32 (x / 2 ^ (32 * i))

/-- The entry and exit of a ray on one axis, a NaN counting as open (R334). -/
def slab (o rd lo hi : X) : X × X :=
  let p := (lo.add false o.neg).mul rd
  let q := (hi.add false o.neg).mul rd
  let near := xmin (if p == .nan then .inf true else p) (if q == .nan then .inf true else q)
  let far := xmax (if p == .nan then .inf false else p) (if q == .nan then .inf false else q)
  (near, far)

/-- The entry of a ray into box c of a node, if it hits it (R334). -/
def boxHit (ray : List X) (node c : Nat) : Option X :=
  let box := (List.range 6).map (fun i => xf (wordAt node (6 * c + i)))
  let r := fun i => ray.getD i .nan
  let b := fun i => box.getD i .nan
  if wordAt node (24 + c) = 0 || ray.contains .nan || box.contains .nan then none
  else
    let ax := (List.range 3).map (fun i => slab (r i) (r (3 + i)) (b i) (b (3 + i)))
    let e := ax.foldl (fun x p => xmax x p.1) (r 6)
    let f := ax.foldl (fun x p => xmin x p.2) (r 7)
    if e.le f && (List.range 3).all (fun i => (b i).le (b (3 + i))) then some e else none

/-- Insert a child by its entry, after those that are not later. -/
def insertHit (x : X × Nat) : List (X × Nat) → List (X × Nat)
  | [] => [x]
  | y :: t => if x.1.lt y.1 then x :: y :: t else y :: insertHit x t

/-- The children hit, by ascending entry, ties to the lower (R334). -/
def boxOrder (ray : List Word) (node : Nat) : List Nat :=
  let r := ray.map xf
  (((List.range 4).filterMap (fun c => (boxHit r node c).map (fun e => (e, c)))).foldl
    (fun l x => insertHit x l) []).map (fun p => p.2)

/-- TBOX's five registers and its Z (R334). -/
def tboxValue (ray : List Word) (node : Nat) : List Word × Bool :=
  let order := boxOrder ray node
  let n := order.length
  let mask := order.foldl (fun m c => m + 2 ^ c) 0
  let ranks := (order.zip (List.range n)).foldl (fun x p => x + p.1 * 2 ^ (8 + 2 * p.2)) 0
  (BitVec.ofNat 32 (mask + n * 16 + ranks) ::
    (List.range 4).map (fun k => match order[k]? with
      | some c => wordAt node (24 + c)
      | none => 0), n == 0)

/-! ## TTRI (R335) -/

/-- A vector of exact values. -/
abbrev Vec3 := X × X × X
/-- The difference of two vectors. -/
def Vec3.sub (a b : Vec3) : Vec3 := (a.1.add false b.1.neg, a.2.1.add false b.2.1.neg, a.2.2.add false b.2.2.neg)
/-- The dot product. -/
def Vec3.dot (a b : Vec3) : X := ((a.1.mul b.1).add false (a.2.1.mul b.2.1)).add false (a.2.2.mul b.2.2)
/-- The cross product. -/
def Vec3.cross (a b : Vec3) : Vec3 :=
  ((a.2.1.mul b.2.2).add false (a.2.2.mul b.2.1).neg, (a.2.2.mul b.1).add false (a.1.mul b.2.2).neg,
    (a.1.mul b.2.1).add false (a.2.1.mul b.1).neg)

/-- Three words from position i as a vector. -/
def vecAt (ws : List Word) (i : Nat) : Vec3 := (xf (ws.getD i 0), xf (ws.getD (i + 1) 0), xf (ws.getD (i + 2) 0))

/-- The nine words of a triangle in memory. -/
def triWords (x : Nat) : List Word := (List.range 9).map (wordAt x)

/-- A hit: t, the weights of v1 and v2, and whether it meets the back face (R335). -/
def triHit (ray tri : List Word) (cull : Cull) : Option (X × X × X × Bool) :=
  if !(ray ++ tri).all (fun w => (xf w).finite) then none
  else
    let o := vecAt ray 0
    let d := vecAt ray 3
    let v0 := vecAt tri 0
    let v1 := vecAt tri 3
    let v2 := vecAt tri 6
    let a := Vec3.sub v0 o
    let b := Vec3.sub v1 o
    let c := Vec3.sub v2 o
    let n := Vec3.cross (Vec3.sub v1 v0) (Vec3.sub v2 v0)
    let e0 := Vec3.dot d (Vec3.cross b c)
    let e1 := Vec3.dot d (Vec3.cross c a)
    let e2 := Vec3.dot d (Vec3.cross a b)
    let sum := (e0.add false e1).add false e2
    let z := X.zero false
    let pos := z.lt sum
    let same := [e0, e1, e2].all (fun e => z.le e) || [e0, e1, e2].all (fun e => e.le z)
    if sum.isZero || !same then none
    else
      let t := (Vec3.dot n a).quot sum
      if !((xf (ray.getD 6 0)).le t && t.le (xf (ray.getD 7 0))) then none
      else if cull == .cullb && pos || cull == .cullf && !pos then none
      else some (t, e1.quot sum, e2.quot sum, pos)

/-- TTRI's four registers and its Z (R335). -/
def ttriValue (ray : List Word) (tri : List Word) (cull : Cull) : List Word × Bool :=
  match triHit ray tri cull with
  | some (t, u, v, back) => ([rfn t, rfn u, rfn v, BitVec.ofNat 32 (1 + 2 * b2n back)], false)
  | none => ([0x7F800000, 0, 0, 0], true)

/-- Issue a traversal request of n bytes of space 0, aligned on `align` (R336). -/
def State.issueRay (s : State) (ag : Agent) (h : Hdr) (ea n align k : Nat) (d : Reg) (op : AccOp) : LaneOut :=
  match s.checkAccess ag .glob ea n align .read false with
  | some t => .trap s t
  | none => .done (s.push { s.blank ag h with op := op, dst := runOf d k, ea := ea, ga := ea, len := n })

/-- TBOX (R334, R336). -/
def execTbox (h : Hdr) (d a b : Reg) (s : State) : Out :=
  perLane (.tbox h d a b) (fun ag s =>
    s.issueRay ag h (s.reg64 ag b).toNat 128 128 5 d (.tbox (s.regRun ag a 8))) s

/-- TTRI (R335, R336). -/
def execTtri (h : Hdr) (d a b : Reg) (cull : Cull) (s : State) : Out :=
  perLane (.ttri h d a b cull) (fun ag s =>
    s.issueRay ag h (s.reg64 ag b).toNat 36 4 4 d (.ttri (s.regRun ag a 8) cull)) s

/-! ## Traversal stacks (R337, R338) -/

/-- The array address of entry j of the thread in a lane (R337). -/
def stackEntry (base j width l : Nat) : Nat := base + 4 * (j * width + l)

/-- Does an entry lie outside the half that its base names (R338)? -/
def KDesc.entryOut (d : KDesc) (base o : Nat) : Bool :=
  let b := if d.spans && decide (d.half ≤ base) then d.half else 0
  decide (o < b) || decide (o + 4 > b + d.half)

/-- The trap of a lane's stack accesses, if any: ADDR_RANGE, then ALIGN. -/
def KDesc.stackTrap (d : KDesc) (base : Nat) (os : List Nat) : Option Trap :=
  match os.find? (d.entryOut base) with
  | some o => some ⟨0x08, if o < d.half then 1 else 2, BitVec.ofNat 64 o⟩
  | none => match os with
    | o :: _ => if base % 4 = 0 then none else some ⟨0x09, 4, BitVec.ofNat 64 o⟩
    | [] => none

/-- A stack access of a lane, on its way (R338). -/
def State.stackAcc (s : State) (ag : Agent) (h : Hdr) (o : Nat) (op : AccOp) (dst : List Reg) (window : Bool) : State :=
  let (spc, ea) := (⟨ag, o, 4⟩ : ARow).at (s.descOf ag)
  s.push { s.blank ag h with
    op := op, dst := dst, space := spc, ea := ea, len := 4, stage := .ready,
    left := if window then some h.la.toNat else none }

/-- SPUSH of one signer (R338). -/
def State.pushLane (s : State) (h : Hdr) (a c : Reg) (nz : Bool) (n base : Nat) (ag : Agent) : State :=
  let d := s.descOf ag
  let dp := (s.reg ag c).toNat
  let all := (s.regRun ag a n).reverse
  let vals := if nz then all.filter (fun v => v != 0) else all
  let os := (List.range vals.length).map (fun i => stackEntry base (dp + i) d.gwidth (Agent.lane ag))
  if dp + vals.length > 32 then s.raiseSigned ag ⟨0x1A, 0, 0⟩
  else match d.stackTrap base os with
    | some t => s.raiseSigned ag t
    | none =>
      let s := (vals.zip os).foldl (fun s p => s.stackAcc ag h p.2 (.store p.1.toNat) [] false) s
      (s.setReg ag c (BitVec.ofNat 32 (dp + vals.length))).release ag

/-- SPUSH's body (R338). -/
def bodySpush (h : Hdr) (a b c : Reg) (nz : Bool) (n : BitVec 2) (m : List Agent) (s : State) : State :=
  match m with
  | [] => s
  | ag :: _ =>
    let base := (s.reg ag b).toNat
    m.foldl (fun s x => s.pushLane h a c nz (n.toNat + 1) base x) s

/-- SPOP of one signer (R338): its result and its depth arrive later. -/
def State.popLane (s : State) (h : Hdr) (d c : Reg) (base : Nat) (ag : Agent) : State :=
  let k := s.descOf ag
  let dp := (s.reg ag c).toNat
  if dp > 32 then s.raiseSigned ag ⟨0x1A, 0, 0⟩
  else if dp = 0 then
    (s.later ag h [d] [0] (if h.w then some (zFlag true) else none)).release ag
  else
    let o := stackEntry base (dp - 1) k.gwidth (Agent.lane ag)
    match k.stackTrap base [o] with
    | some t => s.raiseSigned ag t
    | none => (s.stackAcc ag h o (.pop (BitVec.ofNat 32 (dp - 1))) [d, c] true).release ag

/-- SPOP's body (R338). -/
def bodySpop (h : Hdr) (d b c : Reg) (m : List Agent) (s : State) : State :=
  match m with
  | [] => s
  | ag :: _ =>
    let base := (s.reg ag b).toNat
    m.foldl (fun s x => s.popLane h d c base x) s

/-! ## SHRAY (R339) -/

/-- The trap of a lane's SHRAY, if any. -/
def State.shrayTrap (s : State) (ag : Agent) (d c : Reg) (fx : Bool) : Option Trap :=
  let root := (s.reg64 ag d).toNat
  let tgt := (s.reg64 ag c).toNat
  let e := if fx then 8 else 4
  if s.det ag && !fx then some ⟨0x0F, 0, 0⟩
  else if root + 128 > 2 ^ 57 then some ⟨0x08, 0, BitVec.ofNat 64 root⟩
  else if tgt + 3 * e > 2 ^ 57 then some ⟨0x08, 0, BitVec.ofNat 64 tgt⟩
  else if root % 128 != 0 then some ⟨0x09, 128, BitVec.ofNat 64 root⟩
  else if tgt % e != 0 then some ⟨0x09, BitVec.ofNat 64 e, BitVec.ofNat 64 tgt⟩
  else none

/-- The ray of a lane. -/
def State.rayOf (s : State) (ag : Agent) (d a b c : Reg) (fx : Bool) : Ray :=
  { core := s.coreOf ag, launch := (s.team (s.uidOf ag)).launch, uid := s.uidOf ag, root := (s.reg64 ag d).toNat, ray := s.regRun ag a 8,
    contrib := s.regRun ag b 3, target := (s.reg64 ag c).toNat, fx := fx, taken := false, held := none, lit := false,
    applied := 0 }

/-- The rays of a core that no lane of the walker has taken: the first 256 are its queue, and others wait to enter it
(R339, R340). -/
def Core.queued (c : Core) : Nat := (c.rays.filter (fun r => !r.taken)).length

/-- A lane's ray enters its core's queue, if there is room; held with its team's stores under escrow and DET (R342). -/
def State.serveShray (s : State) (d a b c : Reg) (fx : Bool) (ag : Agent) : Option State :=
  let u := s.uidOf ag
  let r := s.rayOf ag d a b c fx
  if s.holds u then some (s.setTeam u { s.team u with rays := (s.team u).rays ++ [r] })
  else if (s.core (s.coreOf ag)).queued < 256 then some (s.addRays [r])
  else none

/-- SHRAY (R339): lanes that trap are seen to, the others enter in ascending order, stalling while the queue is full. -/
def execShray (h : Hdr) (d a b c : Reg) (fx : Bool) (s : State) : Out :=
  let i := Instr.shray h d a b c fx
  let (s, ags) := cohort i s
  let (s, ok) := ags.foldl (fun (p : State × List Agent) ag =>
    match p.1.shrayTrap ag d c fx with
    | some t => (p.1.raise ag i t, p.2)
    | none => (p.1, p.2 ++ [ag])) (s, [])
  .next (stallRun i s.nextSeq (fun ag s => s.serveShray d a b c fx ag) ok s)

/-! ## The resident walker (R340) -/

/-- What the walker's reads of a context's memory come to. -/
def State.walkRead (s : State) (core ctx uid : Nat) : List (Nat × Nat) → State × Got Nat
  | [] => (s, .ok 0)
  | (va, n) :: t =>
    if va + n > 2 ^ 57 then (s, .bad 0 va)
    else match s.translate core ctx va .read with
    | (s, .bad r) => (s, .bad r va)
    | (s, .missing) =>
      let (s, k) := s.postFault core ctx va .load
      (s, .missing (dieOf core) k)
    | (s, .pa x) =>
      if s.l1Poison core x n then (s, .poison (.hbm x))
      else
        let (s, v, _) := s.l1Read core uid x n
        match s.walkRead core ctx uid t with
        | (s, .ok y) => (s, .ok (v + 2 ^ (8 * n) * y))
        | r => r

/-- The tests of a leaf's triangles: is one hit? -/
def State.leafHit (s : State) (core ctx uid : Nat) (ray : List Word) (base : Nat) : Nat → State × Got Bool
  | 0 => (s, .ok false)
  | k + 1 =>
    match s.walkRead core ctx uid (linePieces base 36) with
    | (s, .ok x) =>
      if (triHit ray (triWords x) .off).isSome then (s, .ok true) else s.leafHit core ctx uid ray (base + 36) k
    | (s, .missing d n) => (s, .missing d n)
    | (s, .bad r v) => (s, .bad r v)
    | (s, .poison l) => (s, .poison l)
    | (s, .wait) => (s, .wait)

/-- Is some triangle reachable from the references on the stack hit (R340)? `bad` is a drop. The fuel bounds the number
of references taken. -/
def State.occluded (s : State) (core ctx uid : Nat) (ray : List Word) :
    Nat → List (Nat × Nat × Nat) → State × Got Bool
  | 0, _ => (s, .wait)
  | _, [] => (s, .ok false)
  | k + 1, (ref, nb, tb) :: rest =>
    match ref / 2 ^ 30 with
    | 0 => s.occluded core ctx uid ray k rest
    | 1 =>
      match s.walkRead core ctx uid (linePieces (nb + 128 * (ref % 2 ^ 30)) 128) with
      | (s, .ok x) =>
        let nb := bitf x (8 * 0x70) 64
        let tb := bitf x (8 * 0x78) 64
        let next := ((List.range 4).map (fun c => (wordAt x (24 + c)).toNat)).filter (fun r => r != 0)
        if next.any (fun r => r / 2 ^ 30 == 3) then (s, .bad 0 0)
        else if next.length - 1 + rest.length > 64 then (s, .bad 0 0)
        else s.occluded core ctx uid ray k (next.map (fun r => (r, nb, tb)) ++ rest)
      | (s, .missing d n) => (s, .missing d n)
      | (s, .bad r v) => (s, .bad r v)
      | (s, .poison l) => (s, .poison l)
      | (s, .wait) => (s, .wait)
    | 2 =>
      match s.leafHit core ctx uid ray (tb + 36 * (ref % 2 ^ 24)) (bitf ref 24 6 + 1) with
      | (s, .ok true) => (s, .ok true)
      | (s, .ok false) => s.occluded core ctx uid ray k rest
      | r => r
    | _ => (s, .bad 0 0)

/-- The bytes, position and size of the components that a ray's next update covers: all three in one aligned 64-byte
block, one otherwise (R340). -/
def Ray.part (r : Ray) : List Nat :=
  let e := if r.fx then 8 else 4
  if r.target / 64 = (r.target + 3 * e - 1) / 64 then [0, 1, 2] else [r.applied]

/-- The bytes of one component. -/
def Ray.esz (r : Ray) : Nat := if r.fx then 8 else 4

/-- The update of component i of a contribution (R340). -/
def Ray.update (r : Ray) (i : Nat) : PortOp × Nat :=
  let c := r.contrib.getD i 0
  if r.fx then (.upd .fxadd, (roundFix 64 true 32 (xf c) .rn 0).bits) else (.upd .fadd, c.toNat)

/-- Replace ray i of a core, or remove it. -/
def State.putRay (s : State) (core i : Nat) (r : Option Ray) : State :=
  let c := s.core core
  s.setCore core { c with rays := match r with
    | some r => c.rays.set i r
    | none => c.rays.eraseIdx i }

/-- A contribution is dropped, and its launch ends with an error that names the walker (R340). -/
def State.walkerDrop (s : State) (core i : Nat) (r : Ray) : State :=
  (s.putRay core i none).launchError r.launch ⟨3, 0, 0, 0, 0, 0, 0, 0⟩

/-- The walker consumes a poisoned word: the machine check is raised against the contribution's launch (R401), which ends
at once. -/
def State.walkerPoison (s : State) (core i : Nat) (r : Ray) (l : Loc) : State :=
  let s := (s.putRay core i none).logCheck
    ⟨s.now, 0x42, dieOf core, core, (s.launch r.launch).launchid, (s.team r.uid).teamid, 0, l.addr⟩
  s.launchError r.launch ⟨2, 0, 0x42, 0, (s.team r.uid).teamid, 0, 0, BitVec.ofNat 64 l.addr⟩

/-- The next update of an unoccluded ray's contribution, at the port that owns its target (R175, R340). -/
def State.applyRay (s : State) (core i : Nat) (r : Ray) : State :=
  let e := r.esz
  match r.part with
  | [] => s.putRay core i none
  | k :: ks =>
    let va := r.target + k * e
    let ctx := (s.launch r.launch).ctx
    match s.translate core ctx va .write with
    | (s, .bad _) => s.walkerDrop core i r
    | (s, .missing) =>
      let (s, n) := s.postFault core ctx va .update
      s.putRay core i (some { r with held := some (dieOf core, n) })
    | (s, .pa x) =>
      let s := s.l1Flush core x
      let ws := (k :: ks).map (fun j => (x + (j - k) * e, r.update j))
      match ws.find? (fun w => s.poisoned (.hbm w.1) e) with
      | some w => s.walkerPoison core i r (.hbm w.1)
      | none =>
        let s := ws.foldl (fun s w => (s.portUpdate (.hbm w.1) e w.2.1 w.2.2).1.clearTag (.hbm w.1) e) s
        if k + ks.length + 1 ≥ 3 then s.putRay core i none
        else s.putRay core i (some { r with lit := true, applied := r.applied + 1 })

/-- The ray of a core that its walker goes on with: the first that is not held on a fault and that a lane has taken, or may
take, as it has 64 (R340). -/
def Core.nextRay (c : Core) : Option (Nat × Ray) :=
  let room := decide ((c.rays.filter (fun r => r.taken)).length < 64)
  ((List.range c.rays.length).zip c.rays).find? (fun e => e.2.held.isNone && (e.2.taken || room))

/-- A lane of the walker takes a ray or goes on with it (R340). -/
def State.walkRay (s : State) (core i : Nat) (r : Ray) : State :=
  let r := { r with taken := true }
  if r.lit then s.applyRay core i r
  else
    let ctx := (s.launch r.launch).ctx
    match s.occluded core ctx r.uid r.ray (2 ^ 64) [(2 ^ 30, r.root, 0)] with
    | (s, .ok true) => s.putRay core i none
    | (s, .ok false) => s.applyRay core i { r with lit := true }
    | (s, .missing d k) => s.putRay core i (some { r with held := some (d, k) })
    | (s, .bad ..) => s.walkerDrop core i r
    | (s, .poison l) => s.walkerPoison core i r l
    | (s, .wait) => s

end Sys2Proof.Machine
end

