-- ==== Sys2Proof/Machine/Collect.lean ====
section
/-! DEFINITION. Collectives (R9, R81 to R84): signing, withdrawal, the moment at which a body executes, and the body of each
form. -/

namespace Sys2Proof.Machine

/-- The body of a collective form, for its signers in ascending lane order (R9). BARV's waits for its signers' earlier
accesses and tiles, which its release orders (R247, R368). -/
def runBody (i : Instr) (m : List Agent) (s : State) : State :=
  match i with
  | .vote h d a _ op => bodyVote h d a op m s
  | .shfl h d a b c _ op => bodyShfl h d a b c op m s
  | .vcomp h d a b _ => bodyVcomp h d a b m s
  | .vexp h d a b _ => bodyVexp h d a b m s
  | .iscan h d a _ op excl => bodyIscan h d a op excl m s
  | .ired h d a _ op => bodyIred h d a op m s
  | .fred h d a _ op t => bodyFred h d a op t m s
  | .fscan h d a _ op t excl => bodyFscan h d a op t excl m s
  | .bscale h d a _ t => bodyBscale h d a t m s
  | .malg _ a _ rsp alg => bodyMalg a rsp alg m s
  | .mwld _ a b c _ fmt alg => bodyMwld a b c fmt alg m s
  | .mgath _ a _ => bodyMgath a m s
  | .mscale _ a _ => bodyMscale a m s
  | .mma _ _ fmt cb ca ow t bank => bodyMma fmt cb ca ow t bank m s
  | .mzero _ _ ty bank => bodyMzero ty bank m s
  | .mldacc _ a _ ty bank => bodyMldacc a ty bank m s
  | .mdrain h d _ bank => bodyMdrain h d bank m s
  | .mdrst _ a b _ op sc rel spc bank => bodyMdrst a b op sc rel spc bank m s
  | .mstat h d _ clr => bodyMstat h d clr m s
  | .barv h d a _ op bar => if m.all s.settled then bodyBarv h d a op bar m s else s
  | .spush h a b c _ nz n => bodySpush h a b c nz n m s
  | .spop h d b c _ => bodySpop h d b c m s
  | _ => s

/-- Is a lane signed on mask m, and is its body due, at which place (R279)? -/
def Thread.signedOn (t : Thread) (m : Nat) : Option (Option Nat) :=
  match t.park with
  | .signed k due _ => if k = m then some due else none
  | _ => none

/-- The lanes of a group signed on mask m, ascending. -/
def Group.signers (g : Group) (m : Nat) : List Nat :=
  (List.range g.width).filter (fun l => !(g.thr l).exited && ((g.thr l).signedOn m).isSome)

/-- The lanes whose bodies on mask m are due. -/
def Group.dueSigners (g : Group) (m : Nat) : List Nat :=
  (g.signers m).filter (fun l => ((g.thr l).signedOn m).join.isSome)

/-- Mark every signature on mask m due, at place n among the team's bodies; one that was due keeps its place. -/
def Group.markDue (g : Group) (m n : Nat) : Group :=
  { g with threads := g.threads.map (fun e => match e.2.park with
      | .signed k due i => if k = m then (e.1, { e.2 with park := .signed k (some (due.getD n)) i }) else e
      | _ => e) }

/-- The place after that of every body of a team that is due (R279). -/
def Team.nextPlace (t : Team) : Nat :=
  t.groups.foldl (fun n g => g.2.threads.foldl (fun n l => match l.2.park with
    | .signed _ (some k) _ => max n (k + 1)
    | _ => n) n) 0

/-- The lowest PC among lanes. -/
def Group.lowPc (g : Group) (ls : List Nat) : Nat :=
  ls.foldl (fun p l => min p (g.thr l).pc.toNat) (2 ^ 32)

/-- The signers of the body of mask m that executes next: of those due first, the ones at the lowest PC (R81). -/
def Group.nextBody (g : Group) (m : Nat) : List Nat :=
  let place := fun (l : Nat) => ((g.thr l).signedOn m).join.getD 0
  let ls := g.dueSigners m
  let ls := ls.filter (fun l => ls.all (fun k => decide (place l ≤ place k)))
  ls.filter (fun l => (g.thr l).pc.toNat == g.lowPc ls)

/-- Execute the due bodies of mask m, one for each PC in ascending order; each completes before the next begins. A body reads
its signers' registers as they stand, also where a result of a window that signing closed is still on its way (R45, R136;
log entry 96). -/
def State.runDue (u g m : Nat) : Nat → State → State
  | 0, s => s
  | n + 1, s =>
    let k := s.grp u g
    let here := k.nextBody m
    match here with
    | [] => s
    | l :: _ =>
      let p := (k.thr l).pc
      if (s.team u).stat != .running then s
      else match (k.thr l).park with
        | .signed _ _ i =>
          let s := runBody i (here.map (Agent.thread u g)) s
          let k := s.grp u g
          if here.any (fun l => (k.thr l).pc == p && ((k.thr l).signedOn m).join.isSome) then s
          else s.runDue u g m n
        | _ => s

/-- Evaluate the condition of mask m: when every member has signed or withdrawn, its bodies are due and execute (R81). -/
def State.collect (s : State) (u g m : Nat) : State :=
  let k := s.grp u g
  let ls := k.signers m
  if (s.team u).stat != .running || ls.isEmpty then s
  else
    let s := if (k.lanesOf (k.mask m)).all (fun l => ls.contains l) then s.setGrp u g (k.markDue m (s.team u).nextPlace) else s
    s.runDue u g m 65

/-- Evaluate the condition of every mask of a group. -/
def State.collectAll (s : State) (u g : Nat) : State := (List.range 12).foldl (fun s m => s.collect u g m) s

/-- Evaluate what hangs on a mask of a group that has changed: signatures of lanes no longer in it are removed and the
lanes go on (R82); then MWAIT (R90) and the collectives (R81). -/
def State.maskChanged (s : State) (u g m : Nat) : State :=
  let k := s.grp u g
  let out := (k.signers m).filter (fun l => !nbit (k.mask m) l)
  let s := (out.foldl (fun s l => s.release (.thread u g l)) s).pruneWaits u
  (s.mwaits u g).collectAll u g

/-- The group of the issue under way. -/
def State.curGroup (s : State) : Nat × Nat :=
  match s.cur.agents with
  | .thread u g _ :: _ => (u, g)
  | _ => (0, 0)

/-- Is a lane a member of mask m (R81)? -/
def State.member (s : State) (ag : Agent) (m : Nat) : Bool :=
  match ag with
  | .thread u g l => nbit ((s.grp u g).mask m) l
  | .ctx .. => false

/-- A lane signs a collective on mask m, or raises MASK_MEMBER (R81). -/
def signLane (i : Instr) (m : MaskNo) (ag : Agent) (s : State) : LaneOut :=
  if s.member ag m.toNat then .park s (.signed m.toNat none i) else .trap s ⟨0x06, BitVec.ofNat 64 m.toNat, 0⟩

/-- A collective form: its lanes sign, and the bodies that are then due execute. -/
def signAll (i : Instr) (m : MaskNo) (s : State) : Out :=
  let p := s.curGroup
  .next ((s.cur.agents.foldl (laneStep i (signLane i m)) s).collect p.1 p.2 m.toNat)

/-- VOTE (R91). -/
def execVote (h : Hdr) (d a : Reg) (m : MaskNo) (op : VoteOp) (s : State) : Out := signAll (.vote h d a m op) m s
/-- SHFL (R113). -/
def execShfl (h : Hdr) (d a b c : Reg) (m : MaskNo) (op : ShflOp) (s : State) : Out :=
  signAll (.shfl h d a b c m op) m s
/-- VCOMP (R114). -/
def execVcomp (h : Hdr) (d a b : Reg) (m : MaskNo) (s : State) : Out := signAll (.vcomp h d a b m) m s
/-- VEXP (R115). -/
def execVexp (h : Hdr) (d a b : Reg) (m : MaskNo) (s : State) : Out := signAll (.vexp h d a b m) m s
/-- ISCAN (R116). -/
def execIscan (h : Hdr) (d a : Reg) (m : MaskNo) (op : ScanOp) (excl : Bool) (s : State) : Out :=
  signAll (.iscan h d a m op excl) m s
/-- IRED (R116). -/
def execIred (h : Hdr) (d a : Reg) (m : MaskNo) (op : ScanOp) (s : State) : Out := signAll (.ired h d a m op) m s
/-- FRED (R136). -/
def execFred (h : Hdr) (d a : Reg) (m : MaskNo) (op : FRedOp) (t : BitVec 2) (s : State) : Out :=
  signAll (.fred h d a m op t) m s
/-- FSCAN (R136). -/
def execFscan (h : Hdr) (d a : Reg) (m : MaskNo) (op : FRedOp) (t : BitVec 2) (excl : Bool) (s : State) : Out :=
  signAll (.fscan h d a m op t excl) m s
/-- BSCALE (R161). -/
def execBscale (h : Hdr) (d a : Reg) (m : MaskNo) (t : BscTy) (s : State) : Out := signAll (.bscale h d a m t) m s
/-- MALG (R302). -/
def execMalg (h : Hdr) (a : Reg) (m : MaskNo) (rsp : Bool) (alg : BitVec 2) (s : State) : Out :=
  signAll (.malg h a m rsp alg) m s
/-- MWLD (R303). -/
def execMwld (h : Hdr) (a b c : Reg) (m : MaskNo) (fmt : BFmt) (alg : BitVec 2) (s : State) : Out :=
  signAll (.mwld h a b c m fmt alg) m s
/-- MGATH (R304). -/
def execMgath (h : Hdr) (a : Reg) (m : MaskNo) (s : State) : Out := signAll (.mgath h a m) m s
/-- MSCALE (R305). -/
def execMscale (h : Hdr) (a : Reg) (m : MaskNo) (s : State) : Out := signAll (.mscale h a m) m s
/-- MMA (R306). -/
def execMma (h : Hdr) (m : MaskNo) (fmt : AFmt) (cb ca ow : Bool) (t : BitVec 2) (bank : Bool) (s : State) : Out :=
  signAll (.mma h m fmt cb ca ow t bank) m s
/-- MZERO (R307). -/
def execMzero (h : Hdr) (m : MaskNo) (ty : BankTy) (bank : Bool) (s : State) : Out := signAll (.mzero h m ty bank) m s
/-- MLDACC (R307). -/
def execMldacc (h : Hdr) (a : Reg) (m : MaskNo) (ty : BankTy) (bank : Bool) (s : State) : Out :=
  signAll (.mldacc h a m ty bank) m s
/-- MDRAIN (R308). -/
def execMdrain (h : Hdr) (d : Reg) (m : MaskNo) (bank : Bool) (s : State) : Out := signAll (.mdrain h d m bank) m s
/-- MDRST (R309). -/
def execMdrst (h : Hdr) (a b : Reg) (m : MaskNo) (op : MdrstOp) (sc : Scope) (rel : Bool) (spc : MSpace) (bank : Bool)
    (s : State) : Out := signAll (.mdrst h a b m op sc rel spc bank) m s
/-- MSTAT (R311). -/
def execMstat (h : Hdr) (d : Reg) (m : MaskNo) (clr : Bool) (s : State) : Out := signAll (.mstat h d m clr) m s
/-- BARV (R247). -/
def execBarv (h : Hdr) (d a : Reg) (m : MaskNo) (op : BarvOp) (bar : BarNo) (s : State) : Out :=
  signAll (.barv h d a m op bar) m s
/-- SPUSH (R338). -/
def execSpush (h : Hdr) (a b c : Reg) (m : MaskNo) (nz : Bool) (n : BitVec 2) (s : State) : Out :=
  signAll (.spush h a b c m nz n) m s
/-- SPOP (R338). -/
def execSpop (h : Hdr) (d b c : Reg) (m : MaskNo) (s : State) : Out := signAll (.spop h d b c m) m s

/-- COLLECTIVE_BODY (R81): the bodies pending on a mask of a group go on. -/
def execCollectiveBody (u g m : Nat) (s : State) : Out :=
  if ((s.grp u g).signers m).isEmpty then .next s else .next (s.collect u g m)

end Sys2Proof.Machine
end

