-- ==== Sys2Proof/Machine/Integer.lean ====
section
/-! DEFINITION. Class 1 but for its collectives: integer arithmetic, logic, moves and special registers (chapter 05). -/

namespace Sys2Proof.Machine

/-- IADD (R100). -/
def execIadd (h : Hdr) (d a b : Reg) (mode : AddMode) (w64 : Bool) (s : State) : Out :=
  simple (.iadd h d a b mode w64) (fun ag s =>
    let (r, c) := addSub (if w64 then 64 else 32) false mode (s.cc ag).c (s.regN ag w64 a) (s.regN ag w64 b)
    s.result ag h w64 d r c) s

/-- ISUB (R100). -/
def execIsub (h : Hdr) (d a b : Reg) (mode : AddMode) (w64 : Bool) (s : State) : Out :=
  simple (.isub h d a b mode w64) (fun ag s =>
    let (r, c) := addSub (if w64 then 64 else 32) true mode (s.cc ag).c (s.regN ag w64 a) (s.regN ag w64 b)
    s.result ag h w64 d r c) s

/-- IMUL (R101). -/
def execImul (h : Hdr) (d a b : Reg) (w64 : Bool) (s : State) : Out :=
  simple (.imul h d a b w64) (fun ag s =>
    s.resultRF ag h w64 d (s.regN ag w64 a * s.regN ag w64 b % 2 ^ (if w64 then 64 else 32))) s

/-- The high half of a product (R101). -/
def mulHigh (m : HiMode) (a b : Nat) : Nat :=
  let p : Int := match m with
    | .s32 => sgn 32 a * sgn 32 b
    | .n32 => (a : Int) * b
    | .sn32 => sgn 32 a * b
  wrapN 32 (p / 2 ^ 32)

/-- IMULH (R101). -/
def execImulh (h : Hdr) (d a b : Reg) (m : HiMode) (s : State) : Out :=
  simple (.imulh h d a b m) (fun ag s => s.resultRF ag h false d (mulHigh m (s.reg ag a).toNat (s.reg ag b).toNat)) s

/-- IMAD's result (R101). -/
def mulAdd (m : MadMode) (a b c : Nat) : Nat :=
  match m with
  | .lo => (a * b + c) % 2 ^ 32
  | .ws => wrapN 64 (sgn 32 a * sgn 32 b + sgn 64 c)
  | .wu => (a * b + c) % 2 ^ 64

/-- IMAD (R101). -/
def execImad (h : Hdr) (d a b c : Reg) (m : MadMode) (s : State) : Out :=
  simple (.imad h d a b c m) (fun ag s =>
    s.resultRF ag h (m != .lo) d (mulAdd m (s.reg ag a).toNat (s.reg ag b).toNat (s.regN ag (m != .lo) c))) s

/-- The smaller or larger of two values of a type (R102). -/
def minMax (op : MinMax) (t : IntTy) (a b : Nat) : Nat :=
  let lt := match t with
    | .s32 => decide (sgn 32 a < sgn 32 b)
    | .s64 => decide (sgn 64 a < sgn 64 b)
    | _ => decide (a < b)
  match op with
  | .min => if lt then a else b
  | .max => if lt then b else a

/-- IMINMAX (R102). -/
def execIminmax (h : Hdr) (d a b : Reg) (op : MinMax) (t : IntTy) (s : State) : Out :=
  simple (.iminmax h d a b op t) (fun ag s =>
    s.resultRF ag h (IntTy.wide t) d (minMax op t (s.regN ag (IntTy.wide t) a) (s.regN ag (IntTy.wide t) b))) s

/-- Apply the two-input function of a 4-bit code to each bit (R103). -/
def gate (g : BitVec 4) (x y : Word) : Word :=
  (if g.getLsbD 0 then ~~~x &&& ~~~y else 0) ||| (if g.getLsbD 1 then ~~~x &&& y else 0) |||
    (if g.getLsbD 2 then x &&& ~~~y else 0) ||| (if g.getLsbD 3 then x &&& y else 0)

/-- BOOL (R103). -/
def execBool (h : Hdr) (d a b c : Reg) (g1 g0 : BitVec 4) (s : State) : Out :=
  simple (.bool h d a b c g1 g0) (fun ag s =>
    let x := s.reg ag a
    let y := s.reg ag b
    let z := s.reg ag c
    s.resultRF ag h false d ((z &&& gate g1 x y) ||| (~~~z &&& gate g0 x y)).toNat) s

/-- Shift results (R104): the result and cout. -/
def shiftOp (op : ShfOp) (a n c : Nat) : Nat × Bool :=
  match op with
  | .shl => (a * 2 ^ Nat.min n 32 % 2 ^ 32, decide (1 ≤ n) && decide (n ≤ 32) && nbit a (32 - n))
  | .shr => (a / 2 ^ Nat.min n 32, decide (1 ≤ n) && decide (n ≤ 32) && nbit a (n - 1))
  | .sar => (wrapN 32 (sgn 32 a / 2 ^ Nat.min n 32), decide (1 ≤ n) && nbit a (Nat.min n 32 - 1))
  | .rol => let k := n % 32; (a * 2 ^ k % 2 ^ 32 + a / 2 ^ (32 - k), false)
  | .ror => let k := (32 - n % 32) % 32; (a * 2 ^ k % 2 ^ 32 + a / 2 ^ (32 - k), false)
  | .fshl => ((a * 2 ^ 32 + c) * 2 ^ Nat.min n 32 / 2 ^ 32 % 2 ^ 32, false)
  | .fshr => ((a * 2 ^ 32 + c) / 2 ^ Nat.min n 32 % 2 ^ 32, false)

/-- SHF (R104). -/
def execShf (h : Hdr) (d a b c : Reg) (op : ShfOp) (s : State) : Out :=
  simple (.shf h d a b c op) (fun ag s =>
    let (r, co) := shiftOp op (s.reg ag a).toNat (s.reg ag b).toNat (s.reg ag c).toNat
    s.result ag h false d r { resultFlags 32 r with c := co }) s

/-- Extract a field (R105). -/
def fieldX (sx : Bool) (a p : Nat) : Nat :=
  let pos := bitf p 0 8
  let len := Nat.min (bitf p 8 8) 32
  let full := if sx && nbit a 31 then a + (2 ^ 512 - 2 ^ 32) else a
  let f := bitf full pos len
  if len = 0 then 0
  else if sx && nbit f (len - 1) then f + (2 ^ 32 - 2 ^ len) else f

/-- BFX (R105). -/
def execBfx (h : Hdr) (d a b : Reg) (sx : Bool) (s : State) : Out :=
  simple (.bfx h d a b sx) (fun ag s => s.resultRF ag h false d (fieldX sx (s.reg ag a).toNat (s.reg ag b).toNat)) s

/-- Insert a field (R105). -/
def fieldI (a b p : Nat) : Nat :=
  let pos := bitf p 0 8
  let len := Nat.min (bitf p 8 8) 32
  let keep := a % 2 ^ Nat.min pos 32 + a / 2 ^ (pos + len) * 2 ^ (pos + len)
  (keep + b % 2 ^ len * 2 ^ pos) % 2 ^ 32

/-- BFI (R105). -/
def execBfi (h : Hdr) (d a b c : Reg) (s : State) : Out :=
  simple (.bfi h d a b c) (fun ag s =>
    s.resultRF ag h false d (fieldI (s.reg ag a).toNat (s.reg ag b).toNat (s.reg ag c).toNat)) s

/-- The low n bits of x in reverse order (R106). -/
def brev : Nat → Nat → Nat
  | 0, _ => 0
  | n + 1, x => x % 2 * 2 ^ n + brev n (x / 2)

/-- The number of low zero bits of x, at most n (R106). -/
def ctz : Nat → Nat → Nat
  | 0, _ => 0
  | n + 1, x => if x % 2 = 1 then 0 else 1 + ctz n (x / 2)

/-- BITC's result (R106). -/
def bitCount (op : BitcOp) (a : Nat) : Nat :=
  match op with
  | .popc => popcount 32 a
  | .clz => ctz 32 (brev 32 a)
  | .ctz => ctz 32 a
  | .brev => brev 32 a

/-- BITC (R106). -/
def execBitc (h : Hdr) (d a : Reg) (op : BitcOp) (s : State) : Out :=
  simple (.bitc h d a op) (fun ag s => s.resultRF ag h false d (bitCount op (s.reg ag a).toNat)) s

/-- The byte that a selector code gives (R107). -/
def poolByte (pool k : Nat) : Nat :=
  if k < 8 then bitf pool (8 * k) 8
  else if k < 16 then (if nbit pool (8 * (k - 8) + 7) then 0xFF else 0)
  else if k = 17 then 0xFF else 0

/-- BYSEL's result (R107). -/
def byteSelect (a b c : Nat) : Nat :=
  (List.range 4).foldl (fun r k => r + poolByte (a + b * 2 ^ 32) (bitf c (8 * k) 5) * 2 ^ (8 * k)) 0

/-- BYSEL (R107). -/
def execBysel (h : Hdr) (d a b c : Reg) (s : State) : Out :=
  simple (.bysel h d a b c) (fun ag s =>
    s.resultRF ag h false d (byteSelect (s.reg ag a).toNat (s.reg ag b).toNat (s.reg ag c).toNat)) s

/-- ICMP (R108). -/
def execIcmp (h : Hdr) (a b : Reg) (w64 : Bool) (s : State) : Out :=
  simple (.icmp h a b w64) (fun ag s =>
    s.setCC ag (addSub (if w64 then 64 else 32) true .wrap (s.cc ag).c (s.regN ag w64 a) (s.regN ag w64 b)).2) s

/-- SEL (R108). -/
def execSel (h : Hdr) (d a b : Reg) (w64 : Bool) (sc : Cond) (s : State) : Out :=
  simple (.sel h d a b w64 sc) (fun ag s =>
    s.setRegN ag w64 d (if Cond.holds sc (s.cc ag) then s.regN ag w64 a else s.regN ag w64 b)) s

/-- MOV (R108). -/
def execMov (h : Hdr) (d a : Reg) (w64 : Bool) (s : State) : Out :=
  simple (.mov h d a w64) (fun ag s => s.resultRF ag h w64 d (s.regN ag w64 a)) s

/-- MOVI (R108). -/
def execMovi (h : Hdr) (d : Reg) (imm : Word) (s64 : Bool) (s : State) : Out :=
  simple (.movi h d imm s64) (fun ag s =>
    s.resultRF ag h s64 d (if s64 then wrapN 64 imm.toInt else imm.toNat)) s

/-- LEA (R108). -/
def execLea (h : Hdr) (d a b : Reg) (sg : Bool) (scale : BitVec 3) (s : State) : Out :=
  simple (.lea h d a b sg scale) (fun ag s =>
    let x : Int := if sg then (s.reg ag b).toInt else (s.reg ag b).toNat
    s.setReg64 ag d (BitVec.ofInt 64 ((s.reg64 ag a).toNat + x * 2 ^ scale.toNat))) s

/-- The contents of a special register for an agent (Tables 5-3 and 12-6). -/
def State.special (s : State) (ag : Agent) (n : Nat) : DWord :=
  let u := s.uidOf ag
  let t := s.team u
  let w := fun (x : Word) => BitVec.ofNat 64 x.toNat
  let k := fun (x : Nat) => BitVec.ofNat 64 (x % 2 ^ 32)
  let c := s.ctx (s.ctxNo u)
  match ag with
  | .thread _ g l =>
    let th := s.thr u g l
    match n with
    | 0x000 => k l
    | 0x001 => k t.desc.gwidth
    | 0x002 => k (s.groupId u g)
    | 0x003 => k t.teamid
    | 0x004 => k t.groups.length
    | 0x005 => w (s.launch t.launch).launchid
    | 0x006 => k (s.coreOf ag % 2)
    | 0x010 => k (s.coreOf ag)
    | 0x011 => BitVec.ofNat 64 s.now
    | 0x020 => w th.meet
    | 0x030 => w th.ch.word
    | 0x031 => th.ch.base
    | 0x032 => aget 0 th.ch.muts 0
    | 0x033 => aget 0 th.ch.muts 1
    | 0x034 => aget 0 th.ch.muts 2
    | 0x035 => aget 0 th.ch.muts 3
    | 0x036 => w th.ch.iter
    | 0x040 => (s.grp u g).srkey
    | 0x050 => k th.trap.cause
    | 0x051 => w th.trap.pc
    | 0x052 => th.trap.val
    | 0x053 => k (b2n th.trap.lvl)
    | 0x054 => th.trap.addr
    | 0x060 => w t.mstatus
    | 0x800 => k (s.ctxNo u)
    | 0x801 => c.ptroot
    | 0x802 => c.codebase
    | 0x803 => c.vread
    | 0x804 => c.vwrite
    | 0x805 => c.hncsz
    | 0x806 => c.hcsz
    | _ => 0
  | .ctx .. =>
    match n with
    | 0x005 => w (s.launch t.launch).launchid
    | 0x006 => k (s.coreOf ag % 2)
    | 0x010 => k (s.coreOf ag)
    | 0x011 => BitVec.ofNat 64 s.now
    | 0x800 => k (s.ctxNo u)
    | 0x801 => c.ptroot
    | 0x802 => c.codebase
    | 0x803 => c.vread
    | 0x804 => c.vwrite
    | 0x805 => c.hncsz
    | 0x806 => c.hcsz
    | _ => 0

/-- Is a special register's value timing-dependent (R111)? -/
def srTiming (n : Nat) : Bool := n == 0x006 || n == 0x010 || n == 0x011

/-- SRD (R109, R111). -/
def execSrd (h : Hdr) (d : Reg) (n : BitVec 12) (s : State) : Out :=
  perLane (.srd h d n) (fun ag s =>
    if s.det ag && srTiming n.toNat then .trap s ⟨0x0D, BitVec.ofNat 64 n.toNat, 0⟩
    else .done (s.setRegN ag (srWide n.toNat) d (s.special ag n.toNat).toNat)) s

/-- Write MEET: the comparison of R78 is made against it, and R79 evaluated, when the instruction is done. -/
def State.setMeet (s : State) (ag : Agent) (x : Word) : State :=
  match ag with
  | .thread u g l => s.setThr u g l { s.thr u g l with meet := x }
  | .ctx .. => s

/-- Step on after a write of MEET, with R79 evaluated for the old and the new address (R88). -/
def State.advanceMeet (s : State) (ag : Agent) : State := (s.advance ag).meet ag

/-- A form that writes MEET: every executing lane of the cohort writes it before R79 is evaluated for any, since the
whole cohort issues in one cycle (R75, R79, R88). -/
def meetForm (i : Instr) (w : Agent → State → State) (s : State) : Out :=
  let t := s.cur.agents.foldl (fun s ag => if s.executes ag i then w ag s else s) s
  .next (t.cur.agents.foldl (laneStep i (fun ag s => .stay (s.advanceMeet ag))) t)

/-- SWR (R109, R110): MEET or TRAPVAL. -/
def execSwr (h : Hdr) (a : Reg) (n : BitVec 12) (s : State) : Out :=
  if n.toNat = 0x020 then meetForm (.swr h a n) (fun ag s => s.setMeet ag (s.reg ag a)) s
  else simple (.swr h a n) (fun ag s => s.setTrap ag { s.trapOf ag with val := s.reg64 ag a }) s

end Sys2Proof.Machine
end

