-- ==== Sys2Proof/Machine/Raster.lean ====
section
/-! DEFINITION. The pipeline from task groups to pixels (R343 to R352): EMIT, the task ring's payload areas, setup, coverage,
depth and attributes, what a pixel thread writes, and the tile buffers. -/

namespace Sys2Proof.Machine

/-! ## The task ring (R345, R416) -/

/-- Where the payload area of a slot lies in the vault beneath a core (R345, R416); the order of a vault's areas is
log entry 19. -/
def payloadArea (core slot : Nat) : Nat := core / 4 * 2 ^ 24 + 2 ^ 24 - 2 ^ 18 + core % 4 * 2 ^ 16 + slot * 2 ^ 14

/-- Slot s of a core's ring. -/
def Core.slotOf (c : Core) (s : Nat) : RingSlot := aget RingSlot.free c.ring s

/-- The trap of a lane's EMIT.payload, if any (R345). -/
def State.payloadTrap (s : State) (ag : Agent) (a b c : Reg) : Option Trap :=
  let o := (s.reg ag a).toNat
  let n := (s.reg ag b).toNat
  let g := (s.reg ag c).toNat
  if g = 0 then none
  else if g > 1024 || n > 16384 || o + n > (s.descOf ag).half then some ⟨0x08, 1, BitVec.ofNat 64 o⟩
  else if o % 4 != 0 || n % 4 != 0 then some ⟨0x09, 4, BitVec.ofNat 64 o⟩
  else none

/-- Publish a slot (R345): the release, the payload, the slot and its number. -/
def State.publish (s : State) (d : Reg) (o n g : Nat) (ag : Agent) : State :=
  let u := s.uidOf ag
  let core := s.coreOf ag
  let s := (s.commitEarly u).releaseAction ag .dev
  let slot := (s.core core).ringNext
  let bytes := ((s.team u).half (s.side ag .sp)).read o n
  let s := { s with vault := s.vault.write (payloadArea core slot) n bytes }
  let l := (s.team u).launch
  let k := s.launch l
  let s := s.setLaunch l { k with meshTotal := k.meshTotal + g }
  let c := s.core core
  let s := s.setCore core { c with
    ringNext := (slot + 1) % 4, ring := aput c.ring slot ⟨true, l, u, n, g, k.meshTotal, 0, 0⟩ }
  s.setReg ag d (BitVec.ofNat 32 slot)

/-- A lane's grant of the next slot in cyclic order, once it is free and the lane's earlier accesses are past (R345). A
speculative team publishes nothing before it goes on non-speculatively (log entry 21). -/
def State.servePayload (s : State) (d a b c : Reg) (ag : Agent) : Option State :=
  let g := (s.reg ag c).toNat
  let core := s.core (s.coreOf ag)
  if g = 0 then some (s.setReg ag d 0xFFFFFFFF)
  else if (core.slotOf core.ringNext).busy || !s.settled ag || s.speculative (s.uidOf ag) then none
  else some (s.publish d (s.reg ag a).toNat (s.reg ag b).toNat g ag)

/-- EMIT.payload (R345). -/
def execEmitPayload (h : Hdr) (d a b c : Reg) (s : State) : Out :=
  let i := Instr.emitPayload h d a b c
  let (s, ags) := cohort i s
  let (s, ok) := ags.foldl (fun (p : State × List Agent) ag =>
    match p.1.payloadTrap ag a b c with
    | some t => (p.1.raise ag i t, p.2)
    | none => (p.1, p.2 ++ [ag])) (s, [])
  .next (stallRun i s.nextSeq (fun ag s => s.servePayload d a b c ag) ok s)

/-- The cohort of a group that stalls on EMIT.payload or SHRAY, issued under a number, goes on as far as it can (R339,
R345). -/
def State.retryStall (s : State) (u g n : Nat) (i : Instr) : State :=
  match i with
  | .emitPayload _ d a b c => stallRun i n (fun ag s => s.servePayload d a b c ag) (s.stalled u g n) s
  | .shray _ d a b c fx => stallRun i n (fun ag s => s.serveShray d a b c fx ag) (s.stalled u g n) s
  | _ => s

/-- Every stall of EMIT.payload and SHRAY on a core goes on as far as it can. -/
def State.retryStalls (s : State) (core : Nat) : State :=
  s.teams.foldl (fun s t => if t.2.stat != .running then s
    else t.2.groups.foldl (fun s g => if g.2.core != core then s
      else g.2.threads.foldl (fun s l =>
        match (s.thr t.1 g.1 l.1).park with
        | .stall i n _ => s.retryStall t.1 g.1 n i
        | _ => s) s) s) s

/-! ## Mesh and pixel outputs (R347, R351) -/

/-- EMIT.vertex (R347). -/
def execEmitVertex (h : Hdr) (a b c : Reg) (s : State) : Out :=
  perLane (.emitVertex h a b c) (fun ag s =>
    let i := (s.reg ag a).toNat
    match ag with
    | .thread u g _ =>
      if i > 95 then .trap s ⟨0x08, 0, BitVec.ofNat 64 i⟩
      else
        let k := s.grp u g
        .done (s.setGrp u g { k with verts := aput k.verts i (s.regRun ag b 4 ++ s.regRun ag c 4) })
    | .ctx .. => .done s) s

/-- EMIT.prim (R347). -/
def execEmitPrim (h : Hdr) (a b : Reg) (s : State) : Out :=
  perLane (.emitPrim h a b) (fun ag s =>
    let i := (s.reg ag a).toNat
    match ag with
    | .thread u g _ =>
      if i > 159 then .trap s ⟨0x08, 0, BitVec.ofNat 64 i⟩
      else
        let k := s.grp u g
        .done (s.setGrp u g { k with prims := aput k.prims i (s.reg ag b) })
    | .ctx .. => .done s) s

/-- EMIT.colour (R351). -/
def execEmitColour (h : Hdr) (a : Reg) (s : State) : Out :=
  simple (.emitColour h a) (fun ag s =>
    match ag with
    | .thread u g l => s.setThr u g l { s.thr u g l with out := some (s.regRun ag a 4) }
    | .ctx .. => s) s

/-! ## Setup (R348, R349) -/

/-- The nearest integer to a finite value, ties to even. -/
def X.near (x : X) : Int :=
  match x with
  | .fin _ n d e =>
    let neg := decide (n < 0)
    let (k, r, u) := inUnits n.natAbs d e 0
    let k' := if roundUp .rn neg 0 k r u then k + 1 else k
    if neg then -(k' : Int) else k'
  | _ => 0

/-- A screen coordinate in 256ths of a pixel from a clip coordinate's quotient (R349). -/
def screenAt (q : X) (n : Nat) : Int :=
  ((((q.mul (.dy 1 (-1))).add false (.dy 1 (-1))).mul (.int n)).mul (.int 256)).near

/-- A vertex after setup; none when it makes its primitive rasterise nothing (R349). -/
def setupVertex (p : PassDesc) (v : List Word) : Option SetVert :=
  let x := xf (v.getD 0 0)
  let y := xf (v.getD 1 0)
  let z := xf (v.getD 2 0)
  let w := xf (v.getD 3 0)
  if !(w.finite && x.finite && y.finite && z.finite) || w.le (.int 0) then none
  else
    let q := fun a => xf (rfn (a.quot w))
    if !((q x).finite && (q y).finite && (q z).finite) then none
    else some ⟨screenAt (q x) p.width, screenAt (q y) p.height, rfn (z.quot w), v.drop 4⟩

/-- Twice the signed area, and an edge function at a point, in 65536ths (R349). -/
def edgeAt (a b : SetVert) (px py : Int) : Int := (b.x - a.x) * (py - a.y) - (b.y - a.y) * (px - a.x)

/-- The area of a triangle (R349). -/
def areaOf (v0 v1 v2 : SetVert) : Int := (v1.x - v0.x) * (v2.y - v0.y) - (v2.x - v0.x) * (v1.y - v0.y)

/-- Does CULL keep a primitive of this area (Table 18-7, R349)? -/
def cullKeeps (cull : Nat) (a : Int) : Bool := a != 0 && !(cull == 1 && decide (a < 0)) && !(cull == 2 && decide (0 < a))

/-- The tiles that a triangle's bounding box touches, within the target. -/
def tilesOf (p : PassDesc) (v0 v1 v2 : SetVert) : List (Nat × Nat) :=
  let lo := fun (a b c : Int) => (min a (min b c)) / 256
  let hi := fun (a b c : Int) => (max a (max b c)) / 256
  let span := fun (l h : Int) (n : Nat) =>
    if h < 0 || l ≥ (n : Int) then []
    else
      let a := (max l 0).toNat / 32
      let b := (min h ((n : Int) - 1)).toNat / 32
      (List.range (b + 1 - a)).map (fun i => a + i)
  (span (lo v0.y v1.y v2.y) (hi v0.y v1.y v2.y) p.height).flatMap (fun ty =>
    (span (lo v0.x v1.x v2.x) (hi v0.x v1.x v2.x) p.width).map (fun tx => (tx, ty)))

/-! ## Coverage and interpolation (R349, R350) -/

/-- The offset of a sample in its pixel, in 256ths (R349). -/
def sampleOffset (s : Nat) : Int × Int :=
  match s with
  | 0 => (96, 32)
  | 1 => (224, 96)
  | 2 => (32, 160)
  | _ => (160, 224)

/-- Does an edge from a to b, traversed with positive area, cover its own points (R349)? -/
def edgeOwns (a b : SetVert) : Bool := decide (b.y < a.y) || (a.y == b.y && decide (b.x < a.x))

/-- The weights of the three vertices at a point, positive inside, with the area made positive. -/
def Prim.weights (p : Prim) (px py : Int) : Int × Int × Int × Int :=
  let a := areaOf p.v0 p.v1 p.v2
  let s : Int := if a < 0 then -1 else 1
  (s * edgeAt p.v1 p.v2 px py, s * edgeAt p.v2 p.v0 px py, s * edgeAt p.v0 p.v1 px py, s * a)

/-- Is a point covered (R349)? -/
def Prim.covers (p : Prim) (px py : Int) : Bool :=
  let (w0, w1, w2, _) := p.weights px py
  let flip := decide (areaOf p.v0 p.v1 p.v2 < 0)
  let on := fun (w : Int) (a b : SetVert) => decide (0 < w) || (w == 0 && (if flip then edgeOwns b a else edgeOwns a b))
  on w0 p.v1 p.v2 && on w1 p.v2 p.v0 && on w2 p.v0 p.v1

/-- The exact interpolation of three f32 values at a point, rounded once (R349, R350). -/
def Prim.interp (p : Prim) (px py : Int) (a b c : Word) : Word :=
  let (w0, w1, w2, area) := p.weights px py
  let s := (((X.int w0).mul (xf a)).add false ((X.int w1).mul (xf b))).add false ((X.int w2).mul (xf c))
  match s with
  | .fin .. => rfn (s.quot (.int area))
  | s => rfn s

/-- The point of a sample of a pixel, in 256ths. -/
def samplePoint (x y s : Nat) : Int × Int :=
  let o := sampleOffset s
  ((256 * x : Nat) + o.1, (256 * y : Nat) + o.2)

/-- The pixels of a tile within the target, row by row. -/
def pixelsOf (p : PassDesc) (tx ty : Nat) : List (Nat × Nat) :=
  (List.range (min 32 (p.height - 32 * ty))).flatMap (fun j =>
    (List.range (min 32 (p.width - 32 * tx))).map (fun i => (32 * tx + i, 32 * ty + j)))

/-- Does a primitive cover a sample of a tile within the target? -/
def Prim.touches (q : Prim) (p : PassDesc) (tx ty : Nat) : Bool :=
  (pixelsOf p tx ty).any (fun x => (List.range 4).any (fun k =>
    let at' := samplePoint x.1 x.2 k
    q.covers at'.1 at'.2))

/-- A primitive after setup, binned into the tiles in which it covers a sample; none when it rasterises nothing (R347, R349,
R350, R374). -/
def setupPrim (p : PassDesc) (verts : List (Nat × List Word)) (teamid index : Nat) (word : Word) : Option Prim :=
  let vert := fun (k : Nat) => (afind verts (bitf word.toNat (8 * k) 8)).bind (setupVertex p)
  match vert 0, vert 1, vert 2 with
  | some v0, some v1, some v2 =>
    if cullKeeps p.cull (areaOf v0 v1 v2) then
      let q : Prim := ⟨160 * teamid + index, teamid, index, v0, v1, v2, [], []⟩
      match (tilesOf p v0 v1 v2).filter (fun t => q.touches p t.1 t.2) with
      | [] => none
      | ts => some { q with tiles := ts }
    else none
  | _, _, _ => none

/-- Has a primitive work in a tile: not begun, or begun with quads left? -/
def Prim.hasWork (p : Prim) (tx ty : Nat) : Bool :=
  p.tiles.contains (tx, ty) || p.begun.any (fun w => w.tx == tx && w.ty == ty)

/-- The depth of a sample of a pixel (R349). -/
def Prim.depth (p : Prim) (x y s : Nat) : Word :=
  let q := samplePoint x y s
  p.interp q.1 q.2 p.v0.z p.v1.z p.v2.z

/-- Attribute k at a pixel's centre (R350). -/
def Prim.attr (p : Prim) (x y k : Nat) : Word :=
  p.interp (256 * x + 128 : Nat) (256 * y + 128 : Nat) (p.v0.attr.getD k 0) (p.v1.attr.getD k 0) (p.v2.attr.getD k 0)

/-! ## Tile buffers (R350 to R352) -/

/-- The pair whose tile buffer holds a tile (R350). -/
def pairOfTile (p : PassDesc) (tx ty : Nat) : Nat := (tx + ty * ceilDiv p.width 32) % 96

/-- The colour address of a sample (Table 18-7). -/
def colourAt (p : PassDesc) (x y s : Nat) : Nat := p.cbase + 64 * (y * p.width + x) + 16 * s
/-- The depth address of a sample (Table 18-7). -/
def depthAt (p : PassDesc) (x y s : Nat) : Nat := p.zbase + 16 * (y * p.width + x) + 4 * s

/-- The number of a sample in its tile. -/
def sampleNo (x y s : Nat) : Nat := 4 * (y % 32 * 32 + x % 32) + s

/-- Is it the buffer of this tile of this target? -/
def TileBuf.isFor (b : TileBuf) (ctx : Nat) (p : PassDesc) (tx ty : Nat) : Bool :=
  b.ctx == ctx && b.pass.cbase == p.cbase && b.pass.zbase == p.zbase && b.pass.width == p.width && b.tx == tx && b.ty == ty

/-- The tile in progress, if a pair holds it. -/
def State.tileBuf (s : State) (ctx : Nat) (p : PassDesc) (tx ty : Nat) : Option TileBuf :=
  (s.pair (pairOfTile p tx ty)).tiles.find? (fun b => b.isFor ctx p tx ty)

/-- The depth a sample has now. -/
def State.storedDepth (s : State) (ctx : Nat) (p : PassDesc) (x y k : Nat) : Word :=
  let mem := BitVec.ofNat 32 (s.unitRead ctx (depthAt p x y k) 4)
  match s.tileBuf ctx p (x / 32) (y / 32) with
  | some b => aget mem b.depth (sampleNo x y k)
  | none => mem

/-- The samples of a tile within the target, by pixel and sample. -/
def samplesOf (p : PassDesc) (tx ty : Nat) : List (Nat × Nat × Nat) :=
  (pixelsOf p tx ty).flatMap (fun x => (List.range 4).map (fun k => (x.1, x.2, k)))

/-- A tile as its targets hold it: the colour and depth of all four samples of each pixel (R352). -/
def State.loadTile (s : State) (ctx : Nat) (p : PassDesc) (tx ty : Nat) : TileBuf :=
  { ctx := ctx, pass := p, tx := tx, ty := ty,
    colour := (samplesOf p tx ty).map (fun e => (sampleNo e.1 e.2.1 e.2.2,
      wordsOf (s.unitRead ctx (colourAt p e.1 e.2.1 e.2.2) 16) 4)),
    depth := (samplesOf p tx ty).map (fun e => (sampleNo e.1 e.2.1 e.2.2,
      BitVec.ofNat 32 (s.unitRead ctx (depthAt p e.1 e.2.1 e.2.2) 4))) }

/-- The first poisoned piece of a tile's targets (R189). -/
def State.targetBad (s : State) (ctx : Nat) (p : PassDesc) (tx ty : Nat) : Option Nat :=
  if s.hbmBad.isEmpty then none
  else (samplesOf p tx ty).findSome? (fun e =>
    (s.unitBad ctx (colourAt p e.1 e.2.1 e.2.2) 16).or (s.unitBad ctx (depthAt p e.1 e.2.1 e.2.2) 4))

/-- Hold a tile in its pair's buffer, loaded from its targets if it was not held; a poisoned word of a target is a check
charged to no team (R189). -/
def State.openTile (s : State) (ctx : Nat) (p : PassDesc) (tx ty : Nat) : State :=
  let n := pairOfTile p tx ty
  let k := s.pair n
  if k.tiles.any (fun b => b.isFor ctx p tx ty) then s
  else match s.targetBad ctx p tx ty with
  | some pa => s.unitCheck (homeDie pa) 0 pa
  | none => s.setPair n { k with tiles := k.tiles ++ [s.loadTile ctx p tx ty] }

/-- Write one sample of a tile in progress. -/
def State.putSample (s : State) (ctx : Nat) (p : PassDesc) (x y k : Nat) (colour : List Word) (depth : Option Word) :
    State :=
  let s := s.openTile ctx p (x / 32) (y / 32)
  let n := pairOfTile p (x / 32) (y / 32)
  let q := s.pair n
  s.setPair n { q with tiles := q.tiles.map (fun b =>
    if b.isFor ctx p (x / 32) (y / 32) then
      { b with
        colour := aput b.colour (sampleNo x y k) colour,
        depth := match depth with
          | some d => aput b.depth (sampleNo x y k) d
          | none => b.depth }
    else b) }

/-- Write a tile to its targets: the colour and the depth of all its samples (R352). -/
def State.writeTile (s : State) (b : TileBuf) : State :=
  let at' := fun (n : Nat) => (32 * b.tx + n / 4 % 32, 32 * b.ty + n / 128, n % 4)
  let s := b.colour.foldl (fun s e =>
    let (x, y, k) := at' e.1
    s.unitWrite b.ctx (colourAt b.pass x y k) 16 (ofWords e.2)) s
  b.depth.foldl (fun s e =>
    let (x, y, k) := at' e.1
    s.unitWrite b.ctx (depthAt b.pass x y k) 4 e.2.toNat) s

/-- The context and the pass of a launch, if it is a draw. -/
def State.passOf (s : State) (l : Nat) : Option (Nat × PassDesc) :=
  let k := s.launch l
  k.draw.map (fun d => (k.ctx, d.pass))

/-- TILE_FLUSH (R352): a tile in progress is written early and leaves the buffer. -/
def execTileFlush (pair launch tx ty : Nat) (s : State) : Out :=
  if pair ≥ 96 then .fault .absentPart
  else match s.passOf launch with
    | none => .next s
    | some (ctx, p) =>
      let q := s.pair pair
      match q.tiles.find? (fun b => b.isFor ctx p tx ty) with
      | none => .next s
      | some b => .next ((s.writeTile b).setPair pair { q with tiles := q.tiles.filter (fun x => x != b) })

/-- TILE_RELOAD (R352): a flushed tile for which primitives have arrived is held again. -/
def execTileReload (pair launch tx ty : Nat) (s : State) : Out :=
  if pair ≥ 96 then .fault .absentPart
  else match s.passOf launch with
    | none => .next s
    | some (ctx, p) =>
      if pairOfTile p tx ty = pair && (s.launch launch).prims.any (fun q => q.hasWork tx ty) then
        .next (s.openTile ctx p tx ty)
      else .next s

/-! ## Bin memory (R350, R352, R416) -/

/-- The bytes of a pair's bin memory: half of its vault's, which firmware sizes in VRSV[7:4] MiB (R352, R416). -/
def State.binBytes (s : State) (pair : Nat) : Nat := aget 16 s.mgmt.vrsv (2 * pair / 4) / 16 % 16 * 2 ^ 19

/-- The bytes that the bins of a pair take: one entry for each primitive in each tile with work left (log entry 86). -/
def State.binUsed (s : State) (pair : Nat) : Nat :=
  (s.launches.map (fun l => match l.2.draw with
    | none => 0
    | some d => (l.2.prims.map (fun q =>
        ((q.tiles ++ q.begun.map (fun w => (w.tx, w.ty))).filter (fun t => pairOfTile d.pass t.1 t.2 == pair)).length)).sum
      )).sum * Config.binEntry

/-- A pair whose bin memory has run out flushes early the tile that it has held longest (R352; log entry 86). -/
def State.forceFlush (s : State) (pair : Nat) : State :=
  let q := s.pair pair
  match q.tiles with
  | b :: t => if s.binUsed pair > s.binBytes pair then (s.writeTile b).setPair pair { q with tiles := t } else s
  | [] => s

/-- Write every tile held for a target (R352). -/
def State.writeTiles (s : State) (ctx : Nat) (p : PassDesc) : State :=
  (List.range 96).foldl (fun s n =>
    let q := s.pair n
    let mine := q.tiles.filter (fun b => b.isFor ctx p b.tx b.ty)
    (mine.foldl State.writeTile s).setPair n { q with tiles := q.tiles.filter (fun b => !mine.contains b) }) s

/-! ## The end of a pixel thread (R351) -/

/-- The output of a pixel thread is dropped (R351). -/
def State.dropOut (s : State) (u g l : Nat) : State := s.setThr u g l { s.thr u g l with out := none }

/-- An output of a pixel thread is written to the samples of its mask, with their depth when ZWRITE is set (R351). -/
def State.exitPixel (s : State) (u g l : Nat) : State :=
  let t := s.thr u g l
  let team := s.team u
  let k := s.launch team.launch
  match team.stage, t.out, (s.grp u g).quad, k.draw with
  | .pixel, some c, some (order, _, _), some d =>
    match k.prims.find? (fun p => p.order == order) with
    | none => s
    | some p =>
      let x := (t.px).1
      let y := (t.px).2
      ((List.range 4).filter (fun i => t.cover.getLsbD i)).foldl (fun s i =>
        s.putSample k.ctx d.pass x y i c (if d.pass.zwrite then some (p.depth x y i) else none)) s
  | _, _, _, _ => s

end Sys2Proof.Machine
end

