-- ==== Sys2Proof/Machine/Control.lean ====
section
/-! DEFINITION. Class 0 (chapter 04): transfers, endings, meetings, masks, waking sleepers, and the bursar hand-off. -/

namespace Sys2Proof.Machine

/-! ## Transfers (R86) -/

/-- NOP (R87). -/
def execNop (h : Hdr) (s : State) : Out := simple (.nop h) (fun _ s => s) s

/-- BRA (R86). -/
def execBra (h : Hdr) (disp : Disp) (s : State) : Out :=
  perLane (.bra h disp) (fun ag s => s.branch ag (targetPc (s.pc ag) disp) id) s

/-- BRX (R86). -/
def execBrx (h : Hdr) (a : Reg) (s : State) : Out :=
  perLane (.brx h a) (fun ag s => s.branch ag (s.reg ag a).toNat id) s

/-- CALL (R86): the target is read before the link is written. -/
def execCall (h : Hdr) (d : Reg) (t : CallTarget) (s : State) : Out :=
  perLane (.call h d t) (fun ag s =>
    let x : Int := match t with
      | .disp x => targetPc (s.pc ag) x
      | .reg a => (s.reg ag a).toNat
    s.branch ag x (fun s => s.setReg ag d (nextPc (s.pc ag)))) s

/-- RET (R86). -/
def execRet (h : Hdr) (a : Reg) (s : State) : Out :=
  perLane (.ret h a) (fun ag s => s.branch ag (s.reg ag a).toNat id) s

/-! ## Endings (R87, R229, R351) -/

/-- A context ends (R229, R242): its finished slots are freed, the others go on unowned, and the threads parked on RDV for
it are released. -/
def State.endCtx (s : State) (k c : Nat) : State :=
  let q := s.core k
  let mine := fun (x : CopySlot) => x.ctx == c && x.owned
  let ended := fun (x : CopySlot) => match x.stat with
    | .finished _ => true
    | _ => false
  let s := s.setCore k { q with
    ctxs := aput q.ctxs c { q.ctx c with run := .ended, park := .run },
    slots := (q.slots.filter (fun e => !(mine e.2 && ended e.2))).map (fun e =>
      if mine e.2 then (e.1, { e.2 with owned := false }) else e) }
  s.releaseRdv k c

/-- An ending agent ends once its stores, updates and tiles are past their checks; a late trap of theirs is delivered with
the resume point at the EXIT (R87, R257, R294). The output of a pixel thread of a speculative team is written when the team
commits (R392; log entry 26). -/
def State.tryEnd (s : State) (ag : Agent) : State :=
  match s.park ag with
  | .ending d =>
    let s := s.settleAccs ag
    match s.takeLate ag (s.pc ag) with
    | some s => s
    | none =>
      if !(s.accsOf ag).isEmpty || s.tiles.any (fun t => t.ags.contains ag) then s
      else match ag with
        | .thread u g l =>
          let s := if d then s.dropOut u g l else if s.speculative u then s else s.exitPixel u g l
          let s := (s.endLane u g l).collectAll u g
          if (s.team u).allExited then (s.team u).cores.foldl (fun s k => s.dropReplay u k) s else s
        | .ctx k c => s.endCtx k c
  | _ => s

/-- A load still on its way when its agent ends is discarded; a draw that stores to the record is not (R87, R221). -/
def State.dropLoads (s : State) (ag : Agent) : State :=
  { s with accs := s.accs.filter (fun a => !(decide (a.ag = ag) && !a.op.outlasts)) }

/-- EXIT and DISCARD of one agent: the choice record is flushed (R202), the windows close, loads are discarded, and the
agent ends when it may. -/
def State.leave (s : State) (h : Hdr) (discard : Bool) (ag : Agent) : LaneOut :=
  let s := (s.storing ag h ((s.chOf ag).flushIf (s.descOf ag))).parkOn ag (.ending discard)
  if s.park ag = .ending discard then .stay ((s.dropLoads ag).tryEnd ag) else .stay s

/-- EXIT (R87, R229). -/
def execExit (h : Hdr) (s : State) : Out := perLane (.exit h) (fun ag s => s.leave h false ag) s

/-- DISCARD (R351): as EXIT, and a pixel thread writes nothing. -/
def execDiscard (h : Hdr) (s : State) : Out := perLane (.discard h) (fun ag s => s.leave h true ag) s

/-! ## Meeting forms (R88) -/

/-- MEETSET (R88): the meeting address is not checked, and one outside the code window is taken modulo 2^32 (log entry 98). -/
def execMeetset (h : Hdr) (d : Reg) (disp : Disp) (s : State) : Out :=
  meetForm (.meetset h d disp) (fun ag s =>
    let old := match ag with
      | .thread u g l => (s.thr u g l).meet
      | .ctx .. => 0
    (s.setMeet ag (BitVec.ofInt 32 (targetPc (s.pc ag) disp))).setReg ag d old) s

/-- MEETRST (R88). -/
def execMeetrst (h : Hdr) (src : Option Reg) (s : State) : Out :=
  meetForm (.meetrst h src) (fun ag s =>
    s.setMeet ag (match src with
      | none => 0xFFFFFFFF
      | some a => s.reg ag a)) s

/-! ## Mask forms (R89, R90) -/

/-- A form that writes a mask from the executing lanes of its cohort: bits at or above GWIDTH and bits not in m0 stay
clear; then what hangs on the mask is evaluated (R80, R82, R89). -/
def maskForm (i : Instr) (m : MaskNo) (f : State → List Agent → Nat → Nat) (s : State) : Out :=
  let (s, ags) := cohort i s
  match ags with
  | .thread u g _ :: _ =>
    let k := s.grp u g
    let x := f s ags (k.mask m.toNat) % 2 ^ k.width &&& k.mask 0
    let s := s.setGrp u g { k with masks := aput k.masks m.toNat x }
    .next ((ags.foldl State.advance s).maskChanged u g m.toNat)
  | _ => .next s

/-- The bits of lanes. -/
def laneBits (ags : List Agent) : Nat := ags.foldl (fun b ag => b ||| 2 ^ Agent.lane ag) 0

/-- MJOIN (R89). -/
def execMjoin (h : Hdr) (m : MaskNo) (s : State) : Out :=
  maskForm (.mjoin h m) m (fun _ ags x => x ||| laneBits ags) s

/-- MLEAVE (R89). -/
def execMleave (h : Hdr) (m : MaskNo) (s : State) : Out :=
  maskForm (.mleave h m) m (fun _ ags x => x - (x &&& laneBits ags)) s

/-- MSET (R89): `ld` takes the value of the lowest executing lane. -/
def execMset (h : Hdr) (a : Reg) (m : MaskNo) (op : MsetOp) (s : State) : Out :=
  maskForm (.mset h a m op) m (fun s ags x =>
    let vs := ags.map (fun ag => s.regN ag (s.g64 ags) a)
    let y := vs.foldl (fun b v => b ||| v) 0
    match op with
    | .ld => vs.headD 0
    | .or => x ||| y
    | .andn => x - (x &&& y)) s

/-- MGET (R89). -/
def execMget (h : Hdr) (d : Reg) (m : MaskNo) (op : MgetOp) (s : State) : Out :=
  simple (.mget h d m op) (fun ag s =>
    match ag with
    | .thread u g l =>
      let k := s.grp u g
      let x := k.mask m.toNat
      match op with
      | .bits => s.resultRF ag h (k.width == 64) d x
      | .cnt => s.resultRF ag h false d (popcount 64 x)
      | .rank => s.resultRF ag h false d (popcount 64 (x % 2 ^ l))
    | .ctx .. => s) s

/-- MWAIT (R90). -/
def execMwait (h : Hdr) (m : MaskNo) (s : State) : Out :=
  let p := s.curGroup
  .next ((s.cur.agents.foldl (laneStep (.mwait h m) (fun _ s => .park s (.mwait m.toNat))) s).mwaits p.1 p.2)

/-! ## Sleepers (R92, R93) -/

/-- SLEEP_WAKE: the tick has reached a sleeper's tick or promise. -/
def execSleepWake (ag : Agent) (s : State) : Out :=
  if !s.live ag then .next s
  else match s.park ag with
    | .sleept v => .next (if s.now ≥ v then s.release ag else s)
    | .sleepp b p => .next (if s.now ≥ (s.bar (s.uidOf ag) b).prom then (s.sleepEnd ag b p).run (.sleepp ⟨.al, false, 0, false, 0, 0⟩ vz 0) ag else s)
    | _ => .next s

/-! ## Bursar hand-off (R94, R95, R225) -/

/-- Grant the lowest free context of the lane's core (R94, R225); none when no context is free. A context is free when it
has never been granted or has ended and nothing of it is on its way. -/
def State.serveFork (s : State) (d a : Reg) (t : Int) (ag : Agent) : Option State :=
  let k := s.coreOf ag
  let free := (List.range 4).find? (fun c => (s.bctx k c).run != .ready && (s.accsOf (.ctx k c)).isEmpty)
  free.map (fun c =>
    let x := s.reg ag a
    let s := (s.releaseRdv k c).setBctx k c
      { run := .ready, park := .run, pc := BitVec.ofInt 32 t, cc := .zero, uid := s.uidOf ag, priv := s.privOf ag,
        trap := .zero }
    (s.setReg (.ctx k c) 0 x).setReg ag d (BitVec.ofNat 32 c))

/-- FORK (R94): a lane whose target is no marked slot traps; the others stall until each has a context. -/
def execFork (h : Hdr) (d a : Reg) (disp : Disp) (s : State) : Out :=
  let i := Instr.fork h d a disp
  let (s, ags) := cohort i s
  let r := ags.foldl (fun (p : State × List Agent) ag =>
    let t := targetPc (p.1.pc ag) disp
    match p.1.aim ag t with
    | (s, .bad) => (s.raise ag i (badTarget t), p.2)
    | (s, .hold dn n) => (s.setPark ag (.fault dn n true), p.2)
    | (s, .go _) => (s, p.2 ++ [ag])) (s, [])
  .next (stallRun i s.nextSeq (fun ag s => s.serveFork d a (targetPc (s.pc ag) disp) ag) r.2 r.1)

/-- Every stall of FORK on a core goes on as far as it can (R94). -/
def State.retryForks (s : State) (core : Nat) : State :=
  s.teams.foldl (fun s t => if t.2.stat != .running then s
    else t.2.groups.foldl (fun s g => if g.2.core != core then s
      else g.2.threads.foldl (fun s l =>
        match (s.thr t.1 g.1 l.1).park with
        | .stall (.fork h d a disp) n _ =>
          stallRun (.fork h d a disp) n (fun ag s => s.serveFork d a (targetPc (s.pc ag) disp) ag)
            (s.stalled t.1 g.1 n) s
        | _ => s) s) s) s

/-- Is a thread on a core parked on RDV of context c? -/
def State.rdvWaits (s : State) (core c : Nat) : Bool :=
  s.teams.any (fun t => t.2.stat == .running && t.2.groups.any (fun g => g.2.core == core &&
    g.2.threads.any (fun l => l.2.park == .rdv c && !l.2.exited)))

/-- RDV (R95): a context parked when the cohort issues is released with every lane that names it. -/
def execRdv (h : Hdr) (a : Reg) (s0 : State) : Out :=
  perLane (.rdv h a) (fun ag s =>
    match ag with
    | .thread .. =>
      let k := s.coreOf ag
      let c := (s.reg ag a).toNat % 4
      if (s.bctx k c).run != .ready then .done s
      else if (s0.bctx k c).park = .rdv c then
        .done (if (s.bctx k c).park = .rdv c then s.release (.ctx k c) else s)
      else .park s (.rdv c)
    | .ctx k c => if s.rdvWaits k c then .done (s.releaseRdv k c) else .park s (.rdv c)) s0

end Sys2Proof.Machine
end

