-- ==== Sys2Proof/Machine/Copy.lean ====
section
/-! DEFINITION. Asynchronous copies (R230 to R242, R251 to R253): iterator records, the sweep and its chunks, COPY and CWAIT,
and the copy engine's sending, applying, crediting, stopping and finishing. -/

namespace Sys2Proof.Machine

/-! ## Iterator records (R230, R235) -/

/-- An iterator record from its 128 bytes (Table 11-2). -/
def IterRec.ofBytes (addr : Nat) (inSp : Bool) (x : Nat) : IterRec :=
  { addr := addr, inSp := inSp, base := bitf x 0 64, space := bitf x 64 8, esize := bitf x 72 8, rank := bitf x 80 8,
    bcast := bitf x 88 8, peer := bitf x 96 16, pad := bitf x 128 64,
    shape := (List.range 5).map (fun d => bitf x (192 + 32 * d) 32),
    start := (List.range 5).map (fun d => sgn 32 (bitf x (352 + 32 * d) 32)),
    stride := (List.range 5).map (fun d => sgn 64 (bitf x (512 + 64 * d) 64)),
    box := (List.range 5).map (fun d => bitf x (832 + 32 * d) 32) }

/-- Does a record's own field break R235? -/
def IterRec.bad (r : IterRec) (dst : Bool) (x : Nat) : Bool :=
  !([0, 1, 2, 3, 6, 7, 8].contains r.space) || !([1, 2, 4, 8].contains r.esize) || r.rank < 1 || r.rank > 5 ||
    (if dst then r.bcast != 0 else r.bcast / 2 ^ r.rank != 0) || bitf x 112 16 != 0 ||
    (r.space != 8 && r.peer != 0) || (!dst && bitf x 992 32 != 0)

/-- The size of a copy's element type; none for raw bytes (R235). -/
def CopyTy.size : CopyTy → Option Nat
  | .b => none
  | .bf16 => some 2
  | .s32 | .n32 | .f32 => some 4
  | .fx64 | .s64 | .n64 => some 8

/-! ## The sweep (R231, R232) -/

/-- The extent of the box in a dimension. -/
def CopyJob.box (j : CopyJob) (d : Nat) : Nat := if d < j.src.rank then j.src.box.getD d 0 else 1

/-- The box indices of a dimension whose destination coordinate is in bounds, as [lo, hi) (R231). -/
def CopyJob.span (j : CopyJob) (d : Nat) : Nat × Nat :=
  if d < j.dst.rank then
    let t := j.dst.start.getD d 0
    let hi := min (j.box d : Int) ((j.dst.shape.getD d 0 : Int) - t)
    ((max 0 (-t)).toNat, hi.toNat)
  else (0, 1)

/-- How many box indices of a dimension are not skipped. -/
def CopyJob.count (j : CopyJob) (d : Nat) : Nat := (j.span d).2 - (j.span d).1

/-- n of R236: the elements of the sweep not skipped. -/
def CopyJob.elements (j : CopyJob) : Nat := (List.range 5).foldl (fun n d => n * j.count d) 1

/-- Elements in a chunk: E of R232. -/
def CopyJob.perChunk (j : CopyJob) : Nat := 64 / j.src.esize

/-- Chunks of a row. -/
def CopyJob.perRow (j : CopyJob) : Nat := ceilDiv (j.box 0) j.perChunk

/-- Chunks of the sweep. -/
def CopyJob.chunks (j : CopyJob) : Nat := j.perRow * (j.box 1 * j.box 2 * j.box 3 * j.box 4)

/-- c of R238: the chunks that hold an element not skipped. -/
def CopyJob.fullChunks (j : CopyJob) : Nat :=
  let p := j.span 0
  if p.2 ≤ p.1 then 0
  else (ceilDiv p.2 j.perChunk - p.1 / j.perChunk) * (j.count 1 * j.count 2 * j.count 3 * j.count 4)

/-- The index vector of the first element of a chunk. -/
def CopyJob.first (j : CopyJob) (q : Nat) : List Nat :=
  let r := q / j.perRow
  [q % j.perRow * j.perChunk, r % j.box 1, r / j.box 1 % j.box 2, r / (j.box 1 * j.box 2) % j.box 3,
    r / (j.box 1 * j.box 2 * j.box 3) % j.box 4]

/-- The destination address of an index vector; none when it is skipped (R231). -/
def CopyJob.dstAddr (j : CopyJob) (i : List Nat) : Option Int :=
  let r := j.dst
  (List.range r.rank).foldl (fun (acc : Option Int) d =>
    let y := r.start.getD d 0 + (i.getD d 0 : Int)
    acc.bind (fun a => if 0 ≤ y && y < r.shape.getD d 0 then some (a + y * r.stride.getD d 0) else none)) (some r.base)

/-- The source address of an index vector; none when the value is PAD (R231). -/
def CopyJob.srcAddr (j : CopyJob) (i : List Nat) : Option Int :=
  let r := j.src
  (List.range r.rank).foldl (fun (acc : Option Int) d =>
    let x := if nbit r.bcast d then r.start.getD d 0 else r.start.getD d 0 + (i.getD d 0 : Int)
    acc.bind (fun a => if 0 ≤ x && x < r.shape.getD d 0 then some (a + x * r.stride.getD d 0) else none)) (some r.base)

/-- The elements of a chunk that are not skipped, in order: source address or PAD, and destination address. -/
def CopyJob.chunk (j : CopyJob) (q : Nat) : List (Option Int × Int) :=
  let f := j.first q
  let n := min j.perChunk (j.box 0 - f.headD 0)
  (List.range n).filterMap (fun k =>
    let i := (f.headD 0 + k) :: f.drop 1
    (j.dstAddr i).map (fun y => (j.srcAddr i, y)))

/-! ## The promise (R238) -/

/-- The lowest and highest element address on a side: per dimension the end points of the coordinates touched; none when
no element is. -/
def CopyJob.reach (j : CopyJob) (dst : Bool) : Option (Int × Int) :=
  let r := if dst then j.dst else j.src
  (List.range r.rank).foldl (fun (acc : Option (Int × Int)) d =>
    let p := j.span d
    let st := r.start.getD d 0
    let sh : Int := r.shape.getD d 0
    let fixed := !dst && nbit r.bcast d
    let a : Int := if fixed then st else max (st + p.1) 0
    let b : Int := if fixed then st else min (st + p.2 - 1) (sh - 1)
    let k := r.stride.getD d 0
    acc.bind (fun e =>
      if p.2 ≤ p.1 || b < a || a < 0 || b ≥ sh then none
      else some (e.1 + min (a * k) (b * k), e.2 + max (a * k) (b * k)))) (some (r.base, r.base))

/-- The level of a side (R238): 0 for space 3 when no element touches an address there (log entry 102). -/
def CopyJob.level (j : CopyJob) (core : Nat) (dst : Bool) : Nat :=
  match (if dst then j.dst else j.src).space with
  | 0 => 450
  | 1 => 24
  | 2 => 36
  | 3 =>
    match j.reach dst with
    | none => 0
    | some (lo, hi) =>
      ((List.range 48).filter (fun (v : Nat) => decide (lo / 2 ^ 24 ≤ (v : Int)) && decide ((v : Int) ≤ hi / 2 ^ 24))).foldl
        (fun m v => max m (if v = core / 4 then 60 else if v / 24 = dieOf core then 140 else 220)) 0
  | 8 => 24000
  | _ => 900

/-- P of R238 for an acceptance at a tick. -/
def CopyJob.promise (j : CopyJob) (core tick : Nat) : Nat :=
  (tick + j.level core false + j.level core true + 4 * j.fullChunks) % 2 ^ 64

/-! ## Addresses of elements (R239, Table 11-6, R418) -/

/-- What an element address comes to. -/
inductive Spot where
  | at (l : Loc)
  | peer (a : Nat)
  | missing (va : Nat)
  | stop (status : Nat)
deriving DecidableEq, Repr

/-- The range of a space for a copy's element (Table 8-1). -/
def State.copyRange (s : State) (uid space : Nat) (x : Int) (n : Nat) : Bool :=
  let d := (s.team uid).desc
  let c := s.ctx (s.ctxNo uid)
  let fits := fun (top : Nat) => decide (0 ≤ x) && decide (x + n ≤ (top : Int))
  match space with
  | 0 => fits (2 ^ 57)
  | 1 => fits d.half
  | 2 => d.spans && fits d.half
  | 3 => decide (0 ≤ x) && decide (x < 48 * 2 ^ 24) &&
      decide (x % 2 ^ 24 + n ≤ (s.vaultBytes (x / 2 ^ 24).toNat : Int))
  | 6 => fits c.hncsz.toNat
  | _ => fits c.hcsz.toNat

/-- Are the vault masks of a team's context set for a use of vault v (R169)? -/
def State.copyVault (s : State) (uid v : Nat) (u : Use) : Bool :=
  let c := s.ctx (s.ctxNo uid)
  match u with
  | .read => c.vread.getLsbD v
  | .write => c.vwrite.getLsbD v
  | .update => c.vread.getLsbD v && c.vwrite.getLsbD v

/-- Check and translate one element address (R239 to R241): overflow, alignment, then protection. -/
def State.copySpot (s : State) (core uid space n : Nat) (x : Int) (u : Use) : State × Spot :=
  let c := s.ctx (s.ctxNo uid)
  if x < -(2 ^ 63) || x ≥ 2 ^ 63 then (s, .stop 1)
  else if space = 8 then
    let plain := decide (0 ≤ x) && decide (x < 2 ^ 57)
    let vlt := decide (2 ^ 62 ≤ x) && decide (x < 2 ^ 62 + 48 * 2 ^ 24)
    if !(plain || vlt) then (s, .stop 1) else if x % n != 0 then (s, .stop 2) else (s, .peer x.toNat)
  else if !s.copyRange uid space x n then (s, .stop 1)
  else if x % n != 0 then (s, .stop 2)
  else
    let a := x.toNat
    let own := core != (s.team uid).core
    match space with
    | 0 =>
      match s.translate core (s.ctxNo uid) a (if u == .read then .read else .write) with
      | (s, .pa p) => (s, .at (.hbm p))
      | (s, .missing) => (s, .missing a)
      | (s, .bad _) => (s, .stop 3)
    | 1 => (s, .at (.scr uid own a))
    | 2 => (s, .at (.scr uid (!own) a))
    | 3 => if s.copyVault uid (a / 2 ^ 24) u then (s, .at (.vault a)) else (s, .stop 3)
    | 6 => (s, .at (.host (c.hncb.toNat + a) false))
    | _ => (s, .at (.host (c.hcb.toNat + a) true))

/-- The places of a chunk's elements. -/
inductive Spots where
  | ok (l : List (Option Spot × Spot))
  | missing (va : Nat)
  | stop (status : Nat)
deriving DecidableEq, Repr

/-- Find the places of a chunk's elements: the first address that fails decides, source before destination. -/
def State.copySpots (s : State) (core uid : Nat) (j : CopyJob) : List (Option Int × Int) → State × Spots
  | [] => (s, .ok [])
  | (x, y) :: t =>
    let n := j.src.esize
    let u : Use := if j.f.rop == .plain then .write else .update
    let go := fun (s : State) (a : Option Spot) =>
      match s.copySpot core uid j.dst.space n y u with
      | (s, .missing va) => (s, Spots.missing va)
      | (s, .stop st) => (s, .stop st)
      | (s, b) =>
        match s.copySpots core uid j t with
        | (s, .ok r) => (s, .ok ((a, b) :: r))
        | r => r
    match x with
    | none => go s none
    | some x =>
      match s.copySpot core uid j.src.space n x .read with
      | (s, .missing va) => (s, .missing va)
      | (s, .stop st) => (s, .stop st)
      | (s, a) => go s (some a)

/-! ## Engine writes -/

/-- A write or update of an engine for a team, at the home slices: held back, at its place `key` in the team's order, where
the team's writes are (R391, R398). -/
def State.engineWrite (s : State) (uid key : Nat) (w : Held) : State :=
  if s.holds uid && w.loc.lineNo.isSome then s.hold uid key w
  else (((s.roomAt w.loc w.n).noteDirect uid w.loc).portUpdate w.loc w.n w.op w.data).1.clearTag w.loc w.n

/-- Writes or updates of an engine that land together (R232, R294). -/
def State.engineWrites (s : State) (uid key : Nat) (ws : List Held) : State :=
  (ws.foldl (fun s w => s.engineWrite uid key w) s).mend (ws.filter (fun w => !(s.holds uid && w.loc.lineNo.isSome)))

/-- Write IDX and CHUNK of a destination record (R239, R240): dimensions at or above RANK are zero. Its page is not checked
again, and one that has no translation any more is not written (log entry 103). -/
def State.putIdx (s : State) (core uid : Nat) (j : CopyJob) (q acked : Nat) : State :=
  let i := j.first q
  let x := (List.range 5).foldl (fun x d => x + (if d < j.dst.rank then i.getD d 0 else 0) * 2 ^ (32 * d)) 0 +
    acked % 2 ^ 32 * 2 ^ 160
  let a := j.dst.addr + 0x68
  if j.dst.inSp then s.engineWrite uid (2 * s.nextAcc) (Held.of (.scr uid (core != (s.team uid).core) a) 24 .write x)
  else match s.peekPa (s.ctxNo uid) a with
    | some p => s.engineWrite uid (2 * s.nextAcc) (Held.of (.hbm p) 24 .write x)
    | none => s

/-- The update that a copy's element takes at its port (R237, Table 11-5). -/
def CopyF.portOp (f : CopyF) : PortOp :=
  match f.rop, f.ety with
  | .plain, _ => .write
  | .add, .f32 => .upd .fadd
  | .add, .bf16 => .half
  | .add, .fx64 => .upd .fxadd
  | .add, _ => .upd .add
  | .min, .n32 | .min, .n64 => .upd .umin
  | .min, .f32 => .upd .fmin
  | .min, _ => .upd .smin
  | .max, .n32 | .max, .n64 => .upd .umax
  | .max, .f32 => .upd .fmax
  | .max, _ => .upd .smax

/-! ## Slots -/

/-- Slot n of a core, if it is in use. -/
def State.slot? (s : State) (core n : Nat) : Option CopySlot := afind (s.core core).slots n

/-- Replace slot n of a core. -/
def State.setSlot (s : State) (core n : Nat) (c : CopySlot) : State :=
  s.setCore core { s.core core with slots := aput (s.core core).slots n c }

/-- Free slot n of a core (R242). -/
def State.freeSlot (s : State) (core n : Nat) : State :=
  s.setCore core { s.core core with slots := adel (s.core core).slots n }

/-- The release action of an engine for a team (R236, Table 8-2), then its count for the race tags. -/
def State.engineRelease (s : State) (core uid : Nat) (sc : Scope) : State :=
  let dev := sc == .dev || sc == .sys
  let s := if dev || (sc == .team && (s.team uid).desc.spans) then s.l1WriteBackAll core else s
  if dev then s.setTeam uid { s.team uid with rels := (s.team uid).rels + 1 } else s

/-- A slot for a context's new copy (R242): the lowest free one, or the context's oldest finished one, by the order in which
the copies were accepted (log entry 105). -/
def State.pickSlot (s : State) (core c : Nat) : Option Nat :=
  let ks := (s.core core).slots
  match (List.range 16).find? (fun n => (afind ks n).isNone) with
  | some n => some n
  | none =>
    let mine := ks.filter (fun e => e.2.ctx == c && e.2.owned && (match e.2.stat with
      | .finished _ => true
      | _ => false))
    (mine.foldl (fun (b : Option (Nat × Nat)) e => match b with
      | some (_, a) => if e.2.age < a then some (e.1, e.2.age) else b
      | none => some (e.1, e.2.age)) none).map (fun p => p.1)

/-- A context parked for a slot has its copy accepted, if a slot can be had (R236). -/
def State.tryAccept (s : State) (ag : Agent) : State :=
  match ag, s.park ag with
  | .ctx k c, .copySlot j =>
    match s.pickSlot k c with
    | none => s
    | some n =>
      let uid := s.uidOf ag
      let q := s.core k
      let x : CopySlot :=
        { ctx := c, owned := true, uid := uid, job := j, next := 0, acked := 0, sent := [], stat := .sending,
          age := q.copyAge, halted := false, idx := 0 }
      let s := s.setCore k { q with copyAge := q.copyAge + 1, slots := aput q.slots n x }
      let s := match j.f.bar with
        | none => s
        | some b =>
          let p := j.promise k s.now
          s.barUpdate uid b.toNat (fun x =>
            let x := if j.f.exp then x.addTx (j.elements * j.src.esize : Nat) else x
            { x with prom := max x.prom p })
      let s := (s.setReg ag j.d (BitVec.ofNat 32 n)).release ag
      if j.f.acq then s.acquireAction ag j.f.scope else s
  | _, _ => s

/-- The contexts of a core that wait for a slot go on as far as they can; those of a halted team wait (R253). -/
def State.retryCopies (s : State) (core : Nat) : State :=
  (List.range 4).foldl (fun s c =>
    if s.live (.ctx core c) && (s.team (s.uidOf (.ctx core c))).stat == .running then s.tryAccept (.ctx core c) else s) s

/-- Give a context its CWAIT status, and free the slot (R242). -/
def State.endCwait (s : State) (ag : Agent) (d : Reg) (w : Bool) (status : Nat) : State :=
  let s := s.setReg ag d (BitVec.ofNat 32 status)
  if w then s.setCC ag (zFlag (status == 0)) else s

/-- A copy finishes with a status (R236, R239, R242): a slot whose context has ended is freed, and a CWAIT on it
returns. -/
def State.finishCopy (s : State) (core n status : Nat) : State :=
  match s.slot? core n with
  | none => s
  | some c =>
    let ag := Agent.ctx core c.ctx
    let s :=
      if !c.owned then s.freeSlot core n
      else match s.park ag with
        | .cwait k d w =>
          if k = n && s.live ag then ((s.endCwait ag d w status).freeSlot core n).release ag
          else s.setSlot core n { c with stat := .finished status }
        | _ => s.setSlot core n { c with stat := .finished status }
    s.retryCopies core

/-- A stopping copy with every sent chunk acknowledged finishes (R239): IDX and CHUNK, and but for COPY_KILLED the
poisoned barrier with the arrival in the same update. -/
def State.settleCopy (s : State) (core n : Nat) : State :=
  match s.slot? core n with
  | none => s
  | some c =>
    match c.stat with
    | .stopping st =>
      if !c.sent.isEmpty then s
      else
        let s := s.putIdx core c.uid c.job c.idx c.acked
        let s := match c.job.f.bar with
          | some b =>
            if st = 4 then s
            else s.barUpdate c.uid b.toNat (fun x => if c.job.f.arv then x.poison.arrive else x.poison)
          | none => s
        s.finishCopy core n st
    | _ => s

/-- The last acknowledgement: the release, then the withheld credit and the arrival as one update (R236). -/
def State.completeCopy (s : State) (core n bytes : Nat) : State :=
  match s.slot? core n with
  | none => s
  | some c =>
    let s := if c.job.f.rel then s.engineRelease core c.uid c.job.f.scope else s
    let s := match c.job.f.bar with
      | some b => s.barUpdate c.uid b.toNat (fun x =>
          let x := x.addTx (-(bytes : Int))
          if c.job.f.arv then x.arrive else x)
      | none => s
    s.finishCopy core n 0

/-- A sent chunk is acknowledged (R236). -/
def State.ackChunk (s : State) (core n : Nat) (e : SentChunk) : State :=
  match s.slot? core n with
  | none => s
  | some c =>
    let c := { c with sent := c.sent.filter (fun x => x.id != e.id), acked := c.acked + 1 }
    let s := s.setSlot core n c
    if c.stat = .sending && c.next ≥ c.job.chunks && c.sent.isEmpty then s.completeCopy core n e.bytes
    else
      let s := match c.job.f.bar with
        | some b => s.barUpdate c.uid b.toNat (fun x => x.addTx (-(e.bytes : Int)))
        | none => s
      s.settleCopy core n

/-! ## Sending (R236, R239, R240, R418) -/

/-- The port by which a chunk goes to a peer package: the lowest that ROUTE names and that is enabled, up and not down. -/
def State.routeTo (s : State) (peer : Nat) : Option Nat :=
  let mask := (aget 0 s.mgmt.route peer).toNat
  (List.range 12).find? (fun p => nbit mask p && (s.port p).enable && (s.port p).up && !(s.port p).down)

/-- The value an element reads (R231): PAD, a place, a peer's memory; none when it consumes a poisoned word. -/
def State.copyValue (s : State) (c : CopySlot) (x : Option Spot) : State × Except Loc Nat :=
  let n := c.job.src.esize
  match x with
  | some (.at l) =>
    if s.holds c.uid && l.lineNo.isSome then
      if (s.withHeld c.uid none).poisoned l n then (s, .error l)
      else ((s.signRead c.uid l).tallyVault l true false, .ok (s.heldRead c.uid l n))
    else if s.poisoned l n then (s, .error l)
    else (s.tallyVault l true false, .ok (s.rawRead l n))
  | some (.peer a) =>
    (s, .ok (ofBytes ((List.range n).map (fun i => Config.peerByte c.job.src.peer (a + i) s.nextAcc))))
  | _ => (s, .ok (c.job.src.pad % 2 ^ (8 * n)))

/-- The values of a chunk's elements, all read before any is written. -/
def State.copyValues (s : State) (c : CopySlot) : List (Option Spot × Spot) → State × Except Loc (List Nat)
  | [] => (s, .ok [])
  | (x, _) :: t =>
    match s.copyValue c x with
    | (s, .error l) => (s, .error l)
    | (s, .ok v) =>
      match s.copyValues c t with
      | (s, .ok vs) => (s, .ok (v :: vs))
      | r => r

/-- The local writes of a chunk. -/
def chunkWrites (c : CopySlot) (ps : List (Option Spot × Spot)) (vs : List Nat) : List Held :=
  (ps.zip vs).filterMap (fun p => match p.1.2 with
    | .at l => some (Held.of l c.job.src.esize (CopyF.portOp c.job.f) p.2)
    | _ => none)

/-- The peer's writes of a chunk. -/
def chunkElems (c : CopySlot) (ps : List (Option Spot × Spot)) (vs : List Nat) : List (Nat × List Byte) :=
  (ps.zip vs).filterMap (fun p => match p.1.2 with
    | .peer a => some (a, bytesOf p.2 c.job.src.esize)
    | _ => none)

/-- Do the destination bytes of a chunk lie in one aligned 64-byte block (R232)? -/
def oneBlock (es : List (Option Int × Int)) : Bool :=
  match es with
  | [] => true
  | e :: t => t.all (fun x => x.2 / 64 == e.2 / 64)

/-- Send a chunk whose places are known: its source is read now, and its writes reach their ports later (R236). -/
def State.sendChunk (s : State) (core n : Nat) (c : CopySlot) (es : List (Option Int × Int))
    (ps : List (Option Spot × Spot)) : State :=
  let win := c.job.src.space == 6 || c.job.src.space == 7 || c.job.dst.space == 6 || c.job.dst.space == 7
  let s := if win then s.commitEarly c.uid else s
  match s.copyValues c ps with
  | (s, .error l) =>
    s.machineCheck c.uid core 0x42 (BitVec.ofNat 32 c.job.src.space) l.addr 0 0 l.row
  | (s, .ok vs) =>
    let elems := chunkElems c ps vs
    let base : SentChunk :=
      { id := s.nextAcc, chunk := c.next, bytes := es.length * c.job.src.esize, whole := oneBlock es,
        left := chunkWrites c ps vs, net := none }
    let go := fun (s : State) (e : SentChunk) =>
      { (s.setSlot core n { c with next := c.next + 1, idx := c.next + 1, sent := c.sent ++ [e] }).tally
          (dieOf core) (0x40 + 64 * (core % 96) + 52) with nextAcc := s.nextAcc + 1 }
    if elems.isEmpty then go s base
    else match s.routeTo c.job.dst.peer with
      | none => s
      | some p =>
        let q := s.port p
        let k := aget 0 q.txSeq c.job.dst.peer
        let seq := 2 ^ 32 * c.job.dst.peer + k
        let f : ChunkFlit :=
          { seq := seq, op := if c.job.f.rop == .plain then none else some (c.job.f.rop, c.job.f.ety), elems := elems }
        let s := (s.setPort p { q with
          txSeq := aput q.txSeq c.job.dst.peer ((k + 1) % 2 ^ 32),
          unacked := q.unacked ++ [(f, core, n, s.tick)] }).tally (p / 6) (0x1E80 + 16 * (p % 6))
        go s { base with net := some (p, seq) }

/-- Send a chunk some of whose sources lie with a peer package (R418): it waits for a port of ROUTE and for the peer's host,
is turned away with COPY_PROT, or has its values, as the peer answers (Config.peerAnswer, log entry 20). -/
def State.askPeer (s : State) (core n : Nat) (c : CopySlot) (es : List (Option Int × Int))
    (ps : List (Option Spot × Spot)) : State :=
  if (s.routeTo c.job.src.peer).isNone then s
  else match Config.peerAnswer s.nextAcc with
    | 0 => s.sendChunk core n c es ps
    | 1 => { s with nextAcc := s.nextAcc + 1 }
    | _ =>
      ({ s.setSlot core n { c with stat := .stopping 3, idx := c.next } with nextAcc := s.nextAcc + 1 }).settleCopy core n

/-- Is a source with a peer package? -/
def Spot.atPeer : Option Spot → Bool
  | some (.peer _) => true
  | _ => false

/-- COPY_CHUNK_SEND (R236): the next chunk of a slot, once its addresses are checked and translated; a stop, or a fault
posted when the chunks already sent have completed. A sweep of no chunk at all completes here, and a stopped copy whose
sent chunks have all been acknowledged finishes here. -/
def execCopyChunkSend (core n : Nat) (s : State) : Out :=
  if core ≥ 192 || n ≥ 16 then .fault .absentPart
  else match s.slot? core n with
    | none => .next s
    | some c =>
      if c.stat != .sending then .next (s.settleCopy core n)
      else if c.halted then .next s
      else if c.next ≥ c.job.chunks then .next (if c.sent.isEmpty then s.completeCopy core n 0 else s)
      else
        let es := c.job.chunk c.next
        match s.copySpots core c.uid c.job es with
        | (s, .stop st) => .next ((s.setSlot core n { c with stat := .stopping st, idx := c.next }).settleCopy core n)
        | (s, .missing va) =>
          if !c.sent.isEmpty then .next s
          else
            let s := s.putIdx core c.uid c.job c.next c.acked
            let (s, k) := s.postFault core (s.ctxNo c.uid) va .copy
            .next (s.setSlot core n { c with stat := .held (dieOf core) k, idx := c.next })
        | (s, .ok ps) =>
          .next (if ps.any (fun p => Spot.atPeer p.1) then s.askPeer core n c es ps else s.sendChunk core n c es ps)

/-- COPY_CHUNK_ACK (R236): a chunk of a slot that has been applied is acknowledged. -/
def execCopyChunkAck (core n chunk : Nat) (s : State) : Out :=
  if core ≥ 192 || n ≥ 16 then .fault .absentPart
  else match s.slot? core n with
    | none => .next s
    | some c =>
      match c.sent.find? (fun e => e.chunk == chunk && e.left.isEmpty && e.net.isNone) with
      | none => .next s
      | some e => .next (s.ackChunk core n e)

/-- Where a sent chunk with a number stands: its core, slot, and itself. -/
def State.findChunk (s : State) (id : Nat) : Option (Nat × Nat × CopySlot × SentChunk) :=
  s.cores.findSome? (fun k => k.2.slots.findSome? (fun e =>
    (e.2.sent.find? (fun x => x.id == id)).map (fun x => (k.1, e.1, e.2, x))))

/-- The word of the non-coherent host window that an update names (R370). -/
def Held.hostWord (w : Held) : Option Nat :=
  match w.loc, w.op with
  | .host _ false, .write => none
  | .host a false, _ => some (a / 8)
  | _, _ => none

/-- Updates of a chunk in the non-coherent window: the 8-byte word that the first names is read, it and those that follow
it there are applied to what the word held, and the whole word is still to be written (R370). -/
def State.fetchWord (s : State) (ws : List Held) : List Held :=
  match ws.head?.bind Held.hostWord with
  | none => ws
  | some k =>
    let here := ws.takeWhile (fun w => w.hostWord == some k)
    let old := s.rawRead (.host (8 * k) false) 8
    let new := here.foldl (fun v w =>
      let o := w.loc.addr % 8
      patch v o w.n (w.op.apply w.n (bitf v (8 * o) (8 * w.n)) w.data)) old
    { Held.of (.host (8 * k) false) 8 .write new with ret := some old } :: ws.drop here.length

/-- A chunk reaches its port (R175, R232, R237): whole as one update, or its next element; while an update of another
stands between its read and its write there, it waits (R370). An update that would consume a poisoned word, and a write
that meets a bus error of the host, is not applied (R189, R414). -/
def State.applyChunk (s : State) (core n : Nat) (c : CopySlot) (e : SentChunk) : State :=
  let now := if e.whole then e.left else e.left.take 1
  let keep := fun (s : State) (left : List Held) => match s.slot? core n with
    | some c => s.setSlot core n { c with sent := c.sent.map (fun x =>
        if x.id == e.id then { x with left := left } else x) }
    | none => s
  let write := fun (s : State) (ws : List Held) => s.engineWrites c.uid (2 * e.id + 1) ws
  if now.any (fun w => w.ret.isSome) then
    let s := write s (now.take 1)
    keep s (if e.whole then s.fetchWord (e.left.drop 1) else e.left.drop 1)
  else if !s.holdsFit c.uid now || now.any (fun w => s.unitBusy s.nextSeq w.loc) then s
  else match now.find? (fun w => (w.op != .write && s.poisoned w.loc w.n) || s.busError w.loc w.n) with
    | some w =>
      keep (s.machineCheck c.uid core 0x42 (BitVec.ofNat 32 c.job.dst.space) w.loc.addr 0 0 w.loc.row)
        (e.left.drop now.length)
    | none =>
      if now.any (fun w => w.hostWord.isSome) then keep s (s.fetchWord now ++ e.left.drop now.length)
      else keep (write s now) (e.left.drop now.length)

/-! ## COPY and CWAIT (R235, R242) -/

/-- Read an iterator record as plain loads (R235). -/
def State.readRecord (s : State) (ag : Agent) (inSp : Bool) (a : Nat) : State × Got Nat :=
  if inSp then
    let l := s.place ag .sp a
    if !s.clearFor s.nextAcc (probe ag .sp a 128 []) then (s, .wait)
    else if s.poisoned l 128 then (s, .poison l)
    else (s, .ok (s.rawRead l 128))
  else s.readVa ag s.nextAcc false .copy a 128

/-- The traps of a record's address at issue (R235): ADDR_RANGE, then ALIGN. -/
def State.recordTrap (s : State) (ag : Agent) (inSp : Bool) (a : Nat) : Option Trap :=
  s.checkAddr ag (if inSp then .sp else .glob) a 128 64 .read (b2n inSp)

/-- The traps of a checked pair of records (R235, R252): DET_TIMING, DET_FORMAT, COPY_DESC. A bad field of a record comes before
a rule that compares the two (log entry 104). -/
def State.copyTrap (s : State) (ag : Agent) (j : CopyJob) (x y : Nat) : Option Trap :=
  let win := fun (r : IterRec) => r.space == 6 || r.space == 7
  let here := BitVec.ofNat 64 j.src.addr
  if s.det ag && win j.src then some ⟨0x0D, BitVec.ofNat 64 j.src.space, 0⟩
  else if s.det ag && win j.dst then some ⟨0x0D, BitVec.ofNat 64 j.dst.space, 0⟩
  else if s.det ag && j.f.rop == .add && (j.f.ety == .f32 || j.f.ety == .bf16) then some ⟨0x0F, 0, 0⟩
  else if j.src.bad false x then some ⟨0x15, 0, here⟩
  else if j.dst.bad true y then some ⟨0x15, 0, BitVec.ofNat 64 j.dst.addr⟩
  else if j.src.esize != j.dst.esize || j.src.rank != j.dst.rank ||
      (match CopyTy.size j.f.ety with
        | some n => n != j.src.esize
        | none => false) then some ⟨0x15, 0, here⟩
  else if j.elements * j.src.esize > 2 ^ 31 - 1 then some ⟨0x15, 0, here⟩
  else none

/-- COPY (R235, R236): both records are read and checked, the context parks, and the copy is accepted once a slot is
free. ADDR_RANGE and ALIGN of both record addresses come before PAGE_PROT of either, the source's first (log entry 85). -/
def execCopy (h : Hdr) (d a b : Reg) (f : CopyF) (s : State) : Out :=
  perLane (.copy h d a b f) (fun ag s =>
    let sa := if f.srs then (s.reg ag a).toNat else (s.reg64 ag a).toNat
    let da := if f.drs then (s.reg ag b).toNat else (s.reg64 ag b).toNat
    match s.recordTrap ag f.srs sa, s.recordTrap ag f.drs da with
    | some t, _ => .trap s t
    | none, some t => .trap s t
    | none, none =>
      match s.readRecord ag f.srs sa with
      | (s, .ok x) =>
        match s.readRecord ag f.drs da with
        | (s, .ok y) =>
          let j : CopyJob := ⟨IterRec.ofBytes sa f.srs x, IterRec.ofBytes da f.drs y, f, d⟩
          match s.copyTrap ag j x y with
          | some t => .trap s t
          | none => .stay ((s.parkOn ag (.copySlot j)).tryAccept ag)
        | (s, g) => g.stop ag s
      | (s, g) => g.stop ag s) s

/-- CWAIT (R242). -/
def execCwait (h : Hdr) (d a : Reg) (s : State) : Out :=
  perLane (.cwait h d a) (fun ag s =>
    match ag with
    | .thread .. => .done s
    | .ctx k c =>
      let n := (s.reg ag a).toNat % 16
      match s.slot? k n with
      | some x =>
        if x.ctx = c && x.owned then
          match x.stat with
          | .finished st => .done (((s.endCwait ag d h.w st).freeSlot k n).retryCopies k)
          | _ => .park s (.cwait n d h.w)
        else .done (s.endCwait ag d h.w 0x80)
      | none => .done (s.endCwait ag d h.w 0x80)) s

end Sys2Proof.Machine
end

