-- ==== Sys2Proof/Machine/System.lean ====
section
/-! DEFINITION. The system forms TRAP, TRAPRET, BKPT and TLBINV (R258, R262, R265), with the events that end a stop for the
debugger and the waits for acknowledgements of ICINV and TLBINV. LAUNCH stands with the launches. -/

namespace Sys2Proof.Machine

/-! ## TRAP and BKPT (R262) -/

/-- TRAP (R262). -/
def execTrap (h : Hdr) (a : Reg) (code : BitVec 12) (s : State) : Out :=
  perLane (.trap h a code) (fun ag s =>
    .trap s ⟨0x04, BitVec.ofNat 64 (code.toNat * 2 ^ 32 + (s.reg ag a).toNat), 0⟩) s

/-- Is a debug feature open (R411, R412)? -/
def State.feature (s : State) (bit : Nat) : Bool :=
  match Config.lifeCycle.val with
  | 0 | 1 => true
  | 2 => s.dbg.features.getLsbD bit
  | _ => false

/-- BKPT (R262): armed, the group stops at its next instruction boundary and is reported, and goes on after the BKPT;
otherwise BREAKPOINT. -/
def execBkpt (h : Hdr) (code : BitVec 12) (s : State) : Out :=
  perLane (.bkpt h code) (fun ag s =>
    match ag with
    | .thread u g _ =>
      if s.dbg.armed.contains (s.ctxNo u) && s.feature 1 then
        let d := s.dbg
        let s := { s with dbg := { d with reported := if d.reported.contains (u, g) then d.reported
          else d.reported ++ [(u, g)] } }
        .done (s.setGrp u g { s.grp u g with stopped := true })
      else .trap s ⟨0x05, BitVec.ofNat 64 code.toNat, 0⟩
    | .ctx .. => .trap s ⟨0x05, BitVec.ofNat 64 code.toNat, 0⟩) s

/-- BKPT_RESUMPTION (R262): the debugger resumes a stopped group. -/
def execBkptResumption (u g : Nat) (s : State) : Out :=
  let d := s.dbg
  if (s.grp u g).stopped then
    .next (({ s with dbg := { d with reported := d.reported.filter (fun r => r != (u, g)) } }).setGrp u g
      { s.grp u g with stopped := false })
  else .next s

/-! ## TRAPRET (R258) -/

/-- Where a handler's return goes on: at the trapped instruction (retry) or after it, or at a window trap's resume
point. -/
def TrapState.back (t : TrapState) (retry : Bool) : Word :=
  match t.saved with
  | some _ => t.resume
  | none => if retry then t.pc else nextPc t.pc

/-- The handler is left: TRAPLVL := 0 and nothing of the trap is kept but its registers. -/
def State.leaveHandler (s : State) (ag : Agent) : State :=
  s.setTrap ag { s.trapOf ag with lvl := false, saved := none }

/-- Perform the trapped access again with its saved operands (R258): its result is written before anything issues. -/
def State.repeatAcc (s : State) (ag : Agent) (racy : Bool) : State :=
  match (s.trapOf ag).saved with
  | none => s
  | some a =>
    let many := a.op.multi || s.translated ag a.space
    s.push { a with
      id := s.nextAcc, seq := s.nextSeq, ag := ag, xl := [], stage := if many then .issued else .ready, left := none,
      vals := [], retry := true, racy := racy,
      flags := match a.op with
        | .peek .. => a.flags
        | _ => none }

/-- The stores that an abandoned draw makes: 0 to its keys' slots in record and replay (R217). They are record stores that
the TRAPRET issues, so a late trap of theirs names it (log entry 35). -/
def State.abandoned (s : State) (ag : Agent) : List (Nat × Nat × Nat) :=
  match (s.trapOf ag).saved with
  | some a =>
    match a.op with
    | .draw _ keys ch k => if ch.mode = 0 then [] else keys.map (fun q => (k.slotAt ch.base.toNat ch.wb q.q, 4, 0))
    | _ => []
  | none => []

/-- The trapped instruction's destination receives TRAPVAL: one register, or two (R258). -/
def State.supply (s : State) (ag : Agent) : State :=
  let t := s.trapOf ag
  let dst := match t.saved with
    | some a => a.dst
    | none => t.dst
  match dst with
  | [r] => s.setReg ag r (lo32 t.val)
  | [r, q] => (s.setReg ag r (lo32 t.val)).setReg ag q (high32 t.val)
  | _ => s

/-- TRAPRET.retry (R258). -/
def execTrapretRetry (h : Hdr) (s : State) : Out :=
  perLane (.trapretRetry h) (fun ag s =>
    s.branch ag ((s.trapOf ag).back true).toNat (fun s => (s.repeatAcc ag false).leaveHandler ag)) s

/-- TRAPRET.skip (R258). -/
def execTrapretSkip (h : Hdr) (s : State) : Out :=
  perLane (.trapretSkip h) (fun ag s =>
    s.branch ag ((s.trapOf ag).back false).toNat (fun s => (s.storing ag h (s.abandoned ag)).leaveHandler ag)) s

/-- TRAPRET.supply (R258). -/
def execTrapretSupply (h : Hdr) (s : State) : Out :=
  perLane (.trapretSupply h) (fun ag s =>
    s.branch ag ((s.trapOf ag).back false).toNat
      (fun s => ((s.storing ag h (s.abandoned ag)).supply ag).leaveHandler ag)) s

/-- TRAPRET.accept (R258): as retry, with the access racy. -/
def execTrapretAccept (h : Hdr) (s : State) : Out :=
  perLane (.trapretAccept h) (fun ag s =>
    s.branch ag ((s.trapOf ag).back true).toNat (fun s => (s.repeatAcc ag true).leaveHandler ag)) s

/-! ## TLBINV (R265) -/

/-- Drop the translations of a context that `page` selects by virtual page, and the upper-level entries that `upper`
selects by level and index bits. -/
def State.tlbDrop (s : State) (ctx : Nat) (page : Nat → Bool) (upper : Nat → Nat → Bool) : State :=
  let keep := fun (e : TlbEnt) => !(e.ctx == ctx && page e.vpn)
  { s with
    cores := s.cores.map (fun k => (k.1, { k.2 with tlb := k.2.tlb.filter keep })),
    pairs := s.pairs.map (fun k => (k.1, { k.2 with tlb2 := k.2.tlb2.filter keep })),
    dies := s.dies.map (fun k => (k.1, { k.2 with
      upper := k.2.upper.filter (fun e => !(e.1 == ctx && upper (e.2.1 / 2 ^ 48) (e.2.1 % 2 ^ 48))) })) }

/-- The invalidation of a range [a, a + n) of a context. -/
def State.tlbDropRange (s : State) (ctx a n : Nat) : State :=
  s.tlbDrop ctx (fun p => decide (a / 4096 ≤ p) && decide (p ≤ (a + n - 1) / 4096))
    (fun l x => decide (a / 2 ^ (12 + 9 * (l - 1)) ≤ x) && decide (x ≤ (a + n - 1) / 2 ^ (12 + 9 * (l - 1))))

/-- Release at dev scope, once the agent's earlier accesses are past (R263, R265); until then the instruction runs
again. -/
def State.released (s : State) (ag : Agent) (f : State → LaneOut) : LaneOut :=
  if s.settled ag then f (s.releaseAction ag .dev) else .stay (s.setPark ag .again)

/-- TLBINV (R265). -/
def execTlbinv (h : Hdr) (rng : Option (Reg × Reg)) (s : State) : Out :=
  perLane (.tlbinv h rng) (fun ag s =>
    let ctx := s.ctxNo (s.uidOf ag)
    match rng with
    | none => s.released ag (fun s => .park (s.tlbDrop ctx (fun _ => true) (fun _ _ => true)) .tlbinv)
    | some (a, b) =>
      let x := (s.reg64 ag a).toNat
      let n := (s.reg ag b).toNat
      if n = 0 then .done s
      else if x + n > 2 ^ 57 then .trap s ⟨0x08, 0, BitVec.ofNat 64 x⟩
      else s.released ag (fun s => .park (s.tlbDropRange ctx x n) .tlbinv)) s

/-- TLBINV_ACKNOWLEDGEMENT (R265): every unit has acknowledged. -/
def execTlbinvAcknowledgement (ag : Agent) (s : State) : Out :=
  if s.traps ag && s.park ag == .tlbinv then .next (s.release ag) else .next s

/-- ICINV_ACKNOWLEDGEMENT (R182): the last core concerned has acknowledged. -/
def execIcinvAcknowledgement (ag : Agent) (s : State) : Out :=
  if s.traps ag && s.park ag == .icinv then .next (s.release ag) else .next s

end Sys2Proof.Machine
end

