-- ==== Sys2Proof/Machine/Front.lean ====
section
/-! DEFINITION. The launch front end (chapter 22): reading and checking kernel descriptors, launch records, draw blocks and
pass descriptors, the queues with their packets, counters and errors, and LAUNCH (R263). -/

namespace Sys2Proof.Machine

/-! ## Reads by the front end -/

/-- What a read by the front end comes to. -/
inductive FrontRead where
  | ok (x : Nat)
  | missing (va : Nat)
  | bad
  /-- it would consume a poisoned word, at a physical address (R189) -/
  | poison (pa : Nat)
deriving DecidableEq, Repr

/-- The pages that n bytes at va lie in: an address in each. -/
def pagesIn (va n : Nat) : List Nat := (touched 4096 va n).map (fun p => max va (4096 * p))

/-- Read n bytes of a context's memory at the home slices; `deny` is a page whose fault the host has refused. -/
def State.frontRead (s : State) (ctx : Nat) (deny : Option Nat) (va n : Nat) : FrontRead :=
  if va + n > 2 ^ 57 then .bad
  else
    (pagesIn va n).foldl (fun r p =>
      match r with
      | .missing _ | .bad => r
      | r =>
        match (walkFrom s [] ctx p 4 (s.ctx ctx).ptroot.toNat).1 with
        | .ok e => if e.r then r else .bad
        | .missing => if deny.any (fun d => d / 4096 == p / 4096) then .bad else .missing p
        | .bad _ => .bad) (match s.unitBad ctx va n with
          | some pa => .poison pa
          | none => .ok (s.unitRead ctx va n))

/-! ## Kernel descriptors (R58) -/

/-- A descriptor from its 256 bytes (Table 3-4). -/
def KDesc.ofBytes (addr x : Nat) : KDesc :=
  let f := fun (o n : Nat) => bitf x (8 * o) (8 * n)
  { addr := addr, entry := BitVec.ofNat 32 (f 0x08 4), handler := BitVec.ofNat 32 (f 0x0C 4), gwidth := f 0x10 1,
    nbar := f 0x11 1, nreg := f 0x12 2, scratch := f 0x14 4, spans := nbit (f 0x18 4) 0, detok := nbit (f 0x18 4) 1,
    escrow := nbit (f 0x18 4) 2, idem := nbit (f 0x18 4) 3, chmode := f 0x1C 1, nsites := f 0x1D 1, maxocc := f 0x1E 1,
    maxdraws := f 0x20 4, keysrc := f 0x24 1, keyval := BitVec.ofNat 64 (f 0x28 8), coefAddr := f 0x30 8,
    argBytes := f 0x38 4, sig := BitVec.ofNat 512 (f 0x40 64) }

/-- Do the 256 bytes lie within the limits of Table 3-4 (R58, R61)? -/
def KDesc.sound (x : Nat) : Bool :=
  let f := fun (o n : Nat) => bitf x (8 * o) (8 * n)
  let k := KDesc.ofBytes 0 x
  f 0 4 == 0x4353444B && f 4 2 == 1 && f 6 2 == 0 && slotOk k.entry && (k.handler == 0 || slotOk k.handler) &&
    [16, 32, 64].contains k.gwidth && decide (k.nbar ≤ 16) && decide (1 ≤ k.nreg) && decide (k.nreg ≤ 512) &&
    decide (k.scratch ≤ if k.spans then 786432 else 393216) && decide (f 0x18 4 < 16) && decide (k.chmode ≤ 2) &&
    (if k.chmode == 1 then decide (k.nsites ≤ 63) && decide (1 ≤ k.maxocc) && decide (k.maxocc ≤ 64)
      else k.nsites == 0 && k.maxocc == 0) &&
    f 0x1F 1 == 0 &&
    (if k.chmode == 2 then decide (1 ≤ k.maxdraws) && decide (k.maxdraws ≤ 65536) else k.maxdraws == 0) &&
    decide (k.keysrc ≤ 2) && f 0x25 3 == 0 &&
    (match k.keysrc with
      | 1 => k.keyval == 0
      | 2 => k.keyval.toNat % 8 == 0 && decide (k.keyval.toNat + 8 ≤ k.argBytes)
      | _ => true) &&
    decide (k.argBytes ≤ 65536) && f 0x3C 4 == 0 && f 0x80 128 == 0

/-- Is the BTM bit of a PC's slot set in a context's code (R58)? A line that the front end cannot read refuses nothing
(log entry 82). -/
def State.marked (s : State) (ctx : Nat) (p : Word) : Bool :=
  match s.frontRead ctx none ((s.ctx ctx).codebase.toNat + 64 * (p.toNat / 64)) 64 with
  | .ok x => lineBtm (Line.word (BitVec.ofNat 512 x)) (slotOf p)
  | _ => true

/-- The first poisoned piece of what the front end reads of a kernel at an address: its descriptor, and the lines of ENTRY
and HANDLER (R58, R189). -/
def State.descBad (s : State) (ctx a : Nat) : Option Nat :=
  let line := fun (p : Word) => match s.frontRead ctx none ((s.ctx ctx).codebase.toNat + 64 * (p.toNat / 64)) 64 with
    | .poison pa => some pa
    | _ => none
  match s.frontRead ctx none a 256 with
  | .poison pa => some pa
  | .ok x =>
    let k := KDesc.ofBytes a x
    if KDesc.sound x then (line k.entry).or (if k.handler == 0 then none else line k.handler) else none
  | _ => none

/-- The loaded kernel descriptor at an address, if there is one: the spec names no mark of a loaded descriptor, so any 256
readable bytes that the loader would accept there are one (log entry 82). -/
def State.loadedDesc (s : State) (ctx a : Nat) : Option KDesc :=
  match s.frontRead ctx none a 256 with
  | .ok x =>
    let k := KDesc.ofBytes a x
    if KDesc.sound x && s.marked ctx k.entry && (k.handler == 0 || s.marked ctx k.handler) then some k else none
  | _ => none

/-! ## Launch records, draw blocks and pass descriptors (R381, R382, R348) -/

/-- A launch record from its 64 bytes (Table 22-3). -/
def LaunchRec.ofBytes (x : Nat) : LaunchRec :=
  let f := fun (o n : Nat) => bitf x (8 * o) (8 * n)
  let b := fun (i : Nat) => nbit (f 0x35 1) i
  { kdesc := f 0x00 8, args := f 0x08 8, seed := BitVec.ofNat 64 (f 0x10 8), pbase := f 0x18 8, tsarr := f 0x20 8,
    mutarr := f 0x28 8, grid := f 0x30 4, teamsz := f 0x34 1, det := b 0, escrow := b 1, idem := b 2, serial := b 3,
    replay := b 4, sysrel := b 5, draw := b 6, passend := b 7, prio := f 0x36 1, qclass := f 0x37 1, ctr := f 0x38 2,
    privb := f 0x3C 4 }

/-- Does a launch record keep its own limits (Table 22-3)? -/
def LaunchRec.sound (r : LaunchRec) (x maxPrio : Nat) : Bool :=
  r.pbase % 8 == 0 && (r.replay || r.mutarr == 0) && decide (1 ≤ r.grid) && decide (r.grid ≤ 16777216) &&
    decide (1 ≤ r.teamsz) && decide (r.teamsz ≤ 32) && decide (r.prio ≤ 3) && decide (r.prio ≤ maxPrio) &&
    decide (r.qclass ≤ 15) && decide (r.ctr ≤ 4095) && bitf x (8 * 0x3A) 16 == 0 && r.privb % 8 == 0 &&
    decide (r.privb ≤ 1048576)

/-- Register rows a group of a kernel leases (R385). -/
def KDesc.rows (k : KDesc) : Nat := ceilDiv (k.gwidth * k.nreg) 1024

/-- Scratchpad rows a team of a kernel leases on each of its cores (R385). -/
def KDesc.scrRows (k : KDesc) : Nat := ceilDiv k.half 4096

/-- Can a team of a kernel be placed at all (R384)? -/
def KDesc.shapeOk (k : KDesc) (teamsz : Nat) : Bool :=
  decide (teamsz * k.gwidth * k.nreg ≤ if k.spans then 262144 else 131072) && decide (k.rows ≤ 32) &&
    decide (k.scrRows ≤ 96) && decide (teamsz ≤ if k.spans then 128 else 64)

/-- Does a kernel allow what a record asks (R24, R25, R26, R216)? -/
def KDesc.allows (k : KDesc) (r : LaunchRec) : Bool :=
  (!r.det || k.detok) && (!r.escrow || k.escrow) && (!r.idem || k.idem) && (!r.replay || k.chmode != 0)

/-- A pass descriptor from its 64 bytes (Table 18-7). -/
def PassDesc.ofBytes (x : Nat) : PassDesc :=
  let f := fun (o n : Nat) => bitf x (8 * o) (8 * n)
  let p := f 0x14 1
  { cbase := f 0 8, zbase := f 8 8, width := f 0x10 2, height := f 0x12 2, ztest := nbit p 0, zwrite := nbit p 1,
    cull := bitf p 2 2 }

/-- Does a pass descriptor keep Table 18-7? -/
def PassDesc.sound (p : PassDesc) (x : Nat) : Bool :=
  decide (1 ≤ p.width) && decide (p.width ≤ 16384) && decide (1 ≤ p.height) && decide (p.height ≤ 16384) &&
    p.cull != 3 && bitf x (8 * 0x14 + 4) 4 == 0 && bitf x (8 * 0x15) (8 * 43) == 0

/-- What the check of a launch record comes to: a launch, a reason of Table 12-5, or a page to wait for; what has been
read is kept (R381, R382). -/
inductive Checked where
  | ok (k : Kid) (r : Reads)
  | refuse (reason : Nat)
  | missing (va : Nat) (r : Reads)
  /-- a read would consume a poisoned word (R189) -/
  | poison (pa : Nat)
deriving DecidableEq, Repr

/-- Read 64 bytes of which the front end may have kept its copy (R381, R382). -/
def State.readKept (s : State) (ctx : Nat) (deny : Option Nat) (va : Nat) : Option Nat → FrontRead
  | some x => .ok x
  | none => s.frontRead ctx deny va 64

/-- The lowest-numbered reason that applies, of the kernels, flags and limits found (R384). -/
def judge (r : LaunchRec) (ks : List (Option KDesc)) (limits : Bool) (child : Bool) : Option Nat :=
  if ks.any (fun k => k.isNone) then some 1
  else if ks.any (fun k => match k with
    | some k => !k.allows r
    | none => false) then some 2
  else if !limits then some 3
  else if child && (r.serial || r.sysrel) then some 4
  else none

/-- Check a launch record with what it names (R380 to R384). -/
def State.checkLaunch (s : State) (ctx : Nat) (deny : Option Nat) (kept : Reads) (child : Bool) (maxPrio : Nat) :
    Checked :=
  let x := kept.rec'
  let r := LaunchRec.ofBytes x
  if r.draw then
    match s.readKept ctx deny r.kdesc kept.block with
    | .missing va => .missing va kept
    | .bad => .refuse 5
    | .poison pa => .poison pa
    | .ok b =>
      let kept := { kept with block := some b }
      match s.readKept ctx deny (bitf b 192 64) kept.pass with
      | .missing va => .missing va kept
      | .bad => .refuse 5
      | .poison pa => .poison pa
      | .ok y =>
        let p := PassDesc.ofBytes y
        let t := s.loadedDesc ctx (bitf b 0 64)
        let m := s.loadedDesc ctx (bitf b 64 64)
        let q := s.loadedDesc ctx (bitf b 128 64)
        let shapes := (match t with
          | some k => k.shapeOk r.teamsz
          | none => true) && (match m with
          | some k => k.shapeOk 1
          | none => true) && (match q with
          | some k => k.shapeOk 1 && decide (9 ≤ k.nreg)
          | none => true)
        let limits := r.sound x maxPrio && r.kdesc % 64 == 0 && bitf b 192 64 % 64 == 0 && bitf b 320 192 == 0 &&
          p.sound y && shapes
        match [bitf b 0 64, bitf b 64 64, bitf b 128 64].findSome? (s.descBad ctx) with
        | some pa => .poison pa
        | none =>
        match judge r [t, m, q] limits child, t, m, q with
        | none, some t, some m, some q => .ok ⟨r, t, some ⟨m, q, p, bitf b 256 64⟩⟩ { kept with pass := some y }
        | some n, _, _, _ => .refuse n
        | _, _, _, _ => .refuse 1
  else
    let k := s.loadedDesc ctx r.kdesc
    let shape := match k with
      | some k => k.shapeOk r.teamsz
      | none => true
    match s.descBad ctx r.kdesc with
    | some pa => .poison pa
    | none =>
    match judge r [k] (r.sound x maxPrio && shape) child, k with
    | none, some k => .ok ⟨r, k, none⟩ kept
    | some n, _ => .refuse n
    | _, none => .refuse 1

/-! ## Accepting a launch (R383, R391) -/

/-- The first poisoned piece of the timestamps that a launch reads when it is created (R189, R391). -/
def State.stampBad (s : State) (ctx : Nat) (k : Kid) : Option Nat :=
  if k.lr.det && k.lr.tsarr != 0 then s.unitBad ctx k.lr.tsarr (8 * k.lr.grid) else none

/-- Create a launch: its timestamps are read now (R391). -/
def State.createLaunch (s : State) (q : Nat) (parent : Option Nat) (ctx : Nat) (priv : Bool) (launchid : Word)
    (k : Kid) : State :=
  let keys := if k.lr.det && k.lr.tsarr != 0 then
      (List.range k.lr.grid).map (fun i => BitVec.ofNat 64 (s.unitRead ctx (k.lr.tsarr + 8 * i) 8))
    else []
  let l : Launch :=
    { launchid := launchid, queue := q, parent := parent, ctx := ctx, priv := priv, lr := k.lr, desc := k.desc,
      draw := k.draw, next := 0, redo := [], faults := [], kids := 0, keys := keys, committed := [], ended := false,
      errored := false, complete := false, meshTotal := 0, passed := [], prims := [], flushed := false, counted := false }
  { s.setLaunch s.nextLaunch l with nextLaunch := s.nextLaunch + 1 }

/-- The LAUNCHID of a launch's next child (R383). -/
def Launch.childId (l : Launch) : Word :=
  BitVec.ofNat 32 (2 ^ 31 + (l.launchid.toNat * 2 ^ 12 + l.kids) % 2 ^ 31)

/-- Submit a child of a launch (R263, R383): the state and its LAUNCHID. -/
def State.submitKid (s : State) (l : Nat) (k : Kid) : State × Word :=
  let p := s.launch l
  let s := s.setLaunch l { p with kids := p.kids + 1 }
  (s.createLaunch p.queue (some l) p.ctx p.priv p.childId k, p.childId)

/-- Is a child launch pending: some team of it has not been admitted (R263)? -/
def Launch.pending (l : Launch) : Bool := l.parent.isSome && !l.ended && (decide (l.next < l.lr.grid) || !l.redo.isEmpty)

/-- The child launches pending in the device (R263). -/
def State.pendingKids (s : State) : Nat := (s.launches.filter (fun l => l.2.pending)).length

/-- A lane parked on LAUNCH has its child accepted while fewer than 1,024 are pending (R263). -/
def State.tryLaunch (s : State) (ag : Agent) : State :=
  match s.park ag with
  | .launch k d =>
    if s.pendingKids ≥ 1024 then s
    else match s.stampBad (s.launchOf ag).ctx k with
    | some pa => s.machineCheck (s.uidOf ag) (s.coreOf ag) 0x42 0 pa (s.pc ag) (Agent.lane ag) none
    | none =>
      let (s, id) := s.submitKid (s.team (s.uidOf ag)).launch k
      (s.setReg ag d id).release ag
  | _ => s

/-- Every lane parked on LAUNCH goes on as far as it can (R263). -/
def State.retryLaunches (s : State) : State :=
  s.teams.foldl (fun s t => if t.2.stat != .running then s
    else t.2.groups.foldl (fun s g => g.2.threads.foldl (fun s l => s.tryLaunch (.thread t.1 g.1 l.1)) s) s) s

/-- Set what the front end keeps of a thread's LAUNCH (R381). -/
def State.setReads (s : State) (ag : Agent) (r : Option Reads) : State :=
  match ag with
  | .thread u g l => s.setThr u g l { s.thr u g l with reads := r }
  | .ctx .. => s

/-- What the front end has kept of a LAUNCH of an agent that goes on. -/
def State.keptReads (s : State) (ag : Agent) : Option Reads :=
  match ag with
  | .thread u g l => if (s.park ag).goesOn then (s.thr u g l).reads else none
  | .ctx .. => none

/-- The page whose fault the host has refused to an agent. -/
def Park.denial : Park → Option Nat
  | .refused va _ => some va
  | _ => none

/-- A launch record has been read (R263, steps 3 and 4): its check, a wait for what it names, the trap of a refusal, or the
child's acceptance; under DET the child waits for its team's commit. -/
def State.launchRead (s : State) (ag : Agent) (d : Reg) (x : Nat) (r : Reads) : LaneOut :=
  let u := s.uidOf ag
  let l := s.launchOf ag
  let deny := (s.park ag).denial
  let s := s.setReads ag none
  match s.checkLaunch l.ctx deny r true l.lr.prio with
  | .refuse n => .trap s ⟨0x1C, BitVec.ofNat 64 n, BitVec.ofNat 64 x⟩
  | .missing va r =>
    let (s, n) := s.postFault (s.coreOf ag) l.ctx va .load
    .stay ((s.setReads ag (some r)).setPark ag (.fault (dieOf (s.coreOf ag)) n true))
  | .poison pa =>
    .stay (s.machineCheck u (s.coreOf ag) 0x42 0 pa (s.pc ag) (Agent.lane (s.cur.agents.headD ag)) none)
  | .ok k _ =>
    let s := s.commitEarly u
    if l.lr.det then .done ((s.setTeam u { s.team u with kids := (s.team u).kids ++ [k] }).setReg ag d 0xFFFFFFFF)
    else .stay ((s.parkOn ag (.launch k d)).tryLaunch ag)

/-- LAUNCH (R263): the release, the record read and checked, and the child accepted. -/
def execLaunch (h : Hdr) (d a : Reg) (s : State) : Out :=
  perLane (.launch h d a) (fun ag s =>
    let x := (s.reg64 ag a).toNat
    match s.keptReads ag with
    | some r => s.launchRead ag d x r
    | none =>
      let s := s.setReads ag none
      match s.checkAddr ag .glob x 64 64 .read 0 with
      | some t => .trap s t
      | none =>
        s.released ag (fun s =>
          match s.readVa ag s.nextAcc false .load x 64 with
          | (s, .ok w) => s.launchRead ag d x ⟨w, none, none⟩
          | (s, g) => g.stop ag s)) s

/-! ## Queues (R378 to R380) -/

/-- Does a queue parse now (R378, R424)? Clearing EN or asking for P2 stops it at a packet boundary, so a LAUNCH packet under
way goes on. -/
def State.parses (s : State) (q : Nat) : Bool :=
  let k := s.queue q
  ((k.en && decide (s.mgmt.pwrReq.toNat < 2)) || k.pkt.isSome) && !k.halt &&
    k.rd.toNat % k.size.toNat != k.wr.toNat % k.size.toNat && s.mgmt.boot == 1 && !s.dbg.frozen

/-- QRD, modulo QSIZE (R378). -/
def Queue.wrapped (k : Queue) : Queue := { k with rd := BitVec.ofNat 32 (k.rd.toNat % k.size.toNat) }

/-- The next packet has been parsed (R378). -/
def Queue.step (k : Queue) : Queue :=
  { k with
    rd := BitVec.ofNat 32 ((k.rd.toNat + 1) % k.size.toNat), pkt := none, reads := none, wait := none, deny := none }

/-- Is a packet malformed (R379)? -/
def packetBad (x : Nat) : Bool :=
  let f := fun (o n : Nat) => bitf x (8 * o) (8 * n)
  match f 0 1 with
  | 1 => f 1 7 != 0 || f 0x10 48 != 0 || f 8 8 % 64 != 0
  | 2 =>
    let n := f 1 1
    n < 1 || n > 12 || f 2 2 != 0 || bitf x (32 + 32 * n) (512 - (32 + 32 * n)) != 0
  | 3 => f 1 3 != 0 || f 4 4 > 4095 || f 0xC 52 != 0
  | _ => true

/-- A malformed packet: the error record of kind 6, HALT, and QRD stays (R379). -/
def State.malformed (s : State) (q : Nat) : State :=
  (s.setQueue q { s.queue q with deny := none }).queueError q 0 ⟨6, 0, 0, 0, 0, 0, 0, 0⟩

/-- The fault that the front end posts (R270): it is no core's. -/
def State.frontFault (s : State) (q va : Nat) : State :=
  let k := s.queue q
  let (s, n) := s.postFaultOn 0 65535 k.ctx.toNat va .load
  s.setQueue q { k with wait := some (0, n) }

/-- Take the packet under way, or read the one at QRD; a missing page is a fault the parser waits on, and a packet that
cannot be read is no packet of Table 22-2; a poisoned word is a check charged to no team (R189). A FENCE packet that holds the parser lets it take none (R380). -/
def State.packet (s : State) (q : Nat) (f : Nat → State) : State :=
  let k := s.queue q
  if k.wait.isSome || !k.hold.isEmpty then s
  else match s.readKept k.ctx.toNat k.deny (k.base.toNat + 64 * (k.rd.toNat % k.size.toNat)) k.pkt with
    | .ok x => if packetBad x then s.malformed q else f x
    | .missing va => s.frontFault q va
    | .poison pa => s.unitCheck (homeDie pa) 0 pa
    | .bad => s.malformed q

/-- Add to a counter of a queue as ATOM.add (R380, R387). -/
def State.addCounter (s : State) (q idx : Nat) (x : Nat) : State :=
  let k := s.queue q
  s.unitAdd k.ctx.toNat (k.ctrBase.toNat + 4 * idx) x

/-- The host launches of a queue that have not completed, in parse order. -/
def State.openLaunches (s : State) (q : Nat) : List Nat :=
  (s.launches.filter (fun l => l.2.queue == q && l.2.parent.isNone && !l.2.complete)).map (fun l => l.1)

/-- The launch parsed last in a queue has completed (R380). -/
def State.lastDone (s : State) (q : Nat) : Bool :=
  let mine := s.launches.filter (fun l => l.2.queue == q && l.2.parent.isNone)
  match mine.foldl (fun (b : Option (Nat × Launch)) l => match b with
    | some m => if m.1 < l.1 then some l else b
    | none => some l) none with
  | some l => l.2.complete
  | none => true

/-- A host launch is refused (R384, R388): an error record, and its counter where the record gives one. -/
def State.refuseLaunch (s : State) (q reason : Nat) (ctr : Option Nat) : State :=
  let k := s.queue q
  let id := BitVec.ofNat 32 (q * 2 ^ 24 + k.count % 2 ^ 24)
  let s := s.queueError q id ⟨1, reason, 0, 0, 0, 0, 0, 0⟩
  let k := s.queue q
  let s := s.setQueue q { k.step with count := k.count + 1 }
  match ctr with
  | some c => if c ≤ 4095 then s.addCounter q c 1 else s
  | none => s

/-- A LAUNCH packet (R380, R383): while it holds the parser, the packet and what has been read of its launch are kept. -/
def State.parseLaunch (s : State) (q pkt : Nat) : State :=
  let k := s.queue q
  let ctx := k.ctx.toNat
  let hold := fun (r : Option Reads) => s.setQueue q { k with pkt := some pkt, reads := r, deny := none }
  match s.readKept ctx k.deny (bitf pkt 64 64) (k.reads.map (fun r => r.rec')) with
  | .missing va => (hold none).frontFault q va
  | .poison pa => s.unitCheck (homeDie pa) 0 pa
  | .bad => s.refuseLaunch q 5 none
  | .ok x =>
    let r := LaunchRec.ofBytes x
    match s.checkLaunch ctx k.deny (k.reads.getD ⟨x, none, none⟩) false (k.prio.toNat % 4) with
    | .missing va kept => (hold (some kept)).frontFault q va
    | .poison pa => s.unitCheck (homeDie pa) 0 pa
    | .refuse n => s.refuseLaunch q n (some r.ctr)
    | .ok kid kept =>
      if r.serial && !s.lastDone q then hold (some kept)
      else match s.stampBad ctx kid with
      | some pa => s.unitCheck (homeDie pa) 0 pa
      | none =>
        let id := BitVec.ofNat 32 (q * 2 ^ 24 + k.count % 2 ^ 24)
        (s.setQueue q { k.step with count := k.count + 1 }).createLaunch q none ctx k.priv id kid

/-- LAUNCH_PACKET (R380). -/
def execLaunchPacket (q : Nat) (s : State) : Out :=
  if q ≥ 64 then .fault .absentPart
  else if !s.parses q then .next s
  else .next (s.packet q (fun x => if x % 256 = 1 then s.parseLaunch q x else s))

/-- Is every entry of a FENCE packet satisfied (R380)? -/
def State.fenceMet (s : State) (q : Nat) (es : List (Nat × Nat)) : Bool :=
  let k := s.queue q
  es.all (fun e => decide ((s.unitRead k.ctx.toNat (k.ctrBase.toNat + 4 * e.1) 4 % 2 ^ 20 + 2 ^ 20 - e.2) % 2 ^ 20 < 2 ^ 19))

/-- The first poisoned counter that a FENCE packet reads (R189). -/
def State.fenceBad (s : State) (q : Nat) (es : List (Nat × Nat)) : Option Nat :=
  es.findSome? (fun e => s.unitBad (s.queue q).ctx.toNat ((s.queue q).ctrBase.toNat + 4 * e.1) 4)

/-- The entries of a FENCE packet (Table 22-2). -/
def fenceEntries (x : Nat) : List (Nat × Nat) :=
  (List.range (bitf x 8 8)).map (fun j => (bitf x (52 + 32 * j) 12, bitf x (32 + 32 * j) 20))

/-- FENCE_PACKET (R380). -/
def execFencePacket (q : Nat) (s : State) : Out :=
  if q ≥ 64 then .fault .absentPart
  else if !s.parses q then .next s
  else .next (s.packet q (fun x =>
    if x % 256 = 2 then
      let es := fenceEntries x
      match s.fenceBad q es with
      | some pa => s.unitCheck (homeDie pa) 0 pa
      | none => if s.fenceMet q es then s.setQueue q (s.queue q).step else s.setQueue q { s.queue q with hold := es }
    else s))

/-- FENCE_PACKET_RELEASE (R380): a held FENCE packet is satisfied. -/
def execFencePacketRelease (q : Nat) (s : State) : Out :=
  if q ≥ 64 then .fault .absentPart
  else
    let k := s.queue q
    if !s.parses q || k.hold.isEmpty then .next s
    else match s.fenceBad q k.hold with
    | some pa => .next (s.unitCheck (homeDie pa) 0 pa)
    | none => .next (if s.fenceMet q k.hold then s.setQueue q { k.step with hold := [] } else s)

/-- SIGNAL_PACKET (R380). -/
def execSignalPacket (q : Nat) (s : State) : Out :=
  if q ≥ 64 then .fault .absentPart
  else if !s.parses q then .next s
  else .next (s.packet q (fun x =>
    if x % 256 = 3 then
      let k := s.queue q
      s.setQueue q { k.step with
        signals := k.signals ++ [⟨bitf x 32 32, BitVec.ofNat 32 (bitf x 64 32), s.openLaunches q⟩] }
    else s))

/-- SIGNAL_APPLY (R380): the earliest SIGNAL, once the launches parsed before it have completed. -/
def execSignalApply (q : Nat) (s : State) : Out :=
  if q ≥ 64 then .fault .absentPart
  else
    let k := s.queue q
    match k.signals with
    | [] => .next s
    | g :: rest =>
      if g.after.all (fun l => (s.launch l).complete) then
        .next ((s.setQueue q { k with signals := rest }).addCounter q g.idx g.add.toNat)
      else .next s

/-- QUEUE_DOORBELL (R378). -/
def execQueueDoorbell (q : Nat) (wr : Word) (s : State) : Out :=
  if q ≥ 64 then .fault .absentPart else .next (s.setQueue q { s.queue q with wr := wr })

/-- EN is set: parsing goes on at QRD, and the launch count restarts (R378). -/
def Queue.enable (k : Queue) : Queue := if k.en then k else { k with en := true, count := 0 }

/-- EN is cleared: a FENCE packet that holds the parser is abandoned, and QRD stays at it (R378). -/
def Queue.disable (k : Queue) : Queue := { k with en := false, hold := [] }

/-- QUEUE_ENABLE (R378). -/
def execQueueEnable (q : Nat) (s : State) : Out :=
  if q ≥ 64 then .fault .absentPart else .next (s.setQueue q (s.queue q).enable)

/-- QUEUE_DISABLE (R378). -/
def execQueueDisable (q : Nat) (s : State) : Out :=
  if q ≥ 64 then .fault .absentPart else .next (s.setQueue q (s.queue q).disable)

/-- HALT_CLEAR (R388). -/
def execHaltClear (q : Nat) (s : State) : Out :=
  if q ≥ 64 then .fault .absentPart else .next (s.setQueue q { s.queue q with halt := false })

end Sys2Proof.Machine
end

