-- ==== Sys2Proof/Machine/Admit.lean ====
section
/-! DEFINITION. The partitioning controller (R63, R340, R344, R346, R384 to R387): leases, admission of teams, mesh and pixel
groups, the resident walker, primitive setup, the end of bursar contexts, and the completion of launches. -/

namespace Sys2Proof.Machine

/-! ## What a team still holds (R87, R229, R385) -/

/-- The agents of a group's lanes. -/
def laneAgents (u g : Nat) (k : Group) : List Agent := k.threads.map (fun e => Agent.thread u g e.1)

/-- Has a group retired: every thread has exited and nothing of theirs is on its way (R87)? -/
def State.groupDone (s : State) (u g : Nat) : Bool :=
  let k := s.grp u g
  k.unexited.isEmpty && s.accs.all (fun a => match a.ag with
    | .thread v h _ => !(v == u && h == g)
    | .ctx .. => true) &&
  s.tiles.all (fun t => t.ags.all (fun ag => match ag with
    | .thread v h _ => !(v == u && h == g)
    | .ctx .. => true))

/-- Is nothing of a team's bursar work left: every context bound to it has ended and every copy has finished (R229)? -/
def State.bursarDone (s : State) (u : Nat) : Bool :=
  (s.team u).cores.all (fun k =>
    (List.range 4).all (fun c => !((s.bctx k c).uid == u && (s.bctx k c).run == .ready)) &&
    (s.core k).slots.all (fun e => e.2.uid != u || (match e.2.stat with
      | .finished _ => true
      | _ => false))) &&
  s.accs.all (fun a => match a.ag with
    | .ctx .. => s.uidOf a.ag != u
    | .thread .. => true)

/-- Has a team been released: every group has retired and its bursar work is done (R229)? A killed team is released once
its launch has ended and what it had issued is done (R259). -/
def State.released? (s : State) (u : Nat) : Bool :=
  let t := s.team u
  let quiet := s.bursarDone u && s.tiles.all (fun x => x.uid != u)
  match t.stat with
  | .running => quiet && (akeys t.groups).all (fun g => s.groupDone u g)
  | .killed .. => (s.launch t.launch).ended && quiet && s.accs.all (fun a => !s.ofTeam u a.ag)
  | .halting | .saved | .aborted => false
  | .finished => true

/-- Does a team hold leases: it is resident and not released? -/
def State.leases (s : State) (u : Nat) : Bool :=
  (s.team u).stat != .saved && (s.team u).stat != .aborted && !s.released? u

/-- Is a team resident on a core? -/
def State.resident (s : State) (core : Nat) : Bool :=
  s.teams.any (fun t => t.2.cores.contains core && s.leases t.1)

/-- The groups of a team that hold rows and a slot: those not retired, and the last to exit while its team is not released
(R229, R385). -/
def State.leasedOf (s : State) (u : Nat) : List Group :=
  let t := s.team u
  if !s.leases u then []
  else (t.groups.filter (fun g => !s.groupDone u g.1 || (t.allExited && g.1 == t.last))).map (fun g => g.2)

/-- The groups that hold leases in a partition of a core. -/
def State.leasedIn (s : State) (core part : Nat) : List Group :=
  s.teams.flatMap (fun t => (s.leasedOf t.1).filter (fun g => g.core == core && g.part == part))

/-! ## Placing a team (R20, R384, R385) -/

/-- Where a group is placed. -/
structure Spot' where
  core : Nat
  part : Nat
  slot : Nat
deriving DecidableEq, Repr

/-- The slot that the resident walker of a core holds in a partition (R340). -/
def Core.walkerIn (c : Core) (part : Nat) : List Nat :=
  match c.walker with
  | some (_, p, n) => if p = part then [n] else []
  | none => []

/-- A slot for one more group of a width and row count in a partition, beside the groups placed so far and the resident
walker with its 64 lanes (R340, R385). -/
def State.roomIn (s : State) (core part width rows : Nat) (placed : List Spot') : Option Nat :=
  let here := s.leasedIn core part
  let mine := placed.filter (fun p => p.core == core && p.part == part)
  let walker := (s.core core).walkerIn part
  let used := here.map (fun g => g.slot) ++ mine.map (fun p => p.slot) ++ walker
  let rs := (here.map (fun g => g.rows)).sum + rows * mine.length
  let ts := (here.map (fun g => g.width)).sum + width * mine.length + 64 * walker.length
  if rs + rows > 32 || ts + width > 512 then none else (List.range 16).find? (fun n => !used.contains n)

/-- A place for one more group on a list of cores: the spec does not say which partition and slot a group takes when several
are free, and the model takes the first, by core in the order of the list, then partition, then slot (log entry 81). -/
def State.placeOne (s : State) (cores : List Nat) (width rows : Nat) (placed : List Spot') : Option Spot' :=
  (cores.flatMap (fun c => (List.range 4).map (fun p => (c, p)))).findSome? (fun cp =>
    (s.roomIn cp.1 cp.2 width rows placed).map (fun n => ⟨cp.1, cp.2, n⟩))

/-- Place groups one after another, each on the cores named for it. -/
def State.placeAll (s : State) (width rows : Nat) : List (List Nat) → List Spot' → Option (List Spot')
  | [], placed => some placed
  | cs :: t, placed =>
    match s.placeOne cs width rows placed with
    | some p => s.placeAll width rows t (placed ++ [p])
    | none => none

/-- The scratchpad rows leased on a core (R385). -/
def State.scrLeased (s : State) (core : Nat) : Nat :=
  ((s.teams.filter (fun t => t.2.cores.contains core && s.leases t.1)).map (fun t => t.2.desc.scrRows)).sum

/-- The limits of a quota class: slots, register rows, scratchpad rows, in its first three words (R386). -/
def State.quota (s : State) (c i : Nat) : Nat := (aget 0 (aget [] s.quotas c) i).toNat

/-- What the launches of a class hold on a core: slots, register rows, scratchpad rows (R386); the walker is charged to the
launch whose ray it takes first (R340). -/
def State.classUse (s : State) (c core : Nat) : Nat × Nat × Nat :=
  let ts := s.teams.filter (fun t => t.2.cores.contains core && (s.launch t.2.launch).lr.qclass == c)
  let gs := ts.flatMap (fun t => (s.leasedOf t.1).filter (fun g => g.core == core))
  let w := match (s.core core).walker with
    | some (l, _, _) => b2n ((s.launch l).lr.qclass == c)
    | none => 0
  (gs.length + w, (gs.map (fun g => g.rows)).sum,
    ((ts.filter (fun t => s.leases t.1)).map (fun t => t.2.desc.scrRows)).sum)

/-- Does a core hold, or may it load, a coefficient image (R63)? -/
def State.coefOk (s : State) (core : Nat) (img : BitVec 65536) : Bool := !s.resident core || (s.core core).coef == img

/-- The coefficient image at a kernel's COEFADDR. -/
def State.image (s : State) (ctx : Nat) (d : KDesc) : BitVec 65536 := BitVec.ofNat 65536 (s.unitRead ctx d.coefAddr 8192)

/-- Is the undo area of a core present (R416)? -/
def State.hasUndo (s : State) (core : Nat) : Bool := nbit (aget 16 s.mgmt.vrsv (core / 4)) (core % 4)

/-- The task groups of a launch that hold a slot on a core. -/
def State.tasksOn (s : State) (l core : Nat) : Nat :=
  ((s.teams.filter (fun t => t.2.launch == l && t.2.stage == .task)).flatMap (fun t =>
    (s.leasedOf t.1).filter (fun g => g.core == core))).length

/-- The cores of a team of a kernel whose first core is given. -/
def KDesc.coresAt (d : KDesc) (core : Nat) : List Nat := if d.spans then [core, otherCore core] else [core]

/-- The places of a team's groups on a core, or on its pair when it spans, if the team fits there under the lease table,
the quotas of its class, R63, R344 and R416. `sides` names each group's core. -/
def State.fits (s : State) (l : Nat) (d : KDesc) (stage : Stage) (core : Nat) (sides : List (List Nat))
    (img : BitVec 65536) : Option (List Spot') :=
  let k := s.launch l
  let rows := d.rows
  match s.placeAll d.gwidth rows sides [] with
  | none => none
  | some ps =>
    let within := (d.coresAt core).all (fun c =>
      let u := s.classUse k.lr.qclass c
      let n := (ps.filter (fun p => p.core == c)).length
      let q := s.quota k.lr.qclass
      decide (u.1 + n ≤ q 0) && decide (u.2.1 + n * rows ≤ q 1) && decide (u.2.2 + d.scrRows ≤ q 2) &&
        decide (s.scrLeased c + d.scrRows ≤ 96) && s.coefOk c img && (!k.lr.escrow || s.hasUndo c) &&
        (stage != .task || decide (s.tasksOn l c + n ≤ 48)))
    if within then some ps else none

/-! ## Starting a team (R190, R216, R243, R369, R397) -/

/-- A thread at start. -/
def threadStart (entry : Word) (boot : Bool) : Thread :=
  { exited := false, pc := entry, meet := 0xFFFFFFFF, cc := .zero, regs := [], park := .run, starve := 0, trap := .zero,
    ch := .zero, conv := 0, rels := 0, out := none, cover := 0, px := (0, 0), boot := boot, reads := none }

/-- The SRKEY that a group of a kernel has when it starts (Table 3-4); with KEYSRC 2 it reads its key first (R149). -/
def Launch.srkeyOf (k : Launch) (d : KDesc) : DWord :=
  match d.keysrc with
  | 0 => d.keyval
  | 1 => k.lr.seed
  | _ => 0

/-- A group of a launch at start: m0 holds the lanes created (R80). -/
def groupStart (k : Launch) (d : KDesc) (p : Spot') (lanes : List Nat) (t : Thread) : Group :=
  { core := p.core, part := p.part, slot := p.slot, rows := d.rows, width := d.gwidth,
    masks := [(0, lanes.foldl (fun m l => m + 2 ^ l) 0)], threads := lanes.map (fun l => (l, t)), srkey := k.srkeyOf d,
    unkeyed := d.keysrc == 2, eligible := none, gapUntil := 0, yielded := none, stopped := false, rels := 0, verts := [],
    prims := [], quad := none }

/-- A team at start, at its place among its launch's commits. -/
def teamStart (l teamid : Nat) (stage : Stage) (core : Nat) (d : KDesc) (groups : List Group) (order : List Nat)
    (payload : Option (Nat × Nat)) : Team :=
  { Team.absent with
    launch := l, teamid := teamid, stage := stage, core := core, desc := d, stat := .running,
    groups := (List.range groups.length).zip groups, order := order, payload := payload }

/-- Give every thread of a team its geometry and stream key (R190, R200). -/
def State.seedThreads (s : State) (u : Nat) : State :=
  let t := s.team u
  let k := s.launch t.launch
  t.groups.foldl (fun s g => g.2.threads.foldl (fun s l =>
    let ag := Agent.thread u g.1 l.1
    s.setCh ag { ChState.zero with geom := t.desc.chmode, key := s.laneKey ag k.lr.seed }) s) s

/-- A team takes its place: its cores hold its coefficient image, its agents begin with an acquire (R346, R369), its threads
have their keys, and under escrow it writes its first checkpoint (R396). A poisoned word of the image is a machine check of
the team (R189). -/
def State.enter (s : State) (u : Nat) (t : Team) (img : BitVec 65536) : State :=
  let s := t.cores.foldl (fun s c => (s.setCore c { s.core c with coef := img }).l1DropClean c) s
  let s := (s.setTeam u t).seedThreads u
  let s := if (s.launch t.launch).lr.escrow && !s.direct u then s.checkpoint u true else s
  match s.unitBad (s.ctxNo u) t.desc.coefAddr 8192 with
  | some pa => s.machineCheck u t.core 0x42 0 pa 0 0 none
  | none => s

/-- Start a compute or task team on a core at places found for it; after an abort, with its recoveries counted (R259). -/
def State.startTeam (s : State) (u l teamid core : Nat) (ps : List Spot') (img : BitVec 65536) : State :=
  let k := s.launch l
  let d := k.desc
  let th := threadStart d.entry k.lr.replay
  let gs := ps.map (fun p => groupStart k d p (List.range d.gwidth) th)
  let f := aget (0, none) k.faults teamid
  s.enter u { teamStart l teamid (if k.lr.draw then .task else .compute) core d gs [] none with recov := f.1, first := f.2 } img

/-! ## Restoring a team (R273, R295) -/

/-- The side of a team on which a core lies. -/
def Team.sideOf (t : Team) (core : Nat) : Nat := b2n (core != t.core)

/-- The core that takes a side of a team on its new core. -/
def coreOfSide (core side : Nat) : Nat := if side = 0 then core else otherCore core

/-- Does a ring slot hold the mesh groups of a launch with this TEAMID? -/
def RingSlot.covers (r : RingSlot) (l id : Nat) : Bool :=
  r.busy && r.launch == l && decide (r.base ≤ id) && decide (id < r.base + r.count)

/-- The ring slot that holds a mesh team's payload: its core, its number, and itself (R346). -/
def State.ringOf (s : State) (l id : Nat) : Option (Nat × Nat × RingSlot) :=
  s.cores.findSome? (fun c => (c.2.ring.find? (fun r => r.2.covers l id)).map (fun r => (c.1, r.1, r.2)))

/-- May a team take its place on a core again: a spanning team on the even core of its pair, a team that brings array state
on the sides it had (R295), a mesh team on the core whose ring holds its slot (R346), a pixel team on its tile's pair
(R350)? -/
def State.mayStand (s : State) (t : Team) (core : Nat) : Bool :=
  (!t.desc.spans || core % 2 == 0) && (t.wasHeld.isEmpty || core % 2 == t.core % 2) &&
  (match t.stage with
    | .compute | .task => true
    | .mesh => (s.ringOf t.launch t.teamid).any (fun r => r.1 == core)
    | .pixel => core / 2 == t.core / 2)

/-- A mesh team's payload, in the ring slot that holds it now. -/
def State.payloadNow (s : State) (t : Team) : Option (Nat × Nat) :=
  match t.stage, s.ringOf t.launch t.teamid with
  | .mesh, some (c, n, r) => some (payloadArea c n, r.size)
  | _, _ => t.payload

/-- May a saved team be restored on a core (R273): it fits, its arrays, contexts, copy slots and ring slots are free
there? -/
def State.restoreFits (s : State) (u core : Nat) : Option (List Spot') :=
  let t := s.team u
  let sides := t.groups.map (fun g => [coreOfSide core (t.sideOf g.2.core)])
  if s.mayStand t core && t.wasHeld.all (fun w => (s.core (coreOfSide core w.1)).array.holder.isNone &&
        !(s.core (coreOfSide core w.1)).array.waiting.any (s.waitsArray (coreOfSide core w.1))) &&
      t.imgCtxs.all (fun c => (s.bctx (coreOfSide core (c.1 / 4)) (c.1 % 4)).run != .ready) &&
      t.imgSlots.all (fun c => (s.slot? (coreOfSide core (c.1 / 16)) (c.1 % 16)).isNone) &&
      t.imgRing.all (fun r => !((s.core core).slotOf r.1).busy) then
    s.fits t.launch t.desc t.stage core sides t.imgCoef
  else none

/-- A team's image is refused: its version is unknown, or its GWIDTH, NREG or SCRATCH exceeds the part's limits (R274,
Table 3-4). -/
def ImageHead.refused (h : ImageHead) : Bool :=
  h.version != 1 || decide (h.gwidth > 64) || decide (h.nreg > 512) ||
    decide (h.scratch > if h.spans then 786432 else 393216)

/-- The ring slots of an image come back with their payloads; a ring in which no slot is taken goes on at the slot that was
next (R354, R373). -/
def State.restoreRing (s : State) (core : Nat) (t : Team) : State :=
  let k := s.core core
  let next := if t.stage == .task && k.ring.all (fun r => !r.2.busy) then t.imgNext else k.ringNext
  let s := s.setCore core { k with ringNext := next }
  t.imgRing.foldl (fun s r =>
    let s := { s with vault := s.vault.write (payloadArea core r.1) r.2.1.size r.2.2 }
    s.setCore core { s.core core with ring := aput (s.core core).ring r.1 r.2.1 }) s

/-- The agents of a team: its lanes, then its contexts. -/
def State.agentsOf (s : State) (u : Nat) : List Agent :=
  (s.team u).groups.flatMap (fun g => laneAgents u g.1 g.2) ++
    (s.team u).cores.flatMap (fun k => ((List.range 4).filter (fun c => (s.bctx k c).uid == u &&
      (s.bctx k c).run == .ready)).map (fun c => Agent.ctx k c))

/-- Every park and stall of a restored team is evaluated again (R244, R273, Table 12-10). -/
def State.reevaluate (s : State) (u : Nat) : State :=
  let s := (s.team u).groups.foldl (fun s g => ((s.meetings u g.1).mwaits u g.1).collectAll u g.1) s
  let s := (List.range 16).foldl (fun s b => s.wakeBar u b) s
  let s := (s.agentsOf u).foldl (fun s ag => ((s.tryFence ag).tryLaunch ag).tryEnd ag) s
  (s.team u).cores.foldl (fun s k => ((s.retryForks k).retryStalls k).retryCopies k) s

/-- Restore a saved team on a core: its groups on their sides, its arrays, contexts with their registers, copy slots, ring
slots and rays; then every park and stall whose condition now holds ends (R273). -/
def State.restore (s : State) (u core : Nat) (ps : List Spot') : State :=
  let t := s.team u
  let groups := (t.groups.zip ps).map (fun e => (e.1.1, { e.1.2 with
    core := e.2.core, part := e.2.part, slot := e.2.slot, eligible := none, yielded := none }))
  let moved := fun (r : Ray) => { r with core := coreOfSide core (t.sideOf r.core) }
  let t' := { t with
    core := core, stat := .running, groups := groups, rays := t.rays.map moved, payload := s.payloadNow t, wasHeld := [],
    image := none, imgRays := [], imgCtxs := [], imgSlots := [], imgAccs := [], imgRing := [], imgNext := 0 }
  let s := t'.cores.foldl (fun s c => (s.setCore c { s.core c with coef := t.imgCoef }).l1DropClean c) s
  let s := s.setTeam u t'
  let s := t.wasHeld.foldl (fun s w =>
    let c := coreOfSide core w.1
    s.setArray c { w.2 with holder := some u, waiting := (s.core c).array.waiting }) s
  let s := t.imgCtxs.foldl (fun s x =>
    let c := coreOfSide core (x.1 / 4)
    let s := s.setBctx c (x.1 % 4) x.2.1
    s.setRun (.ctx c (x.1 % 4)) 0 x.2.2) s
  let s := t.imgSlots.foldl (fun s x => s.setSlot (coreOfSide core (x.1 / 16)) (x.1 % 16) { x.2 with halted := false }) s
  let s := (s.addRays (t.imgRays.map moved)).restoreRing core t
  let s := { s with accs := s.accs ++ t.imgAccs.map (fun (a : Access) => match a.ag with
    | .ctx side c => { a with ag := .ctx (coreOfSide core side) c }
    | .thread .. => a) }
  s.reevaluate u

/-! ## Admission (R386) -/

/-- May teams of a launch be admitted: it has not ended and its queue is not pre-empted (R388, R389)? -/
def State.admits (s : State) (k : Launch) : Bool :=
  !k.ended && !k.complete && !(s.queue k.queue).preempt && s.mgmt.boot == 1 && !s.dbg.frozen &&
    decide (s.mgmt.pwrCur.toNat < 2)

/-- The next team of a launch to be admitted: the lowest TEAMID (R386). -/
def Launch.nextTeam (k : Launch) : Option Nat :=
  match k.redo with
  | r :: rs => some (rs.foldl min r)
  | [] => if k.next < k.lr.grid then some k.next else none

/-- The saved teams of a core, with places where they fit it: images come back before any further team (R389). -/
def State.saved? (s : State) (core : Nat) : List (Nat × List Spot') :=
  s.teams.filterMap (fun t =>
    if t.2.stat == .saved && s.admits (s.launch t.2.launch) then (s.restoreFits t.1 core).map (fun ps => (t.1, ps))
    else none)

/-- A saved team whose image is refused (R274). -/
def State.refusedImage (s : State) : Option (Nat × Team) :=
  s.teams.find? (fun t => t.2.stat == .saved && s.admits (s.launch t.2.launch) && t.2.image.any ImageHead.refused)

/-- Has a queue a team whose image has not come back: no further team of its launches is admitted (R389)? -/
def State.hasSaved (s : State) (q : Nat) : Bool :=
  s.teams.any (fun t => (s.launch t.2.launch).queue == q && (t.2.stat == .saved || t.2.stat == .halting))

/-- May further teams of a launch be admitted, the images of its queue being back (R388, R389)? -/
def State.admitsNew (s : State) (k : Launch) : Bool := s.admits k && !s.hasSaved k.queue

/-- The first core of a team that is placed on a core, or on its pair when the kernel spans. -/
def KDesc.firstCore (d : KDesc) (core : Nat) : Nat := if d.spans then core - core % 2 else core

/-- Places for the next team of a launch on a core, or on its pair. -/
def State.teamFits (s : State) (l core : Nat) : Option (List Spot') :=
  let k := s.launch l
  let c := k.desc.firstCore core
  s.fits l k.desc (if k.lr.draw then .task else .compute) c (List.replicate k.lr.teamsz (k.desc.coresAt c))
    (s.image k.ctx k.desc)

/-- The launches with a team waiting (R386). -/
def State.waitingTeams (s : State) : List (Nat × Launch) :=
  s.launches.filter (fun l => s.admitsNew l.2 && l.2.nextTeam.isSome)

/-- The launches of the highest PRIO with a team waiting whose next team fits a core (R386, steps 1 and 3). -/
def State.ready? (s : State) (core : Nat) : List (Nat × List Spot') :=
  let top := s.waitingTeams.foldl (fun m l => max m l.2.lr.prio) 0
  s.waitingTeams.filterMap (fun l =>
    if l.2.lr.prio == top then (s.teamFits l.1 core).map (fun ps => (l.1, ps)) else none)

/-- Of launches with a fitting team: those of the queue whose turn it is, then the earliest (R386, steps 2 and 3); a queue
none of whose launches fits leaves its turn to the next (log entry 47). -/
def State.choose (s : State) (c : List (Nat × List Spot')) : Option (Nat × List Spot') :=
  let turn := fun (e : Nat × List Spot') => ((s.launch e.1).queue + 63 - s.lastQueue) % 64
  c.foldl (fun (b : Option (Nat × List Spot')) e => match b with
    | none => some e
    | some x => if turn e < turn x || (turn e == turn x && decide (e.1 < x.1)) then some e else b) none

/-- Admit the next team of a launch at places found for it. -/
def State.admitTeam (s : State) (l core : Nat) (ps : List Spot') : State :=
  let k := s.launch l
  match k.nextTeam with
  | none => s
  | some id =>
    let u := s.nextUid
    let s := s.setLaunch l (if k.redo.contains id then { k with redo := k.redo.erase id } else { k with next := k.next + 1 })
    let s := { s with nextUid := u + 1, lastQueue := k.queue }
    (s.startTeam u l id (k.desc.firstCore core) ps (s.image k.ctx k.desc)).retryLaunches

/-- The restore of an image is refused, with an error to the host (R274). -/
def State.refuseImage (s : State) (t : Team) : State := s.launchError t.launch ⟨5, 0, 0, 0, t.teamid, 0, 0, 0⟩

/-- TEAM_ADMISSION (R386, R389): a saved image that fits this core comes back first; otherwise the next team that
fits. -/
def execTeamAdmission (core : Nat) (s : State) : Out :=
  if core ≥ 192 then .fault .absentPart
  else match s.refusedImage, s.saved? core with
    | some (_, t), _ => .next (s.refuseImage t)
    | none, (u, ps) :: _ => .next (s.restore u core ps)
    | none, [] =>
      match s.choose (s.ready? core) with
      | some (l, ps) => .next (s.admitTeam l core ps)
      | none => .next s

/-! ## The end of bursar contexts (R229) -/

/-- BURSAR_EXIT (R229): the contexts of a core that wait to end go as far as they can, and so does what waits for a free
context or for one that has ended. -/
def execBursarExit (core : Nat) (s : State) : Out :=
  if core ≥ 192 then .fault .absentPart
  else
    let s := (List.range 4).foldl (fun s c =>
      let s := s.tryEnd (.ctx core c)
      if (s.bctx core c).run == .ready then s else s.releaseRdv core c) s
    .next ((s.retryForks core).retryCopies core)

/-! ## The resident walker (R340) -/

/-- Create a core's walker for the launch of its first ray, where a slot, 64 threads and the quota allow (R340, R385). -/
def State.makeWalker (s : State) (core l : Nat) : State :=
  let c := s.core core
  let q := (s.launch l).lr.qclass
  match (List.range 4).findSome? (fun p => (s.roomIn core p 64 0 []).map (fun n => (p, n))) with
  | some (p, n) =>
    if decide ((s.classUse q core).1 + 1 ≤ s.quota q 0) then s.setCore core { c with walker := some (l, p, n) } else s
  | none => s

/-- Has a launch that has not ended an unapplied contribution: in a queue, held back by a team, or in an image (R340,
R342)? -/
def State.rayComes (s : State) : Bool :=
  let open' := fun (l : Nat) => !(s.launch l).ended && !(s.launch l).complete
  s.cores.any (fun c => c.2.rays.any (fun r => open' r.launch)) ||
    s.teams.any (fun t => open' t.2.launch && !(t.2.rays.isEmpty && t.2.imgRays.isEmpty))

/-- WALKER_RAY (R340): the walker of a core is created at the first ray, goes on with a ray, and retires when its
queue is empty and no resident launch has an unapplied contribution. -/
def execWalkerRay (core : Nat) (s : State) : Out :=
  if core ≥ 192 then .fault .absentPart
  else
    let c := s.core core
    match c.walker, c.rays with
    | none, [] => .next s
    | none, r :: _ => .next (s.makeWalker core r.launch)
    | some _, [] => .next (if s.rayComes then s else s.setCore core { c with walker := none })
    | some _, _ =>
      match c.nextRay with
      | some (i, r) => .next ((s.walkRay core i r).retryStalls core)
      | none => .next s

/-! ## Mesh groups (R346, R347) -/

/-- The published slot of a core's ring whose mesh groups go next: the earliest in the ring's order with one to start (R345). -/
def State.nextSlotOf (s : State) (core : Nat) : Option Nat :=
  let c := s.core core
  ((List.range 4).map (fun i => (c.ringNext + i) % 4)).find? (fun n =>
    let r := c.slotOf n
    r.busy && decide (r.started < r.count) && !(s.launch r.launch).ended)

/-- MESH_GROUP_START (R346): the next mesh group of a published slot, in emission order (R345). -/
def execMeshGroupStart (core slot : Nat) (s : State) : Out :=
  if core ≥ 192 || slot ≥ 4 then .fault .absentPart
  else
    let r := (s.core core).slotOf slot
    let k := s.launch r.launch
    match k.draw with
    | none => .next s
    | some d =>
      if !r.busy || r.started ≥ r.count || s.nextSlotOf core != some slot || !s.admitsNew k then .next s
      else
        let img := s.image k.ctx d.mesh
        match s.fits r.launch d.mesh .mesh core [[core]] img with
        | some [p] =>
          let c := s.core core
          let s := s.setCore core { c with ring := aput c.ring slot { r with started := r.started + 1 } }
          let u := s.nextUid
          let s := { s with nextUid := u + 1 }
          let g := groupStart k d.mesh p (List.range d.mesh.gwidth) (threadStart d.mesh.entry k.lr.replay)
          .next (s.enter u (teamStart r.launch (r.base + r.started) .mesh core d.mesh [g] [r.base + r.started]
            (some (payloadArea core slot, r.size))) img)
        | _ => .next s

/-- TASK_SLOT_FREE (R346): every mesh group of a slot has passed its primitives to setup. -/
def execTaskSlotFree (core slot : Nat) (s : State) : Out :=
  if core ≥ 192 || slot ≥ 4 then .fault .absentPart
  else
    let c := s.core core
    let r := c.slotOf slot
    if r.busy && r.done ≥ r.count then
      .next ((s.setCore core { c with ring := aput c.ring slot .free }).retryStalls core)
    else .next s

/-- The retired mesh group of lowest TEAMID whose primitives have not passed to setup; under DET one that has committed
(R347, R392). -/
def State.meshDone? (s : State) (l : Nat) : Option Team :=
  let k := s.launch l
  let ts := s.teams.filter (fun t => t.2.launch == l && t.2.stage == .mesh && s.released? t.1 &&
    !k.passed.contains t.2.teamid && (!k.lr.det || t.2.committed))
  (ts.map (fun t => t.2)).foldl (fun b t => match b with
    | none => some t
    | some x => if t.teamid < x.teamid then some t else some x) none

/-- The primitives of a mesh group, in ascending index (R347). -/
def meshPrims (p : PassDesc) (t : Team) : List Prim :=
  let g := t.grp 0
  (List.range 160).filterMap (fun i => (afind g.prims i).bind (fun w => setupPrim p g.verts t.teamid i w))

/-- Put a primitive in its place in raster order. -/
def insertPrim : List Prim → Prim → List Prim
  | [], p => [p]
  | q :: t, p => if p.order < q.order then p :: q :: t else q :: insertPrim t p

/-- Change the ring slots of every core and every image. -/
def State.mapRings (s : State) (f : RingSlot → RingSlot) : State :=
  { s with
    cores := s.cores.map (fun c => (c.1, { c.2 with ring := c.2.ring.map (fun e => (e.1, f e.2)) })),
    teams := s.teams.map (fun t => (t.1, { t.2 with imgRing := t.2.imgRing.map (fun e => (e.1, f e.2.1, e.2.2)) })) }

/-- PRIMITIVE_SETUP (R347, R349): a retired mesh group passes its primitives to setup, and they are binned; a pair whose bin
memory runs out flushes a tile (R352). -/
def execPrimitiveSetup (l : Nat) (s : State) : Out :=
  let k := s.launch l
  match k.draw, s.meshDone? l with
  | some d, some t =>
    if k.ended then .next s
    else
      let s := s.setLaunch l { k with
        prims := (meshPrims d.pass t).foldl insertPrim k.prims, passed := k.passed ++ [t.teamid] }
      let s := s.mapRings (fun r => if r.covers l t.teamid then { r with done := r.done + 1 } else r)
      .next ((akeys s.pairs).foldl State.forceFlush s)
  | _, _ => .next s

/-! ## Pixel groups (R350) -/

/-- The samples of a pixel that a primitive covers and that pass the depth test (R349, R350). -/
def State.sampleMask (s : State) (ctx : Nat) (d : PassDesc) (p : Prim) (x y : Nat) : Nat :=
  if x ≥ d.width || y ≥ d.height then 0
  else (List.range 4).foldl (fun m i =>
    let q := samplePoint x y i
    let pass := !d.ztest || (xf (p.depth x y i)).lt (xf (s.storedDepth ctx d x y i))
    if p.covers q.1 q.2 && pass then m + 2 ^ i else m) 0

/-- The quads of a primitive in a tile, in ascending (y, x) of their origins, with the masks of their four pixels. -/
def State.quadsOf (s : State) (ctx : Nat) (d : PassDesc) (p : Prim) (tx ty : Nat) : List (Nat × Nat × List Nat) :=
  (List.range 256).filterMap (fun q =>
    let x := 32 * tx + 2 * (q % 16)
    let y := 32 * ty + 2 * (q / 16)
    let ms := [s.sampleMask ctx d p x y, s.sampleMask ctx d p (x + 1) y, s.sampleMask ctx d p x (y + 1),
      s.sampleMask ctx d p (x + 1) (y + 1)]
    if ms.all (fun m => m == 0) then none else some (x, y, ms))

/-- Does a pixel group of a primitive still run in a tile, or has it, under DET, still to commit? -/
def State.pixelsIn (s : State) (l order tx ty : Nat) : Bool :=
  s.teams.any (fun t => t.2.launch == l && t.2.stage == .pixel && t.2.groups.any (fun g =>
    g.2.quad == some (order, tx, ty)) && (!t.2.allExited || ((s.launch l).lr.det && !t.2.committed)))

/-- The next primitive and tile of a pair: the earliest in raster order all of whose predecessors are done in the tile. The
primitives of every earlier mesh group have passed to setup. -/
def State.nextTile? (s : State) (l pair : Nat) (pass : PassDesc) : List Prim → List Prim → Option (Prim × Nat × Nat)
  | [], _ => none
  | p :: rest, before =>
    let ts := if !(List.range p.teamid).all (s.launch l).passed.contains then [] else (p.tiles ++ p.begun.map (fun w => (w.tx, w.ty))).filter (fun t => pairOfTile pass t.1 t.2 == pair &&
      before.all (fun q => !q.hasWork t.1 t.2 && !s.pixelsIn l q.order t.1 t.2))
    match ts with
    | t :: _ => some (p, t.1, t.2)
    | [] => s.nextTile? l pair pass rest (before ++ [p])

/-- The registers of a pixel thread at start (R350). -/
def pixelRegs (p : Prim) (x y mask : Nat) : List (Nat × Word) :=
  [(0, BitVec.ofNat 32 x), (1, BitVec.ofNat 32 y), (2, BitVec.ofNat 32 mask), (3, p.attr x y 0), (4, p.attr x y 1),
    (5, p.attr x y 2), (6, p.attr x y 3), (7, BitVec.ofNat 32 p.index), (8, BitVec.ofNat 32 p.teamid)]

/-- The threads of a pixel group: the pixels of each quad in lanes 4q + 2dy + dx (log entry 22). -/
def pixelThreads (p : Prim) (qs : List (Nat × Nat × List Nat)) (t : Thread) : List (Nat × Thread) :=
  ((List.range qs.length).zip qs).flatMap (fun e =>
    (List.range 4).map (fun i =>
      let x := e.2.1 + i % 2
      let y := e.2.2.1 + i / 2
      let m := e.2.2.2.getD i 0
      (4 * e.1 + i, { t with regs := pixelRegs p x y m, cover := BitVec.ofNat 4 m, px := (x, y) })))

/-- The pixel kernel as a pixel group runs it: 16 lanes (R350). -/
def DrawInfo.pixelDesc (d : DrawInfo) : KDesc := { d.pixel with gwidth := 16 }

/-- Replace a primitive of a launch. -/
def Launch.putPrim (k : Launch) (p : Prim) : Launch :=
  { k with prims := k.prims.map (fun q => if q.order == p.order then p else q) }

/-- The work of a primitive in a tile, beginning it now if it has not begun. -/
def State.tileWork (s : State) (k : Launch) (d : DrawInfo) (p : Prim) (tx ty : Nat) : List (Nat × Nat × List Nat) :=
  match p.begun.find? (fun w => w.tx == tx && w.ty == ty) with
  | some w => w.quads
  | none => s.quadsOf k.ctx d.pass p tx ty

/-- The pixel groups of a primitive that have started in a tile with quads left. -/
def Prim.groupsIn (p : Prim) (tx ty : Nat) : Nat :=
  ((p.begun.find? (fun w => w.tx == tx && w.ty == ty)).map (fun w => w.groups)).getD 0

/-- A primitive after one more group has taken its quads in a tile. -/
def Prim.take (p : Prim) (tx ty : Nat) (left : List (Nat × Nat × List Nat)) : Prim :=
  let begun := p.begun.filter (fun w => !(w.tx == tx && w.ty == ty))
  { p with
    tiles := p.tiles.filter (fun t => t != (tx, ty)),
    begun := if left.isEmpty then begun else begun ++ [⟨tx, ty, p.groupsIn tx ty + 1, left⟩] }

/-- Start a pixel group of a draw on the first core of a pair where it fits; from then on the pair holds its tile (R350). -/
def State.startPixels (s : State) (l : Nat) (k : Launch) (d : DrawInfo) (pair : Nat) (p : Prim) (tx ty : Nat) : State :=
  let qs := s.tileWork k d p tx ty
  let now := qs.take 4
  if now.isEmpty then s.setLaunch l (k.putPrim (p.take tx ty []))
  else
    let desc := d.pixelDesc
    let img := s.image k.ctx desc
    match [2 * pair, 2 * pair + 1].findSome? (fun c => (s.fits l desc .pixel c [[c]] img).map (fun ps => (c, ps))) with
    | some (core, [sp]) =>
      let n := p.groupsIn tx ty
      let s := (s.setLaunch l (k.putPrim (p.take tx ty (qs.drop 4)))).openTile k.ctx d.pass tx ty
      let u := s.nextUid
      let s := { s with nextUid := u + 1 }
      let th := threadStart desc.entry k.lr.replay
      let g := { groupStart k desc sp (List.range (4 * now.length)) th with
        threads := pixelThreads p now th, quad := some (p.order, tx, ty) }
      let id := (Config.pixelTeamId p.order tx ty n).toNat
      s.enter u (teamStart l id .pixel core desc [g] [p.order, ty, tx, n] none) img
    | _ => s

/-- PIXEL_GROUP_START (R350): the next pixel group of a pair. -/
def execPixelGroupStart (pair : Nat) (s : State) : Out :=
  if pair ≥ 96 then .fault .absentPart
  else
    let found := s.launches.findSome? (fun l =>
      if !s.admitsNew l.2 then none
      else match l.2.draw with
        | none => none
        | some d => (s.nextTile? l.1 pair d.pass l.2.prims []).map (fun p => (l.1, l.2, d, p)))
    match found with
    | some (l, k, d, p, tx, ty) => .next (s.startPixels l k d pair p tx ty)
    | none => .next s

/-! ## The end of a launch (R341, R352, R387, R388) -/

/-- Is nothing of a team left to do? A DET team must have committed (R387, R392). -/
def State.teamOver (s : State) (l : Launch) (t : Nat × Team) : Bool :=
  s.released? t.1 && (!l.lr.det || l.hasCommitted t.2 || l.ended)

/-- Are the teams, meshes, primitives, pixels and shadow rays of a launch over (R387)? -/
def State.workOver (s : State) (l : Nat) : Bool :=
  let k := s.launch l
  (k.ended || (decide (k.next ≥ k.lr.grid) && k.redo.isEmpty && decide (k.passed.length ≥ k.meshTotal) &&
    k.prims.all (fun p => p.tiles.isEmpty && p.begun.isEmpty) &&
    (!k.lr.det || decide (k.committed.length ≥ k.lr.grid)))) &&
  (s.teams.filter (fun t => t.2.launch == l)).all (fun t => s.teamOver k t) &&
  s.cores.all (fun c => c.2.rays.all (fun r => r.launch != l)) &&
  (k.ended || s.cores.all (fun c => c.2.ring.all (fun r => !(r.2.busy && r.2.launch == l))))

/-- PASS_END_WRITE (R352): the work of a draw that ends its pass is over, and every tile still held for its target is
written. -/
def execPassEndWrite (l : Nat) (s : State) : Out :=
  let k := s.launch l
  match k.draw with
  | none => .next s
  | some d =>
    if k.lr.passend && !k.flushed && !k.complete && s.workOver l then
      .next ((s.writeTiles k.ctx d.pass).setLaunch l { k with flushed := true })
    else .next s

/-- Have the children of a launch completed (R387)? -/
def State.kidsOver (s : State) (l : Nat) : Bool := s.launches.all (fun c => c.2.parent != some l || c.2.complete)

/-- Write back the dirty lines of a launch's teams in every core: the release of Table 19-4. -/
def State.releaseLaunch (s : State) (l : Nat) : State :=
  s.cores.foldl (fun s c => s.l1Clean c.1 (fun x => x.dirty != 0 && decide ((s.team x.uid).launch = l)) false) s

/-- The ring slots of a launch that ended in error are free once it has completed. -/
def State.freeRing (s : State) (l : Nat) : State :=
  s.cores.foldl (fun s c =>
    if c.2.ring.any (fun r => r.2.busy && r.2.launch == l) then
      let k := s.core c.1
      (s.setCore c.1 { k with ring := k.ring.filter (fun r => !(r.2.busy && r.2.launch == l)) }).retryStalls c.1
    else s) s

/-- A launch takes the release of Table 19-4 and adds to its counter, once (R387, R388). -/
def State.countLaunch (s : State) (l : Nat) : State :=
  let k := s.launch l
  if k.counted then s
  else ((s.releaseLaunch l).setLaunch l { k with counted := true }).addCounter k.queue k.lr.ctr 1

/-- Are the teams of a launch that ended in error killed, with what they had issued done (R259, R388)? -/
def State.killedAll (s : State) (l : Nat) : Bool := s.teams.all (fun t => t.2.launch != l || s.released? t.1)

/-- LAUNCH_COMPLETION (R387, R388): everything is over; the release, the counter, and nothing of the launch's teams is
kept. A launch that ended in error adds to its counter once its resident teams have been killed, and is over later. -/
def execLaunchCompletion (l : Nat) (s : State) : Out :=
  let k := s.launch l
  if k.complete then .next s
  else if !s.workOver l || !s.kidsOver l || (k.lr.passend && k.draw.isSome && !k.flushed && !k.ended) then
    .next (if k.ended && s.killedAll l then s.countLaunch l else s)
  else
    let s := s.countLaunch l
    let s := s.setLaunch l { s.launch l with complete := true, prims := [] }
    let gone := (s.teams.filter (fun t => t.2.launch == l)).map (fun t => t.1)
    .next ((gone.foldl State.removeTeam s).freeRing l)

end Sys2Proof.Machine
end

