-- ==== Sys2Proof/Machine/Det.lean ====
section
/-! DEFINITION. Deterministic mode (R391 to R394): keys, commit, aborts, and the full buffer. -/

namespace Sys2Proof.Machine

/-- The key of a team of a DET launch: its timestamp, then its TEAMID (R391). -/
def Launch.keyOf (k : Launch) (id : Nat) : Nat × Nat :=
  (match k.keys[id]? with
    | some t => t.toNat
    | none => id, id)

/-- Does one key come before another (R391)? -/
def keyBefore (a b : Nat × Nat) : Bool := decide (a.1 < b.1) || (a.1 == b.1 && decide (a.2 < b.2))

/-- The TEAMID of smallest key that has not committed (R392). -/
def Launch.nextCommit (k : Launch) : Option Nat :=
  ((List.range k.lr.grid).filter (fun id => !k.committed.contains id)).foldl (fun (b : Option Nat) id => match b with
    | none => some id
    | some j => if keyBefore (k.keyOf id) (k.keyOf j) then some id else b) none

/-- Apply held writes one by one, in issue order: the old value of each that returned one must be the value it returned
(R392, steps 1 to 3). -/
def State.commitCheck (s : State) : List Held → Bool
  | [] => true
  | h :: t =>
    let (s', old) := s.portUpdate h.loc h.n h.op h.data
    (match h.ret with
      | some r => r == old
      | none => true) && s'.commitCheck t

/-- The first held update that would consume a poisoned word (R189). -/
def State.heldPoison (s : State) (hs : List Held) : Option Held :=
  hs.find? (fun h => h.op != .write && s.poisoned h.loc h.n)

/-- The bits of the write summary of committed lines (R392). -/
def summary (hs : List Held) : List Nat := hs.filterMap (fun h => h.loc.sigBit)

/-- Is a team hit by a write summary: speculative, not committed, not itself the committing team, its signature sharing a
bit (R392)? -/
def State.hitBy (s : State) (u : Nat) (bits : BitVec 2048) (v : Nat × Team) : Bool :=
  v.1 != u && s.speculative v.1 && !s.dead v.1 && !(s.launch v.2.launch).hasCommitted v.2 && (v.2.sig &&& bits) != 0

/-- The outputs that the exited pixel threads of a speculative team have left are written (R351, R392; log entry 26). -/
def State.writeOuts (s : State) (u : Nat) : State :=
  (s.team u).groups.foldl (fun s g => g.2.threads.foldl (fun s l =>
    if l.2.exited && l.2.out.isSome then (s.exitPixel u g.1 l.1).dropOut u g.1 l.1 else s) s) s

/-- Commit a team's buffer (R392): an atomic whose value has changed aborts it, as does a poisoned word (Table 23-1);
otherwise its writes are applied, its children and rays are submitted, and every team whose reads they hit is aborted. The
summary holds what the team wrote non-speculatively as well (R393). The answer says whether it committed. -/
def State.commitBuffer (s : State) (u : Nat) : State × Bool :=
  let s := s.flushHeld u (s.team u).held
  let t := s.team u
  match s.heldPoison t.held with
  | some h => (s.machineCheck u t.core 0x42 (match h.loc with
      | .vault _ => 3
      | _ => 0) h.loc.addr 0 0 none, false)
  | none =>
    if !s.commitCheck t.held then (s.abortTeam u, false)
    else
      let s := ((s.applyHeld t.held).icAgain u).writeOuts u
      let s := t.kids.foldl (fun s k => (s.submitKid t.launch k).1) s
      let s := s.addRays t.rays
      let s := s.setTeam u { s.team u with held := [], kids := [], rays := [], ckpt := none, sig := 0, wsig := 0 }
      let bits := t.wsig ||| (summary t.held).foldl (fun x b => x ||| BitVec.ofNat 2048 (2 ^ b)) 0
      let hit := (s.teams.filter (s.hitBy u bits)).map (fun v => v.1)
      (hit.foldl State.abortTeam s, true)

/-- Has a team finished: every group has exited and its copies have finished (R392)? -/
def State.finishedTeam (s : State) (u : Nat) : Bool :=
  let t := s.team u
  t.stat == .running && t.allExited && s.accs.all (fun a => !s.ofTeam u a.ag) && s.tiles.all (fun x => x.uid != u) &&
    t.cores.all (fun k =>
      (List.range 4).all (fun c => !((s.bctx k c).uid == u && (s.bctx k c).run == .ready)) &&
      (s.core k).slots.all (fun e => e.2.uid != u || (match e.2.stat with
        | .finished _ => true
        | _ => false)))

/-! ## Whose turn it is to commit (R392; for the teams of a draw log entry 26) -/

/-- The mesh teams of a draw that have committed, by TEAMID. -/
def State.meshCommits (s : State) (l : Nat) : List Nat :=
  (s.teams.filter (fun t => t.2.launch == l && t.2.stage == .mesh && t.2.committed)).map (fun t => t.2.teamid)

/-- The places, in raster order, of a draw's pixel work: of its pixel teams that have not committed, and of the quads that
no team has taken yet. -/
def State.pixelWork (s : State) (l : Nat) : List (List Nat) :=
  (s.teams.filter (fun t => t.2.launch == l && t.2.stage == .pixel && !t.2.committed)).map (fun t => t.2.order) ++
    (s.launch l).prims.flatMap (fun p =>
      p.tiles.map (fun t => [p.order, t.2, t.1, 0]) ++ p.begun.map (fun w => [p.order, w.ty, w.tx, w.groups]))

/-- Have the mesh groups that a draw has published so far committed and passed to setup? -/
def State.meshQuiet (s : State) (l : Nat) : Bool := decide ((s.launch l).passed.length ≥ (s.launch l).meshTotal)

/-- Does a task team of a launch go on non-speculatively? -/
def State.taskOpen (s : State) (l : Nat) : Bool :=
  s.teams.any (fun t => t.2.launch == l && t.2.ofGrid && t.2.nonspec && !(s.launch l).hasCommitted t.2)

/-- Does an agent wait for what another must do: it is parked on a meeting, a mask, a signature, a barrier, a context, a slot
or a stall? -/
def Park.rests (p : Park) : Bool :=
  match p with
  | .meeting | .mwait _ | .signed _ none _ | .rdv _ | .bar .. | .stall .. | .copySlot _ | .cwait .. => true
  | _ => false

/-- Has a team come to rest: every lane and context waits, and none of its accesses, tiles and copies goes on? -/
def State.resting (s : State) (u : Nat) : Bool :=
  let t := s.team u
  t.groups.all (fun g => g.2.threads.all (fun l => l.2.exited || l.2.park.rests)) &&
  s.accs.all (fun a => !s.ofTeam u a.ag || a.traps) && s.tiles.all (fun x => x.uid != u) &&
  t.cores.all (fun k =>
    (List.range 4).all (fun c => !((s.bctx k c).uid == u && (s.bctx k c).run == .ready) || (s.bctx k c).park.rests) &&
    (s.core k).slots.all (fun e => e.2.uid != u || (match e.2.stat with
      | .finished _ => true
      | _ => false)))

/-- Does a mesh team's commit meet no task team of its draw under way: there is none that goes on non-speculatively, or it has
come to rest, with every committed mesh group passed to setup and no ring slot about to be freed (log entry 26)? -/
def State.tasksRest (s : State) (l : Nat) : Bool :=
  !s.taskOpen l ||
  (s.teams.all (fun t => !(t.2.launch == l && t.2.ofGrid && t.2.nonspec && !(s.launch l).hasCommitted t.2) || s.resting t.1) &&
    (s.meshCommits l).all (s.launch l).passed.contains &&
    s.cores.all (fun c => c.2.ring.all (fun r => !(r.2.busy && r.2.launch == l && decide (r.2.done ≥ r.2.count)))))

/-- Is it a team's turn to commit? The teams of the grid commit in key order, mesh teams in ascending TEAMID, and pixel
teams in raster order once the mesh work published so far is over; the next team of the grid follows then. -/
def State.mayCommit (s : State) (u : Nat) : Bool :=
  let t := s.team u
  let k := s.launch t.launch
  match t.stage with
  | .mesh => (List.range t.teamid).all (s.meshCommits t.launch).contains && s.tasksRest t.launch
  | .pixel => s.meshQuiet t.launch && !s.taskOpen t.launch && (s.pixelWork t.launch).all (fun o => !decide (o < t.order))
  | _ => k.nextCommit == some t.teamid && (t.nonspec || (s.meshQuiet t.launch && (s.pixelWork t.launch).isEmpty))

/-- A team has committed. -/
def State.markCommitted (s : State) (u : Nat) : State :=
  let t := s.team u
  if t.ofGrid then
    s.setLaunch t.launch { s.launch t.launch with committed := (s.launch t.launch).committed ++ [t.teamid] }
  else s.setTeam u { t with committed := true }

/-- DET_COMMIT (R392): a team whose turn it is commits once it has finished; a mesh team that has read what its draw's task
team has since written is aborted (log entry 26). -/
def execDetCommit (l : Nat) (s : State) : Out :=
  let k := s.launch l
  if !k.lr.det || k.ended || k.complete then .next s
  else match s.teams.find? (fun t => t.2.launch == l && !k.hasCommitted t.2 && s.finishedTeam t.1 && s.mayCommit t.1) with
    | none => .next s
    | some (u, _) =>
      if (s.team u).stage == .mesh && (s.team u).stale then .next (s.abortTeam u)
      else match s.commitBuffer u with
      | (s, true) => .next (s.markCommitted u)
      | (s, false) => .next s

/-- Is a lane of a team stalled on EMIT.payload (log entry 21)? -/
def Team.payloadWaits (t : Team) : Bool :=
  t.groups.any (fun g => g.2.threads.any (fun l => match l.2.park with
    | .stall (.emitPayload ..) _ _ => true
    | _ => false))

/-- Is it a draw in record or replay? -/
def AccOp.draws : AccOp → Bool
  | .draw .. => true
  | _ => false

/-- Does a speculative team stall: its buffer is full, or has no room for an access, a tile or a copy's write that waits for
it (R393), or it is to publish a payload (log entry 21)? -/
def State.bufferStalls (s : State) (u : Nat) : Bool :=
  let t := s.team u
  let n := (heldLines t.held).length
  decide (n ≥ 1024) || t.payloadWaits ||
  s.accs.any (fun a => s.ofTeam u a.ag && !a.past &&
    ((a.op.draws && decide (n ≥ 1023)) || (!a.op.multi && !s.unplaced a && !s.runFits a))) ||
  s.tiles.any (fun x => x.uid == u && x.stage == .ready && !s.holdsFit u (s.tileWrites x)) ||
  t.cores.any (fun k => (s.core k).slots.any (fun e => e.2.uid == u && e.2.sent.any (fun x => !s.holdsFit u x.left)))

/-- DET_BUFFER_FULL (R393): a stalled team whose turn has come commits its buffer and goes on non-speculatively; so does one
that is halted, whose work in flight is then met (R271, R295). -/
def execDetBufferFull (u : Nat) (s : State) : Out :=
  let t := s.team u
  if (t.stat == .running || t.stat == .halting) && s.speculative u && !(s.launch t.launch).hasCommitted t && s.mayCommit u && s.bufferStalls u then
    if t.stage == .mesh && t.stale then .next (s.abortTeam u)
    else match s.commitBuffer u with
    | (s, true) => .next ((s.setTeam u { s.team u with nonspec := true }).retryStalls t.core)
    | (s, false) => .next s
  else .next s

end Sys2Proof.Machine
end

