-- ==== Sys2Proof/Machine/Preempt.lean ====
section
/-! DEFINITION. Pre-emption (R271 to R274, R389): halting the teams of a queue, sealing their images, and letting them back.
An image is kept with its team; its layout in memory the spec does not give, so the save area receives free bytes (log
entry 23). -/

namespace Sys2Proof.Machine

/-- Halt a team: it issues no further instruction, its contexts with it, and its copies stop at a chunk boundary (R271,
R253). -/
def State.halt (s : State) (u : Nat) : State :=
  let t := s.team u
  match t.stat with
  | .running =>
    let s := s.setTeam u { t with stat := .halting }
    t.cores.foldl (fun s k => s.mapSlots k (fun c => if c.uid = u then { c with halted := true } else c)) s
  | _ => s

/-- PREEMPT is set: every resident team of every launch of the queue, children included, is pre-empted (R389). -/
def State.preemptQueue (s : State) (q : Nat) : State :=
  let s := s.setQueue q { s.queue q with preempt := true }
  ((s.teams.filter (fun t => (s.launch t.2.launch).queue == q && !s.released? t.1)).map (fun t => t.1)).foldl State.halt s

/-- PREEMPT_SET (R389). -/
def execPreemptSet (q : Nat) (s : State) : Out :=
  if q ≥ 64 then .fault .absentPart else .next (s.preemptQueue q)

/-- PREEMPT_CLEAR (R389): admission goes on, and saved images come back before any further team. -/
def execPreemptClear (q : Nat) (s : State) : Out :=
  if q ≥ 64 then .fault .absentPart else .next (s.setQueue q { s.queue q with preempt := false })

/-- Does a speculative team's full buffer hold work up, with its turn to commit not come (R393)? -/
def State.bufferHolds (s : State) (u : Nat) (fits : Bool) : Bool := s.speculative u && !fits && !s.mayCommit u

/-- Does a fault, or a full buffer, hold an access? -/
def State.heldUp (s : State) (a : Access) : Bool :=
  match a.stage with
  | .held .. => true
  | _ => !a.op.multi && !s.unplaced a && a.op.need == .write && s.bufferHolds (s.uidOf a.ag) (s.runFits a)

/-- Does an access wait behind one of its agent's that is held up? -/
def State.behindHeld (s : State) (a : Access) : Bool :=
  !s.mayPerform a && (s.accsOf a.ag).any (fun b => decide (b.id < a.id) && s.heldUp b)

/-- Does a resident mesh team read its payload in a ring slot that a team published (R346)? -/
def State.slotsRead (s : State) (u : Nat) : Bool :=
  s.teams.any (fun t => t.2.stage == .mesh && (t.2.stat == .running || t.2.stat == .halting) && s.leases t.1 &&
    (s.ringOf t.2.launch t.2.teamid).any (fun r => r.2.2.uid == u))

/-- Does an agent wait for acknowledgements of an invalidation (Table 12-10)? -/
def Park.invalidates : Park → Bool
  | .icinv | .tlbinv | .sampinv => true
  | _ => false

/-- Has the work in flight of a halted team been met (Table 12-10): its stores, updates and tiles applied, or held up by a
fault, by a full buffer or behind an access that is, its sent chunks acknowledged or held up likewise, its invalidations acknowledged, its ring slots read by no
resident team? -/
def State.metAll (s : State) (u : Nat) : Bool :=
  let t := s.team u
  s.accs.all (fun a => !s.ofTeam u a.ag || !a.op.stands || (match a.stage with
    | .done | .trapped .. => true
    | _ => s.heldUp a || s.behindHeld a)) &&
  s.tiles.all (fun x => x.uid != u || (match x.stage with
    | .held .. => true
    | _ => (x.stage == .ready && s.bufferHolds u (s.holdsFit u (s.tileWrites x))) ||
      x.ags.any (fun ag => (s.accsOf ag).any (fun b => decide (b.id < x.mark) && s.heldUp b)))) &&
  t.cores.all (fun k => (s.core k).slots.all (fun c => c.2.uid != u ||
    c.2.sent.all (fun e => s.bufferHolds u (s.holdsFit u e.left)))) &&
  t.groups.all (fun g => g.2.threads.all (fun l => !l.2.park.invalidates)) &&
  t.cores.all (fun k => (List.range 4).all (fun c => (s.bctx k c).uid != u || !(s.bctx k c).park.invalidates)) &&
  !s.slotsRead u

/-- An access of a sealed team: a load that has not been performed is abandoned, to be issued anew on restore; draws stay
at their keys, and a store held on a fault, or behind an access that is, is kept as issued (Table 12-10, R217). -/
def Access.abandon (a : Access) : Access :=
  if a.op.stands then
    match a.stage with
    | .held .. | .issued | .ready => { a with stage := .issued, xl := [] }
    | _ => a
  else match a.stage, a.op with
    | .done, _ | .trapped .., _ => a
    | _, .known _ => a
    | _, _ => { a with stage := .issued, xl := [], vals := [] }

/-- Is a space-scratchpad or other untranslated access ready again as soon as it is issued anew? -/
def State.reissue (s : State) (a : Access) : Access :=
  let b := a.abandon
  if b.stage == .issued && !b.op.multi && !s.translated b.ag b.space then { b with stage := .ready } else b

/-- The contexts of a team on a side, with their register windows. -/
def State.saveCtxs (s : State) (u core side : Nat) : List (Nat × BCtx × List Word) :=
  ((List.range 4).filter (fun c => (s.bctx core c).uid == u && (s.bctx core c).run == .ready)).map (fun c =>
    (4 * side + c, s.bctx core c, s.regRun (.ctx core c) 0 32))

/-- The ring slots of a core that a team published, with their payloads (R354). -/
def State.saveRing (s : State) (u core : Nat) : List (Nat × RingSlot × Nat) :=
  ((s.core core).ring.filter (fun r => r.2.busy && r.2.uid == u)).map (fun r =>
    (r.1, r.2, s.vault.read (payloadArea core r.1) r.2.size))

/-- Take a team's contexts with their accesses, copy slots, array, ring slots and rays off one of its cores. -/
def State.strip (s : State) (u side core : Nat) : State :=
  let k := s.core core
  let t := s.team u
  let mine := k.rays.filter (fun r => r.uid == u)
  let rest := k.rays.filter (fun r => r.uid != u)
  let held := k.array.holder == some u
  let here := fun (a : Access) => match a.ag with
    | .ctx c _ => c == core && s.uidOf a.ag == u
    | .thread .. => false
  let s := s.setTeam u { t with
    imgCtxs := t.imgCtxs ++ s.saveCtxs u core side,
    imgSlots := t.imgSlots ++ (k.slots.filter (fun c => c.2.uid == u)).map (fun c => (16 * side + c.1, c.2)),
    imgRays := t.imgRays ++ mine.map (fun r => { r with taken := false, held := none, lit := r.lit && r.applied != 0 }),
    imgRing := t.imgRing ++ s.saveRing u core, imgNext := if side = 0 then k.ringNext else t.imgNext,
    imgAccs := t.imgAccs ++ (s.accs.filter here).map (fun a => match a.ag with
      | .ctx _ c => { a with ag := .ctx side c }
      | .thread .. => a),
    imgCoef := k.coef,
    wasHeld := if held then t.wasHeld ++ [(side, k.array)] else t.wasHeld }
  let s := { s with accs := s.accs.filter (fun a => !here a) }
  let s := s.setCore core { k with
    ctxs := k.ctxs.map (fun c => if c.2.uid = u && c.2.run == .ready then (c.1, BCtx.free) else c),
    slots := k.slots.filter (fun c => c.2.uid != u),
    rays := rest,
    ring := k.ring.filter (fun r => !(r.2.busy && r.2.uid == u)),
    array := { k.array with waiting := k.array.waiting.filter (fun w => w != u) } }
  if held then s.handArray core else s

/-- The tiles of a team's draw are flushed (R354, R352). -/
def State.flushDraw (s : State) (u : Nat) : State :=
  match s.passOf (s.team u).launch with
  | some (ctx, p) => s.writeTiles ctx p
  | none => s

/-- Write an image: everything of the team leaves its cores, whose dirty lines are written back, as the team may have read
them (R272, R361, Table 12-11). -/
def State.seal (s : State) (u : Nat) : State :=
  let t := s.team u
  let s := { s with accs := s.accs.map (fun (a : Access) => if s.ofTeam u a.ag then s.reissue a else a) }
  let cs := (List.range t.cores.length).zip t.cores
  let s := cs.foldl (fun s c => s.l1WriteBackAll c.2) s
  let s := cs.foldl (fun s c => s.strip u c.1 c.2) s
  let s := s.flushDraw u
  let k := s.launch t.launch
  let bs := Config.imageBytes s.nextAcc
  let s := s.unitWrite k.ctx ((s.queue k.queue).saveBase.toNat + Config.imageAt s.nextAcc) bs.length (ofBytes bs)
  let head : ImageHead := ⟨1, t.desc.gwidth, t.desc.nreg, t.desc.scratch, t.desc.spans⟩
  { s.setTeam u { s.team u with stat := .saved, image := some head } with nextAcc := s.nextAcc + 1 }

/-- The first poisoned word that the sealing of a team's image reads: of its scratchpad, or of a payload area (R189, R401). -/
def State.imageBad (s : State) (u : Nat) : Option Loc :=
  let t := s.team u
  match t.bad with
  | e :: _ => some (.scr u e.1 (4 * e.2))
  | [] => t.cores.findSome? (fun k => (s.core k).ring.findSome? (fun r =>
      if r.2.busy && r.2.uid == u && s.poisoned (.vault (payloadArea k r.1)) r.2.size then some (.vault (payloadArea k r.1))
      else none))

/-- IMAGE_SEAL (R271): once everything outstanding is met, a halted team's image is sealed; a poisoned word in it is a machine
check (R401). -/
def execImageSeal (u : Nat) (s : State) : Out :=
  if (s.team u).stat == .halting && s.metAll u then
    match s.imageBad u with
    | some l => .next (s.machineCheck u (s.team u).core 0x42 (BitVec.ofNat 32 l.space) l.addr 0 0 l.row)
    | none => .next (s.seal u)
  else .next s

end Sys2Proof.Machine
end

