-- ==== Sys2Proof/Machine/Replay.lean ====
section
/-! DEFINITION. The replay queue (R403 to R405), the rollback of an escrow interval (R400), and the relaunch of a killed
team (R259). -/

namespace Sys2Proof.Machine

/-! ## The replay queue -/

/-- What re-executes an instruction that is eligible for replay (R403): a form of classes 1, 2 and 3 that is no collective
and none of SRD, SWR, SFN, ACONJ, ANORM and AMUL. -/
def replayOf (i : Instr) : Option (State → Out) :=
  match i with
  | .iadd h d a b mode w64 => some (execIadd h d a b mode w64)
  | .isub h d a b mode w64 => some (execIsub h d a b mode w64)
  | .imul h d a b w64 => some (execImul h d a b w64)
  | .imulh h d a b mode => some (execImulh h d a b mode)
  | .imad h d a b c mode => some (execImad h d a b c mode)
  | .iminmax h d a b op ty => some (execIminmax h d a b op ty)
  | .bool h d a b c g1 g0 => some (execBool h d a b c g1 g0)
  | .shf h d a b c op => some (execShf h d a b c op)
  | .bfx h d a b sx => some (execBfx h d a b sx)
  | .bfi h d a b c => some (execBfi h d a b c)
  | .bitc h d a op => some (execBitc h d a op)
  | .icmp h a b w64 => some (execIcmp h a b w64)
  | .sel h d a b w64 sc => some (execSel h d a b w64 sc)
  | .mov h d a w64 => some (execMov h d a w64)
  | .movi h d imm s64 => some (execMovi h d imm s64)
  | .lea h d a b sgn scale => some (execLea h d a b sgn scale)
  | .bysel h d a b c => some (execBysel h d a b c)
  | .fadd h d a b sat rnd => some (execFadd h d a b sat rnd)
  | .fmul h d a b sat rnd => some (execFmul h d a b sat rnd)
  | .ffma h d a b c sat rnd => some (execFfma h d a b c sat rnd)
  | .fminmax h d a b op => some (execFminmax h d a b op)
  | .fcmp h a b => some (execFcmp h a b)
  | .fclass h d a mask => some (execFclass h d a mask)
  | .frnd h d a rnd => some (execFrnd h d a rnd)
  | .fscale h d a b rnd => some (execFscale h d a b rnd)
  | .dadd h d a b sat rnd => some (execDadd h d a b sat rnd)
  | .dmul h d a b sat rnd => some (execDmul h d a b sat rnd)
  | .dfma h d a b c sat rnd => some (execDfma h d a b c sat rnd)
  | .dcmp h a b => some (execDcmp h a b)
  | .hadd2 h d a b ty sat rnd => some (execHadd2 h d a b ty sat rnd)
  | .hmul2 h d a b ty sat rnd => some (execHmul2 h d a b ty sat rnd)
  | .hfma2 h d a b c ty sat rnd => some (execHfma2 h d a b c ty sat rnd)
  | .cvt h d a dst src satf rnd => some (execCvt h d a dst src satf rnd)
  | .cvth2 h d a b ty satf rnd => some (execCvth2 h d a b ty satf rnd)
  | .cvtq8 h d a b ty scl satf rnd => some (execCvtq8 h d a b ty scl satf rnd)
  | .cvtq4 h d a b scl satf rnd => some (execCvtq4 h d a b scl satf rnd)
  | .cvtw h d a op q satf rnd => some (execCvtw h d a op q satf rnd)
  | .unpq h d a b ty scl satf rnd => some (execUnpq h d a b ty scl satf rnd)
  | .srseed h a => some (execSrseed h a)
  | .i2i h d a dst src sat => some (execI2i h d a dst src sat)
  | _ => none

/-- The result and the codes of a lane when an eligible instruction acts alone on a thread as it was, with its group's key
(R404). -/
def State.laneResult (s : State) (u g l : Nat) (t : Thread) (key : DWord) (p : Word) (i : Instr) : List Word × CC :=
  let ag := Agent.thread u g l
  let k := { s.grp u g with srkey := key }
  let z := s.setGrp u g (k.setThr l { t with exited := false, park := .run })
  let z := { z.setTeam u { z.team u with stat := .running } with accs := [], cur := ⟨[ag], p⟩ }
  match (replayOf i).map (fun f => f z) with
  | some (Host.Outcome.next r) => ((z.dstOf ag i).map (r.reg ag), r.cc ag)
  | _ => ([], t.cc)

/-- Enter an instruction issued on a port, 0 or 1, of its partition into the replay queue of the port: its lanes' operands from
before, with their results and codes (R403); a hardware failure at this issue changes one lane's. The oldest of 16 leaves,
counted when no lane of it was checked (R405). -/
def State.enterReplay (s before : State) (u g side : Nat) (i : Instr) : State :=
  let ls := s.cur.agents
  if (replayOf i).isNone || ls.isEmpty then s
  else
    let k := s.grp u g
    let c := s.core k.core
    let port := 2 * k.part + side
    let key := (before.grp u g).srkey
    let upset := afind c.rqUpset s.nextSeq
    let e : RqEntry :=
      { uid := u, g := g, pc := s.cur.pc, instr := i,
        lanes := ls.map (fun ag =>
          let l := Agent.lane ag
          let t := before.thr u g l
          let r := before.laneResult u g l t key s.cur.pc i
          (l, t, key, if upset = some l then (r.1.map (fun x => ~~~x), { r.2 with c := !r.2.c }) else r)),
        unchecked := ls.map Agent.lane }
    let q := aget [] c.rq port
    let out := q.take (q.length + 1 - 16)
    let lost := (out.filter (fun x => x.unchecked.length == x.lanes.length)).length
    s.setCore k.core { c with
      rq := aput c.rq port (q.drop (q.length + 1 - 16) ++ [e]),
      rqEnter := amod 0 c.rqEnter port (fun n => n + 1),
      rqDrop := amod 0 c.rqDrop port (fun n => n + lost) }

/-- REPLAY_CHECK (R404, R405): the next lane of an entry is executed again from its saved operands; a result or a code that
differs from the one saved raises REPLAY_MISMATCH. -/
def execReplayCheck (core port n : Nat) (s : State) : Out :=
  if core ≥ 192 || port ≥ 8 then .fault .absentPart
  else
    let c := s.core core
    let q := aget [] c.rq port
    match q[n]? with
    | none => .next s
    | some e =>
      match e.unchecked with
      | [] => .next s
      | l :: rest =>
        let s := s.setCore core { c with
          rq := aput c.rq port (q.set n { e with unchecked := rest }),
          rqCheck := if rest.isEmpty then amod 0 c.rqCheck port (fun n => n + 1) else c.rqCheck }
        let same := match e.lanes.find? (fun x => x.1 == l) with
          | some (_, t, key, r) => s.laneResult e.uid e.g l t key e.pc e.instr == r
          | none => true
        if !same then
          .next (s.machineCheck e.uid core 0x41 0 0 e.pc ((e.lanes.map (fun x => x.1)).foldl min 63) none)
        else .next s

/-! ## Rollback and relaunch -/

/-- Is a killed team waiting for its recovery, with everything it had issued or sent complete (R259, R400)? -/
def State.recovering (s : State) (u : Nat) : Bool :=
  let t := s.team u
  (match t.stat with
    | .killed .. => true
    | _ => false) && !(s.launch t.launch).ended &&
  s.accs.all (fun a => !s.ofTeam u a.ag || (match a.stage with
    | .done | .trapped .. => true
    | _ => false)) &&
  s.tiles.all (fun x => x.uid != u) &&
  t.cores.all (fun k => (s.core k).slots.all (fun c => c.2.uid != u || c.2.sent.isEmpty))

/-- A group of a checkpoint, on its team's present core, slot and partition; releases counted since stay counted. -/
def Group.rolled (now was : Group) : Group :=
  { was with
    core := now.core, part := now.part, slot := now.slot, rels := now.rels + 1,
    threads := was.threads.map (fun e => (e.1, { e.2 with rels := (now.thr e.1).rels + 1 })) }

/-- Nothing of a team's work is left on its cores: contexts, copy slots, accesses. -/
def State.clearWork (s : State) (u : Nat) : State :=
  let t := s.team u
  let s := t.cores.foldl (fun s k =>
    let c := s.core k
    s.setCore k { c with
      ctxs := c.ctxs.map (fun e => (e.1, e.2.endIf u)),
      slots := c.slots.filter (fun e => e.2.uid != u) }) s
  { s with accs := s.accs.filter (fun a => !s.ofTeam u a.ag) }

/-- The array of a core as the checkpoint holds it; a team that did not hold it then gives it up (R295, R397). -/
def State.rollArray (s : State) (u core : Nat) (was : Option MArray) : State :=
  let m := (s.core core).array
  match was with
  | some w => s.setArray core { w with holder := some u, waiting := m.waiting, upset := m.upset }
  | none => if m.holder = some u then s.handArray core else s

/-- Restore a checkpoint (R400): the interval's held writes and rays are discarded, saved rows and registers restored, a
restored row's poison cleared, and the boundary's waiters go on after their BARV. -/
def State.rollback (s : State) (u : Nat) (c : Ckpt) : State :=
  let s := s.clearWork u
  let t := s.team u
  let t := { t with
    stat := .running, recov := t.recov + 1,
    groups := c.groups.map (fun e => (e.1, (t.grp e.1).rolled e.2)),
    bars := c.bars, algs := c.algs, mstatus := c.mstatus, scr := c.scr, scr2 := c.scr2,
    bad := t.bad.filter (fun e => !c.rows.contains (e.1, e.2 / 256)),
    held := t.held.take c.heldAt, rays := t.rays.take c.raysAt, rels := t.rels + 1,
    ckpt := some { c with rows := [], blocks := [] } }
  let s := s.setTeam u t
  let s := s.rollArray u t.core c.arr0
  let s := if t.desc.spans then s.rollArray u (otherCore t.core) c.arr1 else s
  (t.cores.foldl (fun s k => s.dropReplay u k) s).reevaluate u

/-- Does pre-emption hold the teams of a team's queue back (R389)? -/
def State.preempted (s : State) (u : Nat) : Bool := (s.queue (s.launch (s.team u).launch).queue).preempt

/-- A team that has recovered while its queue is pre-empted is halted at once, so that its image is written (R389). -/
def State.haltAgain (s : State) (u : Nat) : State := if s.preempted u then s.halt u else s

/-- ESCROW_ROLLBACK (R400). -/
def execEscrowRollback (u : Nat) (s : State) : Out :=
  match (s.team u).ckpt with
  | some c => if s.recovering u then .next ((s.rollback u c).haltAgain u) else .next s
  | none => .next s

/-- A pixel thread at start again: its position, its mask and its primitive's attributes (R350). -/
def pixelAgain (p : Option Prim) (t fresh : Thread) : Thread :=
  match p with
  | some p => { fresh with regs := pixelRegs p t.px.1 t.px.2 t.cover.toNat, cover := t.cover, px := t.px }
  | none => { fresh with cover := t.cover, px := t.px }

/-- A team that is relaunched keeps its number, its TEAMID, its stage, its counts and the stores, rays and children that it
holds back, with the signature of its reads; its groups start again (R259). After an abort it has none of these and is
speculative again, and the relaunch is no recovery (R392). -/
def State.relaunch (s : State) (u core : Nat) (t : Team) (ps : List Spot') : State :=
  let k := s.launch t.launch
  let again := t.stat == .aborted
  let fresh := threadStart t.desc.entry k.lr.replay
  let prim := fun (g : Group) => match g.quad with
    | some q => k.prims.find? (fun (p : Prim) => p.order == q.1)
    | none => none
  let gs := (t.groups.zip ps).map (fun e =>
    let g := e.1.2
    { groupStart k t.desc e.2 (g.threads.map (fun l => l.1)) fresh with
      quad := g.quad,
      threads := g.threads.map (fun l => (l.1, if t.stage == .pixel then pixelAgain (prim g) l.2 fresh else fresh)) })
  let s := { s with nextUid := max s.nextUid (u + 1) }
  s.enter u
    { teamStart t.launch t.teamid t.stage core t.desc gs t.order (s.payloadNow t) with
      recov := if again then t.recov else t.recov + 1, first := t.first, nonspec := !again && t.nonspec, wsig := t.wsig,
      rels := t.rels + 1, held := t.held, rays := t.rays, kids := t.kids, sig := t.sig, icinvs := t.icinvs }
    (s.image k.ctx t.desc)

/-- Does a team wait for its relaunch: killed, to recover under IDEMPOTENT (R259), or aborted (R392)? -/
def State.toRelaunch (s : State) (u : Nat) : Bool :=
  let t := s.team u
  (t.stat == .aborted && !(s.launch t.launch).ended) || (s.recovering u && t.ckpt.isNone && (s.launch t.launch).lr.idem)

/-- TEAM_RELAUNCH (R259, R392): after the saved images of its queue (R389). While the queue is pre-empted a killed team, which
is resident, starts again only to be halted and saved. -/
def execTeamRelaunch (u core : Nat) (s : State) : Out :=
  if core ≥ 192 then .fault .absentPart
  else
    let t := s.team u
    if !s.toRelaunch u || !s.mayStand t core || (if s.preempted u then t.stat == .aborted
        else s.hasSaved (s.launch t.launch).queue) then .next s
    else
      let off := (t.cores.foldl (fun s c => s.l1WriteBackAll c) s).removeTeam u
      match off.fits t.launch t.desc t.stage core (t.groups.map (fun _ => t.desc.coresAt core))
          (off.image (off.launch t.launch).ctx t.desc) with
      | some ps => .next ((off.relaunch u core t ps).haltAgain u)
      | none => .next s

end Sys2Proof.Machine
end

