-- ==== Sys2Proof/Machine/Debug.lean ====
section
/-! DEFINITION. The common time line (R406 to R410): the stop on a tick, the time series, the monitors and the dump; tokens
(R411, R412) and attestation (R423). -/

namespace Sys2Proof.Machine

/-! ## The tick, its stop and its release (R17, R407) -/

/-- Do the clocks of the compute dies run: firmware has passed, the device is not off, and no stop holds them (R407, R422,
R424)? -/
def State.clocked (s : State) : Bool := s.mgmt.boot == 1 && !s.dbg.frozen && decide (s.mgmt.pwrCur.toNat < 3)

/-- Is STOPTICK armed for the present tick (R407)? -/
def State.stopDue (s : State) : Bool := s.dbg.stopArmed && s.mgmt.stopTick.toNat == s.now

/-- STOPTICK (R407): at the start of the armed tick every clock of both dies stops. -/
def execStoptick (s : State) : Out :=
  if s.stopDue && s.clocked then
    .next { s with dbg := { s.dbg with
      frozen := true, stopArmed := false, portsWereOff := (List.range 12).all (fun n => !(s.port n).enable) } }
  else .next s

/-- CLOCK_RELEASE (R407): only when every port was disabled before the stop, and no dump has been made (R410). -/
def execClockRelease (s : State) : Out :=
  if s.dbg.frozen && s.dbg.portsWereOff && !s.dbg.dumped then
    .next { s with dbg := { s.dbg with frozen := false } }
  else .next s

/-! ## Monitors (R409) -/

/-- Add n equal samples to a monitor. -/
def Monitor.add (m : Monitor) (x n : Nat) : Monitor :=
  if n = 0 then m
  else
    { m with
      min := if m.count = 0 then x else Nat.min m.min x, max := Nat.max m.max x, count := m.count + n,
      sum := m.sum + BitVec.ofNat 64 (x * n), bins := amod 0 m.bins (Nat.min (x / 2 ^ m.w) 15) (fun k => k + n) }

/-- Monitor m of a die. -/
def Die.monitor (d : Die) (m : Nat) : Monitor := aget Monitor.zero d.monitors m

/-- Add samples to every monitor of a die that selects a source. -/
def Die.sample (d : Die) (pick : MonSrc → Option Nat) (n : Nat) : Die :=
  { d with monitors := d.monitors.map (fun e => match e.2.src.bind pick with
      | some x => (e.1, e.2.add x n)
      | none => e) }

/-- The occupancy that a source names on a die: over its cores, or of its fault queue. -/
def State.occupancy (s : State) (dn : Nat) : MonSrc → Option Nat
  | .latency _ => none
  | .copySlots => some ((s.cores.filter (fun c => dieOf c.1 == dn)).map (fun c => c.2.slots.length)).sum
  | .shadowQueue => some ((s.cores.filter (fun c => dieOf c.1 == dn)).map (fun c => c.2.rays.length)).sum
  | .taskRing =>
    some ((s.cores.filter (fun c => dieOf c.1 == dn)).map (fun c => (c.2.ring.filter (fun r => r.2.busy)).length)).sum
  | .faultQueue => some (s.die dn).faults.length

/-- Sample the occupancies for n cycles (R409). -/
def State.watch (s : State) (n : Nat) : State :=
  { s with dies := s.dies.map (fun e => (e.1, e.2.sample (s.occupancy e.1) n)) }

/-- The level of Table 8-5 at which an access of a core finds its place: its row, 0 to 7. -/
def State.levelOf (s : State) (a : Access) (hit : Bool) (l : Loc) : Nat :=
  let core := s.coreOf a.ag
  let slice := fun (v : Nat) => if v = core / 4 then 3 else if v / 24 = dieOf core then 4 else 5
  match l with
  | .scr u sd _ => if sd == (core != (s.team u).core) then 0 else 1
  | .vault x => slice (x / 2 ^ 24)
  | .hbm _ => if hit then 2 else if Config.homeMiss a.id then 6 else slice l.unit.2.1
  | .host .. => 7

/-- Sample the latency of a class-5 access as it is performed (R409, Table 8-5). -/
def State.watchAcc (s : State) (a : Access) (level : Nat) : State :=
  let x := s.tick - a.born
  let dn := dieOf (s.coreOf a.ag)
  s.setDie dn ((s.die dn).sample (fun src => if src = .latency level then some x else none) 1)

/-- Are time series and monitors open (R411)? -/
def seriesOpen : Bool := Config.lifeCycle.val != 3

/-- MONITOR_READ (R409): the host has read a monitor. -/
def execMonitorRead (dn m : Nat) (s : State) : Out :=
  if dn ≥ 2 || m ≥ 16 then .fault .absentPart
  else if seriesOpen then .next { s with dbg := { s.dbg with readout := some ((s.die dn).monitor m) } }
  else .next s

/-- MONITOR_CLEAR (R409): a monitor's statistics are cleared; its source and bin width stay. -/
def execMonitorClear (dn m : Nat) (s : State) : Out :=
  if dn ≥ 2 || m ≥ 16 then .fault .absentPart
  else if seriesOpen then
    let d := s.die dn
    let z := { Monitor.zero with src := (d.monitor m).src, w := (d.monitor m).w }
    .next (s.setDie dn { d with monitors := aput d.monitors m z })
  else .next s

/-- MONITOR_SELECT (R409). -/
def execMonitorSelect (dn m : Nat) (src : MonSrc) (w : BitVec 4) (s : State) : Out :=
  if dn ≥ 2 || m ≥ 16 then .fault .absentPart
  else if seriesOpen then
    let d := s.die dn
    .next (s.setDie dn { d with monitors := aput d.monitors m { d.monitor m with src := some src, w := w.toNat } })
  else .next s

/-! ## Time series (R408) -/

/-- TSCTL: EN in bit 0, FULL in bit 1, k in bits 12 to 8; the spec gives no places (log entry 15). -/
def tsOn (c : DWord) : Bool := c.getLsbD 0 && !c.getLsbD 1
/-- The k of TSCTL. -/
def tsK (c : DWord) : Nat := bitf c.toNat 8 5

/-- Lines held back for the teams of the four cores above a vault (R393, R398). -/
def State.linesHeld (s : State) (v : Nat) : Nat :=
  ((s.teams.filter (fun t => t.2.core / 4 == v)).map (fun t => (heldLines t.2.held).length)).sum

/-- The sum of a core's counts by port. -/
def portSum (t : List (Nat × Nat)) : Nat := (t.map (fun e => e.2)).sum

/-- The word at an offset of die d's record number n (Table 23-5); counts that only timing decides are free (log
entry 14). -/
def State.tsWord (s : State) (dn n off : Nat) : Nat :=
  let free := (Config.timingCounter dn n off).toNat
  let counted := (aget 0 s.counters (8192 * dn + off)).toNat
  if off = 0 then s.tick % 2 ^ 32
  else if off = 4 then s.tick / 2 ^ 32 % 2 ^ 32
  else if off = 8 then n
  else if off = 12 then dn + 256 * tsK s.mgmt.tsCtl
  else if off < 0x40 then 0
  else if off < 0x1840 then
    let c := s.core (96 * dn + (off - 0x40) / 64)
    match off % 64 with
    | 16 => portSum c.rqEnter
    | 20 => portSum c.rqCheck
    | 24 => portSum c.rqDrop
    | 52 => counted
    | _ => free
  else if off < 0x1B40 then if off % 16 = 12 then free else counted
  else if off < 0x1E40 then match off % 32 with
    | 20 => s.linesHeld (24 * dn + (off - 0x1B40) / 32)
    | 0 | 4 => counted
    | _ => free
  else if off < 0x1E80 then free
  else if off < 0x1EE0 then if off % 16 = 12 then free else counted
  else 0

/-- Every counter of a die restarts from zero (R408). -/
def State.clearCounts (s : State) (dn : Nat) : State :=
  { s with
    counters := s.counters.filter (fun e => e.1 / 8192 != dn),
    cores := s.cores.map (fun c => if dieOf c.1 = dn then (c.1, { c.2 with rqEnter := [], rqCheck := [], rqDrop := [] })
      else c) }

/-- Is sampling on? -/
def State.sampling (s : State) : Bool :=
  tsOn s.mgmt.tsCtl && seriesOpen && decide (10 ≤ tsK s.mgmt.tsCtl) && decide (tsK s.mgmt.tsCtl ≤ 24)

/-- Is the present tick a sample tick that has not been taken (R408)? -/
def State.sampleDue (s : State) : Bool :=
  s.sampling && s.now % 2 ^ tsK s.mgmt.tsCtl == 0 && s.dbg.latched != some s.now

/-- A die latches its counters and writes its record, at a physical address of HBM (log entry 10), or finds that the record
would pass the end of the buffer. -/
def State.latchDie (s : State) (dn : Nat) : State :=
  let n := s.dbg.samples
  let at' := 8192 * (2 * n + dn)
  if at' + 8192 > s.mgmt.tsLen.toNat then { s with mgmt := { s.mgmt with tsCtl := s.mgmt.tsCtl ||| 2 } }
  else ((List.range 1024).foldl (fun (t : State) i =>
    t.rawWrite (.hbm (s.mgmt.tsBase.toNat + at' + 8 * i)) 8 (s.tsWord dn n (8 * i) + 2 ^ 32 * s.tsWord dn n (8 * i + 4)))
    s).clearCounts dn

/-- TIME_SERIES_SAMPLE (R408): both dies latch on the same tick, in one step that either die may be named by. -/
def execTimeSeriesSample (dn : Nat) (s : State) : Out :=
  if dn ≥ 2 then .fault .absentPart
  else if s.sampleDue then
    let t := (s.latchDie 0).latchDie 1
    .next { t with dbg := { t.dbg with samples := s.dbg.samples + 1, latched := some s.now } }
  else .next s

/-! ## Dump, tokens, attestation -/

/-- FATAL_DUMP (R410): the dump of a failure of the clearing unit, the launch front end or a walker, or of a request of the
host; that of a check charged to no team is made where the check is found. -/
def execFatalDump (s : State) : Out := .next s.fatalDump

/-- What the host can read out of a dump (R410, R411): the place where it lies, once one has been made and feature 2 is
open. -/
def State.dumpReadout (s : State) : Option Nat :=
  if s.dbg.dumped && s.feature 2 then some s.mgmt.dumpBase.toNat else none

/-- Does a token pass the four checks of R412? -/
def State.tokenOk (s : State) (t : List Byte) : Bool :=
  t.length == 0xF4 && t.take 4 == [0x48, 0x4D, 0x4B, 0x31] && (t.drop 4).take 2 == [1, 0] &&
    (t.drop 0x10).take 64 == Config.deviceId && (t.drop 0x50).take 32 == Config.challenge s.dbg.challenges &&
    Config.ecdsaValid 1 (Config.sha512 (t.take 0x70)) (t.drop 0x70)

/-- TOKEN_SUBMIT (R411, R412). -/
def execTokenSubmit (t : List Byte) (s : State) : Out :=
  let d := s.dbg
  if Config.lifeCycle.val = 3 || d.refusedTokens ≥ 3 then .next s
  else if s.tokenOk t then
    .next { s with dbg := { d with
      features := d.features ||| BitVec.ofNat 3 (ofBytes ((t.drop 8).take 4)), challenges := d.challenges + 1 } }
  else .next { s with dbg := { d with refusedTokens := d.refusedTokens + 1 } }

/-- The bytes of all VSPLIT, then all VRSV registers. -/
def State.splitBytes (s : State) : List Byte :=
  (List.range 48).flatMap (fun v => bytesOf (aget 0 s.mgmt.vsplit v) 4) ++
    (List.range 48).flatMap (fun v => bytesOf (aget 16 s.mgmt.vrsv v) 4)

/-- ATTEST (R423): a 32-byte nonce is answered by a signed report; with no firmware running there is none to report. -/
def execAttest (nonce : List Byte) (s : State) : Out :=
  match s.dbg.firmware with
  | some f =>
    if nonce.length != 32 || s.mgmt.boot != 1 then .next s
    else
      let fd := Config.sha512 f.body
      let sd := Config.sha512 s.splitBytes
      let sig := Config.identitySign (Config.sha512
        (Config.reportBytes nonce fd f.version Config.lifeCycle.val sd s.now))
      .next { s with mgmt := { s.mgmt with
        attestReg := BitVec.ofNat 64 (ofBytes (nonce.take 8)), attest := some ⟨nonce, fd, f.version, Config.lifeCycle.val, sd, s.now, sig⟩ } }
  | none => .next s

end Sys2Proof.Machine
end

