-- ==== Sys2Proof/Machine/Host.lean ====
section
/-! DEFINITION. The host's side (chapter 24): the management registers (R415), power (R424), the network ports and the
remote-memory transport (R417 to R419), reset and firmware (R422). -/

namespace Sys2Proof.Machine

/-! ## Power (R424) -/

/-- A request for P0 or P1: retention is left at once, ports and parsing resume; from P3 only a reset leads out. -/
def State.wake (s : State) (p : BitVec 2) : State :=
  if s.mgmt.pwrCur = 3 then s
  else
    let s := if s.mgmt.pwrCur = 2 then { s with ports := s.ports.map (fun e => (e.1, { e.2 with up := e.2.enable })) } else s
    { s with mgmt := { s.mgmt with pwrReq := p, pwrCur := p } }

/-- A request for P2 or P3: parsing stops at a packet boundary, as clearing EN does. -/
def State.drain (s : State) (p : BitVec 2) : State :=
  if s.mgmt.pwrCur = 3 then s
  else
    { s with
      mgmt := { s.mgmt with pwrReq := p }, queues := s.queues.map (fun e => (e.1, { e.2 with hold := [] })) }

/-- POWER_REQUEST_P0 (R424). -/
def execPowerRequestP0 (s : State) : Out := .next (s.wake 0)
/-- POWER_REQUEST_P1 (R424): gating changes time only. -/
def execPowerRequestP1 (s : State) : Out := .next (s.wake 1)
/-- POWER_REQUEST_P2 (R424). -/
def execPowerRequestP2 (s : State) : Out := .next (s.drain 2)
/-- POWER_REQUEST_P3 (R424). -/
def execPowerRequestP3 (s : State) : Out := .next (s.drain 3)

/-- Is the device drained: every queue at a packet boundary, no team resident, no copy, tile or shadow-ray contribution
unapplied, no chunk unacknowledged? -/
def State.drained (s : State) : Bool :=
  s.queues.all (fun q => q.2.pkt.isNone) && s.teams.all (fun t => !s.leases t.1) && s.tiles.isEmpty &&
    s.cores.all (fun c => c.2.rays.isEmpty && c.2.slots.all (fun e => match e.2.stat with
      | .finished _ => true
      | _ => false)) &&
    s.ports.all (fun p => p.2.unacked.isEmpty && p.2.pending.isEmpty)

/-- The state after power is removed: as at reset, with the host's memory, the schedule, and the count of challenges kept;
HBM and vaults are lost (R424). -/
def State.off (s : State) : State :=
  { State.reset with
    host := s.host, hostBad := s.hostBad, turns := s.turns, nextAcc := s.nextAcc,
    dbg := { Debug.start with challenges := s.dbg.challenges },
    mgmt := { Mgmt.start with pwrReq := 3, pwrCur := 3 } }

/-- RETENTION_ENTRY (R424): the ports are disabled and P2 is reached; for P3, asked for before or in P2, power is then
removed. -/
def execRetentionEntry (s : State) : Out :=
  if s.mgmt.pwrReq.toNat < 2 || s.mgmt.pwrCur.toNat ≥ s.mgmt.pwrReq.toNat || !s.drained then .next s
  else if s.mgmt.pwrReq = 3 then .next s.off
  else .next { s with
    ports := s.ports.map (fun e => (e.1, { e.2 with up := false })), mgmt := { s.mgmt with pwrCur := 2 } }

/-! ## Management registers (R415, Table 24-1) -/

/-- Is a team of a context resident? -/
def State.residentIn (s : State) (x : Nat) : Bool := s.teams.any (fun t => s.leases t.1 && s.ctxNo t.1 == x)

/-- Is any team resident? -/
def State.anyResident (s : State) : Bool := s.teams.any (fun t => s.leases t.1)

/-- Where a 32-bit register lies: read-only ones are `false`. -/
def reg32 (off : Nat) : Option Bool :=
  let q := (off - 0x100000) % 64
  if off = 0 || off = 8 then some false
  else if off = 0x10 || off = 0x18 || off = 0x20 || off = 0x28 then some true
  else if 0x40 ≤ off && off < 0x340 + 96 && off % 8 = 0 then some true
  else if 0x80000 ≤ off && off < 0x80000 + 8 * 8192 && off % 8 = 0 then some true
  else if 0x100000 ≤ off && off < 0x100000 + 64 * 64 then
    if q = 0x10 then some false
    else if q = 0x08 || q = 0x0C || q = 0x14 || q = 0x18 || q = 0x38 then some true else none
  else none

/-- Is there a 64-bit register here? -/
def reg64 (off : Nat) : Bool :=
  let q := (off - 0x100000) % 64
  (off % 8 == 0) &&
    (decide (0x1000 ≤ off && off < 0x1040) || decide (0x40000 ≤ off && off < 0x40000 + 64 * 16) ||
      decide (0x200000 ≤ off && off < 0x1000000) ||
      (decide (0x100000 ≤ off && off < 0x100000 + 64 * 64) && (q == 0 || q == 0x20 || q == 0x28 || q == 0x30)))

/-- Change a queue by a register write. -/
def State.onQueue (s : State) (q : Nat) (f : Queue → Queue) : State := s.setQueue q (f (s.queue q))

/-- A write of QCTL (Table 22-1): EN and PREEMPT act when they change, HALT is only cleared here. -/
def State.writeQctl (s : State) (q v : Nat) : State :=
  let s := s.onQueue q (fun k =>
    let k := if nbit v 0 then k.enable else k.disable
    { k with priv := nbit v 1, halt := k.halt && nbit v 2 })
  if nbit v 3 then (if (s.queue q).preempt then s else s.preemptQueue q) else s.onQueue q (fun k => { k with preempt := false })

/-- Is n a power of two from 16 to 65,536 (Table 22-1)? -/
def ringSize (n : Nat) : Bool := (List.range 13).any (fun i => n == 2 ^ (i + 4))

/-- A 32-bit write of a writable register; none where it is refused (R415). -/
def State.write32 (s : State) (off v : Nat) : Option State :=
  let m := s.mgmt
  let keep := fun (ok : Bool) (t : State) => if ok then some t else none
  if off = 0x10 then
    if v / 4 % 64 != 0 || v / 1024 != 0 then none
    else some (match v % 4 with
      | 0 => s.wake 0
      | 1 => s.wake 1
      | 2 => s.drain 2
      | _ => s.drain 3)
  else if off = 0x18 then
    keep (decide (1200 ≤ v) && decide (v ≤ 2400)) { s with mgmt := { m with pwrCap := BitVec.ofNat 32 v } }
  else if off = 0x20 then keep (decide (v < 8192)) { s with mgmt := { m with pkgid := BitVec.ofNat 32 v } }
  else if off = 0x28 then keep (decide (v < 65536)) { s with mgmt := { m with peerType := BitVec.ofNat 32 v } }
  else if off < 0x1C0 then
    keep (decide (v ≤ 16) && !s.anyResident) { s with mgmt := { m with vsplit := aput m.vsplit ((off - 0x40) / 8) v } }
  else if off < 0x340 then
    keep (decide (v < 256) && decide (1 ≤ v / 16) && decide (v / 16 ≤ 8) && !s.anyResident)
      { s with mgmt := { m with vrsv := aput m.vrsv ((off - 0x1C0) / 8) v } }
  else if off < 0x80000 then
    let n := (off - 0x340) / 8
    let p := s.port n
    keep (decide (v < 8)) (s.setPort n { p with
      enable := nbit v 0, up := nbit v 0 && decide (m.pwrCur.toNat < 2), down := p.down && !nbit v 2 })
  else if off < 0x100000 then
    keep (decide (v < 4096)) { s with mgmt := { m with route := aput m.route ((off - 0x80000) / 8) (BitVec.ofNat 32 v) } }
  else
    let q := (off - 0x100000) / 64
    let w := BitVec.ofNat 32 v
    match off % 64 with
    | 0x08 => keep (ringSize v) (s.onQueue q (fun k => Queue.wrapped { k with size := w }))
    | 0x0C => keep (decide (v < 4)) (s.onQueue q (fun k => { k with prio := w }))
    | 0x14 => some (s.onQueue q (fun k => { k with wr := w }))
    | 0x18 => keep (decide (v < 16)) (s.writeQctl q v)
    | 0x38 => some (s.onQueue q (fun k => { k with ctx := w }))
    | _ => none

/-- IDENT (Table 24-1, R1): the stepping, family 0x73 and variant 0x00. -/
def ident : Word := BitVec.ofNat 32 (Config.stepping.toNat * 2 ^ 16 + 0x7300)

/-- What the 32-bit register at an offset reads as (Table 24-1); none where there is none. -/
def State.read32 (s : State) (off : Nat) : Option Nat :=
  let m := s.mgmt
  let k := s.queue ((off - 0x100000) / 64)
  if (reg32 off).isNone then none
  else if off = 0 then some ident.toNat
  else if off = 8 then some (m.boot.toNat + 2 ^ 31 * b2n m.refused)
  else if off = 0x10 then some (m.pwrReq.toNat + 256 * m.pwrCur.toNat)
  else if off = 0x18 then some m.pwrCap.toNat
  else if off = 0x20 then some m.pkgid.toNat
  else if off = 0x28 then some m.peerType.toNat
  else if off < 0x1C0 then some (aget 0 m.vsplit ((off - 0x40) / 8))
  else if off < 0x340 then some (aget 16 m.vrsv ((off - 0x1C0) / 8))
  else if off < 0x80000 then
    let p := s.port ((off - 0x340) / 8)
    some (b2n p.enable + 2 * b2n p.up + 4 * b2n p.down)
  else if off < 0x100000 then some (aget 0 m.route ((off - 0x80000) / 8)).toNat
  else match off % 64 with
    | 0x08 => some k.size.toNat
    | 0x0C => some k.prio.toNat
    | 0x10 => some k.rd.toNat
    | 0x14 => some k.wr.toNat
    | 0x18 => some (b2n k.en + 2 * b2n k.priv + 4 * b2n k.halt + 8 * b2n k.preempt)
    | _ => some k.ctx.toNat

/-- A write of TSCTL (log entry 15): k is checked, FULL can only be cleared, and enabling starts the sample numbers
again. -/
def State.writeTsctl (s : State) (v : DWord) : Option State :=
  let old := s.mgmt.tsCtl
  let k := tsK v
  if (v &&& ~~~(0x1F03 : DWord)) != 0 || (v.getLsbD 0 && (k < 10 || k > 24)) then none
  else
    let v := if old.getLsbD 1 then v else v &&& ~~~(2 : DWord)
    let s := if v.getLsbD 0 && !old.getLsbD 0 then { s with dbg := { s.dbg with samples := 0, latched := none } } else s
    some { s with mgmt := { s.mgmt with tsCtl := v } }

/-- A 64-bit write of a context's register i (Table 24-1): only while no kernel is resident in it. -/
def State.writeCtx (s : State) (x i : Nat) (v : DWord) : Option State :=
  let c := s.ctx x
  let n := v.toNat
  if s.residentIn x then none
  else
    let put := fun (c : Ctx) => some { s with ctxs := aput s.ctxs x c }
    match i with
    | 0 => if n % 2 ^ 21 = 0 then put { c with ptroot := v } else none
    | 1 => if n % 4096 = 0 then put { c with codebase := v } else none
    | 2 => if n < 2 ^ 48 then put { c with vread := v } else none
    | 3 => if n < 2 ^ 48 then put { c with vwrite := v } else none
    | 4 => put { c with hncsz := v }
    | 5 => put { c with hcsz := v }
    | 6 => put { c with hncb := v }
    | _ => put { c with hcb := v }

/-- A 64-bit write of a 64-bit register; none where it is refused (R415). -/
def State.write64 (s : State) (off : Nat) (v : DWord) : Option State :=
  let m := s.mgmt
  if off < 0x40000 then
    match (off - 0x1000) / 8 with
    | 0 => some { s with
        mgmt := { m with stopTick := v },
        dbg := { s.dbg with stopArmed := s.dbg.stopArmed || s.feature 0 } }
    | 1 => s.writeTsctl v
    | 2 => some { s with mgmt := { m with tsBase := v } }
    | 3 => some { s with mgmt := { m with tsLen := v } }
    | 4 => some { s with mgmt := { m with dumpBase := v } }
    | 5 => some { s with mgmt := { m with mcLost := v.toNat } }
    | 6 => some { s with mgmt := { m with token := v } }
    | _ => some { s with mgmt := { m with attestReg := v } }
  else if off < 0x100000 then
    let c := (off - 0x40000) / 64
    let i := off / 8 % 8
    if i < 3 || v = 0 then some { s with quotas := aput s.quotas c (aput (aget [] s.quotas c) i v) } else none
  else if off < 0x200000 then
    let q := (off - 0x100000) / 64
    let aligned := v.toNat % 64 == 0
    match off % 64 with
    | 0x00 => if aligned then some (s.onQueue q (fun k => { k with base := v })) else none
    | 0x20 => if aligned then some (s.onQueue q (fun k => { k with ctrBase := v })) else none
    | 0x28 => if aligned then some (s.onQueue q (fun k => { k with errBase := v })) else none
    | _ => some (s.onQueue q (fun k => { k with saveBase := v }))
  else s.writeCtx ((off - 0x200000) / 64) (off / 8 % 8) v

/-- A write is refused: BOOTSTAT bit 31 is set (R415). -/
def State.refusal (s : State) : State := { s with mgmt := { s.mgmt with refused := true } }

/-- A write of one 32-bit register, refused where it must be. -/
def State.store32 (s : State) (off v : Nat) : State :=
  match s.write32 off v with
  | some t => t
  | none => s.refusal

/-- MANAGEMENT_WRITE (R415; log entry 94): a register's own access, or a 64-bit access to the two 32-bit registers it covers, the
lower-addressed first. An access that covers no register of Table 24-1 does nothing. -/
def execManagementWrite (off : Nat) (wide : Bool) (v : DWord) (s : State) : Out :=
  if wide then
    if off % 8 != 0 then .next s.refusal
    else if reg64 off then
      match s.write64 off v with
      | some t => .next t
      | none => .next s.refusal
    else
      let lo := v.toNat % 2 ^ 32
      let hi := v.toNat / 2 ^ 32
      match reg32 off, reg32 (off + 4) with
      | none, none => .next s
      | some true, some true => .next ((s.store32 off lo).store32 (off + 4) hi)
      | some true, some false => .next (s.store32 off lo)
      | some false, some true => .next (s.store32 (off + 4) hi)
      | _, _ => .next s.refusal
  else if off % 4 != 0 || reg64 (off / 8 * 8) then .next s.refusal
  else match reg32 off with
    | some true => .next (s.store32 off (v.toNat % 2 ^ 32))
    | some false => .next s.refusal
    | none => .next s

/-- PORT_DOWN_CLEAR (R415): DOWN is sticky until 1 is written to it. -/
def execPortDownClear (n : Nat) (s : State) : Out :=
  if n ≥ 12 then .fault .absentPart else .next (s.setPort n { s.port n with down := false })

/-! ## The network (R417 to R419) -/

/-- The offset of a port's words in its die's record (Table 23-5). -/
def portWord (n : Nat) : Nat := 0x1E80 + 16 * (n % 6)

/-- Is a port's link open? -/
def Port.linked (p : Port) : Bool := p.enable && p.up

/-- A port receives a flit: its silence ends (R419). -/
def State.hear (s : State) (n : Nat) : State := (s.setPort n { s.port n with lastRx := s.tick }).tally (n / 6) (portWord n + 4)

/-- HEARTBEAT_RECEIVE (R419). -/
def execHeartbeatReceive (n : Nat) (s : State) : Out :=
  if n ≥ 12 then .fault .absentPart else if (s.port n).linked then .next (s.hear n) else .next s

/-- 10 µs in ticks (R17, R419). -/
def tenMicros : Nat := 24000

/-- HEARTBEAT_SEND (R419): every 10 µs. -/
def execHeartbeatSend (n : Nat) (s : State) : Out :=
  if n ≥ 12 then .fault .absentPart
  else
    let p := s.port n
    if p.linked && decide (s.tick ≥ p.lastBeat + tenMicros) then
      .next ((s.setPort n { p with heartbeats := p.heartbeats + 1, lastBeat := s.tick }).tally (n / 6) (portWord n))
    else .next s

/-- The sent chunk that a port's sequence number stands for: its core, slot, and itself. -/
def State.netChunk (s : State) (n seq : Nat) : Option (Nat × Nat × CopySlot × SentChunk) :=
  s.cores.findSome? (fun k => k.2.slots.findSome? (fun e =>
    (e.2.sent.find? (fun x => x.net == some (n, seq))).map (fun x => (k.1, e.1, e.2, x))))

/-- PEER_ACK_RECEIVE (R418, R419): the chunk is credited, or stops its copy with COPY_PROT. -/
def execPeerAckReceive (n seq : Nat) (prot : Bool) (s : State) : Out :=
  if n ≥ 12 then .fault .absentPart
  else if !(s.port n).linked then .next s
  else
    let s := s.hear n
    let p := s.port n
    let s := s.setPort n { p with unacked := p.unacked.filter (fun u => u.1.seq != seq) }
    match s.netChunk n seq with
    | none => .next s
    | some (core, k, c, e) =>
      if prot then
        let st := match c.stat with
          | .sending => CopyStat.stopping 3
          | x => x
        let c := { c with sent := c.sent.filter (fun x => x.id != e.id), stat := st, idx := min c.idx e.chunk }
        .next ((s.setSlot core k c).settleCopy core k)
      else .next (s.ackChunk core k e)

/-- CHUNK_RETRANSMIT (R419): a chunk unacknowledged for 20 µs is sent again. -/
def execChunkRetransmit (n seq : Nat) (s : State) : Out :=
  if n ≥ 12 then .fault .absentPart
  else
    let p := s.port n
    if p.linked && p.unacked.any (fun u => u.1.seq == seq && decide (s.tick ≥ u.2.2.2 + 2 * tenMicros)) then
      let s := s.setPort n { p with unacked := p.unacked.map (fun u =>
        if u.1.seq = seq then (u.1, u.2.1, u.2.2.1, s.tick) else u) }
      .next ((s.tally (n / 6) (portWord n)).tally (n / 6) (portWord n + 8))
    else .next s

/-- A copy's chunks on a silent port are given up, and it stops with COPY_PROT; IDX and CHUNK name the first chunk not
acknowledged (R419). -/
def CopySlot.cut (c : CopySlot) (n : Nat) : CopySlot :=
  let on := fun (x : SentChunk) => match x.net with
    | some (p, _) => p == n
    | none => false
  if c.sent.any on then
    let first := (c.sent.filter on).foldl (fun m x => min m x.chunk) c.next
    { c with
      sent := c.sent.filter (fun x => !on x), idx := first,
      stat := match c.stat with
        | .stopping x => .stopping x
        | .finished x => .finished x
        | _ => .stopping 3 }
  else c

/-- PORT_DOWN (R419): 80 µs of silence set DOWN, post a fault record of kind copy of its own (log entry 93), and stop the port's copies. -/
def execPortDown (n : Nat) (s : State) : Out :=
  if n ≥ 12 then .fault .absentPart
  else
    let p := s.port n
    if p.linked && !p.down && decide (s.tick ≥ p.lastRx + 8 * tenMicros) then
      let s := s.setPort n { p with down := true, unacked := [] }
      let s := (s.postRecord (n / 6) 65535 0 0 .copy).1
      let hit := s.cores.flatMap (fun k => (k.2.slots.filter (fun e => e.2.cut n != e.2)).map (fun e => (k.1, e.1)))
      .next (hit.foldl (fun s h =>
        match s.slot? h.1 h.2 with
        | some c => (s.setSlot h.1 h.2 (c.cut n)).settleCopy h.1 h.2
        | none => s) s)
    else .next s

/-- The places of a received chunk's elements, in context 0 (R418): found, missing at an address, or turned away. -/
def State.peerSpots (s : State) (op : PortOp) : List (Nat × List Byte) → Except (Option Nat) (List Held)
  | [] => .ok []
  | (a, bs) :: t =>
    let c := s.ctx 0
    let here : Except (Option Nat) Loc :=
      if a ≥ 2 ^ 62 then
        let x := a - 2 ^ 62
        let v := x / 2 ^ 24
        let ok := decide (x < 48 * 2 ^ 24) && decide (x % 2 ^ 24 + bs.length ≤ s.vaultBytes v) && c.vwrite.getLsbD v &&
          (op == .write || c.vread.getLsbD v)
        if ok then .ok (.vault x) else .error none
      else if a + bs.length > 2 ^ 57 then .error none
      else match (walkFrom s [] 0 a 4 c.ptroot.toNat).1 with
        | .ok e => if e.r && e.w then .ok (.hbm (e.ppn * 4096 + a % 4096)) else .error none
        | .missing => .error (some a)
        | .bad _ => .error none
    match here with
    | .error x => .error x
    | .ok l =>
      match s.peerSpots op t with
      | .ok hs => .ok (Held.of l bs.length op (ofBytes bs) :: hs)
      | .error x => .error x

/-- The update that a received chunk makes (R237). -/
def ChunkFlit.portOp (f : ChunkFlit) : PortOp :=
  match f.op with
  | none => .write
  | some (rop, ty) =>
    CopyF.portOp ⟨false, false, rop, ty, .grp, false, false, false, false, none⟩

/-- Answer a chunk: an acknowledgement is sent, with COPY_PROT where it was turned away. -/
def State.sendAck (s : State) (n seq : Nat) (prot : Bool) : State :=
  (s.setPort n { s.port n with acks := (s.port n).acks ++ [(seq, prot)] }).tally (n / 6) (portWord n)

/-- Does a number applied before stay in memory when x is applied: that of another pair of ports, or one less than 2^30 away
from x on the circle of 2^32 numbers, so that a number comes to be new again when the pair's numbers have gone round (R419,
log entry 93)? -/
def near (x y : Nat) : Bool :=
  let d := (x % 2 ^ 32 + 2 ^ 32 - y % 2 ^ 32) % 2 ^ 32
  decide (y / 2 ^ 32 ≠ x / 2 ^ 32) || decide (d < 2 ^ 30) || decide (3 * 2 ^ 30 < d)

/-- Apply a received chunk whose pages are there, then acknowledge it (R419). A chunk that would consume a poisoned word is
a machine check charged to no team, and a fatal error (R401, R410). -/
def State.takeChunk (s : State) (n : Nat) (f : ChunkFlit) : State :=
  match s.peerSpots (ChunkFlit.portOp f) f.elems with
  | .error none => s.sendAck n f.seq true
  | .error (some va) =>
    let (s, k) := s.postFaultOn (n / 6) 65535 0 va .copy
    s.setPort n { s.port n with pending := (s.port n).pending ++ [(f, n / 6, k)] }
  | .ok hs =>
    match hs.find? (fun h => h.op != .write && s.poisoned h.loc h.n) with
    | some h => s.unitCheck (n / 6) (Loc.space h.loc) h.loc.addr
    | none =>
      let s := s.applyHeld hs
      (s.setPort n { s.port n with rxSeen := (s.port n).rxSeen.filter (near f.seq) ++ [f.seq] }).sendAck n f.seq false

/-- PEER_CHUNK_RECEIVE (R419): a sequence number already applied is discarded and acknowledged again. -/
def execPeerChunkReceive (n : Nat) (f : ChunkFlit) (s : State) : Out :=
  if n ≥ 12 then .fault .absentPart
  else if !(s.port n).linked then .next s
  else
    let s := s.hear n
    let p := s.port n
    if p.rxSeen.contains f.seq then .next (s.sendAck n f.seq false)
    else if p.pending.any (fun x => x.1.seq == f.seq) then .next s
    else .next (s.takeChunk n f)

/-! ## Reset and firmware (R422) -/

/-- The boot code of an image (Table 24-2): 0x00 for a header without 'XFW1'. -/
def FwImage.bootCode (f : FwImage) : BitVec 8 :=
  if f.magic != 0x31574658 then 0
  else if Config.sha512 f.body != f.digest then 2
  else if !Config.ecdsaValid 0 f.digest f.sig then 3
  else if f.version < Config.minVersion then 4
  else if !f.trains then 5
  else 1

/-- The boot ROM checks an image: only a passing one starts the device. -/
def State.boot (s : State) (f : FwImage) : State :=
  { s with mgmt := { s.mgmt with boot := FwImage.bootCode f }, dbg := { s.dbg with firmware := some f } }

/-- RESET (R422, R412): every part at its reset value; the memories keep what they hold (log entry 25), and the device
makes a new challenge. -/
def execReset (f : FwImage) (s : State) : Out :=
  let lost := s.mgmt.pwrCur = 3
  let z : State :=
    { State.reset with
      hbm := if lost then [] else s.hbm, hbmBad := if lost then [] else s.hbmBad, vault := if lost then [] else s.vault,
      vaultBad := if lost then [] else s.vaultBad, host := s.host, hostBad := s.hostBad, turns := s.turns,
      nextAcc := s.nextAcc, dbg := { Debug.start with challenges := s.dbg.challenges + 1 } }
  .next (z.boot f)

/-- FIRMWARE_IMAGE (R422): in reset hold the device accepts only a new image. -/
def execFirmwareImage (f : FwImage) (s : State) : Out :=
  if s.mgmt.boot = 1 || s.mgmt.pwrCur = 3 then .next s else .next (s.boot f)

end Sys2Proof.Machine
end

