-- ==== Sys2Proof/Machine/Sampler.lean ====
section
/-! DEFINITION. The sampler and neural latent textures (chapter 17): descriptors and level geometry, texel indices, the
decoder network, filtering, the weight cache, SAMP and SAMPINV. -/

namespace Sys2Proof.Machine

/-! ## Descriptors and levels (R316, R317) -/

/-- A texture descriptor as read (Table 17-1). -/
structure Tex where
  base : Nat
  table : Nat
  log2w : Nat
  log2h : Nat
  nlev : Nat
  flags : Nat
  gen : Nat
  rest : Nat
deriving DecidableEq, Repr

/-- The fields of 64 bytes. -/
def Tex.read (x : Nat) : Tex :=
  ⟨bitf x 0 64, bitf x 64 64, bitf x 128 8, bitf x 136 8, bitf x 144 8, bitf x 152 8, bitf x 160 16, bitf x 176 336⟩

/-- W_l (R317). -/
def Tex.width (t : Tex) (l : Nat) : Nat := max (2 ^ t.log2w / 2 ^ l) 2
/-- H_l (R317). -/
def Tex.height (t : Tex) (l : Nat) : Nat := max (2 ^ t.log2h / 2 ^ l) 2

/-- LEVBASE(l) (R317). -/
def Tex.levBase (t : Tex) (l : Nat) : Nat :=
  t.base + ((List.range l).map (fun m => 8 * (t.width m / 2) * (t.height m / 2))).sum

/-- Does a descriptor keep the limits of Table 17-1 and R317? -/
def Tex.ok (t : Tex) : Bool :=
  t.base % 8 == 0 && t.table % 64 == 0 && decide (t.table + 1152 ≤ 2 ^ 57) && decide (1 ≤ t.log2w) &&
    decide (t.log2w ≤ 14) && decide (1 ≤ t.log2h) && decide (t.log2h ≤ 14) && decide (1 ≤ t.nlev) &&
    decide (t.nlev ≤ max t.log2w t.log2h) && t.flags / 16 == 0 && t.rest == 0 && decide (t.levBase t.nlev ≤ 2 ^ 57)

/-- CELL(l, ix, iy) (R317). -/
def Tex.cell (t : Tex) (l ix iy : Nat) : Nat := t.levBase l + 8 * (iy / 2 * (t.width l / 2) + ix / 2)

/-- A texel: its level and indices. -/
abbrev TexelAt := Nat × Nat × Nat

/-- An index wrapped or clamped to a size (R318). -/
def wrapIdx (wrap : Bool) (i : Int) (n : Nat) : Nat :=
  if wrap then (i % (n : Int)).toNat else (max 0 (min i (n - 1 : Int))).toNat

/-- A coordinate, +0 where it is no finite number (R318). -/
def coord (w : Word) : X := if (xf w).finite then xf w else .zero false

/-- The level of detail, clamped (R318). -/
def lodOf (w : Word) (nlev : Nat) : X :=
  let x := xf w
  if x == .nan then .zero false else xmin (xmax x (.int 0)) (.int (nlev - 1 : Int))

/-- The number of 256ths of x above its floor (R318). -/
def frac256 (x : X) : Nat := ((x.add false (.int (-x.floor))).mul (.int 256)).floor.toNat

/-- The texel of `near` at a level (R318). -/
def Tex.nearAt (t : Tex) (u v : X) (l : Nat) : TexelAt :=
  (l, wrapIdx (nbit t.flags 0) (u.mul (.int (t.width l))).floor (t.width l),
    wrapIdx (nbit t.flags 1) (v.mul (.int (t.height l))).floor (t.height l))

/-- The four texels of `bil` at a level, in the order 00, 10, 01, 11, with the fractions in 256ths (R318). -/
def Tex.bilAt (t : Tex) (u v : X) (l : Nat) : List TexelAt × Nat × Nat :=
  let half := X.dy (-1) (-1)
  let x := (u.mul (.int (t.width l))).add false half
  let y := (v.mul (.int (t.height l))).add false half
  let ix := fun (k : Nat) => wrapIdx (nbit t.flags 0) (x.floor + k) (t.width l)
  let iy := fun (k : Nat) => wrapIdx (nbit t.flags 1) (y.floor + k) (t.height l)
  ([(l, ix 0, iy 0), (l, ix 1, iy 0), (l, ix 0, iy 1), (l, ix 1, iy 1)], frac256 x, frac256 y)

/-! ## The decoder (R319 to R321) -/

/-- A weight table, 1,152 bytes as a number. -/
abbrev WTable := BitVec 9216

/-- Byte i of a table. -/
def WTable.byte (t : WTable) (i : Nat) : Nat := bitf t.toNat (8 * i) 8

/-- Does a table's header agree with Table 17-2? -/
def WTable.ok (t : WTable) : Bool :=
  bitf t.toNat 0 80 == 0x04_10_10_0C_0001_4345444C && decide (WTable.byte t 10 ≤ 1) && bitf t.toNat 88 168 == 0

/-- The f16 at byte i of a table. -/
def WTable.weight (t : WTable) (i : Nat) : X := f16.toX (bitf t.toNat (8 * i) 16)

/-- One layer at byte `at'` of a table (R320). -/
def WTable.layer (t : WTable) (at' : Nat) (xs : List X) (nout : Nat) (relu : Bool) : List X :=
  (List.range nout).map (fun u =>
    let o := at' + 2 * (xs.length + 1) * u
    let s := (xs.zip (List.range xs.length)).foldl (fun s p =>
      xf (rfn (s.add false ((WTable.weight t (o + 2 * (p.2 + 1))).mul p.1)))) (WTable.weight t o)
    let s := if relu && s != .nan && s.le (.int 0) then .zero false else s
    f16.toX (f16.round s .rn 0 false).bits)

/-- The four outputs for position p of a cell (R320). -/
def WTable.decode (t : WTable) (cell p : Nat) : List X :=
  let x := (List.range 8).map (fun i => e4m3.toX (bitf cell (8 * i) 8)) ++
    (List.range 4).map (fun i => if i = p then X.int 1 else .zero false)
  let h1 := t.layer 0x20 x 16 true
  let h2 := t.layer 0x1C0 h1 16 true
  t.layer 0x3E0 h2 4 false

/-- The greatest m < 2^n with m^5 × b ≤ a, bit by bit. -/
def fifthRoot (a b : Nat) : Nat → Nat → Nat
  | 0, m => m
  | n + 1, m => if (m + 2 ^ n) ^ 5 * b ≤ a then fifthRoot a b n (m + 2 ^ n) else fifthRoot a b n m

/-- S(n / 255) of IEC 61966-2-1, rounded to f32 (R321): x^2.4 is the fifth root of x^12, with a sticky bit below it. -/
def srgbOf (n : Nat) : Word :=
  if n = 0 then 0
  else if n ≤ 10 then rfn (.fin false (n * 100 : Nat) (255 * 1292) 0)
  else if n ≥ 255 then 0x3F800000
  else
    let p := n * 1000 + 55 * 255
    let q := 255 * 1055
    rfn (.dy (2 * fifthRoot (p ^ 12 * 2 ^ 300) (q ^ 12) 61 0 + 1 : Nat) (-61))

/-- Component c of a texel from the network's output (R321). -/
def texelComp (data srgb : Bool) (c : Nat) (o : X) : Word :=
  if data then rfn o
  else if o == .nan then nanf
  else
    let x := if o.le (.int 0) then .zero false else xmin o (.int 1)
    if srgb && decide (c < 3) then srgbOf (roundFix 32 false 0 (x.mul (.int 255)) .rn 0).bits else rfn x

/-- A decoded texel (R320, R321). -/
def WTable.texel (t : WTable) (data : Bool) (cell ix iy : Nat) : List Word :=
  let o := t.decode cell (iy % 2 * 2 + ix % 2)
  (o.zip (List.range 4)).map (fun p => texelComp data (WTable.byte t 10 == 1) p.2 p.1)

/-! ## Filtering (R322) -/

/-- RoundTo(w · t). -/
def wmul (w : X) (t : Word) : Word := rfn (w.mul (xf t))

/-- B of four texels of one component, the weights in 65536ths (R322). -/
def bilinear (fx fy : Nat) (t : List Word) : Word :=
  let w := fun (a b : Nat) => X.dy ((a * b : Nat) : Int) (-16)
  let r := fun i => t.getD i 0
  addf (addf (addf (wmul (w (256 - fx) (256 - fy)) (r 0)) (wmul (w fx (256 - fy)) (r 1))) (wmul (w (256 - fx) fy) (r 2)))
    (wmul (w fx fy) (r 3))

/-- The texels a request names, with the fractions of its filter (R318). -/
structure SampPlan where
  texels : List TexelAt
  fx0 : Nat
  fy0 : Nat
  fx1 : Nat
  fy1 : Nat
  fl : Nat
deriving DecidableEq, Repr

/-- The plan of a request (R318). -/
def Tex.plan (t : Tex) (filt : Filter) (u v lam : Word) : SampPlan :=
  let x := coord u
  let y := coord v
  let d := lodOf lam t.nlev
  let l0 := d.floor.toNat
  match filt with
  | .near => ⟨[t.nearAt x y l0], 0, 0, 0, 0, 0⟩
  | .bil =>
    let (ts, fx, fy) := t.bilAt x y l0
    ⟨ts, fx, fy, 0, 0, 0⟩
  | .tri =>
    let l1 := min (l0 + 1) (t.nlev - 1)
    let (ts, fx, fy) := t.bilAt x y l0
    let (us, gx, gy) := t.bilAt x y l1
    ⟨ts ++ us, fx, fy, gx, gy, frac256 d⟩

/-- One component of the filtered result from the decoded texels' component (R322). -/
def SampPlan.filter (p : SampPlan) (filt : Filter) (t : List Word) : Word :=
  match filt with
  | .near => t.headD 0
  | .bil => bilinear p.fx0 p.fy0 t
  | .tri =>
    let w := fun (k : Nat) => X.dy (k : Int) (-8)
    addf (wmul (w (256 - p.fl)) (bilinear p.fx0 p.fy0 t)) (wmul (w p.fl) (bilinear p.fx1 p.fy1 (t.drop 4)))

/-! ## The weight cache (R323, R324) -/

/-- The entry of a key, with its use noted. -/
def State.useWeights (s : State) (smp table gen : Nat) : Option (State × WTable) :=
  let p := s.pair smp
  match p.wcache.find? (fun e => e.table.toNat == table && e.gen.toNat == gen) with
  | none => none
  | some e =>
    let w := p.wcache.map (fun x => if x = e then { x with used := p.wuse + 1 } else x)
    some (s.setPair smp { p with wcache := w, wuse := p.wuse + 1 }, e.copy)

/-- The entry used longest ago. -/
def oldestWeights (es : List WEntry) : Option WEntry :=
  es.foldl (fun b e => match b with
    | some x => if e.used < x.used then some e else some x
    | none => some e) none

/-- Keep a sound copy of a table, replacing the least recently used of 16. -/
def State.keepWeights (s : State) (smp table gen : Nat) (t : WTable) : State :=
  let p := s.pair smp
  let es := p.wcache.filter (fun e => !(e.table.toNat == table && e.gen.toNat == gen))
  let es := if es.length < 16 then es
    else match oldestWeights es with
      | some x => es.filter (fun e => e != x)
      | none => es
  s.setPair smp { p with
    wcache := es ++ [⟨BitVec.ofNat 64 table, BitVec.ofNat 16 gen, t, p.wuse + 1⟩], wuse := p.wuse + 1 }

/-- The bytes of a table as its home slices hold them (R323). -/
def State.homeTable (s : State) (ag : Agent) (table : Nat) : State × Got Nat :=
  andThen (s.findPieces ag 0 .read .sampler (linePieces table 1152)) (fun s ps =>
    match ps.find? (fun p => s.poisoned (.hbm p.1) p.2) with
    | some p => (s, .poison (.hbm p.1))
    | none => (s, .ok (ps.foldr (fun p x => s.rawRead (.hbm p.1) p.2 + 2 ^ (8 * p.2) * x) 0)))

/-- Is a fill under way for this key? -/
def WFill.isFor (f : WFill) (table gen : Nat) : Bool := f.table.toNat == table && f.gen.toNat == gen

/-- The words that a fill under way in a context has read of a table (R324). -/
def State.filledWords (s : State) (smp ctx table gen : Nat) : List (Nat × Nat) :=
  (((s.pair smp).wfills.find? (fun f => f.ctx == ctx && f.isFor table gen)).map (fun f => f.words)).getD []

/-- A copy of a table: the words that its fill has read, and the others as they are now. -/
def copyOf (words : List (Nat × Nat)) (now : Nat) : WTable :=
  BitVec.ofNat 9216 ((List.range 144).foldr (fun i x => aget (bitf now (64 * i) 64) words i % 2 ^ 64 + 2 ^ 64 * x) 0)

/-- Replace the fill under way of a key by one of a context with the words read, or end the fill: a key has one fill
(R323). -/
def State.setFill (s : State) (smp ctx table gen : Nat) (words : List (Nat × Nat)) : State :=
  let p := s.pair smp
  let rest := p.wfills.filter (fun f => !f.isFor table gen)
  s.setPair smp { p with
    wfills := if words.isEmpty then rest else rest ++ [⟨ctx, BitVec.ofNat 64 table, BitVec.ofNat 16 gen, words⟩] }

/-- Count a miss of a weight cache for each fill begun (Table 23-5, log entry 95). -/
def State.tallyFill (s : State) (smp ctx table gen : Nat) : State :=
  if (s.filledWords smp ctx table gen).isEmpty then s.tally (smp / 48) (0x1840 + 16 * (smp % 48) + 8) else s

/-- A fill ends with the words not yet read as they are now; a malformed copy is not kept (R323). -/
def State.endFill (s : State) (smp ctx table gen now : Nat) : State × WTable :=
  let w := copyOf (s.filledWords smp ctx table gen) now
  let s := (s.tallyFill smp ctx table gen).setFill smp ctx table gen []
  (if WTable.ok w then s.keepWeights smp table gen w else s, w)

/-- Does a request of a sampler that is not yet served name this key? Its descriptor is read when the lane's own earlier
accesses let it be (R178). -/
def State.wantsKey (s : State) (smp : Nat) (table : DWord) (gen : BitVec 16) (a : Access) : Bool :=
  match a.op, a.stage with
  | .samp .., .ready | .samp .., .issued =>
    s.coreOf a.ag / 2 == smp && !s.det a.ag && s.clearFor a.id a &&
      (match (s.readVa a.ag a.id true .sampler a.ea 64).2 with
        | .ok x => let t := Tex.read x
          t.ok && t.table == table.toNat && t.gen == gen.toNat
        | _ => false)
  | _, _ => false

/-- The agent in whose context the fill of a key goes on: that of the request it was begun for, while a request of its
context waits for it, as every request that misses on the key does (R323); else the agent given. -/
def State.fillAgent (s : State) (smp : Nat) (ag : Agent) (table gen : Nat) : Agent :=
  match (s.pair smp).wfills.find? (fun f => f.isFor table gen) with
  | none => ag
  | some f =>
    if f.ctx = s.ctxNo (s.uidOf ag) then ag
    else ((s.accs.find? (fun a => s.ctxNo (s.uidOf a.ag) == f.ctx && s.wantsKey smp f.table f.gen a)).map
      (fun a => a.ag)).getD ag

/-- The table of a request: the cache's copy, or that of a fill which now ends; as plain loads under DET (R323, R330). -/
def State.getTable (s : State) (ag : Agent) (before : Nat) (t : Tex) : State × Got WTable :=
  let smp := s.coreOf ag / 2
  if s.det ag then andThen (s.readVa ag before true .sampler t.table 1152) (fun s x => (s, .ok (BitVec.ofNat 9216 x)))
  else match s.useWeights smp t.table t.gen with
    | some (s, w) => (s, .ok w)
    | none =>
      let o := s.fillAgent smp ag t.table t.gen
      match s.homeTable o t.table with
      | (r, .ok x) =>
        let (r, w) := r.endFill smp (s.ctxNo (s.uidOf o)) t.table t.gen x
        (r, .ok w)
      | r => if o = ag then andThen r (fun s _ => (s, .wait)) else (s, .wait)

/-! ## SAMP (R325, R327) -/

/-- SAMP (R327): the descriptor's address is checked at issue, and the result arrives later. -/
def execSamp (h : Hdr) (d a b c : Reg) (filt : Filter) (s : State) : Out :=
  perLane (.samp h d a b c filt) (fun ag s =>
    s.issueRay ag h (s.reg64 ag a).toNat 64 64 5 d
      (.samp (s.reg ag b) (s.reg ag (regAt b 1)) (s.reg ag c) filt)) s

/-- How a request ends: its five registers, or SAMPLE_TABLE with the table's address. -/
inductive SampOut where
  | vals (ws : List Word)
  | trap (status table : Nat)
deriving DecidableEq, Repr

/-- The end of a request with an error status (R325). -/
def Tex.failed (t : Tex) (status : Nat) : SampOut :=
  if nbit t.flags 3 then .trap status t.table else .vals [0, 0, 0, 0, BitVec.ofNat 32 status]

/-- The result of a request from its cells and table (R320 to R322, R325). -/
def Tex.result (t : Tex) (filt : Filter) (p : SampPlan) (cells : List Nat) (w : WTable) : SampOut :=
  let ts := (p.texels.zip cells).map (fun e => w.texel (nbit t.flags 2) e.2 e.1.2.1 e.1.2.2)
  let nan := ts.any (fun x => x.any (fun v => xf v == .nan))
  .vals ((List.range 4).map (fun c => p.filter filt (ts.map (fun x => x.getD c 0))) ++ [BitVec.ofNat 32 (8 * b2n nan)])

/-- SAMP performs its reads (R325, R327): DESC, then PROT, then TABLE. -/
def State.performSamp (s : State) (a : Access) (u v lam : Word) (filt : Filter) : State × Got SampOut :=
  match s.readVa a.ag a.id true .sampler a.ea 64 with
  | (s, .ok x) =>
    let t := Tex.read x
    if !t.ok then (s, .ok (t.failed 2))
    else
      let p := t.plan filt u v lam
      match s.readMany a.ag a.id true .sampler (p.texels.map (fun e => (t.cell e.1 e.2.1 e.2.2, 8))) with
      | (s, .ok cells) =>
        match s.getTable a.ag a.id t with
        | (s, .ok w) => (s, .ok (if WTable.ok w then t.result filt p cells w else t.failed 1))
        | (s, .bad ..) => (s, .ok (t.failed 4))
        | (s, .wait) => (s, .wait)
        | (s, .missing d n) => (s, .missing d n)
        | (s, .poison l) => (s, .poison l)
      | (s, .bad ..) => (s, .ok (t.failed 4))
      | (s, .wait) => (s, .wait)
      | (s, .missing d n) => (s, .missing d n)
      | (s, .poison l) => (s, .poison l)
  | (s, .bad r v) => (s, .bad r v)
  | (s, .wait) => (s, .wait)
  | (s, .missing d n) => (s, .missing d n)
  | (s, .poison l) => (s, .poison l)

/-- A step of a fill (R324): it reads some of the words not yet read, in no fixed order (log entry 88), and the last of them
end the fill. -/
def State.fillStep (s : State) (smp ctx table gen now : Nat) : State :=
  let old := s.filledWords smp ctx table gen
  let left := (List.range 144).filter (fun i => (afind old i).isNone)
  let new := left.filter (Config.fillsWord s.nextAcc)
  let s := { s with nextAcc := s.nextAcc + 1 }
  if new.isEmpty || new.length == left.length then (s.endFill smp ctx table gen now).1
  else (s.tallyFill smp ctx table gen).setFill smp ctx table gen (old ++ new.map (fun i => (i, bitf now (64 * i) 64)))

/-- WEIGHT_CACHE_FILL (R323, R324): the fill that a pending request of the sampler asked for goes on. -/
def execWeightCacheFill (smp : Nat) (table : DWord) (gen : BitVec 16) (s : State) : Out :=
  if smp ≥ 96 then .fault .absentPart
  else match s.accs.find? (s.wantsKey smp table gen) with
    | none => .next s
    | some a =>
      if (s.useWeights smp table.toNat gen.toNat).isSome then .next s
      else
        let o := s.fillAgent smp a.ag table.toNat gen.toNat
        match s.homeTable o table.toNat with
        | (r, .ok x) => .next (r.fillStep smp (s.ctxNo (s.uidOf o)) table.toNat gen.toNat x)
        | (r, .missing d n) => .next (if o = a.ag then r.putAcc { a with stage := .held d n } else s)
        | _ => .next s

/-! ## SAMPINV (R328, R330) -/

/-- Drop entries of a sampler's weight cache, and its fills under way: all, or those of one table. -/
def State.dropWeights (s : State) (smp : Nat) (table : Option DWord) : State :=
  let p := s.pair smp
  let keep := fun (x : DWord) => match table with
    | some t => x != t
    | none => false
  s.setPair smp { p with
    wcache := p.wcache.filter (fun e => keep e.table), wfills := p.wfills.filter (fun f => keep f.table) }

/-- SAMPINV (R328): the release action first, which waits for the lane's earlier accesses. -/
def execSampinv (h : Hdr) (adr : Option Reg) (dev : Bool) (s : State) : Out :=
  perLane (.sampinv h adr dev) (fun ag s =>
    if !s.settled ag then .stay (s.setPark ag .again)
    else
      let s := s.releaseAction ag .dev
      if s.det ag then .done s
      else
        let smps := if dev then List.range 96 else [s.coreOf ag / 2]
        .park (smps.foldl (fun s p => s.dropWeights p (adr.map (fun r => s.reg64 ag r))) s) .sampinv) s

/-- SAMPINV_ACKNOWLEDGEMENT (R328). -/
def execSampinvAcknowledgement (ag : Agent) (s : State) : Out :=
  if s.traps ag && s.park ag == .sampinv then .next (s.release ag) else .next s

end Sys2Proof.Machine
end

