-- ==== Sys2Proof/Machine/Events.lean ====
section
/-! DEFINITION. What happens to work on its way: the fetch of a line (R31), walks (R269), ports (R175), results (R45), late
traps (R46), the host's answers to faults (R270), and empty slots (R32). -/

namespace Sys2Proof.Machine

/-! ## Fetch (R31, R269, R371) -/

/-- A group's lanes or a context meet a line that is not there: they wait on its fault, take PAGE_PROT, or their team takes
a machine check (R31, R189, R269). -/
def State.fetchFails (s : State) (ags : List Agent) (p : Word) (f : Fetched) : State :=
  match ags with
  | [] => s
  | ag :: _ =>
    let u := s.uidOf ag
    let core := s.coreOf ag
    let va := (s.ctx (s.ctxNo u)).codebase.toNat + p.toNat
    let prot := fun (s : State) (r : Nat) (ag : Agent) =>
      s.raiseAs ag [] ⟨0x0B, BitVec.ofNat 64 r, BitVec.ofNat 64 va⟩
    match f with
    | .line _ => s
    | .missing d n =>
      ags.foldl (fun s ag => if s.refusedAt ag va then prot s 4 ag else s.setPark ag (.fault d n false)) s
    | .prot r _ => ags.foldl (fun s ag => prot s r ag) s
    | .parity => s.machineCheck u core 0x43 0 0 p (Agent.lane ag) none
    | .poison pa => s.machineCheck u core 0x42 0 pa p (Agent.lane ag) none

/-- Does an agent stand at an instruction boundary, in a team that issues? -/
def State.atBoundary (s : State) (ag : Agent) : Bool :=
  s.live ag && (s.team (s.uidOf ag)).stat == .running && s.park ag == .run

/-- FETCH_LINE (R31): the line of an agent's PC is fetched before it is issued from. -/
def execFetchLine (ag : Agent) (s : State) : Out :=
  if !s.atBoundary ag then .next s
  else match s.fetchFor ag (s.pc ag) with
    | (t, .prot _ _) => .next t
    | (t, f) => .next (t.fetchFails [ag] (s.pc ag) f)

/-- EMPTY_SLOT (R32, R51): ILLEGAL under an unsound line word; otherwise one issue, and the PC advances. -/
def execEmptySlot (lw : Word) (s : State) : Out :=
  .next (s.cur.agents.foldl (fun s ag =>
    if !s.live ag then s else if lineReserved lw then s.raiseAs ag [] trapIllegal else s.advance ag) s)

/-! ## Forms of several reads: TBOX, TTRI, SAMP, draws and CPEEK -/

/-- What such a form comes to: its registers and codes, or a late trap. -/
inductive Multi where
  | vals (ws : List Word) (f : Option CC)
  | trap (cause : Nat) (val addr : DWord)
deriving DecidableEq, Repr

/-- Perform such a form (R206, R209, R327, R334, R335). -/
def State.multiRun (s : State) (a : Access) : State × Got Multi :=
  let z := fun (b : Bool) => if a.w then some (zFlag b) else none
  match a.op with
  | .tbox ray =>
    andThen (s.readVa a.ag a.id false .load a.ea 128) (fun s x =>
      (s, .ok (.vals (tboxValue ray x).1 (z (tboxValue ray x).2))))
  | .ttri ray cull =>
    andThen (s.readVa a.ag a.id false .load a.ea 36) (fun s x =>
      (s, .ok (.vals (ttriValue ray (triWords x) cull).1 (z (ttriValue ray (triWords x) cull).2))))
  | .samp u v lam filt =>
    andThen (s.performSamp a u v lam filt) (fun s o => match o with
      | .vals ws => (s, .ok (Multi.vals ws (z (ws.getD 4 0 == 0))))
      | .trap st t => (s, .ok (Multi.trap 0x1B (BitVec.ofNat 64 st) (BitVec.ofNat 64 t))))
  | .draw form keys ch k => andThen (s.performDraw a form keys ch k) (fun s ws => (s, .ok (.vals ws none)))
  | .peek key ch k => andThen (s.performPeek a key ch k) (fun s ws => (s, .ok (.vals ws a.flags)))
  | _ => (s, .wait)

/-- Does a store, an update or a tile that has to complete come after an access in its agent's program order (R178, R179,
Table 12-10)? -/
def State.needed (s : State) (a : Access) : Bool :=
  (s.accsOf a.ag).any (fun b => decide (a.id < b.id) && b.op.stands && !b.past) ||
    s.tiles.any (fun t => t.ags.contains a.ag && decide (a.id < t.mark))

/-- May work of an access's team go on: the team runs, or a store or update of a halted or killed one completes, and a
halted one's loads that such a store comes after (R259, R271)? -/
def State.acts (s : State) (a : Access) : Bool :=
  match (s.team (s.uidOf a.ag)).stat with
  | .running => true
  | .halting => a.op.stands || s.needed a
  | .killed .. => a.op.stands
  | _ => false

/-- The stall of an agent's cohort on EMIT.payload or SHRAY goes on as far as it can (R339, R345). -/
def State.tryStall (s : State) (ag : Agent) : State :=
  match ag, s.park ag with
  | .thread u g _, .stall i n _ => s.retryStall u g n i
  | _, _ => s

/-- What may go on once an agent's work has come further: FENCE (R181), EMIT.payload (R345) and EXIT (R87). -/
def State.resume (s : State) (ag : Agent) : State := ((s.tryFence ag).tryStall ag).tryEnd ag

/-- An access of several places is turned away at one of them. -/
def State.trapBad (s : State) (a : Access) (r va : Nat) : State :=
  s.trapAcc a (badTrap r va).cause (badTrap r va).val (badTrap r va).addr

/-- The first walk of a form of several reads: a page that is missing holds it, one that turns it away traps it. -/
def State.walkMulti (s : State) (a : Access) : State :=
  match s.multiRun a with
  | (t, .missing d n) => t.putAcc { a with stage := .held d n }
  | (t, .bad r va) => t.trapBad a r va
  | _ => s.putAcc { a with stage := .ready }

/-- PAGE_WALK (R269). -/
def execPageWalk (id : Nat) (s : State) : Out :=
  match s.accs.find? (fun a => a.id == id) with
  | none => .next s
  | some a =>
    if a.stage != .issued || !s.acts a then .next s
    else match a.op with
      | .known _ => .next s
      | _ => .next ((if a.op.multi then s.walkMulti a else s.walkAcc a).resume a.ag)

/-- The texels that a filter names (R318). -/
def Filter.texels : Filter → Nat
  | .near => 1
  | .bil => 4
  | .tri => 8

/-- Count a request that a sampler has served, and the texels decoded for it: those that its filter names, or none where it
fails (Table 23-5, log entry 95). -/
def State.tallySamp (s : State) (a : Access) (failed : Bool) : State :=
  match a.op with
  | .samp _ _ _ filt =>
    let p := s.coreOf a.ag / 2
    let at' := 0x1840 + 16 * (p % 48)
    let s := s.tally (p / 48) at'
    if failed then s else (List.range (Filter.texels filt)).foldl (fun s _ => s.tally (p / 48) (at' + 4)) s
  | _ => s

/-- A form of several reads is performed once its agent's earlier accesses allow it. -/
def State.performMulti (s : State) (a : Access) : State :=
  match s.multiRun a with
  | (t, .ok (.vals ws f)) =>
    (t.tallySamp a ((ws.getD 4 0).toNat % 8 != 0)).putAcc { a with stage := .done, vals := ws, flags := f }
  | (t, .ok (.trap c v x)) => (t.tallySamp a true).trapAcc a c v x
  | (_, .wait) => s
  | (t, .missing d n) => t.putAcc { a with stage := .held d n }
  | (t, .bad r va) => t.trapBad a r va
  | (t, .poison l) => t.poisonAcc a l

/-- Does an access find its line in L1: a plain load or store that neither passes L1 by nor is held back (R172)? -/
def State.hitsL1 (s : State) (a : Access) (l : Loc) : Bool :=
  match l, a.op with
  | .hbm pa, .load _ | .hbm pa, .store _ =>
    !s.pastL1 a && !s.holds (s.uidOf a.ag) && (s.l1Find (s.coreOf a.ag) (pa / 64)).isSome
  | _, _ => false

/-- The machine checks found so far, logged or lost (R402). -/
def State.checks (s : State) : Nat := (s.dies.map (fun d => d.2.mclog.length)).sum + s.mgmt.mcLost

/-- Has an access been performed between two states: it has its value, or, as a store that returns none, it has left without
a machine check? -/
def State.performed (s t : State) (a : Access) : Bool :=
  match t.accs.find? (fun b => b.id == a.id) with
  | some b => b.stage == .done
  | none => s.traps a.ag && t.checks == s.checks

/-- One access of a run reaches its port, and a monitor may sample its latency (R175, R409; log entry 95). -/
def State.performOne (s : State) (half : Bool) (id : Nat) : State :=
  match s.accs.find? (fun a => a.id == id) with
  | none => s
  | some a =>
    let l := s.placeOf a 0
    let level := s.levelOf a (s.hitsL1 a l) l
    let t := s.performAcc a half
    (if a.watched && s.performed t a then t.watchAcc a level else t).resume a.ag

/-- The accesses of a run reach their unit one after the other; an update of the non-coherent window that has read its word
holds the rest until it has written it (R370). -/
def State.performRun (half : Bool) : List Nat → State → State
  | [], s => s
  | id :: t, s =>
    let s := s.performOne half id
    if s.accs.any (fun a => a.id == id && (match a.stage with
      | .fetched _ => true
      | _ => false)) then s
    else s.performRun half t

/-- Is it a request of a sampler? -/
def AccOp.samples : AccOp → Bool
  | .samp .. => true
  | _ => false

/-- The engine that serves cohorts in the order in which they reach it: the sampler of a pair (R315), the box pipe or the
triangle pipe of a core (R336); draws have none. -/
def State.engineOf (s : State) (a : Access) : Option (Nat × Nat) :=
  match a.op with
  | .samp .. => some (0, s.coreOf a.ag / 2)
  | .tbox _ => some (1, s.coreOf a.ag)
  | .ttri .. => some (2, s.coreOf a.ag)
  | _ => none

/-- The requests of one instruction's lanes that are served as one unit, in ascending lane order: all but those that a page
holds up (R175, R315, R325, R336). -/
def State.cohortRun (s : State) (a : Access) : List Access :=
  s.accs.filter (fun b => b.op.multi && b.seq == a.seq && !b.past && !s.pageHeld b)

/-- Is it the turn of a request's cohort: every request of it that no page holds up may be performed, and no earlier cohort
has one at its engine that goes on? -/
def State.cohortTurn (s : State) (a : Access) : Bool :=
  (s.cohortRun a).all s.mayPerform && ((s.engineOf a).isNone ||
    s.accs.all (fun b => !(decide (b.seq < a.seq) && s.engineOf b == s.engineOf a && !b.past && !s.pageHeld b && s.acts b)))

/-- The requests of a cohort are performed one after the other; none of them when one must wait. -/
def State.performCohort : List Nat → State → Option State
  | [], s => some s
  | id :: t, s =>
    match s.accs.find? (fun b => b.id == id) with
    | none => s.performCohort t
    | some b => if (s.multiRun b).2 = .wait then none else ((s.performMulti b).resume b.ag).performCohort t

/-- The unit of several reads that an access belongs to is performed (R175). -/
def State.serveMulti (s : State) (a : Access) : State :=
  if s.mayPerform a && s.cohortTurn a then (s.performCohort ((s.cohortRun a).map (fun b => b.id))).getD s else s

/-- PORT_UPDATE (R175): the accesses of one instruction to one unit, in one uninterrupted run; or a chunk of a copy. -/
def execPortUpdate (id : Nat) (half : Bool) (s : State) : Out :=
  match s.accs.find? (fun a => a.id == id) with
  | none =>
    match s.findChunk id with
    | some (core, n, c, e) => .next (s.applyChunk core n c e)
    | none => .next s
  | some a =>
    if !s.acts a then .next s
    else if a.op.multi then .next (s.serveMulti a)
    else if s.mayRun a then .next (s.performRun half ((s.portRun a).map (fun b => b.id)))
    else .next s

/-- LONG_LATENCY_RESULT (R45): the results of an instruction that have arrived are written once their windows have closed,
those of its lanes together (log entry 91). -/
def execLongLatencyResult (id : Nat) (s : State) : Out :=
  match s.accs.find? (fun a => a.id == id) with
  | none => .next s
  | some a =>
    if (s.team (s.uidOf a.ag)).stat != .running then .next s
    else
      let mine := s.accs.filter (fun b => b.seq == a.seq && s.uidOf b.ag == s.uidOf a.ag)
      let s := { s with accs := s.accs.map (fun (b : Access) =>
        if b.seq = a.seq && s.uidOf b.ag == s.uidOf a.ag then b.arrive else b) }
      .next (mine.foldl (fun s b => (s.settleAccs b.ag).resume b.ag) s)

/-- LATE_TRAP_DELIVERY (R46): at an instruction boundary, the pending ones first. -/
def execLateTrapDelivery (ag : Agent) (s : State) : Out :=
  if !s.atBoundary ag then .next s
  else match s.takePend ag (s.pc ag) with
    | some t => .next t
    | none =>
      match s.takeLate ag (s.pc ag) with
      | some t => .next t
      | none => .next s

/-- MDRST_TILE_APPLY (R294, R310): a tile without its page is translated first; what its signers wait with goes on once it
has been applied (R87, R181). -/
def execMdrstTileApply (id : Nat) (s : State) : Out :=
  match s.tiles.find? (fun t => t.id == id) with
  | none => .next s
  | some t =>
    let (s, t, bad) := if t.stage == .issued then s.tileWalk t else (s, t, none)
    match bad with
    | some r => .next (s.dropTile t r)
    | none =>
      let s := { s with tiles := s.tiles.map (fun (x : Tile) => if x.id = t.id then t else x) }
      if s.tileReady t then
        match s.tilePoison t with
        | some l =>
          let s := { s with tiles := s.tiles.filter (fun x => x.id != t.id) }
          .next (s.machineCheck t.uid (s.tileCore t) 0x42 (BitVec.ofNat 32 (spaceNo t.space)) l.addr t.pc t.lane l.row)
        | none => .next (t.ags.foldl State.resume (s.applyTile t))
      else .next s

/-! ## Answers to faults (R270) -/

/-- A lane or context held on a fault that is mapped runs its instruction. -/
def Park.mapped (p : Park) (d n : Nat) : Park :=
  match p with
  | .fault e k b => if e = d && k = n then (if b then .again else .run) else p
  | _ => p

/-- A lane or context held on a fault that is refused runs its instruction into PAGE_PROT. -/
def Park.denied (va : Nat) (p : Park) (d n : Nat) : Park :=
  match p with
  | .fault e k b => if e = d && k = n then .refused va b else p
  | _ => p

/-- Change the parks of every lane and context, saved ones included. -/
def State.mapParks (s : State) (f : Park → Park) : State :=
  { s with
    teams := s.teams.map (fun t => (t.1, { t.2 with
      imgCtxs := t.2.imgCtxs.map (fun c => (c.1, { c.2.1 with park := f c.2.1.park }, c.2.2)),
      groups := t.2.groups.map (fun g => (g.1, { g.2 with
        threads := g.2.threads.map (fun l => (l.1, { l.2 with park := f l.2.park })) })) })),
    cores := s.cores.map (fun k => (k.1, { k.2 with
      ctxs := k.2.ctxs.map (fun c => (c.1, { c.2 with park := f c.2.park })) })) }

/-- Change the copies held on a fault, saved ones included. -/
def State.mapHeld (s : State) (d n : Nat) (st : CopyStat) : State :=
  let f := fun (c : CopySlot) => if c.stat = .held d n then { c with stat := st } else c
  { s with
    teams := s.teams.map (fun t => (t.1, { t.2 with imgSlots := t.2.imgSlots.map (fun e => (e.1, f e.2)) })),
    cores := s.cores.map (fun k => (k.1, { k.2 with slots := k.2.slots.map (fun e => (e.1, f e.2)) })) }

/-- A record leaves its queue, and the first that waited for room enters it. -/
def Die.answered (d : Die) (n : Nat) : Die :=
  let fs := d.faults.filter (fun f => f.num != n)
  match d.waiting with
  | [] => { d with faults := fs }
  | w :: ws => if fs.length < 256 then { d with faults := fs ++ [w], waiting := ws } else { d with faults := fs }

/-- A parser that waited for a fault goes on; a refused page is noted (R380). -/
def Queue.answered (q : Queue) (d n : Nat) (deny : Option Nat) : Queue :=
  if q.wait == some (d, n) then { q with wait := none, deny := deny } else q

/-- A queue's answer for every parser. -/
def State.mapQueues (s : State) (f : Queue → Queue) : State := { s with queues := s.queues.map (fun e => (e.1, f e.2)) }

/-- The rays held on a fault go on. -/
def State.freeRays (s : State) (d n : Nat) : State :=
  { s with cores := s.cores.map (fun k => (k.1, { k.2 with
      rays := k.2.rays.map (fun (r : Ray) => if r.held == some (d, n) then { r with held := none } else r) })) }

/-- The accesses and tiles held on a fault are walked again. -/
def State.walkAgain (s : State) (d n : Nat) : State :=
  { s with
    accs := s.accs.map (fun (a : Access) => if a.stage == .held d n then { a with stage := .issued } else a),
    tiles := s.tiles.map (fun (t : Tile) => if t.stage == .held d n then { t with stage := .issued } else t) }

/-- The received chunks that waited for a fault leave their ports: each with its port. -/
def State.takePending (s : State) (d n : Nat) : State × List (Nat × ChunkFlit) :=
  let here := fun (x : ChunkFlit × Nat × Nat) => x.2.1 == d && x.2.2 == n
  ({ s with ports := s.ports.map (fun p => (p.1, { p.2 with pending := p.2.pending.filter (fun x => !here x) })) },
    s.ports.flatMap (fun p => (p.2.pending.filter here).map (fun x => (p.1, x.1))))

/-- FAULT_ANSWER_MAP (R270): every access held on the fault is translated again. -/
def execFaultAnswerMap (dn n : Nat) (s : State) : Out :=
  if dn ≥ 2 then .fault .absentPart
  else match (s.die dn).faults.find? (fun f => f.num == n) with
    | none => .next s
    | some _ =>
      let s := s.setDie dn ((s.die dn).answered n)
      let s := ((s.walkAgain dn n).freeRays dn n).mapQueues (fun q => q.answered dn n none)
      let s := (s.mapHeld dn n .sending).mapParks (fun p => p.mapped dn n)
      let (s, cs) := s.takePending dn n
      .next (cs.foldl (fun s c => s.takeChunk c.1 c.2) s)

/-- The signers of due MALG bodies that wait for a fault of a die, on a page of a context: each body's signers with its
record's address. Those of a team that is halted or saved are among them (R270). -/
def State.malgWaiters (s : State) (dn ctx va : Nat) : List (List Agent × Nat) :=
  s.teams.flatMap (fun t => if !(t.2.stat == .running || t.2.stat == .halting || t.2.stat == .saved) || s.ctxNo t.1 != ctx then []
    else t.2.groups.flatMap (fun g => if dieOf g.2.core != dn then [] else (List.range 12).filterMap (fun m =>
      let here := g.2.nextBody m
      match here with
      | [] => none
      | l :: _ =>
        match (g.2.thr l).park with
        | .signed _ _ (.malg _ a _ false _) =>
          let x := (s.reg64 (.thread t.1 g.1 l) a).toNat
          if x / 4096 = va / 4096 then some (here.map (Agent.thread t.1 g.1), x) else none
        | _ => none)))

/-- The first ray of a core that a refused fault holds, dropped; again while there is one. -/
def State.dropRays (s : State) (core d n : Nat) : Nat → State
  | 0 => s
  | k + 1 =>
    match (s.core core).rays.findIdx? (fun r => r.held == some (d, n)) with
    | none => s
    | some i =>
      match (s.core core).rays[i]? with
      | none => s
      | some r => (s.walkerDrop core i r).dropRays core d n k

/-- The address of an access on the page of a refused fault: the first of its own there; of a form of several places, the
fault record's (log entry 79). -/
def State.ownVa (s : State) (a : Access) (va : Nat) : Nat :=
  (((piecesOf a.len).filterMap (fun p => s.va a.ag a.space (a.ea + p.1))).find? (fun v => v / 4096 == va / 4096)).getD va

/-- SAMP meets a refused fault on a cell or its table: status PROT, or SAMPLE_TABLE with TRAPERR (R325). -/
def State.refuseSamp (s : State) (a : Access) : State :=
  match s.readVa a.ag a.id true .sampler a.ea 64 with
  | (s, .ok x) =>
    match (Tex.read x).failed 4 with
    | .vals ws => s.putAcc { a with stage := .done, vals := ws, flags := if a.w then some (zFlag false) else none }
    | .trap st t => s.trapAcc a 0x1B (BitVec.ofNat 64 st) (BitVec.ofNat 64 t)
  | (s, .missing d n) => s.putAcc { a with stage := .held d n }
  | (s, .bad r v) => s.trapBad a r v
  | (s, .poison l) => s.poisonAcc a l
  | (s, .wait) => s.putAcc { a with stage := .ready }

/-- An access held on a refused fault takes PAGE_PROT with reason 4 (R270), but for a cell or table of SAMP (R325). -/
def State.refuseAcc (s : State) (a : Access) (va : Nat) : State :=
  if a.op.samples && a.ea / 4096 != va / 4096 then s.refuseSamp a
  else s.trapAcc a 0x0B 4 (BitVec.ofNat 64 (s.ownVa a va))

/-- FAULT_ANSWER_REFUSE (R270): each held access takes PAGE_PROT with reason 4, or COPY_PROT for a copy; a tile is dropped
(R294), and so is a ray (R340). -/
def execFaultAnswerRefuse (dn n : Nat) (s : State) : Out :=
  if dn ≥ 2 then .fault .absentPart
  else match (s.die dn).faults.find? (fun f => f.num == n) with
    | none => .next s
    | some f =>
      let s := s.setDie dn ((s.die dn).answered n)
      let mine := s.accs.filter (fun a => a.stage == .held dn n)
      let s := mine.foldl (fun s a => (s.refuseAcc a f.va).resume a.ag) s
      let tiles := s.tiles.filter (fun t => t.stage == .held dn n)
      let s := tiles.foldl (fun s t => s.dropTile t 4) s
      let s := (akeys s.cores).foldl (fun s k => s.dropRays k dn n (s.core k).rays.length) s
      let s := s.mapQueues (fun q => q.answered dn n (some f.va))
      let s := s.mapParks (fun p => Park.denied f.va p dn n)
      let hit := s.cores.flatMap (fun k => (k.2.slots.filter (fun e => e.2.stat == .held dn n)).map (fun e => (k.1, e.1)))
      let s := s.mapHeld dn n (.stopping 3)
      let s := hit.foldl (fun s h => s.settleCopy h.1 h.2) s
      let s := (s.malgWaiters dn f.ctx f.va).foldl (fun s w => s.trapAll w.1 ⟨0x0B, 4, BitVec.ofNat 64 w.2⟩) s
      let (s, cs) := s.takePending dn n
      .next (cs.foldl (fun s c => s.sendAck c.1 c.2.seq true) s)

end Sys2Proof.Machine
end

