-- ==== Sys2Proof/Machine/Issue.lean ====
section
/-! DEFINITION. What happens before and after an instruction's own effect: which lanes of a group are ready (R75), the
cohort, the windows that its issue closes (R45), the late traps it delivers (R46), the entry of launch-level replay
(R216), the fetch and decoding of the slot (R28, R31, R51), the bursar's turn (R226), and the replay queue (R403). -/

namespace Sys2Proof.Machine

/-! ## Interlocks (R43, R45) -/

/-- The registers that an instruction reads: its operands but its destination. -/
def State.sources (s : State) (ag : Agent) (i : Instr) : List Reg :=
  let t := s.team (s.uidOf ag)
  let os := Instr.opds (t.desc.gwidth == 64) t.algDim i
  (if hasDst i then os.drop 1 else os).flatMap Opd.regs

/-- Does an instruction read the condition codes? -/
def readsCodes (i : Instr) : Bool :=
  (match Instr.hdr i with
    | some h => h.cnd != .al
    | none => false) ||
  (match i with
    | .iadd _ _ _ _ m _ | .isub _ _ _ _ m _ => m == .ci
    | .sel .. => true
    | _ => false)

/-- The accesses of an agent as its next instruction finds them, once its issue has closed windows (R45). -/
def State.atIssue (s : State) (ag : Agent) : List Access :=
  if (s.park ag).goesOn then s.seenAccs ag else (s.seenAccs ag).map (Access.tick s.tick)

/-- Does an instruction of an agent wait for a result that it reads: one whose window is closed and that is not yet
written (R45, R75)? -/
def State.interlocked (s : State) (ag : Agent) (i : Instr) : Bool :=
  let srcs := s.sources ag i
  let mine := s.atIssue ag
  let due := dueOf [] mine
  mine.any (fun a => a.left == none && !a.traps && !due.any (fun b => b.id == a.id) &&
    (a.dst.any (fun r => r != vz && srcs.contains r) || (a.w && readsCodes i)))

/-- Does an instruction access memory for its agent (R179)? -/
def touchesMemory (i : Instr) : Bool :=
  match i with
  | .ld .. | .ldv .. | .ldk .. | .st .. | .stv .. | .atom .. | .red .. | .cas .. | .fence .. | .cctl .. | .draw .. | .drawb ..
  | .drawi .. | .drawn .. | .drawt .. | .cpeek .. | .csetup .. | .cresult .. | .crestart .. | .caccept .. | .ccmp ..
  | .malg .. | .mwld .. | .mgath .. | .mdrst .. | .spush .. | .spop .. | .samp .. | .tbox .. | .ttri .. | .shray ..
  | .emitPayload .. | .copy .. | .launch .. => true
  | _ => false

/-- Is an access or a tile of an instruction a release (R179, R310)? -/
def releases (i : Instr) : Bool :=
  match i with
  | .ld _ _ _ f _ | .ldv _ _ _ f | .ldk _ _ _ f _ | .st _ _ _ f | .stv _ _ _ f | .atom _ _ _ _ f _ | .red _ _ _ f _
  | .cas _ _ _ _ _ f => f.ord == .rel || f.ord == .ar
  | .mdrst _ _ _ _ _ _ rel _ _ => rel
  | _ => false

/-- The earlier accesses that hold an instruction back: an acquire that has not completed, and, before a release, every
access that has not been performed (R179). -/
def State.holders (s : State) (ag : Agent) (i : Instr) : List Access :=
  if touchesMemory i then
    (s.accsOf ag).filter (fun a => a.stage != .done && (match a.op with
      | .known _ => false
      | _ => a.ord == .acq || a.ord == .ar || releases i))
  else []

/-- Is an instruction held back by accesses, or tiles, that are still to be performed? One that has been found to trap never
is: its window closes, and it is delivered at this boundary (log entry 89). -/
def State.heldBack (s : State) (ag : Agent) (i : Instr) : Bool :=
  (s.holders ag i).any (fun a => !a.traps) || (releases i && s.tiles.any (fun t => t.ags.contains ag))

/-! ## The next instruction (R28, R32, R51) -/

/-- What a slot holds: an instruction, an empty slot, or a word that is not an instruction. -/
inductive Slot where
  | instr (i : Instr)
  | illegal
deriving DecidableEq, Repr

/-- Read a PC's slot of its line: an unsound line word first, then VALID, then the word (R51). -/
def slotAt (l : Line) (p : Word) : Slot :=
  let n := slotOf p
  if lineReserved l.word then .illegal
  else if !lineValid l.word n then .instr (.emptySlot l.word)
  else match decode (l.slot n) with
    | .ok i => .instr i
    | .error _ => .illegal

/-- The slot at an agent's PC, where a fetch of its line finds one (R31). -/
def State.nextSlot (s : State) (ag : Agent) : Option Slot :=
  let p := s.pc ag
  match (s.fetchFor ag p).2 with
  | .line l => some (slotAt l p)
  | _ => none

/-! ## Ready lanes and the cohort (R75) -/

/-- May an agent go on to a slot: it waits for no operand of its instruction and no earlier access holds it back, or a late
trap is due (R45, R46, R179)? -/
def State.mayTake (s : State) (x : Slot) (ag : Agent) : Bool :=
  match x with
  | .instr i => (!s.interlocked ag i && !s.heldBack ag i) || !(s.dueTraps ag).isEmpty
  | .illegal => true

/-- May an agent issue: it acts, is not parked, waits for no retried access and no operand? An agent whose line a fetch does
not find meets that when it issues. -/
def State.readyAg (s : State) (ag : Agent) : Bool :=
  s.live ag && (s.team (s.uidOf ag)).stat == .running && !s.retrying ag &&
  (match s.park ag with
    | .run | .again | .refused .. => true
    | _ => false) &&
  (match s.nextSlot ag with
    | some x => s.mayTake x ag
    | none => true)

/-- The ready lanes of a group, ascending; none while the debugger holds it (R262). -/
def State.readyLanes (s : State) (u g : Nat) : List Nat :=
  let k := s.grp u g
  if k.stopped then [] else (List.range k.width).filter (fun l => s.readyAg (.thread u g l))

/-- The lowest PC of lanes. -/
def State.lowestPc (s : State) (u g : Nat) (ls : List Nat) : Nat :=
  ls.foldl (fun p l => min p (s.thr u g l).pc.toNat) (2 ^ 32)

/-- The cohort of the ready lanes: the lowest PC, of starving lanes first (R75). -/
def State.cohortOf (s : State) (u g : Nat) (ready : List Nat) : List Nat :=
  let hungry := ready.filter (fun l => (s.thr u g l).starve ≥ 64)
  let p := s.lowestPc u g (if hungry.isEmpty then ready else hungry)
  ready.filter (fun l => (s.thr u g l).pc.toNat == p)

/-- Count the starvation of a group's ready lanes at an issue of the cohort (R75). -/
def State.starveStep (s : State) (u g : Nat) (ready cohort : List Nat) : State :=
  ready.foldl (fun s l =>
    let t := s.thr u g l
    s.setThr u g l { t with starve := if cohort.contains l then 0 else t.starve + 1 }) s

/-! ## Before an instruction of a lane -/

/-- Does an instruction wait behind accesses that have been found to trap (R179; log entry 89)? -/
def State.stuck (s : State) (x : Slot) (ag : Agent) : Bool :=
  match x with
  | .instr i => !(s.holders ag i).isEmpty
  | .illegal => false

/-- The windows that the issue closes, then the late traps due at this boundary: the agent, if it still issues (R45,
R46). -/
def State.beforeLane (s : State) (x : Slot) (ag : Agent) : State × Bool :=
  let p := s.pc ag
  let s := if (s.park ag).goesOn then s else s.tickWindows ag
  let s := if s.stuck x ag then s.closeWindows ag else s
  match s.takePend ag p with
  | some s => (s, false)
  | none =>
    match s.takeLate ag p with
    | some s => (s, false)
    | none => (s, s.live ag)

/-- Prepare the agents of an issue; those that still issue. -/
def State.beforeAll (s : State) (x : Slot) (ags : List Agent) : State × List Agent :=
  ags.foldl (fun (r : State × List Agent) ag =>
    match r.1.beforeLane x ag with
    | (s, true) => (s, r.2 ++ [ag])
    | (s, false) => (s, r.2)) (s, [])

/-! ## Launch-level replay (R216) -/

/-- The 64-byte entry of a thread, at its index in the grid; a mesh thread's without the 2^40 of R190 (log entry 78). -/
def State.entryAddr (s : State) (u g l : Nat) : Nat := (s.launch (s.team u).launch).lr.mutarr + 64 * s.threadIndex u g l

/-- Set MUT0 to MUT3, SBASE and CHITER from an entry (Table 9-10). -/
def ChState.fromEntry (c : ChState) (x : Nat) : ChState :=
  { c with
    muts := (List.range 4).map (fun n => (n, BitVec.ofNat 64 (bitf x (8 * (8 + 8 * n)) 64))),
    sbase := BitVec.ofNat 64 (bitf x (8 * 0x28) 64), iter := BitVec.ofNat 32 (bitf x (8 * 0x30) 32) }

/-- The entry has been loaded, or its check has failed. -/
def State.booted (s : State) (ag : Agent) : State :=
  match ag with
  | .thread u g l => s.setThr u g l { s.thr u g l with boot := false }
  | .ctx .. => s

/-- A form that could not go on: what its lane does. -/
def LaneOut.settle (o : LaneOut) (ag : Agent) : State :=
  match o with
  | .trap s t => s.booted ag |>.raiseAs ag [] t
  | .done s | .jump s _ | .park s _ | .stay s => s

/-- A thread loads its entry before its first instruction: the checks of CSETUP.rep, then the entry's descriptors, then the
effects of both (R216). Nonzero reserved bytes raise CHOICE_RECORD with TRAPVAL 0, and after any CHOICE_RECORD no effect
is made (log entry 100). -/
def State.bootLane (s : State) (u g l : Nat) : State :=
  let ag := Agent.thread u g l
  match s.readVa ag s.nextAcc false .load (s.entryAddr u g l) 64 with
  | (s, .ok x) =>
    let base := bitf x 0 64
    match s.setupTrap ag base with
    | some t => (s.booted ag).raiseAs ag [] t
    | none =>
      if bitf x (8 * 0x34) 96 != 0 then (s.booted ag).raiseAs ag [] ⟨0x12, 0, BitVec.ofNat 64 base⟩
      else match s.loadRecord ag base with
      | (s, .ok (some c)) =>
        match ((List.range 4).map (fun n => BitVec.ofNat 64 (bitf x (8 * (8 + 8 * n)) 64))).find? mutBad with
        | some m => (s.booted ag).raiseAs ag [] ⟨0x12, m, c.base⟩
        | none => ((s.setCh ag (c.fromEntry x)).booted ag).setPark ag .run
      | (s, .ok none) => (s.booted ag).raiseAs ag [] ⟨0x12, 0, BitVec.ofNat 64 base⟩
      | (s, g') => (g'.stop ag s).settle ag
  | (s, g') => (g'.stop ag s).settle ag

/-! ## The group's key (R149) -/

/-- A group has read its key. A checkpoint written at the team's start holds it too, as a rollback to it reads no key
again. -/
def State.keyed (s : State) (u g : Nat) (x : DWord) : State :=
  let put := fun (k : Group) => { k with srkey := x, unkeyed := false }
  let t := s.team u
  s.setTeam u { t.setGrp g (put (t.grp g)) with
    ckpt := t.ckpt.map (fun (c : Ckpt) => { c with groups := c.groups.map (fun e => if e.1 = g then (e.1, put e.2) else e) }) }

/-- A group's key cannot be read: a double fault of the team (R149; an offset beyond a mesh payload likewise, log
entry 87). -/
def State.keyFault (s : State) (u : Nat) (t : Trap) : State :=
  s.doubleFault u t.cause (s.team u).desc.entry 0 t.val t.addr

/-- The lane that reads a group's key: one whose read the host has refused, else the first. -/
def State.keyLane (s : State) (u g : Nat) (ready : List Nat) : Nat :=
  let va := s.argBase (.thread u g 0) + (s.team u).desc.keyval.toNat
  (ready.find? (fun l => s.refusedAt (.thread u g l) va)).getD (ready.headD 0)

/-- With KEYSRC 2 a group reads its key as a plain load of its argument space before its first instruction; a page fault
delays the start (R149). -/
def State.keyGroup (s : State) (u g : Nat) (ready : List Nat) : State :=
  let ag := Agent.thread u g (s.keyLane u g ready)
  let t := s.team u
  let off := t.desc.keyval.toNat
  let core := s.coreOf ag
  let poison := fun (s : State) (l : Loc) => s.machineCheck u core 0x42 4 l.addr t.desc.entry 0 none
  match t.payload with
  | some (a, n) =>
    if off + 8 > n then s.keyFault u (badTrap 0 off)
    else if s.poisoned (.vault (a + off)) 8 then poison s (.vault (a + off))
    else s.keyed u g (BitVec.ofNat 64 (s.rawRead (.vault (a + off)) 8))
  | none =>
    let va := s.argBase ag + off
    match s.readVa ag s.nextAcc false .load va 8 with
    | (s, .ok x) => s.keyed u g (BitVec.ofNat 64 x)
    | (s, .missing d n) => ready.foldl (fun s l => s.setPark (.thread u g l) (.fault d n false)) s
    | (s, .bad r v) => s.keyFault u (badTrap r v)
    | (s, .poison l) => poison s l
    | (s, .wait) => s

/-! ## Preparing an issue -/

/-- What an issue comes to before its instruction acts: no issue, an issue of a word that is no instruction, or the
instruction, for the agents in `cur`. -/
inductive Ready where
  | over (s : State)
  | spent (s : State)
  | run (s : State) (i : Instr)
deriving DecidableEq, Repr

/-- The starvation counts of a group at an issue (R75): a lane that was dropped before the issue has not issued, and where
no lane is left there is no issue. -/
def State.starve (s : State) (ready : List Agent) (ags : List Agent) : State :=
  match ags with
  | .thread u g _ :: _ => s.starveStep u g (ready.map Agent.lane) (ags.map Agent.lane)
  | _ => s

/-- The register blocks that the destinations of an instruction are the first to write in an escrow interval are saved; where
the undo area has no room for them, the interval is committed early (R397, R399). -/
def State.saveBlocks (s : State) (i : Instr) (ags : List Agent) : State :=
  ags.foldl (fun s ag =>
    match ag with
    | .ctx .. => s
    | .thread u g l =>
      match (s.team u).ckpt with
      | none => s
      | some c =>
        let new := ((((s.dstOf ag i).filter (fun r => r != vz)).map (fun r => (g, l, r.toNat / 64))).eraseDups).filter
          (fun b => !c.blocks.contains b)
        let s := s.undoRoom u (s.coreOf ag) (256 * new.length)
        s.setTeam u { s.team u with ckpt := (s.team u).ckpt.map (fun (c : Ckpt) => { c with blocks := c.blocks ++ new }) }) s

/-- Fetch the slot of agents at one PC, and prepare them (R31, R45, R51); `ready` are the ready agents of the group. -/
def State.takeSlot (s : State) (ready ags : List Agent) : Ready :=
  match ags with
  | [] => .over s
  | ag :: _ =>
    let p := s.pc ag
    match s.fetchFor ag p with
    | (s, .line l) =>
      let (s, ags) := s.beforeAll (slotAt l p) (ags.filter (s.mayTake (slotAt l p)))
      let s := { s.starve (ready.filter (fun ag => ags.contains ag || s.readyAg ag)) ags with cur := ⟨ags, p⟩ }
      if ags.isEmpty then .over s
      else match slotAt l p with
        | Slot.instr i => .run (s.saveBlocks i ags) i
        | .illegal => .spent (ags.foldl (fun s ag => s.raiseAs ag [] trapIllegal) s)
    | (s, f) => .over (s.fetchFails ags p f)

/-- A group's port issues: the cohort of R75. -/
def State.issueGroup (s : State) (u g : Nat) : Ready :=
  let ready := s.readyLanes u g
  let ls := s.cohortOf u g ready
  if ready.isEmpty then .over s
  else if (s.grp u g).unkeyed then .over (s.keyGroup u g ready)
  else
    let boots := ls.filter (fun l => (s.thr u g l).boot)
    if !boots.isEmpty then .over (boots.foldl (fun s l => s.bootLane u g l) s)
    else s.takeSlot (ready.map (Agent.thread u g)) (ls.map (Agent.thread u g))

/-- The context whose turn it is (R226). -/
def State.nextCtx (s : State) (core : Nat) : Option Nat :=
  ((List.range 4).map (fun i => ((s.core core).lastCtx + 1 + i) % 4)).find? (fun c => s.readyAg (.ctx core c))

/-- A core's bursar issues (R226). -/
def State.issueBursar (s : State) (core : Nat) : Ready :=
  match s.nextCtx core with
  | none => .over s
  | some c => (s.setCore core { s.core core with lastCtx := c }).takeSlot [] [.ctx core c]

/-! ## After an instruction -/

/-- GAP and YLD of a group's issue on a port (R43); a slot without an instruction has neither. -/
def State.afterGroup (s : State) (u g port : Nat) (h : Option Hdr) : State :=
  let k := s.grp u g
  let (gap, y) := match h with
    | some h => (h.gap.toNat, h.yld)
    | none => (0, false)
  s.setGrp u g { k with eligible := none, gapUntil := s.tick + 1 + gap, yielded := if y then some port else none }

/-- The instruction of an issue is over: it has its entry in the port's replay queue (R403), and the next issue has a number
of its own. -/
def State.afterIssue (s before : State) (port : Nat) (i : Instr) : State :=
  let s := match before.cur.agents with
    | .thread u g _ :: _ =>
      if (afind s.teams u).isSome then (s.enterReplay before u g port i).afterGroup u g port (Instr.hdr i) else s
    | _ => s
  { s with nextSeq := s.nextSeq + 1 }

/-- The issue of a slot that holds no instruction is over. -/
def State.afterSpent (s : State) (port : Nat) : State :=
  let s := match s.cur.agents with
    | .thread u g _ :: _ => if (afind s.teams u).isSome then s.afterGroup u g port none else s
    | _ => s
  { s with nextSeq := s.nextSeq + 1 }

end Sys2Proof.Machine
end

