-- ==== Sys2Proof/Machine/Dispatch.lean ====
section
/-! DEFINITION. Dispatch: one arm a constructor, each one direct call of its meaning. -/

namespace Sys2Proof.Machine

/-- The meaning of an instruction or device step. -/
def exec (i : Instr) (s : State) : Host.Outcome State Fault Refusal :=
  match i with
  | .nop h => Sys2Proof.Machine.execNop h s
  | .bra h disp => Sys2Proof.Machine.execBra h disp s
  | .brx h a => Sys2Proof.Machine.execBrx h a s
  | .call h d t => Sys2Proof.Machine.execCall h d t s
  | .ret h a => Sys2Proof.Machine.execRet h a s
  | .exit h => Sys2Proof.Machine.execExit h s
  | .meetset h d disp => Sys2Proof.Machine.execMeetset h d disp s
  | .meetrst h src => Sys2Proof.Machine.execMeetrst h src s
  | .mjoin h m => Sys2Proof.Machine.execMjoin h m s
  | .mleave h m => Sys2Proof.Machine.execMleave h m s
  | .mwait h m => Sys2Proof.Machine.execMwait h m s
  | .mset h a m op => Sys2Proof.Machine.execMset h a m op s
  | .mget h d m op => Sys2Proof.Machine.execMget h d m op s
  | .vote h d a m op => Sys2Proof.Machine.execVote h d a m op s
  | .sleept h a => Sys2Proof.Machine.execSleept h a s
  | .sleepp h a bar => Sys2Proof.Machine.execSleepp h a bar s
  | .fork h d a disp => Sys2Proof.Machine.execFork h d a disp s
  | .rdv h a => Sys2Proof.Machine.execRdv h a s
  | .iadd h d a b mode w64 => Sys2Proof.Machine.execIadd h d a b mode w64 s
  | .isub h d a b mode w64 => Sys2Proof.Machine.execIsub h d a b mode w64 s
  | .imul h d a b w64 => Sys2Proof.Machine.execImul h d a b w64 s
  | .imulh h d a b mode => Sys2Proof.Machine.execImulh h d a b mode s
  | .imad h d a b c mode => Sys2Proof.Machine.execImad h d a b c mode s
  | .iminmax h d a b op ty => Sys2Proof.Machine.execIminmax h d a b op ty s
  | .bool h d a b c g1 g0 => Sys2Proof.Machine.execBool h d a b c g1 g0 s
  | .shf h d a b c op => Sys2Proof.Machine.execShf h d a b c op s
  | .bfx h d a b sx => Sys2Proof.Machine.execBfx h d a b sx s
  | .bfi h d a b c => Sys2Proof.Machine.execBfi h d a b c s
  | .bitc h d a op => Sys2Proof.Machine.execBitc h d a op s
  | .icmp h a b w64 => Sys2Proof.Machine.execIcmp h a b w64 s
  | .sel h d a b w64 sc => Sys2Proof.Machine.execSel h d a b w64 sc s
  | .mov h d a w64 => Sys2Proof.Machine.execMov h d a w64 s
  | .movi h d imm s64 => Sys2Proof.Machine.execMovi h d imm s64 s
  | .lea h d a b sgn scale => Sys2Proof.Machine.execLea h d a b sgn scale s
  | .srd h d n => Sys2Proof.Machine.execSrd h d n s
  | .swr h a n => Sys2Proof.Machine.execSwr h a n s
  | .shfl h d a b c m op => Sys2Proof.Machine.execShfl h d a b c m op s
  | .vcomp h d a b m => Sys2Proof.Machine.execVcomp h d a b m s
  | .vexp h d a b m => Sys2Proof.Machine.execVexp h d a b m s
  | .iscan h d a m op excl => Sys2Proof.Machine.execIscan h d a m op excl s
  | .ired h d a m op => Sys2Proof.Machine.execIred h d a m op s
  | .bysel h d a b c => Sys2Proof.Machine.execBysel h d a b c s
  | .fadd h d a b sat rnd => Sys2Proof.Machine.execFadd h d a b sat rnd s
  | .fmul h d a b sat rnd => Sys2Proof.Machine.execFmul h d a b sat rnd s
  | .ffma h d a b c sat rnd => Sys2Proof.Machine.execFfma h d a b c sat rnd s
  | .fminmax h d a b op => Sys2Proof.Machine.execFminmax h d a b op s
  | .fcmp h a b => Sys2Proof.Machine.execFcmp h a b s
  | .fclass h d a mask => Sys2Proof.Machine.execFclass h d a mask s
  | .frnd h d a rnd => Sys2Proof.Machine.execFrnd h d a rnd s
  | .fscale h d a b rnd => Sys2Proof.Machine.execFscale h d a b rnd s
  | .dadd h d a b sat rnd => Sys2Proof.Machine.execDadd h d a b sat rnd s
  | .dmul h d a b sat rnd => Sys2Proof.Machine.execDmul h d a b sat rnd s
  | .dfma h d a b c sat rnd => Sys2Proof.Machine.execDfma h d a b c sat rnd s
  | .dcmp h a b => Sys2Proof.Machine.execDcmp h a b s
  | .hadd2 h d a b ty sat rnd => Sys2Proof.Machine.execHadd2 h d a b ty sat rnd s
  | .hmul2 h d a b ty sat rnd => Sys2Proof.Machine.execHmul2 h d a b ty sat rnd s
  | .hfma2 h d a b c ty sat rnd => Sys2Proof.Machine.execHfma2 h d a b c ty sat rnd s
  | .sfn h d a slot => Sys2Proof.Machine.execSfn h d a slot s
  | .aconj h d a alg => Sys2Proof.Machine.execAconj h d a alg s
  | .anorm h d a alg rnd => Sys2Proof.Machine.execAnorm h d a alg rnd s
  | .amul h d a b alg ca cb rnd => Sys2Proof.Machine.execAmul h d a b alg ca cb rnd s
  | .fred h d a m op duct => Sys2Proof.Machine.execFred h d a m op duct s
  | .fscan h d a m op duct excl => Sys2Proof.Machine.execFscan h d a m op duct excl s
  | .cvt h d a dst src satf rnd => Sys2Proof.Machine.execCvt h d a dst src satf rnd s
  | .cvth2 h d a b ty satf rnd => Sys2Proof.Machine.execCvth2 h d a b ty satf rnd s
  | .cvtq8 h d a b ty scl satf rnd => Sys2Proof.Machine.execCvtq8 h d a b ty scl satf rnd s
  | .cvtq4 h d a b scl satf rnd => Sys2Proof.Machine.execCvtq4 h d a b scl satf rnd s
  | .cvtw h d a op q satf rnd => Sys2Proof.Machine.execCvtw h d a op q satf rnd s
  | .unpq h d a b ty scl satf rnd => Sys2Proof.Machine.execUnpq h d a b ty scl satf rnd s
  | .bscale h d a m ty => Sys2Proof.Machine.execBscale h d a m ty s
  | .srseed h a => Sys2Proof.Machine.execSrseed h a s
  | .i2i h d a dst src sat => Sys2Proof.Machine.execI2i h d a dst src sat s
  | .draw h d site => Sys2Proof.Machine.execDraw h d site s
  | .drawb h d site => Sys2Proof.Machine.execDrawb h d site s
  | .drawi h d b site => Sys2Proof.Machine.execDrawi h d b site s
  | .drawn h d site => Sys2Proof.Machine.execDrawn h d site s
  | .drawt h d site => Sys2Proof.Machine.execDrawt h d site s
  | .csetup h op => Sys2Proof.Machine.execCsetup h op s
  | .cmut h a b n => Sys2Proof.Machine.execCmut h a b n s
  | .cmutclr h => Sys2Proof.Machine.execCmutclr h s
  | .cresult h a cnt => Sys2Proof.Machine.execCresult h a cnt s
  | .crestart h disp => Sys2Proof.Machine.execCrestart h disp s
  | .caccept h d a b comp => Sys2Proof.Machine.execCaccept h d a b comp s
  | .ccmp h d a comp => Sys2Proof.Machine.execCcmp h d a comp s
  | .cpeek h d a site => Sys2Proof.Machine.execCpeek h d a site s
  | .cseed h a => Sys2Proof.Machine.execCseed h a s
  | .ld h d a f sx => Sys2Proof.Machine.execLd h d a f sx s
  | .st h a b f => Sys2Proof.Machine.execSt h a b f s
  | .ldv h d a f => Sys2Proof.Machine.execLdv h d a f s
  | .stv h a b f => Sys2Proof.Machine.execStv h a b f s
  | .ldk h d a f sx => Sys2Proof.Machine.execLdk h d a f sx s
  | .atom h d a b f op => Sys2Proof.Machine.execAtom h d a b f op s
  | .red h a b f op => Sys2Proof.Machine.execRed h a b f op s
  | .cas h d a b c f => Sys2Proof.Machine.execCas h d a b c f s
  | .fence h kind scope => Sys2Proof.Machine.execFence h kind scope s
  | .icinv h a b ofs scope => Sys2Proof.Machine.execIcinv h a b ofs scope s
  | .cctl h a b inv f => Sys2Proof.Machine.execCctl h a b inv f s
  | .pref h a lvl f => Sys2Proof.Machine.execPref h a lvl f s
  | .malg h a m rsp alg => Sys2Proof.Machine.execMalg h a m rsp alg s
  | .mwld h a b c m fmt alg => Sys2Proof.Machine.execMwld h a b c m fmt alg s
  | .mgath h a m => Sys2Proof.Machine.execMgath h a m s
  | .mscale h a m => Sys2Proof.Machine.execMscale h a m s
  | .mma h m fmt cb ca ow duct bank => Sys2Proof.Machine.execMma h m fmt cb ca ow duct bank s
  | .mzero h m ty bank => Sys2Proof.Machine.execMzero h m ty bank s
  | .mldacc h a m ty bank => Sys2Proof.Machine.execMldacc h a m ty bank s
  | .mdrain h d m bank => Sys2Proof.Machine.execMdrain h d m bank s
  | .mdrst h a b m op scope rel space bank => Sys2Proof.Machine.execMdrst h a b m op scope rel space bank s
  | .mstat h d m clr => Sys2Proof.Machine.execMstat h d m clr s
  | .copy h d a b f => Sys2Proof.Machine.execCopy h d a b f s
  | .cwait h d a => Sys2Proof.Machine.execCwait h d a s
  | .binit h a bar => Sys2Proof.Machine.execBinit h a bar s
  | .barv h d a m op bar => Sys2Proof.Machine.execBarv h d a m op bar s
  | .bwait h d a bar => Sys2Proof.Machine.execBwait h d a bar s
  | .btest h d pt bar => Sys2Proof.Machine.execBtest h d pt bar s
  | .bexpt h a bar => Sys2Proof.Machine.execBexpt h a bar s
  | .discard h => Sys2Proof.Machine.execDiscard h s
  | .samp h d a b c filt => Sys2Proof.Machine.execSamp h d a b c filt s
  | .sampinv h adr dev => Sys2Proof.Machine.execSampinv h adr dev s
  | .tbox h d a b => Sys2Proof.Machine.execTbox h d a b s
  | .ttri h d a b cull => Sys2Proof.Machine.execTtri h d a b cull s
  | .spush h a b c m nz n => Sys2Proof.Machine.execSpush h a b c m nz n s
  | .spop h d b c m => Sys2Proof.Machine.execSpop h d b c m s
  | .shray h d a b c fx => Sys2Proof.Machine.execShray h d a b c fx s
  | .emitPayload h d a b c => Sys2Proof.Machine.execEmitPayload h d a b c s
  | .emitVertex h a b c => Sys2Proof.Machine.execEmitVertex h a b c s
  | .emitPrim h a b => Sys2Proof.Machine.execEmitPrim h a b s
  | .emitColour h a => Sys2Proof.Machine.execEmitColour h a s
  | .trap h a code => Sys2Proof.Machine.execTrap h a code s
  | .trapretRetry h => Sys2Proof.Machine.execTrapretRetry h s
  | .trapretSkip h => Sys2Proof.Machine.execTrapretSkip h s
  | .trapretSupply h => Sys2Proof.Machine.execTrapretSupply h s
  | .trapretAccept h => Sys2Proof.Machine.execTrapretAccept h s
  | .launch h d a => Sys2Proof.Machine.execLaunch h d a s
  | .tlbinv h rng => Sys2Proof.Machine.execTlbinv h rng s
  | .bkpt h code => Sys2Proof.Machine.execBkpt h code s
  | .emptySlot lineWord => Sys2Proof.Machine.execEmptySlot lineWord s
  | .fetchLine ag => Sys2Proof.Machine.execFetchLine ag s
  | .longLatencyResult acc => Sys2Proof.Machine.execLongLatencyResult acc s
  | .lateTrapDelivery ag => Sys2Proof.Machine.execLateTrapDelivery ag s
  | .pageWalk acc => Sys2Proof.Machine.execPageWalk acc s
  | .portUpdate acc half => Sys2Proof.Machine.execPortUpdate acc half s
  | .collectiveBody uid g mask => Sys2Proof.Machine.execCollectiveBody uid g mask s
  | .sleepWake ag => Sys2Proof.Machine.execSleepWake ag s
  | .bursarExit core => Sys2Proof.Machine.execBursarExit core s
  | .copyChunkSend core slot => Sys2Proof.Machine.execCopyChunkSend core slot s
  | .copyChunkAck core slot chunk => Sys2Proof.Machine.execCopyChunkAck core slot chunk s
  | .arrayRelease core => Sys2Proof.Machine.execArrayRelease core s
  | .mdrstTileApply tile => Sys2Proof.Machine.execMdrstTileApply tile s
  | .weightCacheFill smp table gen => Sys2Proof.Machine.execWeightCacheFill smp table gen s
  | .walkerRay core => Sys2Proof.Machine.execWalkerRay core s
  | .meshGroupStart core slot => Sys2Proof.Machine.execMeshGroupStart core slot s
  | .taskSlotFree core slot => Sys2Proof.Machine.execTaskSlotFree core slot s
  | .primitiveSetup launch => Sys2Proof.Machine.execPrimitiveSetup launch s
  | .pixelGroupStart pair => Sys2Proof.Machine.execPixelGroupStart pair s
  | .tileFlush pair launch tx ty => Sys2Proof.Machine.execTileFlush pair launch tx ty s
  | .tileReload pair launch tx ty => Sys2Proof.Machine.execTileReload pair launch tx ty s
  | .passEndWrite launch => Sys2Proof.Machine.execPassEndWrite launch s
  | .replayCheck core port entry => Sys2Proof.Machine.execReplayCheck core port entry s
  | .escrowRollback uid => Sys2Proof.Machine.execEscrowRollback uid s
  | .teamRelaunch uid core => Sys2Proof.Machine.execTeamRelaunch uid core s
  | .queueDoorbell q wr => Sys2Proof.Machine.execQueueDoorbell q wr s
  | .launchPacket q => Sys2Proof.Machine.execLaunchPacket q s
  | .fencePacket q => Sys2Proof.Machine.execFencePacket q s
  | .fencePacketRelease q => Sys2Proof.Machine.execFencePacketRelease q s
  | .signalPacket q => Sys2Proof.Machine.execSignalPacket q s
  | .signalApply q => Sys2Proof.Machine.execSignalApply q s
  | .queueEnable q => Sys2Proof.Machine.execQueueEnable q s
  | .queueDisable q => Sys2Proof.Machine.execQueueDisable q s
  | .haltClear q => Sys2Proof.Machine.execHaltClear q s
  | .preemptSet q => Sys2Proof.Machine.execPreemptSet q s
  | .preemptClear q => Sys2Proof.Machine.execPreemptClear q s
  | .imageSeal uid => Sys2Proof.Machine.execImageSeal uid s
  | .teamAdmission core => Sys2Proof.Machine.execTeamAdmission core s
  | .launchCompletion launch => Sys2Proof.Machine.execLaunchCompletion launch s
  | .detCommit launch => Sys2Proof.Machine.execDetCommit launch s
  | .detBufferFull uid => Sys2Proof.Machine.execDetBufferFull uid s
  | .faultAnswerMap die num => Sys2Proof.Machine.execFaultAnswerMap die num s
  | .faultAnswerRefuse die num => Sys2Proof.Machine.execFaultAnswerRefuse die num s
  | .managementWrite off wide val => Sys2Proof.Machine.execManagementWrite off wide val s
  | .portDownClear port => Sys2Proof.Machine.execPortDownClear port s
  | .powerRequestP0 => Sys2Proof.Machine.execPowerRequestP0 s
  | .powerRequestP1 => Sys2Proof.Machine.execPowerRequestP1 s
  | .powerRequestP2 => Sys2Proof.Machine.execPowerRequestP2 s
  | .powerRequestP3 => Sys2Proof.Machine.execPowerRequestP3 s
  | .retentionEntry => Sys2Proof.Machine.execRetentionEntry s
  | .stoptick => Sys2Proof.Machine.execStoptick s
  | .clockRelease => Sys2Proof.Machine.execClockRelease s
  | .timeSeriesSample die => Sys2Proof.Machine.execTimeSeriesSample die s
  | .monitorRead die mon => Sys2Proof.Machine.execMonitorRead die mon s
  | .monitorClear die mon => Sys2Proof.Machine.execMonitorClear die mon s
  | .monitorSelect die mon src w => Sys2Proof.Machine.execMonitorSelect die mon src w s
  | .fatalDump => Sys2Proof.Machine.execFatalDump s
  | .tokenSubmit tok => Sys2Proof.Machine.execTokenSubmit tok s
  | .attest nonce => Sys2Proof.Machine.execAttest nonce s
  | .reset img => Sys2Proof.Machine.execReset img s
  | .peerChunkReceive port f => Sys2Proof.Machine.execPeerChunkReceive port f s
  | .peerAckReceive port seq prot => Sys2Proof.Machine.execPeerAckReceive port seq prot s
  | .heartbeatReceive port => Sys2Proof.Machine.execHeartbeatReceive port s
  | .heartbeatSend port => Sys2Proof.Machine.execHeartbeatSend port s
  | .chunkRetransmit port seq => Sys2Proof.Machine.execChunkRetransmit port seq s
  | .portDown port => Sys2Proof.Machine.execPortDown port s
  | .firmwareImage img => Sys2Proof.Machine.execFirmwareImage img s
  | .bkptResumption uid g => Sys2Proof.Machine.execBkptResumption uid g s
  | .icinvAcknowledgement ag => Sys2Proof.Machine.execIcinvAcknowledgement ag s
  | .tlbinvAcknowledgement ag => Sys2Proof.Machine.execTlbinvAcknowledgement ag s
  | .sampinvAcknowledgement ag => Sys2Proof.Machine.execSampinvAcknowledgement ag s

end Sys2Proof.Machine
end

