-- ==== Sys2Proof/Machine/Schedule.lean ====
section
/-! DEFINITION. The schedule (log entry 4): what happens next when `turns` names nothing, the selection of a group (R77),
which steps the host can take while the clocks stand, and the passing of ticks (log entry 5). -/

namespace Sys2Proof.Machine

/-! ## Time -/

/-- How many of n cycles pass before an armed stop or a sample tick (R407, R408), which lie `left` and `gap` cycles on. -/
def State.mayPass (s : State) (n : Nat) : Nat :=
  let left := (s.mgmt.stopTick.toNat + (2 ^ 64 - s.now)) % 2 ^ 64
  let n := if s.dbg.stopArmed && decide (0 < left) then min left n else n
  let gap := 2 ^ tsK s.mgmt.tsCtl - s.now % 2 ^ tsK s.mgmt.tsCtl
  if s.sampling then min gap n else n

/-- Time passes: n cycles, and no further than an armed stop or a sample tick (R17, R407 to R409). -/
def State.pass (s : State) (n : Nat) : State :=
  if s.clocked then { s.watch (s.mayPass n) with tick := s.tick + s.mayPass n } else s

/-- May a device step take place while the clocks stand? A reset and an image always may, and nothing else in reset hold
(R422). While a stop holds the clocks, the management path alone is left: it releases them, dumps, reads the monitors, takes a
token or a nonce, and writes the registers of the management path itself (R407, R415; log entry 94). -/
def State.hostMay (s : State) (i : Instr) : Bool :=
  match i with
  | .reset .. | .firmwareImage .. => true
  | .clockRelease | .fatalDump | .tokenSubmit .. | .attest .. | .monitorRead .. => s.mgmt.boot == 1
  | .managementWrite off _ _ =>
    s.mgmt.boot == 1 && (decide (0x18 ≤ off && off < 0x40) || decide (0x1000 ≤ off && off < 0x1040))
  | _ => false

/-- Does a store of the host reach its place: its own memory always, the device's while the clocks run (R407, R422)? -/
def State.hostReaches (s : State) (l : Loc) : Bool :=
  match l with
  | .host .. => true
  | _ => s.clocked

/-- Is it a device step that may take place by itself, not an instruction word or a slot? -/
def deviceStep (i : Instr) : Bool :=
  (Instr.hdr i).isNone && (match i with
    | .emptySlot _ => false
    | _ => true)

/-! ## Device steps that may be due -/

/-- Steps of accesses on their way. -/
def accSteps (s : State) : List Instr :=
  s.accs.flatMap (fun a => match a.stage with
    | .issued => match a.op with
      | .known _ => [.longLatencyResult a.id]
      | _ => [.pageWalk a.id]
    | .ready | .half _ | .fetched _ => [.portUpdate a.id false]
    | .done => if a.left == none then [.longLatencyResult a.id] else []
    | _ => [])

/-- Steps of the copies of a core. -/
def copySteps (k : Nat) (c : Core) : List Instr :=
  c.slots.flatMap (fun e =>
    e.2.sent.flatMap (fun x => if x.left.isEmpty then [.copyChunkAck k e.1 x.chunk] else [.portUpdate x.id false]) ++
      [Instr.copyChunkSend k e.1])

/-- Steps of one agent. -/
def agentSteps (s : State) (ag : Agent) : List Instr :=
  match s.park ag with
  | .sleept _ | .sleepp .. => [.sleepWake ag]
  | .icinv => [.icinvAcknowledgement ag]
  | .tlbinv => [.tlbinvAcknowledgement ag]
  | .sampinv => [.sampinvAcknowledgement ag]
  | .run => if (s.dueTraps ag).isEmpty then [] else [.lateTrapDelivery ag]
  | _ => []

/-- Steps of a team. -/
def teamSteps (s : State) (u : Nat) (t : Team) : List Instr :=
  t.groups.flatMap (fun g =>
    ((List.range 12).filter (fun m => !(g.2.dueSigners m).isEmpty)).map (fun m => Instr.collectiveBody u g.1 m) ++
      g.2.unexited.flatMap (fun l => agentSteps s (.thread u g.1 l))) ++
  (match t.stat with
    | .halting => [.imageSeal u]
    | .killed .. => if t.ckpt.isSome then [.escrowRollback u] else (t.core :: List.range 192).map (fun k => .teamRelaunch u k)
    | .aborted => (t.core :: List.range 192).map (fun k => .teamRelaunch u k)
    | _ => if s.speculative u then [.detBufferFull u] else [])

/-- Steps of a core. -/
def coreSteps (s : State) (k : Nat) (c : Core) : List Instr :=
  copySteps k c ++ (List.range 4).flatMap (fun x => agentSteps s (.ctx k x)) ++
    [.bursarExit k, .arrayRelease k, .walkerRay k] ++
    c.ring.flatMap (fun r => [Instr.meshGroupStart k r.1, .taskSlotFree k r.1])

/-- Steps of a launch. -/
def launchSteps (l : Nat) (k : Launch) : List Instr :=
  if k.complete then []
  else
    (if k.lr.det then [.detCommit l] else []) ++
      (if k.draw.isSome then (.primitiveSetup l :: (List.range 96).map Instr.pixelGroupStart) ++ [.passEndWrite l] else []) ++
      [.launchCompletion l] ++ (List.range 192).map Instr.teamAdmission

/-- Steps of a queue. -/
def queueSteps (q : Nat) : List Instr :=
  [.launchPacket q, .fencePacket q, .fencePacketRelease q, .signalPacket q, .signalApply q]

/-- Steps of a port. -/
def portSteps (n : Nat) (p : Port) : List Instr :=
  [.portDown n, .heartbeatSend n] ++ p.unacked.map (fun u => Instr.chunkRetransmit n u.1.seq)

/-- Steps of a core's replay queues. -/
def replaySteps (k : Nat) (c : Core) : List Instr :=
  c.rq.flatMap (fun p => ((List.range p.2.length).zip p.2).filterMap (fun e =>
    if e.2.unchecked.isEmpty then none else some (Instr.replayCheck k p.1 e.1)))

/-- Every device step that may be due, the likeliest first. -/
def dueSteps (s : State) : List Instr :=
  accSteps s ++ s.tiles.map (fun t => Instr.mdrstTileApply t.id) ++ s.teams.flatMap (fun t => teamSteps s t.1 t.2) ++
    s.cores.flatMap (fun k => coreSteps s k.1 k.2) ++ s.launches.flatMap (fun l => launchSteps l.1 l.2) ++
    s.queues.flatMap (fun q => queueSteps q.1) ++ s.ports.flatMap (fun p => portSteps p.1 p.2) ++
    [.retentionEntry] ++ s.cores.flatMap (fun k => replaySteps k.1 k.2)

/-- Does a step change anything now? -/
def State.enabled (s : State) (i : Instr) : Bool :=
  match exec i s with
  | .next t => t != s
  | _ => false

/-! ## Selecting a group (R43, R77) -/

/-- Note the tick from which each group has had a ready thread, and forget those that have none (R77). -/
def State.markEligible (s : State) : State :=
  s.teams.foldl (fun s t =>
    if t.2.stat != .running then s
    else t.2.groups.foldl (fun s g =>
      let k := s.grp t.1 g.1
      s.setGrp t.1 g.1 { k with
        eligible := if (s.readyLanes t.1 g.1).isEmpty then none else some (k.eligible.getD s.tick) }) s) s

/-- Is a group eligible at a tick: it has a ready thread and its GAP has elapsed (R43, R77)? -/
def Group.mayGo (g : Group) (tick : Nat) : Bool := g.eligible.isSome && decide (g.gapUntil ≤ tick)

/-- Does a group rank before another on a port: YLD last, then the earliest eligible, then the lower slot (R43, R77)?
Across partitions the lower core and partition (log entry 4). -/
def Group.before (port : Nat) (a b : Group) : Bool :=
  let key := fun (g : Group) =>
    [b2n (g.yielded == some port), max (g.eligible.getD 0) g.gapUntil, g.slot, g.core, g.part]
  decide (key a < key b)

/-- Is a group the one that its partition chooses on a port (R77)? -/
def State.chosen (s : State) (u g port : Nat) : Bool :=
  let k := s.grp u g
  (s.team u).stat == .running && k.mayGo s.tick && s.teams.all (fun t => t.2.stat != .running ||
    t.2.groups.all (fun h => h.2.core != k.core || h.2.part != k.part || !h.2.mayGo s.tick || !h.2.before port k))

/-- The eligible group that ranks first on a port. -/
def State.firstGroup (s : State) (port : Nat) : Option (Nat × Nat) :=
  let gs := s.teams.flatMap (fun t => if t.2.stat != .running then []
    else (t.2.groups.filter (fun g => g.2.mayGo s.tick)).map (fun g => (t.1, g.1, g.2)))
  (gs.foldl (fun (b : Option (Nat × Nat × Group)) g => match b with
    | none => some g
    | some x => if g.2.2.before port x.2.2 then some g else b) none).map (fun g => (g.1, g.2.1))

/-- A selection has been made on a port of a partition: YLD counted for it alone (R43). -/
def State.clearYields (s : State) (core part port : Nat) : State :=
  { s with teams := s.teams.map (fun t => (t.1, { t.2 with groups := t.2.groups.map (fun g =>
      if g.2.core = core && g.2.part = part && g.2.yielded == some port then (g.1, { g.2 with yielded := none }) else g) })) }

/-- What happens next when the schedule names nothing: a device step that is due, else an issue of a group, on the ports in
turn, or, on odd ticks, of a bursar, else a cycle passes. -/
def State.nextTurn (s : State) : Turn :=
  if !s.clocked then .pass 1
  else match (dueSteps s).find? (fun i => s.enabled i) with
    | some i => .event i
    | none =>
      let port := s.tick / 2 % 2
      let bursar := (akeys s.cores).find? (fun k => (s.nextCtx k).isSome)
      match s.firstGroup port, bursar with
      | none, none => .pass 1
      | none, some k => .bursar k
      | some (u, g), none => .issue u g port
      | some (u, g), some k => if s.tick % 2 = 1 then .bursar k else .issue u g port

/-! ## A resident program (log entry 11) -/

/-- The kernel under which a fetched word runs: 16 lanes, every register, every barrier, a whole scratchpad, a handler. -/
def wordKernel : KDesc :=
  { KDesc.zero with handler := 64, nbar := 16, nreg := 512, scratch := 393216, detok := true, escrow := true, idem := true }

/-- The launch of a fetched word. -/
def wordLaunch : Launch := { Launch.absent with desc := wordKernel, complete := false, next := 1 }

/-- The team of a fetched word: one group of 16 threads at PC 0, on core 0. -/
def wordTeam : Team :=
  { Team.absent with
    desc := wordKernel, stat := .running,
    groups := [(0, { Group.absent with
      rows := 8, masks := [(0, 65535)],
      threads := (List.range 16).map (fun l => (l, { Thread.absent with exited := false })) })] }

/-- The line that holds a word in slot 0, marked valid and a target. -/
def wordLine (nbits w : Nat) : Line := Line.make [BitVec.ofNat 96 (w % 2 ^ nbits)] 1 1 0

/-- A machine whose clocks run and which takes no samples, whose core 0 holds the word at PC 0 in its instruction cache and the default coefficient
image (R62), and whose schedule lets that word's group issue. -/
def State.withWord (s : State) (nbits w : Nat) : State :=
  let s := (s.setLaunch 0 wordLaunch).setTeam 0 wordTeam
  let c := s.core 0
  let s := s.setCore 0
    { c with coef := defaultImage, icache := (lineKey 0 0, wordLine nbits w) :: c.icache.filter (fun e => e.1 != lineKey 0 0) }
  { s with
    mgmt := { s.mgmt with boot := 1, pwrReq := 0, pwrCur := 0, tsCtl := 0 }, dbg := { s.dbg with frozen := false, stopArmed := false },
    turns := [.issue 0 0 0], nextUid := max s.nextUid 1, nextLaunch := max s.nextLaunch 1 }

end Sys2Proof.Machine
end

