-- ==== Sys2Proof/Machine/Run.lean ====
section
/-! DEFINITION. What one turn of the schedule does: an issue, a device step, the passing of cycles, a store of the
host or a replacement in a cache; a stop or a sample that is due comes first. -/

namespace Sys2Proof.Machine

/-- An issue: its instruction acts, then what follows an issue on the port, and a cycle passes. -/
def runReady (port : Nat) (r : Ready) : Out :=
  match r with
  | .over s => .next (s.pass 1)
  | .spent s => .next ((s.afterSpent port).pass 1)
  | .run s i =>
    match exec i s with
    | .next t => .next ((t.afterIssue s port i).pass 1)
    | .fault f => .fault f
    | .refused x => .refused x

/-- A port of a group's partition issues from it when the partition chooses it there (R19, R77). -/
def runIssue (u g port : Nat) (s : State) : Out :=
  if !s.clocked || decide (port ≥ 2) || !s.chosen u g port then .next s
  else
    let k := s.grp u g
    runReady port ((s.clearYields k.core k.part port).issueGroup u g)

/-- A device step takes place, and a cycle passes. -/
def runEvent (i : Instr) (s : State) : Out :=
  if !deviceStep i || !(s.clocked || s.hostMay i) then .next s
  else
    match exec i s with
    | .next t => .next (t.pass 1)
    | .fault f => .fault f
    | .refused x => .refused x

/-- One turn of the schedule. -/
def runTurn (t : Turn) (s : State) : Out :=
  match t with
  | .issue u g port => runIssue u g port s
  | .bursar k => if s.clocked then runReady 0 (s.issueBursar k) else .next s
  | .event i => runEvent i s
  | .pass n => .next (s.pass n)
  | .hostStore l n v => .next ((if s.hostReaches l then s.hostStore l n v else s).pass 1)
  | .evict c => if s.clocked then .next ((s.evict c).pass 1) else .next s

/-- The stop or the sample that is due, else the next turn of the schedule (R407, R408; log entry 4), at which the ticks are
noted from which groups have been ready. -/
def runStep (s : State) : Out :=
  if s.stopDue && s.clocked then exec .stoptick s
  else if s.sampleDue && s.clocked then exec (.timeSeriesSample 0) s
  else
    let s := s.markEligible
    match s.turns with
    | t :: ts => runTurn t { s with turns := ts }
    | [] => runTurn s.nextTurn s

end Sys2Proof.Machine
end

