-- ==== Sys2Proof/Machine/Step.lean ====
section
/-! DEFINITION. One step: the stop that is due, else the next turn of the schedule. -/

namespace Sys2Proof.Machine

/-- One step of the machine. -/
def step (s : State) : Host.Outcome State Fault Refusal := runStep s

/-- s with an instruction word stored where the next step fetches it. -/
def State.withFetchWord (s : State) (nbits w : Nat) : State := s.withWord nbits w

end Sys2Proof.Machine
end

