-- ==== Sys2Proof/Safety.lean ====
section
/-! DEFINITION. What counts as a safe run, and the terms in which claims about the machine are made: when an instruction
executes, what a lane's instruction may change, and which device steps name a part that the package has. -/

namespace Sys2Proof.Safety

open Sys2Proof.Machine

/-! ## Runs -/

/-- k steps that never stop. -/
def SafeRun (k : Nat) (s : State) : Prop := ∃ t, Host.Core.run Sys2Proof.core k s = .next t

/-! ## When an instruction executes (R40, R41, R51) -/

/-- One agent alone issues an instruction, and executes it: it may act, the form is legal for it, every register operand
lies in its range, and its condition is true. -/
abbrev Executes (s : State) (ag : Agent) (i : Instr) : Prop :=
  s.cur.agents = [ag] ∧ s.live ag = true ∧ s.encodingTrap ag i = none ∧ s.condOk ag i = true

/-- One agent alone issues an instruction, in these registers' range and legally, but its condition is false. -/
abbrev Skips (s : State) (ag : Agent) (i : Instr) : Prop :=
  s.cur.agents = [ag] ∧ s.live ag = true ∧ s.encodingTrap ag i = none ∧ s.condOk ag i = false

/-- One agent alone issues an instruction that traps on its encoding with t (R49, R51). -/
abbrev Traps (s : State) (ag : Agent) (i : Instr) (t : Trap) : Prop :=
  s.cur.agents = [ag] ∧ s.live ag = true ∧ s.encodingTrap ag i = some t

/-- The agent has nothing on its way: no access, window, late trap or retried access (R45, R46). -/
abbrev Still (s : State) (ag : Agent) : Prop := s.accsOf ag = []

/-- The agent's next slot is not its meeting address (R78). -/
abbrev NoMeeting (s : State) (ag : Agent) : Prop :=
  match ag with
  | .thread u g l => (s.thr u g l).meet ≠ nextPc (s.thr u g l).pc
  | .ctx .. => True

/-! ## What an instruction of one lane may change -/

/-- Do two agents' register names name one register? A bursar's contexts share a file of 128 (R224). -/
def sameReg (a : Agent) (r : Reg) (b : Agent) (q : Reg) : Bool :=
  match a, b with
  | .thread .., .thread .. => decide (a = b) && decide (r = q)
  | .ctx k c, .ctx k' c' => decide (k = k') && decide (bursarReg c r = bursarReg c' q)
  | _, _ => false

/-- The byte at a location, as the port that owns it holds it (R175). -/
def byteAt (s : State) (l : Loc) : Nat := s.rawRead l 1

/-- Memory of every kind reads as before. -/
def SameMemory (s t : State) : Prop := ∀ l, byteAt t l = byteAt s l

/-- The frame of a form of one agent that writes registers `dst` and, where `codes`, its condition codes, and then steps to
the next slot (R30, R38, R42, R97). Nothing else changes but parks at a meeting (R79) and, of the agent's own thread, the
count of its stochastic conversions (R162). -/
structure LaneFrame (s t : State) (ag : Agent) (dst : List Reg) (codes : Bool) : Prop where
  /-- memory, accesses, queues, launches, dies, ports, management and debug state -/
  rest : { t with teams := [], cores := [] } = { s with teams := [], cores := [] }
  memory : SameMemory s t
  regs : ∀ b q, (∀ r ∈ dst, sameReg ag r b q = false) → t.reg b q = s.reg b q
  cc : codes = false → t.cc ag = s.cc ag
  pc : t.pc ag = nextPc (s.pc ag)
  trap : t.trapOf ag = s.trapOf ag
  own : ∀ u g l, ag = .thread u g l → ∃ p rs n, t.thr u g l =
    { s.thr u g l with pc := (t.thr u g l).pc, cc := (t.thr u g l).cc, park := p, regs := rs, conv := n }
  others : ∀ u g l, ag ≠ .thread u g l → ∃ p, t.thr u g l = { s.thr u g l with park := p }
  contexts : ∀ k c, ag ≠ .ctx k c → t.bctx k c = s.bctx k c
  groups : ∀ u g, { t.grp u g with threads := [] } = { s.grp u g with threads := [] }
  teams : ∀ u, { t.team u with groups := [] } = { s.team u with groups := [] }
  cores : ∀ k, { t.core k with ctxs := [], bregs := [] } = { s.core k with ctxs := [], bregs := [] }

/-- The per-lane forms of classes 0 to 3 that read and write registers and condition codes alone. -/
def regForm (i : Instr) : Bool :=
  match i with
  | .iadd .. | .isub .. | .imul .. | .imulh .. | .imad .. | .iminmax .. | .bool .. | .shf .. | .bfx .. | .bfi ..
  | .bitc .. | .icmp .. | .sel .. | .mov .. | .movi .. | .lea .. | .bysel .. | .mget .. => true
  | .fadd .. | .fmul .. | .ffma .. | .fminmax .. | .fcmp .. | .fclass .. | .frnd .. | .fscale .. | .dadd .. | .dmul ..
  | .dfma .. | .dcmp .. | .hadd2 .. | .hmul2 .. | .hfma2 .. | .aconj .. | .anorm .. | .amul .. => true
  | .cvt .. | .cvth2 .. | .cvtq8 .. | .cvtq4 .. | .cvtw .. | .unpq .. | .i2i .. => true
  | _ => false

/-- Does such a form write condition codes (R42): a compare always, another form when its W is 1? -/
def setsCodes (i : Instr) : Bool :=
  match i with
  | .icmp .. | .fcmp .. | .dcmp .. => true
  | _ => match Instr.hdr i with
    | some h => h.w
    | none => false

/-! ## Signatures on a mask (R81) -/

/-- The mask that a collective form names. -/
def maskOf (i : Instr) : Option MaskNo :=
  match i with
  | .vote _ _ _ m _ | .shfl _ _ _ _ _ m _ | .vcomp _ _ _ _ m | .vexp _ _ _ _ m | .iscan _ _ _ m _ _ | .ired _ _ _ m _
  | .fred _ _ _ m _ _ | .fscan _ _ _ m _ _ _ | .bscale _ _ _ m _ | .malg _ _ m _ _ | .mwld _ _ _ _ m _ _
  | .mgath _ _ m | .mscale _ _ m | .mma _ m _ _ _ _ _ _ | .mzero _ m _ _ | .mldacc _ _ m _ _ | .mdrain _ _ m _
  | .mdrst _ _ _ m _ _ _ _ _ | .mstat _ _ m _ | .barv _ _ _ m _ _ | .spush _ _ _ _ m _ _ | .spop _ _ _ _ m => some m
  | _ => none

/-- Is it an encoded form whose lanes act one by one: neither a collective nor MWAIT? -/
def laneForm (i : Instr) : Bool :=
  (Instr.hdr i).isSome && (maskOf i).isNone &&
    (match i with
      | .mwait .. => false
      | _ => true)

/-- Every member of mask m of a group has signed the form i there, at one slot, and nothing of theirs is on its way: the
lanes of the mask, ascending. -/
structure Signed (s : State) (u g m : Nat) (i : Instr) (ls : List Nat) : Prop where
  running : (s.team u).stat = .running
  members : (s.grp u g).lanesOf ((s.grp u g).mask m) = ls
  nonempty : ls ≠ []
  legal : ∀ l ∈ ls, s.encodingTrap (.thread u g l) i = none
  live : ∀ l ∈ ls, (s.thr u g l).exited = false
  signed : ∃ due, ∀ l ∈ ls, (s.thr u g l).park = .signed m due i
  slot : ∀ l ∈ ls, ∀ k ∈ ls, (s.thr u g l).pc = (s.thr u g k).pc
  others : ∀ l, l ∉ ls → ∀ due j, (s.thr u g l).park ≠ .signed m due j
  still : ∀ l ∈ ls, Still s (.thread u g l)
  apart : ∀ l ∈ ls, NoMeeting s (.thread u g l)

/-- The threads of every group are listed once. -/
def Tidy (s : State) : Prop := ∀ u g, (akeys (s.grp u g).threads).Nodup

/-! ## Entering the handler (R256) -/

/-- The trap of an agent's instruction has been taken: what it saves, where it goes, and what it leaves. -/
structure Entered (s t : State) (ag : Agent) (cause : Nat) (val addr : DWord) (dst : List Reg) : Prop where
  pc : t.pc ag = (s.descOf ag).handler
  saved : t.trapOf ag = { s.trapOf ag with
    lvl := true, cause := cause, pc := s.pc ag, val := val, addr := addr, resume := s.pc ag, saved := none, dst := dst }
  regs : ∀ r, t.reg ag r = s.reg ag r
  codes : t.cc ag = s.cc ag
  runs : ∀ u g l, ag = .thread u g l → (s.thr u g l).meet ≠ (s.descOf ag).handler → t.park ag = .run
  memory : SameMemory s t

/-- A thread that traps at TRAPLVL 0 in a kernel with a handler, with nothing of its own on its way. -/
abbrev MayEnter (s : State) (ag : Agent) : Prop :=
  Agent.bursar ag = false ∧ (s.trapOf ag).lvl = false ∧ (s.descOf ag).handler ≠ 0 ∧ Still s ag

/-! ## Numbers -/

/-- The rational that a finite value stands for (R5); a NaN and the infinities stand for none. -/
def valueOf (x : X) : Option ℚ :=
  match x with
  | .fin _ n d e => some ((n : ℚ) / (d : ℚ) * (2 : ℚ) ^ e)
  | _ => none

/-- Of two values that are no NaN, is the first not above the second? -/
def atMost (x y : X) : Prop :=
  x = .inf true ∨ y = .inf false ∨ ∃ p q, valueOf x = some p ∧ valueOf y = some q ∧ p ≤ q

/-- The exact result of the arithmetic of R123 on three operands, with the special values of R120. -/
structure ExactOf (op : FArith) (rm : Bool) (x y z e : X) : Prop where
  nan : (x = .nan ∨ y = .nan ∨ (op = .fma ∧ z = .nan)) → e = .nan
  value : ∀ p q r, valueOf x = some p → valueOf y = some q → valueOf z = some r →
    valueOf e = some (match op with
      | .add => p + q
      | .mul => p * q
      | .fma => p * q + r)
  sumOfInfs : op = .add → ∀ a b, x = .inf a → y = .inf b → e = if a = b then .inf a else .nan
  sumWithInf : op = .add → ∀ a p, (x = .inf a ∧ valueOf y = some p ∨ y = .inf a ∧ valueOf x = some p) → e = .inf a
  zeroSum : op = .add → ∀ p q, valueOf x = some p → valueOf y = some q → p + q = 0 →
    e.isNeg = if p = 0 ∧ x.isNeg = y.isNeg then x.isNeg else rm
  product : op = .mul → ∀ p q, valueOf x = some p → valueOf y = some q → e.isNeg = (x.isNeg != y.isNeg)
  timesInf : op = .mul → ∀ a, (x = .inf a ∧ y ≠ .nan → e = if valueOf y = some 0 then .nan else .inf (a != y.isNeg)) ∧
    (y = .inf a ∧ x ≠ .nan → e = if valueOf x = some 0 then .nan else .inf (x.isNeg != a))
  fusedZero : op = .fma → ∀ p q r, valueOf x = some p → valueOf y = some q → valueOf z = some r → p * q + r = 0 →
    e.isNeg = if r = 0 ∧ (x.isNeg != y.isNeg) = z.isNeg then z.isNeg else rm
  fusedZeroTimesInf : op = .fma → ∀ a, (x = .inf a ∧ valueOf y = some 0 ∨ y = .inf a ∧ valueOf x = some 0) → e = .nan
  fusedInf : op = .fma → z ≠ .nan → ∀ a, (x = .inf a ∧ y ≠ .nan ∧ valueOf y ≠ some 0 ∨ y = .inf a ∧ x ≠ .nan ∧ valueOf x ≠ some 0) →
    e = if z = .inf (x.isNeg == y.isNeg) then .nan else .inf (x.isNeg != y.isNeg)
  fusedAddend : op = .fma → ∀ p q a, valueOf x = some p → valueOf y = some q → z = .inf a → e = .inf a

/-- b is the value of a type that a mode chooses for v among all encodings of the type: the nearest under rn and rna, with
ties to an even encoding or away from zero; the nearest towards zero, not below, or not above v under rz, rp and rm
(R145). -/
def Chosen (value : Nat → Option ℚ) (n : Nat) (mode : Rnd) (v : ℚ) (b : Nat) : Prop :=
  ∃ y, value b = some y ∧ ∀ c z, c < n → value c = some z →
    match mode with
    | .rn => |y - v| ≤ |z - v| ∧ (|y - v| = |z - v| → z = y ∨ b % 2 = 0)
    | .rna => |y - v| ≤ |z - v| ∧ (|y - v| = |z - v| → |z| ≤ |y|)
    | .rz => |y| ≤ |v| ∧ 0 ≤ y * v ∧ (|z| ≤ |v| → 0 ≤ z * v → |z| ≤ |y|)
    | .rp => v ≤ y ∧ (v ≤ z → y ≤ z)
    | .rm => y ≤ v ∧ (z ≤ v → z ≤ y)
    | .sr => True

/-- r is what SAT makes of an encoding b of a type (R122). -/
structure Saturated (f : FFmt) (sat : Bool) (b r : Nat) : Prop where
  off : sat = false → r = b
  nan : sat = true → f.toX b = .nan → r = 0
  below : sat = true → (f.toX b).isNeg = true → r = 0
  above : sat = true → (f.toX b = .inf false ∨ ∃ q, valueOf (f.toX b) = some q ∧ 1 < q) → r = f.bias * 2 ^ f.mb
  inside : sat = true → ∀ q, valueOf (f.toX b) = some q → (f.toX b).isNeg = false → q ≤ 1 → r = b

/-- The codes of a float result (R121). -/
def codesOf (f : FFmt) (r : Nat) : CC := ⟨false, (f.toX r).isZero, (f.toX r).isNeg, decide (f.toX r = .nan)⟩

/-- r is the result of the arithmetic of R123 on three encodings of a type: the exact result, rounded once, then clamped. -/
def ArithOf (op : FArith) (f : FFmt) (sat : Bool) (rnd : Rnd) (x y z r : Nat) : Prop :=
  ∃ e, ExactOf op (rnd == .rm) (f.toX x) (f.toX y) (f.toX z) e ∧ Saturated f sat (f.round e rnd 0 false).bits r

/-! ## Collectives -/

/-- The members of mask m have completed a collective: each goes on at its next slot, its destination holds `value` of its
lane, if there is one, and its codes are `codes` of its lane when W is 1; no other register, lane, or byte of memory has
changed (R81, R112). -/
structure Collected (s t : State) (u g : Nat) (ls : List Nat) (h : Hdr) (w64 : Bool) (d : Reg) (value : Nat → Option Nat)
    (codes : Nat → CC) : Prop where
  runs : ∀ l ∈ ls, t.park (.thread u g l) = .run ∧ t.pc (.thread u g l) = nextPc (s.pc (.thread u g l))
  dst : ∀ l ∈ ls, d ≠ vz → t.regN (.thread u g l) w64 d =
    match value l with
    | some v => v % 2 ^ (if w64 then 64 else 32)
    | none => s.regN (.thread u g l) w64 d
  regs : ∀ l ∈ ls, ∀ r, r ≠ d → (w64 = true → r ≠ d + 1) → t.reg (.thread u g l) r = s.reg (.thread u g l) r
  codes : ∀ l ∈ ls, t.cc (.thread u g l) = if h.w then codes l else s.cc (.thread u g l)
  others : ∀ l, l ∉ ls → t.thr u g l = s.thr u g l
  memory : SameMemory s t

/-- Z, S, C, O of a w-bit integer result (R99), with C as given. -/
def codesInt (w v : Nat) (c : Bool) : CC := ⟨c, decide (v % 2 ^ w = 0), nbit v (w - 1), false⟩

/-- The members have completed a collective that gives them no result. -/
abbrev Passed (s t : State) (u g : Nat) (ls : List Nat) (h : Hdr) : Prop :=
  Collected s t u g ls h false vz (fun _ => none) (fun l => s.cc (.thread u g l))

/-- Every signature on mask m of a group has been marked due, at the place after the team's other bodies (R81, R279). -/
def marked (s : State) (u g m : Nat) : State := s.setGrp u g ((s.grp u g).markDue m (s.team u).nextPlace)

/-- No array form's body of the team that is due on a core comes before the one which the members `ls` of a group sign
(R279). -/
def FirstDue (s : State) (u g core : Nat) (ls : List Nat) : Prop :=
  ∀ k ∈ s.arrayDue u core, ∃ l ∈ ls, ∃ n ≤ k, (s.thr u g l).park.arrayPlace = some n

/-- May the body that the members `ls` of a group sign begin on a core's array at once: it comes first among its team's, and
the team holds the array, or the array is free and no team waits for it (R277, R279)? -/
def MayUse (s : State) (u g core : Nat) (ls : List Nat) : Prop :=
  let m := (s.core core).array
  FirstDue s u g core ls ∧ (m.holder = some u ∨ m.holder = none ∧ m.waiting = [])

/-- The array with which such a body begins: the one held, or a fresh one (Table 14-1). -/
def arrayAs (s : State) (u core : Nat) : MArray :=
  let m := (s.core core).array
  if m.holder = some u then m else m.acquire u

/-! ## Memory -/

/-- Does memory hold the n bytes at a location: they lie within HBM5, or in another kind of memory (R13, R15)? -/
def present (l : Loc) (n : Nat) : Prop :=
  match l with
  | .hbm pa => pa + n ≤ hbmSize
  | _ => True

/-- Memory of every kind is in canonical form: addresses strictly rising, no entry equal to what an unlisted address reads
as; also that of a checkpoint. -/
def Canonical (s : State) : Prop :=
  s.hbm.wf = true ∧ s.vault.wf = true ∧ s.host.wf = true ∧ ∀ u, (s.team u).scr.wf = true ∧ (s.team u).scr2.wf = true ∧
    ∀ c, (s.team u).ckpt = some c → c.scr.wf = true ∧ c.scr2.wf = true

/-! ## One access at its port -/

/-- A location, whichever window of host memory names it (R414). -/
def bare (l : Loc) : Loc :=
  match l with
  | .host a _ => .host a false
  | l => l

/-- An access is the only one on its way, translated and checked, of a running agent outside deterministic mode and escrow,
and its unit is free. -/
structure AtPort (s : State) (a : Access) : Prop where
  only : s.accs = [a]
  ready : a.stage = .ready
  running : (s.team (s.uidOf a.ag)).stat = .running
  noTiles : s.tiles = []
  free : s.holds (s.uidOf a.ag) = false
  direct : s.direct (s.uidOf a.ag) = false
  unit : s.unitBusy a.seq (s.placeOf a 0) = false
  runs : s.park a.ag = .run
  canonical : Canonical s

/-- The state once a release access has made its release (R179). -/
def atRelease (s : State) (a : Access) : State :=
  if a.ord = .rel ∨ a.ord = .ar then s.releaseAction a.ag a.scope else s

/-- The state at the port once what the access's order and its place ask for beforehand is done: the release of a release
access (R179), and for an update or an nl1 access of space 0 the write-back of the core's copy (R172, R180). -/
def atPort (s : State) (a : Access) : State :=
  let s := atRelease s a
  match s.placeOf a 0, a.op with
  | .hbm pa, .upd .. | .hbm pa, .cas .. => s.l1Flush (s.coreOf a.ag) pa
  | .hbm pa, _ => if a.nl1 then s.l1Flush (s.coreOf a.ag) pa else s
  | _, _ => s

/-- Would a load of n bytes at the place of an access consume a poisoned word: of its core's copy, or of memory (R189)? -/
def loadPoison (s : State) (a : Access) (l : Loc) (n : Nat) : Bool :=
  match l with
  | .hbm pa => if a.nl1 then s.poisoned l n else s.l1Poison (s.coreOf a.ag) pa n
  | _ => s.poisoned l n

/-- The n bytes at a location hold x in t, and every other byte is as in s. -/
def WritesOnly (s t : State) (l : Loc) (n x : Nat) : Prop :=
  (∀ i < n, byteAt t (l.plus i) = x / 256 ^ i % 256) ∧
    ∀ m, (∀ i < n, bare m ≠ bare (l.plus i)) → byteAt t m = byteAt s m

/-! ## Parts of the package (R13, R14) -/

/-- Does a device step name only parts that the package has? Every encoded form does. -/
def partsOk (i : Instr) : Bool :=
  match i with
  | .bursarExit k | .arrayRelease k | .walkerRay k | .teamAdmission k | .teamRelaunch _ k => decide (k < 192)
  | .copyChunkSend k n | .copyChunkAck k n _ => decide (k < 192) && decide (n < 16)
  | .meshGroupStart k n | .taskSlotFree k n => decide (k < 192) && decide (n < 4)
  | .replayCheck k n _ => decide (k < 192) && decide (n < 8)
  | .pixelGroupStart p | .tileFlush p _ _ _ | .tileReload p _ _ _ | .weightCacheFill p _ _ => decide (p < 96)
  | .timeSeriesSample d | .faultAnswerMap d _ | .faultAnswerRefuse d _ => decide (d < 2)
  | .monitorRead d m | .monitorClear d m | .monitorSelect d m _ _ => decide (d < 2) && decide (m < 16)
  | .queueDoorbell q _ | .launchPacket q | .fencePacket q | .fencePacketRelease q | .signalPacket q | .signalApply q
  | .queueEnable q | .queueDisable q | .haltClear q | .preemptSet q | .preemptClear q => decide (q < 64)
  | .portDownClear n | .peerChunkReceive n _ | .peerAckReceive n _ _ | .heartbeatReceive n | .heartbeatSend n
  | .chunkRetransmit n _ | .portDown n => decide (n < 12)
  | _ => true

end Sys2Proof.Safety
end

