-- ==== Sys2Proof/Certificates/Slice0/Obligations.lean ====
section
/-! DEFINITION. The statements for the provers: what the instructions and the machine do, by the rules of the spec. -/

open Sys2Proof Sys2Proof.Machine Sys2Proof.Safety

/-! ## Integer forms (chapter 05) -/

/-- IADD (R100): the sum, with carry in, or saturated, at 32 and 64 bits, and its four codes when W is 1; then the next
slot. The codes C and O are those of the exact sums.
ISUB (R100): the difference, with the borrow that C holds, or saturated, and its four codes when W is 1: C says that
there was no borrow. -/
def Obligations.AddAndSubtract : Prop :=
  (∀ (s : State) (ag : Agent) (h : Hdr) (d a b : Reg) (mode : AddMode) (w64 : Bool),
     Executes s ag (.iadd h d a b mode w64) →
     let w := if w64 then 64 else 32
     let x := s.regN ag w64 a
     let y := s.regN ag w64 b
     let cin := if mode = .ci ∧ (s.cc ag).c = true then 1 else 0
     let e : Int := sgn w x + sgn w y
     ∃ (r : Nat) (f : CC), exec (.iadd h d a b mode w64) s = .next ((s.result ag h w64 d r f).advance ag) ∧
       r = (match mode with
         | .wrap => (x + y) % 2 ^ w
         | .ci => (x + y + cin) % 2 ^ w
         | .sats => wrapN w (max (-(2 ^ (w - 1))) (min (2 ^ (w - 1) - 1) e))
         | .satu => min (x + y) (2 ^ w - 1)) ∧
       f.z = decide (r = 0) ∧ f.s = decide (2 ^ (w - 1) ≤ r) ∧ f.c = decide (2 ^ w ≤ x + y + cin) ∧
       f.o = (match mode with
         | .satu => decide (2 ^ w ≤ x + y)
         | _ => decide (e + cin < -(2 ^ (w - 1)) ∨ 2 ^ (w - 1) - 1 < e + cin))) ∧
  (∀ (s : State) (ag : Agent) (h : Hdr) (d a b : Reg) (mode : AddMode) (w64 : Bool),
     Executes s ag (.isub h d a b mode w64) →
     let w := if w64 then 64 else 32
     let x := s.regN ag w64 a
     let y := s.regN ag w64 b
     let bin := if mode = .ci ∧ (s.cc ag).c = false then 1 else 0
     let e : Int := sgn w x - sgn w y
     ∃ (r : Nat) (f : CC), exec (.isub h d a b mode w64) s = .next ((s.result ag h w64 d r f).advance ag) ∧
       r = (match mode with
         | .wrap => (x + 2 ^ w - y) % 2 ^ w
         | .ci => (x + 2 ^ w - y - bin) % 2 ^ w
         | .sats => wrapN w (max (-(2 ^ (w - 1))) (min (2 ^ (w - 1) - 1) e))
         | .satu => x - y) ∧
       f.z = decide (r = 0) ∧ f.s = decide (2 ^ (w - 1) ≤ r) ∧ f.c = decide (y + bin ≤ x) ∧
       f.o = (match mode with
         | .satu => decide (x < y)
         | _ => decide (e - bin < -(2 ^ (w - 1)) ∨ 2 ^ (w - 1) - 1 < e - bin)))

/-- ICMP (R108): the codes that ISUB without carry in sets, and no register.
IMINMAX (R102): the smaller or the larger operand as the type reads it. -/
def Obligations.CompareAndMinMax : Prop :=
  (∀ (s : State) (ag : Agent) (h : Hdr) (a b : Reg) (w64 : Bool), Executes s ag (.icmp h a b w64) →
     let w := if w64 then 64 else 32
     let x := s.regN ag w64 a
     let y := s.regN ag w64 b
     exec (.icmp h a b w64) s = .next ((s.setCC ag
       ⟨decide (y ≤ x), decide (x = y), decide (2 ^ (w - 1) ≤ (x + 2 ^ w - y) % 2 ^ w),
         decide (sgn w x - sgn w y < -(2 ^ (w - 1)) ∨ 2 ^ (w - 1) - 1 < sgn w x - sgn w y)⟩).advance ag)) ∧
  (∀ (s : State) (ag : Agent) (h : Hdr) (d a b : Reg) (op : MinMax) (ty : IntTy), Executes s ag (.iminmax h d a b op ty) →
     let w64 := IntTy.wide ty
     let x := s.regN ag w64 a
     let y := s.regN ag w64 b
     let value : Nat → Int := match ty with
       | .s32 => sgn 32
       | .s64 => sgn 64
       | _ => Int.ofNat
     ∃ r, exec (.iminmax h d a b op ty) s = .next ((s.resultRF ag h w64 d r).advance ag) ∧ (r = x ∨ r = y) ∧
       (match op with
         | .min => value r ≤ value x ∧ value r ≤ value y
         | .max => value x ≤ value r ∧ value y ≤ value r))

/-- IMUL, IMULH and IMAD (R101): the low product, the high half of the product of signed, unsigned or mixed operands, and
the product added to C, at the width of the result, with the result flags of R99 when W is 1. -/
def Obligations.MultiplyWritesTheProduct : Prop :=
  ∀ (s : State) (ag : Agent) (h : Hdr) (d a b c : Reg),
    let x := s.reg ag a
    let y := s.reg ag b
    (Executes s ag (.imul h d a b false) →
      exec (.imul h d a b false) s = .next ((s.resultRF ag h false d (x * y).toNat).advance ag)) ∧
    (Executes s ag (.imul h d a b true) →
      exec (.imul h d a b true) s =
        .next ((s.resultRF ag h true d (s.reg64 ag a * s.reg64 ag b).toNat).advance ag)) ∧
    (∀ m, Executes s ag (.imulh h d a b m) →
      exec (.imulh h d a b m) s = .next ((s.resultRF ag h false d (match m with
        | .s32 => (x.signExtend 64 * y.signExtend 64).extractLsb' 32 32
        | .n32 => (x.setWidth 64 * y.setWidth 64).extractLsb' 32 32
        | .sn32 => (x.signExtend 64 * y.setWidth 64).extractLsb' 32 32).toNat).advance ag)) ∧
    (Executes s ag (.imad h d a b c .lo) →
      exec (.imad h d a b c .lo) s = .next ((s.resultRF ag h false d (x * y + s.reg ag c).toNat).advance ag)) ∧
    (Executes s ag (.imad h d a b c .ws) →
      exec (.imad h d a b c .ws) s = .next
        ((s.resultRF ag h true d (x.signExtend 64 * y.signExtend 64 + s.reg64 ag c).toNat).advance ag)) ∧
    (Executes s ag (.imad h d a b c .wu) →
      exec (.imad h d a b c .wu) s = .next
        ((s.resultRF ag h true d (x.setWidth 64 * y.setWidth 64 + s.reg64 ag c).toNat).advance ag))

/-- BOOL (R103): each bit by the function that the same bit of C selects.
BFX and BFI (R105): every bit of the extracted and of the inserted field. -/
def Obligations.BoolAndBitFieldsBitByBit : Prop :=
  (∀ (s : State) (ag : Agent) (h : Hdr) (d a b c : Reg) (g1 g0 : BitVec 4), Executes s ag (.bool h d a b c g1 g0) →
     ∃ r : Word, exec (.bool h d a b c g1 g0) s = .next ((s.resultRF ag h false d r.toNat).advance ag) ∧
       ∀ i < 32, r.getLsbD i =
         (if (s.reg ag c).getLsbD i then g1 else g0).getLsbD
           (2 * b2n ((s.reg ag a).getLsbD i) + b2n ((s.reg ag b).getLsbD i))) ∧
  (∀ (s : State) (ag : Agent) (h : Hdr) (d a b c : Reg),
     (∀ sx, Executes s ag (.bfx h d a b sx) →
       let x := s.reg ag a
       let pos := (s.reg ag b).toNat % 256
       let len := min ((s.reg ag b).toNat / 256 % 256) 32
       let f := fun j => if pos + j < 32 then x.getLsbD (pos + j) else sx && x.getLsbD 31
       ∃ r : Word, exec (.bfx h d a b sx) s = .next ((s.resultRF ag h false d r.toNat).advance ag) ∧
         ∀ i < 32, r.getLsbD i = if i < len then f i else sx && decide (0 < len) && f (len - 1)) ∧
     (Executes s ag (.bfi h d a b c) →
       let pos := (s.reg ag c).toNat % 256
       let len := min ((s.reg ag c).toNat / 256 % 256) 32
       ∃ r : Word, exec (.bfi h d a b c) s = .next ((s.resultRF ag h false d r.toNat).advance ag) ∧
         ∀ i < 32, r.getLsbD i =
           if pos ≤ i ∧ i < pos + len then (s.reg ag b).getLsbD (i - pos) else (s.reg ag a).getLsbD i))

/-- SHF (R104): the seven shifts for every amount of 32 bits, and the bit shifted out as C. -/
def Obligations.ShiftsForEveryAmount : Prop :=
  ∀ (s : State) (ag : Agent) (h : Hdr) (d a b c : Reg) (op : ShfOp), Executes s ag (.shf h d a b c op) →
    let x := s.reg ag a
    let n := (s.reg ag b).toNat
    let k := min n 32
    let both : BitVec 64 := x ++ s.reg ag c
    ∃ (r : Word) (co : Bool),
      exec (.shf h d a b c op) s =
        .next ((s.result ag h false d r.toNat ⟨co, decide (r = 0), r.getLsbD 31, false⟩).advance ag) ∧
      (match op with
        | .shl => r = x <<< n ∧ co = (decide (1 ≤ n ∧ n ≤ 32) && x.getLsbD (32 - n))
        | .shr => r = x >>> n ∧ co = (decide (1 ≤ n ∧ n ≤ 32) && x.getLsbD (n - 1))
        | .sar => r = x.sshiftRight k ∧ co = (decide (1 ≤ n) && x.getLsbD (k - 1))
        | .rol => r = x.rotateLeft (n % 32) ∧ co = false
        | .ror => r = x.rotateRight (n % 32) ∧ co = false
        | .fshl => r = (both <<< k).extractLsb' 32 32 ∧ co = false
        | .fshr => r = (both >>> k).extractLsb' 0 32 ∧ co = false)

/-- BITC and BYSEL (R106, R107): counts of bits, the reversal, and each byte by its selector. -/
def Obligations.BitCountsAndByteSelection : Prop :=
  ∀ (s : State) (ag : Agent) (h : Hdr) (d a b c : Reg),
    (∀ op, Executes s ag (.bitc h d a op) →
      let x := s.reg ag a
      ∃ r : Nat, exec (.bitc h d a op) s = .next ((s.resultRF ag h false d r).advance ag) ∧
        (match op with
          | .popc => r = ((List.range 32).filter x.getLsbD).length
          | .clz => r ≤ 32 ∧ (∀ i < r, x.getLsbD (31 - i) = false) ∧ (r < 32 → x.getLsbD (31 - r) = true)
          | .ctz => r ≤ 32 ∧ (∀ i < r, x.getLsbD i = false) ∧ (r < 32 → x.getLsbD r = true)
          | .brev => r < 2 ^ 32 ∧ ∀ i < 32, r.testBit i = x.getLsbD (31 - i))) ∧
    (Executes s ag (.bysel h d a b c) →
      let pool := pair64 (s.reg ag a) (s.reg ag b)
      ∃ r : Word, exec (.bysel h d a b c) s = .next ((s.resultRF ag h false d r.toNat).advance ag) ∧
        ∀ k < 4, r.extractLsb' (8 * k) 8 =
          (let q := ((s.reg ag c).extractLsb' (8 * k) 5).toNat
           if q < 8 then pool.extractLsb' (8 * q) 8
           else if q < 16 then (if pool.getLsbD (8 * (q - 8) + 7) then 0xFF else 0)
           else if q = 17 then 0xFF else 0))

/-- SEL, MOV, MOVI and LEA (R108). -/
def Obligations.MovesSelectsAndAddresses : Prop :=
  ∀ (s : State) (ag : Agent) (h : Hdr) (d a b : Reg),
    (∀ w64 sc, Executes s ag (.sel h d a b w64 sc) →
      exec (.sel h d a b w64 sc) s = .next
        ((s.setRegN ag w64 d (s.regN ag w64 (if Cond.holds sc (s.cc ag) then a else b))).advance ag)) ∧
    (∀ w64, Executes s ag (.mov h d a w64) →
      exec (.mov h d a w64) s = .next ((s.resultRF ag h w64 d (s.regN ag w64 a)).advance ag)) ∧
    (∀ imm, Executes s ag (.movi h d imm false) →
      exec (.movi h d imm false) s = .next ((s.resultRF ag h false d imm.toNat).advance ag)) ∧
    (∀ imm, Executes s ag (.movi h d imm true) →
      exec (.movi h d imm true) s = .next ((s.resultRF ag h true d (imm.signExtend 64).toNat).advance ag)) ∧
    (∀ sgn scale, Executes s ag (.lea h d a b sgn scale) →
      exec (.lea h d a b sgn scale) s = .next ((s.setReg64 ag d (s.reg64 ag a +
        (if sgn then (s.reg ag b).signExtend 64 else (s.reg ag b).setWidth 64) <<< scale.toNat)).advance ag))


/-! ## Conditions, exceptions and returns (chapters 02 and 12) -/

/-- R41, R51: the checks of an instruction come before its effect. An encoding that is illegal for the agent, or that names a
register out of its range, is a trap at that instruction; a false condition steps to the next slot and does nothing else.
A form with a mask then has what hangs on the mask evaluated. -/
def Obligations.ChecksComeBeforeTheEffect : Prop :=
  ∀ (s : State) (ag : Agent) (i : Instr) (t : Trap),
    (laneForm i = true → Traps s ag i t → exec i s = .next (s.raise ag i t)) ∧
    (laneForm i = true → Skips s ag i → exec i s = .next (s.advance ag)) ∧
    (∀ u g l m, ag = .thread u g l → maskOf i = some m →
      (Traps s ag i t → exec i s = .next ((s.raise ag i t).collect u g m.toNat)) ∧
      (Skips s ag i → exec i s = .next ((s.advance ag).collect u g m.toNat))) ∧
    (Traps s ag i t → t = ⟨0x01, 0, 0⟩ ∨ ∃ r : Nat, t = ⟨0x02, BitVec.ofNat 64 r, 0⟩)

/-- R256, R262: a trap at TRAPLVL 0 in a kernel with a handler records its cause, PC, value and address, saves the PC as the
resume point, sets TRAPLVL and goes to the handler; every register, the codes and memory stay. It is so for the encoding
traps, for TRAP, and for a BKPT that is not armed.
R59, R228, R259: TRAP at TRAPLVL 1, in a kernel without a handler, or on the bursar is a double fault: the team is
killed with the cause, PC and lane of its first one, no thread of it may act again, and a context that
trapped has ended. That the record keeps the value and the address as well is log entry 73. -/
def Obligations.TrapsEnterTheHandlerOrKill : Prop :=
  (∀ (s : State) (ag : Agent), MayEnter s ag →
     (∀ i t, laneForm i = true → Traps s ag i t →
       ∃ s', exec i s = .next s' ∧ Entered s s' ag t.cause t.val t.addr (s.dstOf ag i)) ∧
     (∀ h a code, Executes s ag (.trap h a code) →
       ∃ s', exec (.trap h a code) s = .next s' ∧
         Entered s s' ag 0x04 (BitVec.ofNat 64 (code.toNat * 2 ^ 32 + (s.reg ag a).toNat)) 0 []) ∧
     (∀ h code, Executes s ag (.bkpt h code) → (s.dbg.armed.contains (s.ctxNo (s.uidOf ag)) && s.feature 1) = false →
       ∃ s', exec (.bkpt h code) s = .next s' ∧ Entered s s' ag 0x05 (BitVec.ofNat 64 code.toNat) 0 [])) ∧
  (∀ (s : State) (ag : Agent) (h : Hdr) (a : Reg) (code : BitVec 12), Executes s ag (.trap h a code) → Still s ag →
     (s.team (s.uidOf ag)).stat = .running →
     (Agent.bursar ag = true ∨ (s.trapOf ag).lvl = true ∨ (s.descOf ag).handler = 0) →
     let u := s.uidOf ag
     let val := BitVec.ofNat 64 (code.toNat * 2 ^ 32 + (s.reg ag a).toNat)
     ∃ t, exec (.trap h a code) s = .next t ∧
       (t.team u).first = some ((s.team u).first.getD ⟨2, 0, 0x04, s.pc ag, (s.team u).teamid, Agent.lane ag, val, 0⟩) ∧
       ((s.team u).first = none → ∃ kind, (t.team u).stat = .killed kind 0x04 (s.pc ag) (Agent.lane ag) val 0) ∧
       (∀ g l, t.live (.thread u g l) = false) ∧ (∀ k c, ag = .ctx k c → (t.bctx k c).run = .ended))

/-- R258: the four returns from a trap at issue. `retry` and `accept` go to the trapped instruction, `skip` and `supply` to
the slot after it; TRAPLVL becomes 0; `supply` writes TRAPVAL to the trapped instruction's destination, one register or
two. The target is checked as a transfer's (R86); s1 is the state once it has been found sound.
R258, R46: `retry` and `accept` of a trap that a window delivered perform the access again, before anything else of the
thread issues, and go on at the resume point; `accept` makes it without its race check. -/
def Obligations.ReturnsFromATrap : Prop :=
  (∀ (s s1 : State) (u g l : Nat) (h : Hdr),
     let ag := Agent.thread u g l
     let tr := s1.trapOf ag
     Still s1 ag → (s.trapOf ag).pend = [] → s1.trapOf ag = s.trapOf ag → tr.saved = none →
     (Executes s ag (.trapretRetry h) → s.aim ag tr.pc.toNat = (s1, .go false) →
       ∃ t, exec (.trapretRetry h) s = .next t ∧ t.pc ag = tr.pc ∧ t.trapOf ag = { tr with lvl := false } ∧
         (∀ r, t.reg ag r = s1.reg ag r) ∧ t.accs = s1.accs) ∧
     (Executes s ag (.trapretAccept h) → s.aim ag tr.pc.toNat = (s1, .go false) →
       ∃ t, exec (.trapretAccept h) s = .next t ∧ t.pc ag = tr.pc ∧ t.trapOf ag = { tr with lvl := false } ∧
         (∀ r, t.reg ag r = s1.reg ag r) ∧ t.accs = s1.accs) ∧
     (Executes s ag (.trapretSkip h) → s.aim ag (nextPc tr.pc).toNat = (s1, .go false) →
       ∃ t, exec (.trapretSkip h) s = .next t ∧ t.pc ag = nextPc tr.pc ∧ t.trapOf ag = { tr with lvl := false } ∧
         (∀ r, t.reg ag r = s1.reg ag r) ∧ t.accs = s1.accs) ∧
     (Executes s ag (.trapretSupply h) → s.aim ag (nextPc tr.pc).toNat = (s1, .go false) →
       ∃ t, exec (.trapretSupply h) s = .next t ∧ t.pc ag = nextPc tr.pc ∧ t.trapOf ag = { tr with lvl := false } ∧
         t.accs = s1.accs ∧
         (∀ d, tr.dst = [d] → d ≠ vz → t.reg ag d = lo32 tr.val) ∧
         (∀ d, tr.dst = [d, d + 1] → d ≠ vz → d + 1 ≠ vz → t.reg64 ag d = tr.val) ∧
         (∀ r, r ∉ tr.dst → t.reg ag r = s1.reg ag r))) ∧
  (∀ (s s1 : State) (u g l : Nat) (h : Hdr) (a : Access),
     let ag := Agent.thread u g l
     let tr := s1.trapOf ag
     Still s1 ag → (s.trapOf ag).pend = [] → s1.trapOf ag = s.trapOf ag → tr.saved = some a →
     s.aim ag tr.resume.toNat = (s1, .go false) →
     (Executes s ag (.trapretRetry h) →
       ∃ t b, exec (.trapretRetry h) s = .next t ∧ t.accsOf ag = [b] ∧ b.op = a.op ∧ b.dst = a.dst ∧ b.ea = a.ea ∧
         b.len = a.len ∧ b.racy = false ∧ t.retrying ag = true ∧ t.readyAg ag = false ∧ t.pc ag = tr.resume ∧
         (t.trapOf ag).lvl = false) ∧
     (Executes s ag (.trapretAccept h) →
       ∃ t b, exec (.trapretAccept h) s = .next t ∧ t.accsOf ag = [b] ∧ b.op = a.op ∧ b.dst = a.dst ∧ b.ea = a.ea ∧
         b.len = a.len ∧ b.racy = true ∧ t.retrying ag = true ∧ t.readyAg ag = false ∧ t.pc ag = tr.resume ∧
         (t.trapOf ag).lvl = false))

/-! ## Transfers, endings and meetings (chapter 04) -/

/-- R86, R32, R30: a taken BRA, BRX, CALL or RET goes to its target when that is a slot of the code window marked as a
target; CALL writes the next slot's address to D, and reads its target first; another target is BRANCH_TARGET, with no
link written. The target's line has been fetched, with the team's own held writes where it has any there (R371): s1 is the
state after that. -/
def Obligations.TransfersGoToMarkedSlots : Prop :=
  ∀ (s s1 : State) (ag : Agent) (i : Instr) (x : Int) (link : Option Reg), Executes s ag i →
    (∃ h, (∃ disp, i = .bra h disp ∧ x = slotpc (slotno (s.pc ag) + disp.toInt) ∧ link = none) ∨
      (∃ a, i = .brx h a ∧ x = (s.reg ag a).toNat ∧ link = none) ∨
      (∃ a, i = .ret h a ∧ x = (s.reg ag a).toNat ∧ link = none) ∨
      (∃ d a, i = .call h d (.reg a) ∧ x = (s.reg ag a).toNat ∧ link = some d) ∨
      (∃ d disp, i = .call h d (.disp disp) ∧ x = slotpc (slotno (s.pc ag) + disp.toInt) ∧ link = some d)) →
    let p := BitVec.ofInt 32 x
    let bad : Trap := ⟨0x03, 0, BitVec.ofInt 64 x⟩
    ((x < 0 ∨ 2 ^ 32 ≤ x ∨ slotOk p = false) → exec i s = .next (s.raise ag i bad)) ∧
    (∀ line, 0 ≤ x → x < 2 ^ 32 → slotOk p = true →
      s.fetchFor ag p = (s1, .line line) →
      exec i s = .next (if lineBtm line.word (p.toNat % 64 / 12) then
          (match link with
            | some d => s1.setReg ag d (nextPc (s1.pc ag))
            | none => s1).transfer ag p
        else s1.raise ag i bad))

/-- R88, R110: MEETSET writes the meeting address of a slot (modulo 2^32, log entry 98) and answers the old one, MEETRST and SWR write it from a
register, MEETRST without one clears it; the thread then goes to the next slot.
R78, R79: an instruction that steps to the thread's meeting address parks there, and when every other thread with that
address is parked there, all of them go on together; otherwise the thread just goes on. -/
def Obligations.MeetingsAreSetAndReleased : Prop :=
  (∀ (s : State) (u g l : Nat) (h : Hdr),
     let ag := Agent.thread u g l
     let old := (s.thr u g l).meet
     let next := nextPc (s.pc ag)
     Still s ag →
     (∀ d disp, Executes s ag (.meetset h d disp) →
       ∃ t, exec (.meetset h d disp) s = .next t ∧
         (t.thr u g l).meet = BitVec.ofInt 32 (slotpc (slotno (s.pc ag) + disp.toInt)) ∧ t.pc ag = next ∧
         (d ≠ vz → t.reg ag d = old) ∧ ∀ r, r ≠ d → t.reg ag r = s.reg ag r) ∧
     (∀ src, Executes s ag (.meetrst h src) →
       ∃ t, exec (.meetrst h src) s = .next t ∧ t.pc ag = next ∧ (∀ r, t.reg ag r = s.reg ag r) ∧
         (t.thr u g l).meet = (match src with
           | some a => s.reg ag a
           | none => 0xFFFFFFFF)) ∧
     (∀ a, Executes s ag (.swr h a 0x020) →
       ∃ t, exec (.swr h a 0x020) s = .next t ∧ t.pc ag = next ∧ (∀ r, t.reg ag r = s.reg ag r) ∧
         (t.thr u g l).meet = s.reg ag a)) ∧
  (∀ (s : State) (u g l : Nat) (h : Hdr), Executes s (.thread u g l) (.nop h) → Still s (.thread u g l) → Tidy s →
     let ag := Agent.thread u g l
     let x := nextPc (s.pc ag)
     let k := s.grp u g
     ((k.thr l).meet ≠ x → exec (.nop h) s = .next ((s.setPc ag x).setPark ag .run)) ∧
     ((k.thr l).meet = x →
       ∃ t, exec (.nop h) s = .next t ∧ t.pc ag = x ∧
         ((∃ j ∈ k.unexited, j ≠ l ∧ (k.thr j).meet = x ∧ (k.thr j).park ≠ .meeting) → t.park ag = .meeting) ∧
         ((∀ j ∈ k.unexited, j ≠ l → (k.thr j).meet = x → (k.thr j).park = .meeting) →
           t.park ag = .run ∧ ∀ j ∈ k.unexited, (k.thr j).meet = x → t.park (.thread u g j) = .run)))

/-- R87, R351, R229: EXIT and DISCARD end a thread that has nothing on its way: it is out of every mask, and no other
lane's bits change. With stores, updates or tiles still on their way the thread waits for them, without its loads. A context
that executes EXIT ends.
R262, R411: in a part that allows breakpoints, an armed BKPT stops its group and
reports it, and the debugger's resumption lets the group go on after the BKPT. -/
def Obligations.ExitsAndArmedBreakpoints : Prop :=
  ∀ (s : State) (h : Hdr),
    (∀ u g l, let ag := Agent.thread u g l
      let ends := fun (o : Host.Outcome State Fault Refusal) => ∃ t, o = .next t ∧ (t.thr u g l).exited = true ∧
        ∀ m j, nbit ((t.grp u g).mask m) j = (nbit ((s.grp u g).mask m) j && decide (j ≠ l))
      let clear := Still s ag ∧ (∀ x ∈ s.tiles, ag ∉ x.ags) ∧ (s.thr u g l).ch.mode = 0 ∧
        ∀ j m due f, (s.thr u g j).park ≠ .signed m due f
      (Executes s ag (.exit h) → clear → ends (exec (.exit h) s)) ∧
      (Executes s ag (.discard h) → clear → ends (exec (.discard h) s)) ∧
      (∀ a x, Executes s ag (.exit h) → s.accsOf ag = [a] → a.op = .store x → a.stage = .ready → (s.thr u g l).ch.mode = 0 →
        ∃ t, exec (.exit h) s = .next t ∧ t.park ag = .ending false ∧ (t.thr u g l).exited = false ∧
          t.pc ag = s.pc ag)) ∧
    (∀ k c, Executes s (.ctx k c) (.exit h) → Still s (.ctx k c) → (∀ x ∈ s.tiles, .ctx k c ∉ x.ags) →
      ∃ t, exec (.exit h) s = .next t ∧ (t.bctx k c).run = .ended) ∧
    (∀ u g l (code : BitVec 12), Executes s (.thread u g l) (.bkpt h code) → Still s (.thread u g l) →
      s.dbg.armed.contains (s.ctxNo u) = true →
      ∃ t, exec (.bkpt h code) s = .next t ∧ (s.feature 1 = true →
        (t.grp u g).stopped = true ∧ (u, g) ∈ t.dbg.reported ∧ t.pc (.thread u g l) = nextPc (s.pc (.thread u g l)) ∧
        (∀ r, t.reg (.thread u g l) r = s.reg (.thread u g l) r) ∧ SameMemory s t ∧
        ∃ v, exec (.bkptResumption u g) t = .next v ∧ (v.grp u g).stopped = false ∧ (u, g) ∉ v.dbg.reported ∧
          v.pc (.thread u g l) = t.pc (.thread u g l)))

/-! ## Masks, waits and the bursar hand-off (chapter 04) -/

/-- R80, R89: MJOIN, MLEAVE and MSET write a mask, whose bits stay inside the group and inside m0, and MGET reads one. No lane
of the group waits on a mask here; what hangs on a mask is stated apart. A team none of whose bodies waits for an array leaves
its queue.
R90: MWAIT parks a lane until every member of the mask is parked on it; then all go on at their next slots. -/
def Obligations.MasksAndWaits : Prop :=
  (∀ (s : State) (u g l : Nat) (h : Hdr) (m : MaskNo),
     let ag := Agent.thread u g l
     let k := s.grp u g
     let old := k.mask m.toNat
     let wide := (s.descOf ag).gwidth == 64
     (Still s ag → (∀ j n due f, (k.thr j).park ≠ .signed n due f) → (∀ j n, (k.thr j).park ≠ .mwait n) →
       ∀ i f, (i = .mjoin h m ∧ (f = fun j => nbit old j || decide (j = l)) ∨
           i = .mleave h m ∧ (f = fun j => nbit old j && decide (j ≠ l)) ∨
           (∃ a op, i = .mset h a m op ∧ f = fun j =>
             let v := nbit (s.regN ag wide a) j
             match op with
             | .ld => v
             | .or => nbit old j || v
             | .andn => nbit old j && !v)) →
         Executes s ag i →
         ∃ x, exec i s = .next (((s.setGrp u g { k with masks := aput k.masks m.toNat x }).advance ag).pruneWaits u) ∧
           ∀ j, nbit x j = (decide (j < k.width) && nbit (k.mask 0) j && f j)) ∧
     (∀ d op, Executes s ag (.mget h d m op) →
       exec (.mget h d m op) s = .next ((match op with
         | .bits => s.resultRF ag h (k.width == 64) d old
         | .cnt => s.resultRF ag h false d ((List.range 64).filter (fun j => nbit old j)).length
         | .rank => s.resultRF ag h false d ((List.range l).filter (fun j => j < 64 && nbit old j)).length).advance ag))) ∧
  (∀ (s : State) (u g l : Nat) (h : Hdr) (m : MaskNo), Executes s (.thread u g l) (.mwait h m) → Tidy s →
     (∀ j, Still s (.thread u g j) ∧ NoMeeting s (.thread u g j)) → m.toNat < 12 →
     let k := s.grp u g
     let members := k.lanesOf (k.mask m.toNat)
     let waits := fun j => (k.thr j).exited = false ∧ (k.thr j).park = .mwait m.toNat
     ((∀ j ∈ members, j ≠ l → waits j) →
       ∃ t, exec (.mwait h m) s = .next t ∧
         ∀ j, j = l ∨ waits j → t.park (.thread u g j) = .run ∧ t.pc (.thread u g j) = nextPc (s.pc (.thread u g j))) ∧
     ((∃ j ∈ members, j ≠ l ∧ ¬ waits j) →
       ∃ t, exec (.mwait h m) s = .next t ∧ t.park (.thread u g l) = .mwait m.toNat ∧
         t.pc (.thread u g l) = s.pc (.thread u g l)))

/-- R94, R225: FORK grants a free context of the lane's core, the lowest, and one with accesses on the way is not free (log
entry 38), which starts at the target with V[A] in its first
register, clear codes, and the lane's team and privilege; D receives the context's number. With no free context the lane
stalls; a context that ends lets it go on.
R95: RDV of a thread and of the context that it names: who comes first waits, and the other lets both go on; a context
that is not running makes the thread go on. -/
def Obligations.BursarHandOff : Prop :=
  (∀ (s s1 : State) (u g l : Nat) (h : Hdr) (d a : Reg) (disp : Disp),
     let ag := Agent.thread u g l
     let i := Instr.fork h d a disp
     let x := targetPc (s.pc ag) disp
     let k := s1.coreOf ag
     let busy := fun c => (s1.bctx k c).run = .ready ∨ s1.accsOf (.ctx k c) ≠ []
     Executes s ag i → s.aim ag x = (s1, .go false) → s1.pc ag = s.pc ag → s1.park ag = .run → Still s1 ag →
     NoMeeting s1 ag →
     (∀ c < 4, ¬ busy c → (∀ b < c, busy b) →
       ∃ t, exec i s = .next t ∧ t.bctx k c = ⟨.ready, .run, BitVec.ofInt 32 x, .zero, u, s1.privOf ag, .zero⟩ ∧
         t.reg (.ctx k c) 0 = s1.reg ag a ∧ (d ≠ vz → t.reg ag d = BitVec.ofNat 32 c) ∧
         t.pc ag = nextPc (s1.pc ag) ∧ t.park ag = .run) ∧
     ((∀ c < 4, busy c) →
       exec i s = .next (s1.setPark ag (.stall i s.nextSeq false)))) ∧
  (∀ (s : State) (u g l c : Nat) (h : Hdr) (a : Reg),
     let ag := Agent.thread u g l
     let k := s.coreOf ag
     let b := Agent.ctx k c
     (Executes s ag (.rdv h a) → c = (s.reg ag a).toNat % 4 → Still s ag → NoMeeting s ag →
       ((s.bctx k c).run ≠ .ready → exec (.rdv h a) s = .next (s.advance ag)) ∧
       ((s.bctx k c).run = .ready → (s.bctx k c).park = .rdv c →
         ∃ t, exec (.rdv h a) s = .next t ∧ t.park ag = .run ∧ t.pc ag = nextPc (s.pc ag) ∧ t.park b = .run ∧
           t.pc b = nextPc (s.pc b)) ∧
       ((s.bctx k c).run = .ready → (s.bctx k c).park ≠ .rdv c →
         exec (.rdv h a) s = .next (s.setPark ag (.rdv c)))) ∧
     (Executes s b (.rdv h a) → Still s b →
       (s.rdvWaits k c = false → exec (.rdv h a) s = .next (s.setPark b (.rdv c))) ∧
       (s.rdvWaits k c = true → ∃ t, exec (.rdv h a) s = .next t ∧ t.pc b = nextPc (s.pc b) ∧ t.park b = .run)))

/-- R17, R92, R93: SLEEPT waits for the tick V[A] and SLEEPP for a phase of a barrier or its promised tick; a sleeper whose tick
has come goes on, one whose promise has come without the phase traps with PROMISE_MISSED. Outside deterministic mode. -/
def Obligations.SleepersWakeAtTheirTick : Prop :=
  ∀ (s : State) (ag : Agent) (h : Hdr) (a : Reg) (bar : BarNo), s.det ag = false →
    let v := (s.reg64 ag a).toNat
    let x := s.bar (s.uidOf ag) bar.toNat
    let p := (s.reg ag a).getLsbD 0
    let tick := s.tick % 2 ^ 64
    (Executes s ag (.sleept h a) →
      (v ≤ tick → exec (.sleept h a) s = .next (s.advance ag)) ∧
      (tick < v → exec (.sleept h a) s = .next (s.parkOn ag (.sleept v)))) ∧
    (Executes s ag (.sleepp h a bar) →
      (x.phase ≠ p → exec (.sleepp h a bar) s = .next ((s.acquireAction ag .team).advance ag)) ∧
      (x.phase = p → tick < x.prom → exec (.sleepp h a bar) s = .next (s.parkOn ag (.sleepp bar.toNat p))) ∧
      (x.phase = p → x.prom ≤ tick → exec (.sleepp h a bar) s =
        .next (s.raise ag (.sleepp h a bar) ⟨0x10, BitVec.ofNat 64 (x.prom % 2 ^ 32), 0⟩))) ∧
    (s.live ag = true →
      (∀ n, s.park ag = .sleept n → n ≤ tick → exec (.sleepWake ag) s = .next (s.advance ag)) ∧
      (s.park ag = .sleepp bar.toNat (!x.phase) → x.prom ≤ tick →
        exec (.sleepWake ag) s = .next ((s.acquireAction ag .team).advance ag)) ∧
      (s.park ag = .sleepp bar.toNat x.phase → x.prom ≤ tick → MayEnter s ag →
        ∃ t dst, exec (.sleepWake ag) s = .next t ∧ Entered s t ag 0x10 (BitVec.ofNat 64 (x.prom % 2 ^ 32)) 0 dst))

/-! ## Special registers (chapters 05 and 12) -/

/-- R109, R110, R264: what SRD reads from each special register of a thread, at its width, and SWR of TRAPVAL.
R109, R111, R264: a special register that is not listed, or that is privileged for an unprivileged agent, makes the form
illegal; in deterministic mode the timing-dependent ones are DET_TIMING with the register's number. -/
def Obligations.SpecialRegistersOfAThread : Prop :=
  (∀ (s : State) (u g l : Nat) (h : Hdr) (d a : Reg) (n : BitVec 12) (v : Nat),
     let ag := Agent.thread u g l
     let t := s.team u
     let th := s.thr u g l
     let x := s.ctxNo u
     let low := fun (y : Nat) => y % 2 ^ 32
     (n, v) ∈ ([(0x000, low l), (0x001, low t.desc.gwidth), (0x002, low (s.groupId u g)), (0x003, low t.teamid),
         (0x004, low t.groups.length), (0x005, (s.launch t.launch).launchid.toNat), (0x006, s.coreOf ag % 2),
         (0x010, low (s.coreOf ag)), (0x011, s.tick % 2 ^ 64), (0x020, th.meet.toNat),
         (0x030, low (th.ch.mode % 4 + 4 * b2n th.ch.bank + 8 * (th.ch.geom % 4)))] ++
       [(0x031, th.ch.base.toNat), (0x032, (aget 0 th.ch.muts 0).toNat), (0x033, (aget 0 th.ch.muts 1).toNat),
         (0x034, (aget 0 th.ch.muts 2).toNat), (0x035, (aget 0 th.ch.muts 3).toNat), (0x036, th.ch.iter.toNat),
         (0x040, (s.grp u g).srkey.toNat), (0x050, low th.trap.cause), (0x051, th.trap.pc.toNat),
         (0x052, th.trap.val.toNat), (0x053, b2n th.trap.lvl), (0x054, th.trap.addr.toNat), (0x060, t.mstatus.toNat)] ++
       [(0x800, low x), (0x801, (s.ctx x).ptroot.toNat), (0x802, (s.ctx x).codebase.toNat),
         (0x803, (s.ctx x).vread.toNat), (0x804, (s.ctx x).vwrite.toNat), (0x805, (s.ctx x).hncsz.toNat),
         (0x806, (s.ctx x).hcsz.toNat)] : List (BitVec 12 × Nat)) →
     let wide := n ∈ ([0x011, 0x031, 0x032, 0x033, 0x034, 0x035, 0x040, 0x052, 0x054, 0x801, 0x802, 0x803, 0x804, 0x805,
       0x806] : List (BitVec 12))
     (Executes s ag (.srd h d n) → (s.det ag = false ∨ n ∉ ([0x006, 0x010, 0x011] : List (BitVec 12))) →
       exec (.srd h d n) s = .next ((s.setRegN ag (decide wide) d v).advance ag)) ∧
     (Executes s ag (.swr h a 0x052) →
       exec (.swr h a 0x052) s = .next ((s.setTrap ag { s.trapOf ag with val := s.reg64 ag a }).advance ag))) ∧
  (∀ (s : State) (u g l : Nat) (h : Hdr) (d a : Reg) (n : BitVec 12),
     let ag := Agent.thread u g l
     let open' := ([0x000, 0x001, 0x002, 0x003, 0x004, 0x005, 0x006, 0x010, 0x011, 0x020, 0x030, 0x031, 0x032, 0x033, 0x034,
       0x035, 0x036, 0x040, 0x050, 0x051, 0x052, 0x053, 0x054, 0x060] : List (BitVec 12))
     let shut := ([0x800, 0x801, 0x802, 0x803, 0x804, 0x805, 0x806] : List (BitVec 12))
     s.cur.agents = [ag] → s.live ag = true →
     (n ∉ open' → ¬ (n ∈ shut ∧ s.privOf ag = true) →
       exec (.srd h d n) s = .next (s.raise ag (.srd h d n) ⟨0x01, 0, 0⟩)) ∧
     (n ≠ 0x020 → n ≠ 0x052 → exec (.swr h a n) s = .next (s.raise ag (.swr h a n) ⟨0x01, 0, 0⟩)) ∧
     (Executes s ag (.srd h d n) → s.det ag = true → n ∈ ([0x006, 0x010, 0x011] : List (BitVec 12)) →
       exec (.srd h d n) s = .next (s.raise ag (.srd h d n) ⟨0x0D, BitVec.ofNat 64 n.toNat, 0⟩)))

/-! ## The frame of the register forms (chapters 05 to 07) -/

/-- R41, R42, R97: a form of classes 0 to 3 that works on registers completes, writes its destination and, when it sets
codes, the codes of the agent that issues it, and steps to the next slot; everything else stays as it was: the other
registers and agents, special and trap registers, masks, barriers, accumulators and every byte of memory. A stochastic
conversion also counts in its thread. -/
def Obligations.RegisterFormsFrame : Prop :=
  ∀ (s : State) (ag : Agent) (i : Instr), regForm i = true → Executes s ag i → Still s ag →
    ∃ t, exec i s = .next t ∧ LaneFrame s t ag (s.dstOf ag i) (setsCodes i)


/-! ## Numbers and rounding (chapters 06 and 07) -/

/-- R145, R146, R151: RoundTo of a finite value that does not lie beyond the largest finite magnitude gives the encoding that
the mode chooses among all encodings of the type, with the value's sign, and says whether it is inexact; under sr it is the
neighbour towards zero or the next one, by the top 16 bits of the discarded part and the random value.
R145, R146: RoundTo of a finite value for an integer or fixed-point type gives the integer that the mode chooses for the
value in units, or the type's nearest bound with the clamp said; a NaN gives 0 and an infinity a bound, both clamps, and that both
are inexact is log entry 27. -/
def Obligations.RoundToChoosesTheNeighbour : Prop :=
  (∀ (f : FFmt) (sg satf : Bool) (n : Int) (d : Nat) (e : Int) (mode : Rnd) (rnd : Nat),
     f ∈ [f64, f32, f16, bf16, e4m3, e5m2, e2m1] → n ≠ 0 → d ≠ 0 → rnd < 65536 →
     let x := X.fin sg n d e
     let v : ℚ := (n : ℚ) / (d : ℚ) * (2 : ℚ) ^ e
     let r := f.round x mode rnd satf
     let val := fun b => valueOf (f.toX b)
     (∃ top, val f.maxEnc = some top ∧ |v| ≤ top) →
       (mode ≠ .sr → Chosen val (2 ^ (1 + f.eb + f.mb)) mode v r.bits) ∧
       (f.toX r.bits).isNeg = decide (n < 0) ∧ r.inexact = decide (val (f.round x .rz 0 satf).bits ≠ some v) ∧ r.clamp = false ∧
       (mode = .sr →
         let b := (f.round x .rz 0 satf).bits
         ∀ lo hi, val b = some lo → val (b + 1) = some hi →
           (lo = v → r.bits = b) ∧
           (lo ≠ v → r.bits = if 65536 ≤ ⌊(|v| - |lo|) / (|hi| - |lo|) * 65536⌋ + (rnd : Int) then b + 1 else b))) ∧
  (∀ (w fb : Nat) (signed sg : Bool) (n : Int) (d : Nat) (e : Int) (mode : Rnd),
     (w, fb) ∈ [(8, 0), (32, 0), (64, 0), (64, 32)] → d ≠ 0 → mode ≠ .sr →
     let v : ℚ := (n : ℚ) / (d : ℚ) * (2 : ℚ) ^ e * 2 ^ fb
     let lo : Int := if signed then -(2 ^ (w - 1)) else 0
     let hi : Int := if signed then 2 ^ (w - 1) - 1 else 2 ^ w - 1
     let r := roundFix w signed fb (.fin sg n d e) mode 0
     (∃ k : Int, (match mode with
         | .rn => |(k : ℚ) - v| ≤ 1 / 2 ∧ (|(k : ℚ) - v| = 1 / 2 → k % 2 = 0)
         | .rna => |(k : ℚ) - v| ≤ 1 / 2 ∧ (|(k : ℚ) - v| = 1 / 2 → |v| < |(k : ℚ)|)
         | .rz => |(k : ℚ)| ≤ |v| ∧ |(k : ℚ) - v| < 1
         | .rp => v ≤ k ∧ (k : ℚ) < v + 1
         | .rm => (k : ℚ) ≤ v ∧ v < k + 1
         | .sr => True) ∧
       r.bits = wrapN w (max lo (min hi k)) ∧ r.clamp = decide (k < lo ∨ hi < k)) ∧
     roundFix w signed fb .nan mode 0 = ⟨0, true, true⟩ ∧
     roundFix w signed fb (.inf sg) mode 0 = ⟨wrapN w (if sg then lo else hi), true, true⟩)

/-- R120 to R124: FADD, FMUL, FFMA, DADD, DMUL, DFMA and each half of HADD2, HMUL2 and HFMA2 complete, and write the exact
sum, product or product and sum of their operands, rounded once under RND and clamped under SAT, with IEEE special cases; the
scalar forms set the codes of R121 when W is 1. -/
def Obligations.FloatArithmeticRoundsOnce : Prop :=
  ∀ (s : State) (ag : Agent) (h : Hdr) (d a b c : Reg) (sat : Bool) (rnd : Rnd) (ty : HalfTy),
    let scalar := fun (op : FArith) (w64 : Bool) (z r : Nat) =>
      ArithOf op (if w64 then f64 else f32) sat rnd (s.regN ag w64 a) (s.regN ag w64 b) z r
    let done := fun (w64 : Bool) (r : Nat) =>
      (s.result ag h w64 d r (codesOf (if w64 then f64 else f32) r)).advance ag
    let half := fun (op : FArith) (z : Reg) (x y : Nat) =>
      let f := match ty with
        | .f16 => f16
        | .bf16 => bf16
      let lo := fun r => (s.reg ag r).toNat % 65536
      let hi := fun r => (s.reg ag r).toNat / 65536
      ArithOf op f sat rnd (lo a) (lo b) (lo z) x ∧ ArithOf op f sat rnd (hi a) (hi b) (hi z) y
    let packed := fun (x y : Nat) => (s.setReg ag d (BitVec.ofNat 32 (x + 65536 * y))).advance ag
    (Executes s ag (.fadd h d a b sat rnd) →
      ∃ r, exec (.fadd h d a b sat rnd) s = .next (done false r) ∧ scalar .add false 0 r) ∧
    (Executes s ag (.fmul h d a b sat rnd) →
      ∃ r, exec (.fmul h d a b sat rnd) s = .next (done false r) ∧ scalar .mul false 0 r) ∧
    (Executes s ag (.ffma h d a b c sat rnd) →
      ∃ r, exec (.ffma h d a b c sat rnd) s = .next (done false r) ∧ scalar .fma false (s.regN ag false c) r) ∧
    (Executes s ag (.dadd h d a b sat rnd) →
      ∃ r, exec (.dadd h d a b sat rnd) s = .next (done true r) ∧ scalar .add true 0 r) ∧
    (Executes s ag (.dmul h d a b sat rnd) →
      ∃ r, exec (.dmul h d a b sat rnd) s = .next (done true r) ∧ scalar .mul true 0 r) ∧
    (Executes s ag (.dfma h d a b c sat rnd) →
      ∃ r, exec (.dfma h d a b c sat rnd) s = .next (done true r) ∧ scalar .fma true (s.regN ag true c) r) ∧
    (Executes s ag (.hadd2 h d a b ty sat rnd) →
      ∃ x y, exec (.hadd2 h d a b ty sat rnd) s = .next (packed x y) ∧ half .add vz x y) ∧
    (Executes s ag (.hmul2 h d a b ty sat rnd) →
      ∃ x y, exec (.hmul2 h d a b ty sat rnd) s = .next (packed x y) ∧ half .mul vz x y) ∧
    (Executes s ag (.hfma2 h d a b c ty sat rnd) →
      ∃ x y, exec (.hfma2 h d a b c ty sat rnd) s = .next (packed x y) ∧ half .fma c x y)

/-- R126 to R128, R42: FCMP and DCMP order their operands, and a NaN is unordered; FMINMAX chooses an operand, with −0 below
+0 and a NaN as the mode says; FCLASS names the one class of its operand.
R125: FRND writes an integral value that the mode chooses, with the operand's sign on a zero, and leaves large values and
infinities; FSCALE writes the operand times a power of two, rounded: beyond ±600 every finite f32 leaves the range of f32 as
it does there. -/
def Obligations.CompareClassRoundAndScale : Prop :=
  ∀ (s : State) (ag : Agent) (h : Hdr) (d a b : Reg) (rnd : Rnd),
    let compares := fun (f : FFmt) (w64 : Bool) (k : CC) =>
      let x := f.toX (s.regN ag w64 a)
      let y := f.toX (s.regN ag w64 b)
      (x = .nan ∨ y = .nan → k = ⟨true, false, false, true⟩) ∧
        (x ≠ .nan → y ≠ .nan → (¬ atMost y x → k = ⟨false, false, true, false⟩) ∧
          (atMost y x → ∃ z, k = ⟨true, z, false, false⟩ ∧ (z = true ↔ atMost x y)))
    let v0 := s.reg ag a
    let x := xf v0
    (Executes s ag (.fcmp h a b) → ∃ k, exec (.fcmp h a b) s = .next ((s.setCC ag k).advance ag) ∧ compares f32 false k) ∧
    (Executes s ag (.dcmp h a b) → ∃ k, exec (.dcmp h a b) s = .next ((s.setCC ag k).advance ag) ∧ compares f64 true k) ∧
    (∀ op, Executes s ag (.fminmax h d a b op) →
      let y := xf (s.reg ag b)
      let larger := op = .max ∨ op = .maxn
      let other := op = .minn ∨ op = .maxn
      ∃ r : Word, exec (.fminmax h d a b op) s = .next ((s.result ag h false d r.toNat (codesOf f32 r.toNat)).advance ag) ∧
        (x = .nan → r = if other ∧ y ≠ .nan then s.reg ag b else 0x7FC00000) ∧
        (x ≠ .nan → y = .nan → r = if other then v0 else 0x7FC00000) ∧
        (x ≠ .nan → y ≠ .nan → (r = v0 ∨ r = s.reg ag b) ∧
          (if larger then atMost x (xf r) ∧ atMost y (xf r) else atMost (xf r) x ∧ atMost (xf r) y) ∧
          (valueOf x = some 0 → valueOf y = some 0 →
            (xf r).isNeg = if larger then x.isNeg && y.isNeg else x.isNeg || y.isNeg))) ∧
    (∀ mask, Executes s ag (.fclass h d a mask) →
      let ex := v0.extractLsb' 23 8
      let fr := v0.extractLsb' 0 23
      ∃ k, k < 10 ∧ exec (.fclass h d a mask) s =
          .next ((s.result ag h false d (2 ^ k) ⟨false, !mask.getLsbD k, false, false⟩).advance ag) ∧
        (k = 0 ↔ v0 = 0xFF800000) ∧ (k = 7 ↔ v0 = 0x7F800000) ∧ (k = 3 ↔ v0 = 0x80000000) ∧ (k = 4 ↔ v0 = 0) ∧
        (k = 8 ↔ ex = 0xFF ∧ fr ≠ 0 ∧ v0.getLsbD 22 = false) ∧ (k = 9 ↔ ex = 0xFF ∧ v0.getLsbD 22 = true) ∧
        (k = 2 ↔ ex = 0 ∧ fr ≠ 0 ∧ v0.getLsbD 31 = true) ∧ (k = 5 ↔ ex = 0 ∧ fr ≠ 0 ∧ v0.getLsbD 31 = false) ∧
        (k = 1 ↔ ex ≠ 0 ∧ ex ≠ 0xFF ∧ v0.getLsbD 31 = true) ∧ (k = 6 ↔ ex ≠ 0 ∧ ex ≠ 0xFF ∧ v0.getLsbD 31 = false)) ∧
    (Executes s ag (.frnd h d a rnd) →
      ∃ r : Word, exec (.frnd h d a rnd) s = .next ((s.result ag h false d r.toNat (codesOf f32 r.toNat)).advance ag) ∧
        (x = .nan → r = 0x7FC00000) ∧ (∀ sg, x = .inf sg → r = v0) ∧
        ∀ v, valueOf x = some v →
          (2 ^ 23 ≤ |v| → r = v0) ∧
          (|v| < 2 ^ 23 → rnd ≠ .sr → ∃ k : Int, valueOf (xf r) = some (k : ℚ) ∧ (k = 0 → (xf r).isNeg = x.isNeg) ∧
            (match rnd with
              | .rn => |(k : ℚ) - v| ≤ 1 / 2 ∧ (|(k : ℚ) - v| = 1 / 2 → k % 2 = 0)
              | .rna => |(k : ℚ) - v| ≤ 1 / 2 ∧ (|(k : ℚ) - v| = 1 / 2 → |v| < |(k : ℚ)|)
              | .rz => |(k : ℚ)| ≤ |v| ∧ |(k : ℚ) - v| < 1
              | .rp => v ≤ k ∧ (k : ℚ) < v + 1
              | .rm => (k : ℚ) ≤ v ∧ v < k + 1
              | .sr => True))) ∧
    (Executes s ag (.fscale h d a b rnd) →
      ∃ r : Word, exec (.fscale h d a b rnd) s = .next ((s.result ag h false d r.toNat (codesOf f32 r.toNat)).advance ag) ∧
        (x = .nan → r = 0x7FC00000) ∧ (∀ sg, x = .inf sg → r = v0) ∧
        ∀ v, valueOf x = some v → (v = 0 → r = v0) ∧
          ∃ e, valueOf e = some (v * (2 : ℚ) ^ (max (-600) (min 600 (s.reg ag b).toInt))) ∧ r = rf e rnd)

/-- R131, R132: SFN issues a result that arrives later: the special inputs of each kind as Table 6-4 gives them, whatever the
table holds, and for `ident` the cubic of segment 0, each step one rounding. -/
def Obligations.SpecialFunctionsOfTheImage : Prop :=
  ∀ (s : State) (ag : Agent) (h : Hdr) (d a : Reg) (slot : BitVec 4), Executes s ag (.sfn h d a slot) →
    let img := (s.core (s.coreOf ag)).coef
    let kind := (img.extractLsb' (64 * slot.toNat) 8).toNat
    let segs := (img.extractLsb' (64 * slot.toNat + 8) 8).toNat
    let base := 8 * (img.extractLsb' (64 * slot.toNat + 32) 16).toNat
    let c := fun j => xf (if segs = 0 then 0 else img.extractLsb' (base + 32 * j) 32)
    let w := s.reg ag a
    let x := xf w
    let zero := fun sg => if sg then 0x80000000#32 else 0
    let inf := fun sg => if sg then 0xFF800000#32 else 0x7F800000#32
    let nan := 0x7FC00000#32
    let half := fun p (z : X) => xf (rfn ((X.mul p x).add false z))
    ∃ r, exec (.sfn h d a slot) s = .next ((s.later ag h [d] [r] (if h.w then some (codesOf f32 r.toNat) else none)).advance ag) ∧
      (x = .nan → r = nan) ∧ (∀ sg, x = .inf sg → kind = 0 ∨ kind = 6 ∨ kind = 7 → r = nan) ∧
      (kind = 1 → (∀ sg, x = .inf sg → r = zero sg) ∧ (valueOf x = some 0 → r = inf x.isNeg)) ∧
      (kind = 2 → (x = .inf false → r = 0) ∧ (x = .inf true → r = nan) ∧ (valueOf x = some 0 → r = inf x.isNeg) ∧
        (∀ v, valueOf x = some v → v < 0 → r = nan)) ∧
      (kind = 3 → (x = .inf false → r = inf false) ∧ (x = .inf true → r = nan) ∧ (valueOf x = some 0 → r = w) ∧
        (∀ v, valueOf x = some v → v < 0 → r = nan)) ∧
      (kind = 4 → (x = .inf false → r = inf false) ∧ (x = .inf true → r = 0) ∧ (∀ v, valueOf x = some v → (128 ≤ v → r = inf false) ∧ (v < -150 → r = 0))) ∧
      (kind = 5 → (x = .inf false → r = inf false) ∧ (x = .inf true → r = nan) ∧ (valueOf x = some 0 → r = inf true) ∧
        (∀ v, valueOf x = some v → v < 0 → r = nan)) ∧
      (kind = 6 → ∀ k : Int, valueOf x = some (k : ℚ) → r = zero x.isNeg) ∧
      (kind = 7 → ∀ k : Int, valueOf x = some ((k : ℚ) + 1 / 2) → r = 0) ∧
      (kind = 8 → (∀ sg, x = .inf sg → r = if sg then 0xBF800000 else 0x3F800000) ∧ ∀ v, valueOf x = some v →
        (16 ≤ |v| → r = if v < 0 then 0xBF800000 else 0x3F800000) ∧ (|v| < (1 / 2) ^ 12 → r = w)) ∧
      (kind = 0 → ∀ v, valueOf x = some v → xf r = half (half (half (c 3) (c 2)) (c 1)) (c 0))

/-- R134, R135: ACONJ, AMUL and ANORM act on runs of as many registers as the slot's algebra has dimensions: conjugation
changes the masked signs, and each component of a product is the sum of the products that the structure table assigns to it,
exact and rounded once. -/
def Obligations.AlgebraElementsMultiply : Prop :=
  ∀ (s : State) (ag : Agent) (h : Hdr) (d a b : Reg) (alg : BitVec 2) (ca cb : Bool) (rnd : Rnd),
    let r := s.algebra ag alg
    let conj := fun (c : Bool) (x : Nat → Word) (j : Nat) => if c && r.mask.getLsbD j then x j ^^^ 0x80000000 else x j
    let el := fun (q : Reg) (j : Nat) => s.reg ag (regAt q j)
    let comp := fun (x y : Nat → Word) (k : Nat) (w : Word) =>
      ∀ p q : Nat → ℚ, (∀ j < r.d, valueOf (xf (x j)) = some (p j) ∧ valueOf (xf (y j)) = some (q j)) →
        ∃ e, w = rf e rnd ∧ valueOf e = some ((List.range r.d).map (fun i => ((List.range r.d).map (fun j =>
          let nb := (r.tbl.extractLsb' (4 * (4 * i + j)) 4).toNat
          if nb % 4 = k ∧ nb / 4 ≠ 2 then (if nb / 4 = 1 then -(p i * q j) else p i * q j) else 0)).sum)).sum
    (Executes s ag (.aconj h d a alg) →
      ∃ vs, exec (.aconj h d a alg) s = .next ((s.setRun ag d vs).advance ag) ∧ vs.length = r.d ∧
        ∀ j < r.d, vs[j]? = some (if xf (el a j) = .nan then 0x7FC00000 else conj true (el a) j)) ∧
    (Executes s ag (.amul h d a b alg ca cb rnd) →
      ∃ vs, exec (.amul h d a b alg ca cb rnd) s = .next ((s.setRun ag d vs).advance ag) ∧ vs.length = r.d ∧
        ∀ j < r.d, ∃ w, vs[j]? = some w ∧ comp (conj ca (el a)) (conj cb (el b)) j w) ∧
    (Executes s ag (.anorm h d a alg rnd) →
      ∃ w : Word, exec (.anorm h d a alg rnd) s = .next ((s.result ag h false d w.toNat (codesOf f32 w.toNat)).advance ag) ∧
        (0 < r.d → comp (el a) (conj true (el a)) 0 w))


/-- R150, R154 to R157, R159: the conversions complete, and write the elements packed from bit 0 up, each the RoundTo of its
operand in the destination type, and with W set C when one was inexact, Z when all are zeros, S when element 0 is negative
and O when one was clamped. Under sr each element takes its random value from the key, the group, the lane and the thread's
count, which advances. -/
def Obligations.ConversionsRoundEachElement : Prop :=
  ∀ (s : State) (ag : Agent) (h : Hdr) (d a b : Reg) (satf scl : Bool) (rnd : Rnd),
    let scaled := fun (w : Word) => let e := (s.reg ag b).toNat % 256
      if scl = false then xf w else if e = 255 then X.nan else (xf w).mul (.dy 1 (127 - e))
    let value := fun (z : NumTy) => NumTy.toX z (s.regN ag (NumTy.wide z) a % 2 ^ NumTy.width z)
    let rounds := fun (i : Instr) (wide : Bool) (t : NumTy) (xs : List X) => Executes s ag i →
      let pack := fun (ys : List Rounded) => ys.foldr (fun y r => y.bits + 2 ^ NumTy.width t * r) 0
      let codes := fun (ys : List Rounded) =>
        (⟨ys.any (·.inexact), ys.all (fun y => (NumTy.toX t y.bits).isZero), (ys.head?.map (fun y =>
          (NumTy.toX t y.bits).isNeg)).getD false, ys.any (·.clamp)⟩ : CC)
      (rnd ≠ .sr ∨ Agent.bursar ag = true →
        let ys := xs.map (fun x => NumTy.round t x rnd 0 satf)
        exec i s = .next ((s.result ag h wide d (pack ys) (codes ys)).advance ag)) ∧
      (∀ u g l, ag = .thread u g l → rnd = .sr →
        let th := s.thr u g l
        let word := fun (e : Nat) => high32 (mix64 ((s.grp u g).srkey ^^^ BitVec.ofNat 64 (s.groupId u g) <<< 40 ^^^
          (th.conv + BitVec.ofNat 40 e).setWidth 64))
        let ys := xs.mapIdx (fun e x => NumTy.round t x rnd (((word e).rotateLeft (7 * l % 32)).toNat % 65536) satf)
        exec i s = .next (((s.setThr u g l { th with conv := th.conv + BitVec.ofNat 40 xs.length }).result ag h wide d
          (pack ys) (codes ys)).advance ag))
    let four := (s.regRun ag a 4).map scaled
    (∀ t z, rounds (.cvt h d a t z satf rnd) (NumTy.wide t) t [value z]) ∧
    (∀ y, rounds (.cvth2 h d a b y satf rnd) false (match y with
      | .f16 => .f16
      | .bf16 => .bf16) [xf (s.reg ag a), xf (s.reg ag b)]) ∧
    (∀ y, rounds (.cvtq8 h d a b y scl satf rnd) false (match y with
      | .e4m3 => .e4m3
      | .e5m2 => .e5m2
      | .p2x2 => .p2x2
      | .s8 => .s8) four) ∧
    rounds (.cvtq4 h d a b scl satf rnd) false .e2m1 ((s.regRun ag a 8).map scaled) ∧
    (∀ op (q : BitVec 6), let up := X.dy 1 q.toNat
      let down := X.dy 1 (-(q.toNat : Int))
      let p : NumTy × Bool × X := match op with
        | .sf32 => (.s32, false, (value .f32).mul up)
        | .nf32 => (.n32, false, (value .f32).mul up)
        | .sf64 => (.s64, true, (value .f64).mul up)
        | .f32s => (.f32, false, (value .s32).mul down)
        | .f32n => (.f32, false, (value .n32).mul down)
        | .f64s => (.f64, true, (value .s64).mul down)
      rounds (.cvtw h d a op q satf rnd) p.2.1 p.1 [p.2.2])

/-- R158, R160: UNPQ writes the elements of a register to a run of f32 registers, scaled; I2I extends, clamps or reduces an
integer.
R162: SRSEED sets the group's key from the executing lane's pair and clears the count of every lane. -/
def Obligations.IntegerConversionAndSeed : Prop :=
  (∀ (s : State) (ag : Agent) (h : Hdr) (d a b : Reg),
     (∀ ty scl satf rnd, Executes s ag (.unpq h d a b ty scl satf rnd) →
       let p : NumTy × Nat × Nat := match ty with
         | .f16 => (.f16, 16, 2)
         | .bf16 => (.bf16, 16, 2)
         | .e4m3 => (.e4m3, 8, 4)
         | .e5m2 => (.e5m2, 8, 4)
         | .e2m1 => (.e2m1, 4, 8)
         | .p2x2 => (.p2x2, 8, 4)
         | .s8 => (.s8, 8, 4)
       let e := (s.reg ag b).toNat % 256
       let ys := (List.range p.2.2).map (fun k =>
         let x := NumTy.toX p.1 ((s.reg ag a).toNat / 2 ^ (p.2.1 * k) % 2 ^ p.2.1)
         f32.round (if scl = false then x else if e = 255 then .nan else x.mul (.dy 1 ((e : Int) - 127))) rnd 0 satf)
       exec (.unpq h d a b ty scl satf rnd) s = .next (((s.setRun ag d (ys.map (fun y => BitVec.ofNat 32 y.bits))).flagIf ag
         h ⟨ys.any (·.inexact), ys.all (fun y => (f32.toX y.bits).isZero), (f32.toX ((ys.map (·.bits)).headD 0)).isNeg,
           ys.any (·.clamp)⟩).advance ag)) ∧
     (∀ dt st sat, Executes s ag (.i2i h d a dt st sat) →
       let shape := fun (t : I2ITy) => match t with
         | .s8 => (8, true)
         | .n8 => (8, false)
         | .s16 => (16, true)
         | .n16 => (16, false)
         | .s32 => (32, true)
         | .n32 => (32, false)
         | .s64 => (64, true)
         | .n64 => (64, false)
       let dw : Nat := (shape dt).1
       let sw : Nat := (shape st).1
       let ds := (shape dt).2
       let ss := (shape st).2
       let v := s.regN ag (decide (sw = 64)) a
       let x : Int := if ss then sgn sw v else (v % 2 ^ sw : Nat)
       let lo : Int := if ds then -(2 ^ (dw - 1)) else 0
       let hi : Int := if ds then 2 ^ (dw - 1) - 1 else 2 ^ dw - 1
       let w := if dw = 64 then 64 else 32
       ∃ r : Nat, exec (.i2i h d a dt st sat) s = .next ((s.result ag h (decide (dw = 64)) d r
           ⟨false, decide (r = 0), nbit r (w - 1), sat && decide (x < lo ∨ hi < x)⟩).advance ag) ∧
         r < 2 ^ w ∧ lo ≤ (if ds then sgn w r else r) ∧ (if ds then sgn w r else r) ≤ hi ∧
         (if sat then (if ds then sgn w r else r) = max lo (min hi x)
           else ((if ds then sgn w r else r) - x) % 2 ^ dw = 0))) ∧
  (∀ (s : State) (u g l : Nat) (h : Hdr) (a : Reg), Executes s (.thread u g l) (.srseed h a) → Still s (.thread u g l) →
     ∃ t, exec (.srseed h a) s = .next t ∧ (t.grp u g).srkey = s.reg64 (.thread u g l) a ∧
       (∀ j, (s.thr u g j).exited = false → (t.thr u g j).conv = 0 ∧ (t.thr u g j).regs = (s.thr u g j).regs) ∧
       t.pc (.thread u g l) = nextPc (s.pc (.thread u g l)) ∧ SameMemory s t)

/-! ## Collectives (chapters 04 to 07) -/

/-- R81: a member lane that executes a collective parks with its signature, and a lane outside the mask traps with
MASK_MEMBER and the mask's number; then the bodies that are due execute. A body is due when every member has signed: it
executes once for all its signers, those due first before the others. -/
def Obligations.CollectivesSignThenExecute : Prop :=
  ∀ (s : State) (u g l : Nat) (i : Instr) (m : MaskNo),
    let ag := Agent.thread u g l
    maskOf i = some m →
    (Executes s ag i → nbit ((s.grp u g).mask m.toNat) l = true →
      exec i s = .next ((s.parkOn ag (.signed m.toNat none i)).collect u g m.toNat)) ∧
    (Executes s ag i → nbit ((s.grp u g).mask m.toNat) l = false →
      exec i s = .next ((s.raise ag i ⟨0x06, BitVec.ofNat 64 m.toNat, 0⟩).collect u g m.toNat)) ∧
    (∀ n ls due, (s.team u).stat = .running → (s.grp u g).signers n = ls → ls ≠ [] →
      (s.grp u g).lanesOf ((s.grp u g).mask n) = ls →
      (∀ j ∈ ls, (s.thr u g j).park = .signed n due i) → (∀ j ∈ ls, ∀ k ∈ ls, (s.thr u g j).pc = (s.thr u g k).pc) →
      let t := runBody i (ls.map (Agent.thread u g)) (marked s u g n)
      (∀ j k f, (t.thr u g j).park ≠ .signed n (some k) f) → exec (.collectiveBody u g n) s = .next t)

/-- R91, R112 to R116: what VOTE, SHFL, VCOMP, VEXP, ISCAN and IRED give each signer, with rank i the i-th signer by
lane. -/
def Obligations.CrossLaneResults : Prop :=
  ∀ (s : State) (u g m : Nat) (ls : List Nat) (h : Hdr) (d a b c : Reg) (mm : MaskNo),
    let ag := Agent.thread u g
    let x := fun r l => (s.reg (ag l) r).toNat
    let picked := ls.filter (fun l => x b l ≠ 0)
    let gets := fun (i : Instr) (w64 : Bool) (value : Nat → Option Nat) (codes : Nat → CC) => Signed s u g m i ls →
      ∃ t, exec (.collectiveBody u g m) s = .next t ∧ Collected s t u g ls h w64 d value codes
    (∀ op,
      let w64 := op = .ballot ∧ (s.team u).desc.gwidth = 64
      let v := match op with
        | .all => if ∀ l ∈ ls, x a l ≠ 0 then 1 else 0
        | .any => if ∃ l ∈ ls, x a l ≠ 0 then 1 else 0
        | .uni => if ∀ l ∈ ls, ∀ k ∈ ls, x a l = x a k then 1 else 0
        | .ballot => ((ls.filter (fun l => x a l ≠ 0)).map (fun l => 2 ^ l)).sum
      gets (.vote h d a mm op) (decide w64) (fun _ => some v) (fun _ => codesInt (if w64 then 64 else 32) v false)) ∧
    (∀ op,
      let src := fun l => let k := x b l
        match op with
        | ShflOp.idx => (k : Int)
        | .up => (l : Int) - k
        | .down => (l : Int) + k
        | .xor => ((l ^^^ k : Nat) : Int)
      let ok := fun l => decide (∃ k ∈ ls, src l = (k : Int))
      let v := fun l => if ok l then x a (src l).toNat else x c l
      gets (.shfl h d a b c mm op) false (fun l => some (v l)) (fun l => codesInt 32 (v l) (ok l))) ∧
    gets (.vcomp h d a b mm) false (fun l => (picked[ls.idxOf l]?).map (x a))
      (fun l => ⟨false, decide (picked.length ≤ ls.idxOf l), false, false⟩) ∧
    gets (.vexp h d a b mm) false (fun l => if l ∈ picked then (ls[picked.idxOf l]?).map (x a) else none)
      (fun l => ⟨false, decide (l ∉ picked), false, false⟩) ∧
    (∀ (op : ScanOp) (f : Nat → Nat → Nat) (unit : Nat),
      (match op with
        | .add => f = (fun p q => (p + q) % 2 ^ 32) ∧ unit = 0
        | .smin => f = (fun p q => if sgn 32 p ≤ sgn 32 q then p else q) ∧ unit = 0x7FFFFFFF
        | .smax => f = (fun p q => if sgn 32 p ≤ sgn 32 q then q else p) ∧ unit = 0x80000000
        | .umin => f = min ∧ unit = 0xFFFFFFFF
        | .umax => f = max ∧ unit = 0
        | .and => f = (· &&& ·) ∧ unit = 0xFFFFFFFF
        | .or => f = (· ||| ·) ∧ unit = 0
        | .xor => f = (· ^^^ ·) ∧ unit = 0) →
      let upTo := fun n => ((ls.take n).map (x a)).foldl f unit
      (∀ excl, gets (.iscan h d a mm op excl) false (fun l => some (upTo (ls.idxOf l + (if excl then 0 else 1))))
        (fun l => codesInt 32 (upTo (ls.idxOf l + (if excl then 0 else 1))) false)) ∧
      gets (.ired h d a mm op) false (fun _ => some (upTo ls.length)) (fun _ => codesInt 32 (upTo ls.length) false))

/-- R136, R161: FRED and FSCAN form sums in the order that the ductus names, each addition rounded, and minima and maxima
without rounding; BSCALE gives the block's scale. -/
def Obligations.FloatCollectives : Prop :=
  ∀ (s : State) (u g m : Nat) (ls : List Nat) (h : Hdr) (d a : Reg) (mm : MaskNo) (t : BitVec 2),
    let x := fun l => s.reg (.thread u g l) a
    let gets := fun (i : Instr) (value : Nat → Word) (codes : Nat → CC) => Signed s u g m i ls →
      ∃ t, exec (.collectiveBody u g m) s = .next t ∧
        Collected s t u g ls h false d (fun l => some (value l).toNat) codes
    (∀ op, gets (.fred h d a mm op t) (fun _ => fredValue op t (ls.map x))
      (fun _ => codesOf f32 (fredValue op t (ls.map x)).toNat)) ∧
    (∀ op excl,
      let v := fun l => fredValue op t ((ls.take (ls.idxOf l + (if excl then 0 else 1))).map x)
      gets (.fscan h d a mm op t excl) v (fun l => codesOf f32 (v l).toNat)) ∧
    (∀ (xs : List Word) (p : Word → ℚ), xs ≠ [] → xs.length ≤ 64 → (∀ w ∈ xs, valueOf (xf w) = some (p w)) →
      let add := fun (v w : Word) => rfn ((xf v).add false (xf w))
      (∀ w r, xs = w :: r → fredValue .add 0 xs = r.foldl add w) ∧
      (∀ k, 1 < xs.length → 2 ^ k < xs.length → xs.length ≤ 2 ^ (k + 1) →
        fredValue .add 1 xs = add (fredValue .add 1 (xs.take (2 ^ k))) (fredValue .add 1 (xs.drop (2 ^ k)))) ∧
      (∃ e, valueOf e = some (xs.map p).sum ∧ fredValue .add 3 xs = rfn e ∧
        (xs.length ≤ 32 → fredValue .add 2 xs = rfn e)) ∧
      (32 < xs.length → fredValue .add 2 xs = add (fredValue .add 3 (xs.take 32)) (fredValue .add 3 (xs.drop 32))) ∧
      (∃ w ∈ xs, valueOf (xf (fredValue .min t xs)) = some (p w) ∧ ∀ z ∈ xs, p w ≤ p z) ∧
      (∃ w ∈ xs, valueOf (xf (fredValue .max t xs)) = some (p w) ∧ ∀ z ∈ xs, p z ≤ p w)) ∧
    (∀ (ty : BscTy) (p : Nat → ℚ), (∀ l ∈ ls, valueOf (xf (x l)) = some (p l)) → ∀ (k : Int) (l : Nat), l ∈ ls →
      (2 : ℚ) ^ k ≤ |p l| → (∀ j ∈ ls, |p j| < (2 : ℚ) ^ (k + 1)) →
      let e := k + 127 - (match ty with
        | .e4m3 => 8
        | .e5m2 => 15
        | .e2m1 => 2
        | .p2x2 => 1
        | .s8 => 6)
      gets (.bscale h d a mm ty) (fun _ => BitVec.ofInt 32 (max e 0)) (fun _ => ⟨false, false, false, decide (e < 0)⟩)) ∧
    (∀ ty, ((∀ l ∈ ls, valueOf (xf (x l)) = some 0) →
        gets (.bscale h d a mm ty) (fun _ => 127) (fun _ => ⟨false, true, false, false⟩)) ∧
      ((∃ l ∈ ls, valueOf (xf (x l)) = none) →
        gets (.bscale h d a mm ty) (fun _ => 255) (fun _ => ⟨false, false, false, true⟩)))


/-! ## Choice vectors (chapter 09) -/

/-- R192, R193, R206 to R208: a draw takes the keys at its site's or its thread's counter and advances it. A key beyond the
kernel's limits is CHOICE_OVERFLOW with the site and the number that failed, and takes none. With choice mode off the
result is the conversion of the minted values; in record and replay the draw's loads and stores follow on its way, with the
keys taken at issue. A splice whose record lies beyond the address space is ADDR_RANGE, and no key is taken (that this is found
at issue is log entry 77).
R201, R203, R204, R206, R209: a recorded draw stores each raw value in its slot of the written bank, and its register
receives the conversion of the values used. In record the value is minted; in replay a recorded key gives what the bank
holds, an unrecorded one the mint, `perturb` adds 16 × PARAM, and `replace` mints at the fresh coordinate. -/
def Obligations.DrawsConsumeTheirKeys : Prop :=
  (∀ (s : State) (u g l : Nat) (h : Hdr) (d b : Reg) (site : BitVec 6),
     let ag := Agent.thread u g l
     let k := s.descOf ag
     let ch := (s.thr u g l).ch
     let img := (s.core (s.coreOf ag)).coef
     let count := if ch.geom = 1 then aget 0 ch.occ site.toNat else ch.didx.toNat
     let key := fun (j : Nat) => if ch.geom = 1 then site.toNat * 64 + (count + j) else (ch.didx + BitVec.ofNat 32 j).toNat
     let raw := fun (j : Nat) => high32 (mix64 (ch.key ^^^ (BitVec.ofNat 64 (if ch.geom = 1 then
       site.toNat * 2 ^ 20 + (count + j) else (ch.didx + BitVec.ofNat 32 j).toNat) * 0xD1B54A32D192ED03#64)))
     let beyond := fun j => k.chmode = 1 ∧ (k.nsites ≤ site.toNat ∨ k.maxocc ≤ count + j) ∨ k.chmode = 2 ∧ k.maxdraws ≤ count + j
     let pt := fun j => xf (img.extractLsb' (8 * ((img.extractLsb' (64 * 15 + 32) 16).toNat + 4 * j)) 32)
     let x := (raw 0).toNat
     let sb := ch.sbase.toNat
     let spliced := fun j => ch.mode = 2 ∧ ∃ m, ch.covering (key j) = some m ∧ mutKind m = 5
     let far := fun j => 2 ^ 57 < sb + 7 ∨ 2 ^ 57 < if ch.geom = 1 then k.bankAt sb 0 + key j / 64 + 1 else sb + 0x24
     let draws := fun (i : Instr) (form : DrawForm) (n : Nat) =>
       let taken := if ch.geom = 1 then { ch with occ := aput ch.occ site.toNat (count + n) }
         else { ch with didx := ch.didx + BitVec.ofNat 32 n }
       Executes s ag i → (form = .table → drawTableOk img = true) →
       (∀ j, j < n → beyond j → (∀ e < j, ¬ beyond e) →
         exec i s = .next (s.raise ag i ⟨0x11, BitVec.ofNat 64 site.toNat, BitVec.ofNat 64 (count + j)⟩)) ∧
       ((∀ j < n, ¬ beyond j) → ch.mode = 0 →
         ∃ v : Word, exec i s = .next (((s.setCh ag taken).later ag h [d] [v] none).advance ag) ∧
           (match form with
             | .unit => valueOf (xf v) = some ((x / 2 ^ 8 : Nat) / (2 : ℚ) ^ 24)
             | .bits => v = raw 0
             | .below m => v.toNat = x * m.toNat / 2 ^ 32
             | .normal =>
               let half := fun (y : Word) => ((y.toNat / 256 : Nat) : Int)
               ∃ e w, valueOf e = some (1 - half (raw 0) / (2 : ℚ) ^ 24) ∧ valueOf w = some (2 * (half (raw 1) / (2 : ℚ) ^ 24)) ∧
                 v = mulf (sfnValue img 2 (mulf (sfnValue img 4 (rfn e)) 0xBFB17218)) (sfnValue img 6 (rfn w))
             | .table => ∀ (p q : ℚ), valueOf (pt (x / 2 ^ 24)) = some p → valueOf (pt (x / 2 ^ 24 + 1)) = some q →
               ∃ e f, valueOf e = some (q - p) ∧ (∀ y, valueOf (xf (rfn e)) = some y →
                 valueOf f = some ((x / 2 ^ 8 % 2 ^ 16 : Nat) / (2 : ℚ) ^ 16 * y + p)) ∧ v = rfn f)) ∧
       ((∀ j < n, ¬ beyond j) → spliced 0 → 2 ^ 57 < sb + 7 →
         exec i s = .next (s.raise ag i ⟨0x08, 0, BitVec.ofNat 64 (sb + 6)⟩)) ∧
       ((∀ j < n, ¬ beyond j) → ch.mode ≠ 0 → (∀ j < n, spliced j → ¬ far j) →
         ∃ (t : State) (a : Access), exec i s = .next (t.advance ag) ∧ (t.thr u g l).ch = taken ∧ t.accs = s.accs ++ [a] ∧ a.ag = ag ∧ a.dst = [d] ∧
           a.left = some h.la.toNat ∧ ∃ keys, a.op = .draw form keys ch k ∧ keys.map DrawKey.q = (List.range n).map key)
     draws (.draw h d site) .unit 1 ∧ draws (.drawb h d site) .bits 1 ∧ draws (.drawi h d b site) (.below (s.reg ag b)) 1 ∧
       draws (.drawn h d site) .normal 2 ∧ draws (.drawt h d site) .table 1) ∧
  (∀ (s : State) (a : Access) (form : DrawForm) (keys : List DrawKey) (ch : ChState) (k : KDesc),
     (∀ half s1 raws s2 ws, AtPort s a → a.op = .draw form keys ch k → s.rawDraws a.ag a.id ch k keys = (s1, .ok raws) →
       s1.findStores a.ag a.id ((keys.zip raws).map (fun p =>
         (k.slotAt ch.base.toNat (if ch.mode = 2 then 1 - b2n ch.bank else b2n ch.bank) p.1.q, 4, p.2.toNat))) =
           (s2, .ok ws) → s2.speculative (s2.uidOf a.ag) = false →
       ∃ t, exec (.portUpdate a.id half) s = .next t ∧
         t = ((s2.makeStores a.ag a.id ws).putAcc { a with
           stage := .done, vals := [convertDraw (s2.core (s2.coreOf a.ag)).coef form raws], flags := none }).resume a.ag) ∧
     (∀ q, ch.mode = 1 → s.rawDraws a.ag a.id ch k [q] = (s, .ok [mint ch.key q.c])) ∧
     (∀ (q : DrawKey), ch.mode = 2 →
       let valid := if ch.geom = 1 then q.q % 64 < aget 0 ch.rcnt (q.q / 64) else q.q < ch.rdcnt.toNat
       let base : State × Got Word := if valid then
           (match s.readVa a.ag a.id false .load (k.slotAt ch.base.toNat (b2n ch.bank) q.q) 4 with
             | (s1, r) => (s1, r.map (BitVec.ofNat 32)))
         else (s, .ok (mint ch.key q.c))
       (ch.covering q.q = none → s.replayed a.ag a.id ch k q = base) ∧
       (∀ m s1 x, ch.covering q.q = some m → mutKind m = 1 → base = (s1, .ok x) →
         s.replayed a.ag a.id ch k q = (s1, .ok (x + BitVec.ofInt 32 (16 * sgn 28 (m.toNat % 2 ^ 28))))) ∧
       (∀ m, ch.covering q.q = some m → mutKind m = 3 → s.replayed a.ag a.id ch k q =
         (s, .ok (mint ch.key (BitVec.ofNat 64 (2 ^ 63 + ch.iter.toNat * 2 ^ 27) + q.c))))))

/-- R210 to R213: CSETUP, CMUT, CMUTCLR, CSEED, CRESULT and CRESTART set the choice state of their thread; their stores to
the record are plain stores of the thread that follow on their way, each with its place and its bytes. CMUT refuses an invalid
descriptor, and the forms that need a mode trap without it. -/
def Obligations.ChoiceStateIsSetUp : Prop :=
  ∀ (s : State) (u g l : Nat) (h : Hdr),
    let ag := Agent.thread u g l
    let ch := (s.thr u g l).ch
    let k := s.descOf ag
    let counts := if ch.geom = 1 then ofBytes ((List.range 63).map (fun j => BitVec.ofNat 8 (aget 0 ch.occ j))) else 0
    let wb := if ch.mode = 2 then 1 - b2n ch.bank else b2n ch.bank
    let drawn := if ch.geom = 1 then (ch.occ.map (fun e => e.2)).sum else ch.didx.toNat
    let flush := [(k.bankAt ch.base.toNat wb, 63, counts), (ch.base.toNat + 0x20 + 4 * wb, 4, drawn)]
    let first := if ch.mode = 0 then [] else flush
    (∀ ws, ∃ bs, (s.storing ag h ws).accs = s.accs ++ bs ∧ (∀ b ∈ bs, b.ag = ag ∧ b.plain = false ∧ b.stage = .issued) ∧
      bs.map (fun b => (b.ea, b.len, b.op)) = ws.map (fun w => (w.1, w.2.1, AccOp.store w.2.2))) ∧
    (Executes s ag (.csetup h .off) →
      exec (.csetup h .off) s = .next (((s.storing ag h first).setCh ag { ch with mode := 0 }).advance ag)) ∧
    (∀ a, let base := (s.reg64 ag a).toNat
      Executes s ag (.csetup h (.record a)) →
      (ch.geom = 0 → exec (.csetup h (.record a)) s =
        .next (s.raise ag (.csetup h (.record a)) ⟨0x13, BitVec.ofNat 64 ch.mode, 0⟩)) ∧
      (ch.geom ≠ 0 → k.recordOk base = false → exec (.csetup h (.record a)) s =
        .next (s.raise ag (.csetup h (.record a)) ⟨0x12, 0, BitVec.ofNat 64 base⟩)) ∧
      (ch.geom ≠ 0 → k.recordOk base = true → exec (.csetup h (.record a)) s =
        .next (((s.storing ag h (first ++ [(base, 64, k.header), (k.bankAt base 0, 64, 0)])).setCh ag { ch with
          mode := 1, bank := false, base := BitVec.ofNat 64 base, occ := [], didx := 0, rcnt := [], rdcnt := 0,
          iter := 0 }).advance ag))) ∧
    (∀ a s2 c, let base := (s.reg64 ag a).toNat
      Executes s ag (.csetup h (.replay a)) → ch.geom ≠ 0 → k.recordOk base = true → s.park ag = .run →
      (s.storing ag h first).loadRecord ag base = (s2, .ok (some c)) →
      exec (.csetup h (.replay a)) s = .next ((s2.setCh ag c).advance ag) ∧ c.mode = 2 ∧ c.occ = [] ∧ c.didx = 0 ∧
        c.iter = 0 ∧ c.base = BitVec.ofNat 64 base) ∧
    (∀ a b n, Executes s ag (.cmut h a b n) →
      let m := s.reg64 ag a
      let kind := m.toNat / 2 ^ 60
      exec (.cmut h a b n) s = .next (if 6 ≤ kind ∨ kind = 3 ∧ m.toNat % 2 ^ 28 ≠ 0 then
          s.raise ag (.cmut h a b n) ⟨0x12, m, ch.base⟩
        else (s.setCh ag { ch with
          muts := aput ch.muts n.toNat m, sbase := if b = vz then ch.sbase else s.reg64 ag b }).advance ag)) ∧
    (Executes s ag (.cmutclr h) → exec (.cmutclr h) s = .next ((s.setCh ag { ch with muts := [] }).advance ag)) ∧
    (∀ a, Executes s ag (.cseed h a) → exec (.cseed h a) s = .next ((s.setCh ag { ch with
      key := mix64 (s.reg64 ag a + 0x9E3779B97F4A7C15#64 * BitVec.ofNat 64 ((s.launchOf ag).launchid.toNat * 2 ^ 32 +
        (s.groupId u g * (s.team u).desc.gwidth + l + (if (s.team u).stage = .mesh then 2 ^ 40 else 0)) + 1)) }).advance
          ag)) ∧
    (∀ a n, Executes s ag (.cresult h a n) →
      (ch.mode = 0 → exec (.cresult h a n) s = .next (s.raise ag (.cresult h a n) ⟨0x13, 0, 0⟩)) ∧
      (ch.mode ≠ 0 → exec (.cresult h a n) s = .next ((s.storing ag h ((ch.base.toNat + (if ch.mode = 1 then 0x10 else 0x30),
          4 * (n.toNat + 1), ofWords (s.regRun ag a (n.toNat + 1))) :: flush)).advance ag))) ∧
    (∀ disp s2, Executes s ag (.crestart h disp) →
      (ch.mode = 0 → exec (.crestart h disp) s = .next (s.raise ag (.crestart h disp) ⟨0x13, 0, 0⟩)) ∧
      (ch.mode ≠ 0 → s.aim ag (targetPc (s.pc ag) disp) = (s2, .go false) → s2.descOf ag = k →
        exec (.crestart h disp) s = .next (((s2.storing ag h flush).setCh ag { ch with
          rcnt := if ch.mode = 1 then ch.occ else ch.rcnt, rdcnt := if ch.mode = 1 then ch.didx else ch.rdcnt,
          occ := [], didx := 0, mode := 2, iter := ch.iter + 1 }).transfer ag
            (BitVec.ofInt 32 (targetPc (s.pc ag) disp)))))

/-- R209, R214, R215: CPEEK of a mode that needs no load mints its value and says whether the key has been consumed; CCMP
gives the ratio to the recorded result with the codes of a compare; CACCEPT gives the acceptance ratio, decides by the
uniform operand, counts, and on acceptance makes the proposal current. -/
def Obligations.ProposalsAreDecided : Prop :=
  ∀ (s s1 : State) (u g l : Nat) (h : Hdr) (d a b : Reg) (comp : BitVec 2) (site : BitVec 6) (x cnt pres n : Nat),
    let ag := Agent.thread u g l
    let ch := (s.thr u g l).ch
    let k := s.descOf ag
    let v := (s.reg ag a).toNat
    let base := ch.base.toNat
    let wb := if ch.mode = 2 then 1 - b2n ch.bank else b2n ch.bank
    (Executes s ag (.cpeek h d a site) → overflow k site.toNat v 1 = none →
      let used := decide (v < (if ch.geom = 1 then aget 0 ch.occ site.toNat else ch.didx.toNat))
      let c := BitVec.ofNat 64 (if ch.geom = 1 then site.toNat * 2 ^ 20 + v else v)
      (ch.mode = 0 ∨ ch.mode = 1 ∧ used = false → exec (.cpeek h d a site) s = .next
        ((s.later ag h [d] [mint ch.key c] (if h.w then some ⟨false, used, false, false⟩ else none)).advance ag)) ∧
      (¬ (ch.mode = 0 ∨ ch.mode = 1 ∧ used = false) →
        (used = false → ∀ m, ch.covering (if ch.geom = 1 then site.toNat * 64 + v else v) = some m → mutKind m ≠ 5) →
        ∃ (t : State) (r : Access), exec (.cpeek h d a site) s = .next (t.advance ag) ∧
        t.accs = s.accs ++ [r] ∧ r.dst = [d] ∧ (t.thr u g l).ch = ch ∧ ∃ key, r.op = .peek key ch k)) ∧
    (Executes s ag (.ccmp h d a comp) →
      (ch.mode ≠ 2 → exec (.ccmp h d a comp) s =
        .next (s.raise ag (.ccmp h d a comp) ⟨0x13, BitVec.ofNat 64 ch.mode, 0⟩)) ∧
      (ch.mode = 2 → s.readVa ag s.nextAcc false .load (base + 0x10 + 4 * comp.toNat) 4 = (s1, .ok x) →
        s1.reg ag a = s.reg ag a →
        let old := xf (BitVec.ofNat 32 x)
        ∃ r : Word, exec (.ccmp h d a comp) s =
            .next (((s1.setReg ag d r).flagIf ag h (floatFlags (xf (s.reg ag a)) old)).advance ag) ∧
          (valueOf old = some 0 → r = 0x7F800000) ∧
          (∀ p q, valueOf (xf (s.reg ag a)) = some p → valueOf old = some q → q ≠ 0 →
            ∃ e, valueOf e = some (p / q) ∧ r = rfn e))) ∧
    (Executes s ag (.caccept h d a b comp) → ch.mode = 2 → s.park ag = .run →
      let counts := if ch.geom = 1 then ofBytes ((List.range 63).map (fun j => BitVec.ofNat 8 (aget 0 ch.occ j))) else 0
      let drawn := if ch.geom = 1 then (ch.occ.map (fun e => e.2)).sum else ch.didx.toNat
      (s.storing ag h [(k.bankAt base wb, 63, counts), (base + 0x20 + 4 * wb, 4, drawn)]).readMany ag s.nextAcc false .load
        [(base + 0x10, 16), (base + 0x28, 8), (base + 0x30, 16), (k.bankAt base wb + 63, 1)] = (s1, .ok [x, cnt, pres, n]) →
      s1.thr u g l = s.thr u g l → s1.descOf ag = k →
      let new := s.reg ag a
      let old := BitVec.ofNat 32 (x / 2 ^ (32 * comp.toNat))
      let tried := (base + 0x2C, 4, cnt / 2 ^ 32 % 2 ^ 32 + 1)
      let yes := [(base + 0x10, 16, pres), (base + 0x10 + 4 * comp.toNat, 4, new.toNat), (base + 6, 1, wb),
        (k.bankAt base wb + 63, 1, n + 1), (base + 0x28, 4, cnt % 2 ^ 32 + 1)]
      ∃ r : Word,
        (xf new = .nan ∨ xf old = .nan → r = 0) ∧ (xf new ≠ .nan → valueOf (xf old) = some 0 → r = 0x3F800000) ∧
        (∀ p q, valueOf (xf new) = some p → valueOf (xf old) = some q → q ≠ 0 → ∃ e, valueOf e = some (p / q) ∧
          r = minmaxf false 0x3F800000 (rfn e)) ∧
        (∀ acc, acc = (xf (s.reg ag b)).lt (xf r) →
          exec (.caccept h d a b comp) s = .next ((((((s1.storing ag h (tried :: if acc then yes else [])).setCh ag (if acc then
            { ch with bank := wb == 1, rcnt := ch.occ, rdcnt := BitVec.ofNat 32 drawn } else ch))).setReg ag d r).flagIf ag h
              ⟨false, acc, false, decide (xf new = .nan ∨ xf old = .nan)⟩).advance ag)))

/-! ## Loads, stores and updates (chapter 08) -/

/-- R166, R167, R169, R170, R174, R178, R180, R186: a memory form computes its address, checks range, alignment and the vault
masks in that order, and opens one access with its operands; memory itself has not changed yet, but that an update of a
held space ends its team's escrow interval. A form that fails a check traps with it; the range includes that of the
virtual address to which a private or an argument address comes. -/
def Obligations.MemoryFormsOpenAnAccess : Prop :=
  ∀ (s : State) (ag : Agent) (h : Hdr) (d a b c : Reg) (f : MemF) (sx : Bool) (op : UpdOp),
    let n := Size.bytes f.size
    let run := fun r => runOf r (Size.regs f.size)
    let data := fun r => ofWords (s.regRun ag r (Size.regs f.size)) % 2 ^ (8 * n)
    let scratch := f.space == .sp || f.space == .psp
    let held := f.space == .glob || f.space == .vlt || f.space == .priv
    let ea : Int := (if Space.wide f.space then (s.reg64 ag a).toNat else (s.reg ag a).toNat) + f.ofs.toInt
    let code := BitVec.ofNat 64 (spaceNo f.space)
    let addr := BitVec.ofInt 64 ea
    let last := s.va ag f.space (ea.toNat + n - 1)
    let inside := s.inRange ag f.space ea n && (match last with
      | some v => decide (v < 2 ^ 57)
      | none => true)
    let translated := (s.va ag f.space ea.toNat).isSome
    let opens := fun (i : Instr) (what : AccOp) (dst : List Reg) (use : Use) (atomic timed plain window : Bool) =>
      Executes s ag i →
      let sealed' := s.det ag && (timed || f.space == .hnc || f.space == .hc)
      (sealed' = true → exec i s = .next (s.raise ag i ⟨0x0D, code, 0⟩)) ∧
      (sealed' = false → inside = false → exec i s = .next (s.raise ag i ⟨0x08, code, addr⟩)) ∧
      (sealed' = false → inside = true → ea % n ≠ 0 → exec i s = .next (s.raise ag i ⟨0x09, BitVec.ofNat 64 n, addr⟩)) ∧
      (sealed' = false → inside = true → ea % n = 0 → f.space = .vlt → s.vaultOk ag (ea / 2 ^ 24).toNat use = false →
        exec i s = .next (s.raise ag i ⟨0x0A, BitVec.ofInt 64 (ea / 2 ^ 24), addr⟩)) ∧
      (sealed' = false → inside = true → ea % n = 0 → (f.space = .vlt → s.vaultOk ag (ea / 2 ^ 24).toNat use = true) →
        let ends := f.space == .hnc || f.space == .hc || (atomic && held)
        let s1 := if ends then s.commitEarly (s.uidOf ag) else s
        ∃ x : Access, exec i s = .next ((s1.push x).advance ag) ∧ x.ag = ag ∧ x.op = what ∧ x.dst = dst ∧ x.space = f.space ∧
          (x.ea : Int) = ea ∧ x.len = n ∧ x.ord = f.ord ∧ x.scope = f.scope ∧ x.plain = plain ∧ x.w = h.w ∧
          x.nl1 = (f.hint == .nl1) ∧ x.stage = (if translated then .issued else .ready) ∧
          x.left = (if window then some h.la.toNat else none) ∧
          (ends = false → Still s ag → SameMemory s ((s1.push x).advance ag)))
    opens (.ld h d a f sx) (.load sx) (run d) .read false false (f.ord == .plain) true ∧
    opens (.ldv h d a f) (.load false) (run d) .read false false (f.ord == .plain) true ∧
    opens (.ldk h d a f sx) (.load sx) (run d) .read false false false true ∧
    opens (.st h a b f) (.store (data b)) [] .write false false (f.ord == .plain) false ∧
    opens (.stv h a b f) (.store (data b)) [] .write false false (f.ord == .plain) false ∧
    opens (.atom h d a b f op) (.upd op (data b)) (run d) .update true scratch false true ∧
    opens (.red h a b f op) (.upd op (data b)) [] .update false
      (scratch && decide (op ∈ [.exch, .fadd, .fadd2, .incw, .fmin, .fmax])) false false ∧
    opens (.cas h d a b c f) (.cas (data b) (data c)) (run d) .update true scratch false true

/-- R175, R178, R172: a store that reaches the port of its place writes its bytes there, little-endian, and every other byte
of memory stays, unless the host has a bus error there (R414): one of up to eight bytes as one, and one of sixteen that a unit owns whole as one too. A plain store of
space 0 without nl1 goes into its core's copy of the line, from which the core then reads it. -/
def Obligations.StoresWriteTheirBytes : Prop :=
  ∀ (s : State) (a : Access) (x : Nat) (half : Bool), AtPort s a → a.op = .store x →
    let l := s.placeOf a 0
    let s0 := atRelease s a
    let checked := s0.raceAt a l a.len true true
    let s1 := match l with
      | .hbm pa => checked.2.l1Flush (s.coreOf a.ag) pa
      | _ => checked.2
    let gone := fun (t : State) => ∀ b ∈ t.accs, b.id ≠ a.id
    ((∀ pa, l ≠ .hbm pa) ∨ a.nl1 = true → a.len ∈ [1, 2, 4, 8] → (checked.1 && !a.racy) = false → present l a.len →
      s.busError l a.len = false →
      ∃ t, exec (.portUpdate a.id half) s = .next t ∧ gone t ∧ WritesOnly s1 t l a.len x) ∧
    (a.len = 16 → a.xl = [] → a.plain = false → (s.placeOf a 0).unit = (s.placeOf a 1).unit →
      (∀ i < 2, s.busError (s.placeOf a i) 8 = false) →
      ∃ t, exec (.portUpdate a.id half) s = .next t ∧ gone t ∧ WritesOnly s0 t l 16 x) ∧
    (∀ pa, l = .hbm pa → a.nl1 = false → a.len ∈ [1, 2, 4, 8] → pa % a.len = 0 →
      ∃ t, exec (.portUpdate a.id half) s = .next t ∧ gone t ∧
        (t.l1Read (s.coreOf a.ag) (s.uidOf a.ag) pa a.len).2.1 = x % 2 ^ (8 * a.len))

/-- R175, R178, R45: a load that reaches the port of its place takes the bytes there, little-endian, zero- or sign-extended to
a register when narrow, and changes no byte of a place other than HBM; when its window has closed its registers receive
the value, and nothing else of the agent changes. -/
def Obligations.LoadsReadTheirBytes : Prop :=
  ∀ (s : State) (a : Access) (sx half : Bool), AtPort s a → a.op = .load sx → a.len ∈ [1, 2, 4, 8] →
    let l := s.placeOf a 0
    let s1 := atPort s a
    let core := s.coreOf a.ag
    let v := match l with
      | .hbm pa => if a.nl1 then s1.hbmRead pa a.len else (s1.l1Read core (s.uidOf a.ag) pa a.len).2.1
      | _ => s1.rawRead l a.len
    let hit := match l with
      | .hbm pa => !a.nl1 && (s1.l1Find core (pa / 64)).isSome
      | _ => false
    loadPoison s1 a l a.len = false →
    ((s1.raceAt a l a.len false (!hit)).1 && !a.racy) = false →
    ∃ t b, exec (.portUpdate a.id half) s = .next t ∧ b ∈ t.accs ∧ b.id = a.id ∧ b.ag = a.ag ∧ b.dst = a.dst ∧ b.stage = .done ∧
      b.vals = (match a.len with
        | 1 => [if sx then (BitVec.ofNat 8 v).signExtend 32 else BitVec.ofNat 32 v]
        | 2 => [if sx then (BitVec.ofNat 16 v).signExtend 32 else BitVec.ofNat 32 v]
        | 4 => [BitVec.ofNat 32 v]
        | _ => [BitVec.ofNat 32 v, BitVec.ofNat 32 (v / 2 ^ 32)]) ∧
      ((∀ pa, l ≠ .hbm pa) → a.ord = .plain ∨ a.ord = .acq → SameMemory s t) ∧
      (∀ r, t.accs = [b] → b.left = none → b.flags = none → b.dst = [r] → r ≠ vz → ∃ v', exec (.longLatencyResult b.id) t = .next v' ∧
        (∀ x ∈ v'.accs, x.id ≠ b.id) ∧ some (v'.reg a.ag r) = b.vals.head? ∧
        (∀ q, sameReg a.ag r a.ag q = false → v'.reg a.ag q = t.reg a.ag q) ∧
        v'.pc a.ag = t.pc a.ag ∧ v'.cc a.ag = t.cc a.ag)

/-- R175, R176, R180: an update that reaches its port reads the old value and writes the new one there as one step: ATOM
returns the old value and RED nothing; CAS writes only where the old value is the expected one, and answers it with Z.
R370: in the non-coherent host window an update reads the word of eight bytes and writes it whole in a later step, whatever
the host has stored there between. -/
def Obligations.UpdatesReadAndWriteAtOnce : Prop :=
  ∀ (s : State) (a : Access) (half : Bool), AtPort s a → a.len = 4 ∨ a.len = 8 →
    let l := s.placeOf a 0
    let s1 := atPort s a
    let w := 8 * a.len
    let old := s1.rawRead l a.len
    let value := fun (op : UpdOp) (old y : Nat) => match op with
      | .sub => (old + 2 ^ w - y) % 2 ^ w
      | .smin => if sgn w old ≤ sgn w y then old else y
      | .smax => if sgn w old ≤ sgn w y then y else old
      | .umin => min old y
      | .umax => max old y
      | .and => old &&& y
      | .or => old ||| y
      | .xor => old ^^^ y
      | .exch => y
      | .incw => if y ≤ old then 0 else old + 1
      | _ => (old + y) % 2 ^ w
    let ended := fun (t : State) (old : Nat) => (a.dst = [] → ∀ b ∈ t.accs, b.id ≠ a.id) ∧
      (a.dst ≠ [] → ∃ b ∈ t.accs, b.id = a.id ∧ b.stage = .done ∧ b.dst = a.dst ∧ b.vals = wordsOf old (a.len / 4))
    ((∀ h, l ≠ .host h false) → present l a.len → s1.poisoned l a.len = false →
      (∀ op x, a.op = .upd op x → op ∉ [UpdOp.fadd, .fadd2, .fmin, .fmax] →
        ∃ t, exec (.portUpdate a.id half) s = .next t ∧ WritesOnly s1 t l a.len (value op old (x % 2 ^ w)) ∧ ended t old) ∧
      (∀ e x, a.op = .cas e x → e < 2 ^ w →
        ∃ t, exec (.portUpdate a.id half) s = .next t ∧ WritesOnly s1 t l a.len (if old = e then x else old) ∧
          ∃ b ∈ t.accs, b.id = a.id ∧ b.stage = .done ∧ b.dst = a.dst ∧ b.vals = wordsOf old (a.len / 4) ∧
            b.flags = if a.w then some ⟨false, decide (old = e), false, false⟩ else none)) ∧
    (∀ h op x hm, l = .host h false → a.ord = .plain → h % a.len = 0 → a.op = .upd op x →
      op ∉ [UpdOp.fadd, .fadd2, .fmin, .fmax] → s.poisoned l a.len = false → Memory.wf hm = true →
      let at' := Loc.host (h / 8 * 8) false
      let word := s.rawRead at' 8
      let o := h % 8
      let old := word / 2 ^ (8 * o) % 2 ^ w
      let mid := s.putAcc { a with stage := .fetched word }
      exec (.portUpdate a.id half) s = .next mid ∧
        ∃ t y, exec (.portUpdate a.id half) { mid with host := hm } = .next t ∧
          WritesOnly { mid with host := hm } t at' 8 y ∧ y / 2 ^ (8 * o) % 2 ^ w = value op old (x % 2 ^ w) ∧
          (∀ i < 8, i < o ∨ o + a.len ≤ i → y / 256 ^ i % 256 = word / 256 ^ i % 256) ∧ ended t old)

/-- R181 to R184, R365: FENCE of an agent with nothing before it takes the actions of its kind at once and goes on, else it
waits; one of kind sc and scope dev or wider first commits what an escrow interval of its team holds back (log entry 80);
CCTL writes the dirty bytes of the present lines of its range to memory, but of a store that races, and leaves the lines clean
or drops them when asked; stores of its own that have not reached L1 are not waited for (log entry 75); PREF goes on; ICINV drops the range from the instruction caches that its scope names and waits until they have
acknowledged. -/
def Obligations.FencesAndCacheForms : Prop :=
  ∀ (s : State) (ag : Agent) (h : Hdr) (a b : Reg),
    (∀ k sc, Executes s ag (.fence h k sc) → Still s ag →
      exec (.fence h k sc) s = .next (if s.tiles.all (fun t => !t.ags.contains ag) || k == .acq then
          let s := s.setPark ag (.fence k sc)
          let s := if k = .sc ∧ (sc = .dev ∨ sc = .sys) then s.commitEarly (s.uidOf ag) else s
          let s := if k = .acq then s else s.releaseAction ag sc
          let s := if k = .rel then s else s.acquireAction ag sc
          s.advance ag
        else s.setPark ag (.fence k sc))) ∧
    (∀ inv f, Executes s ag (.cctl h a b inv f) → Still s ag →
      let ea := s.ea ag f.space a f.ofs
      let n := (s.reg ag b).toNat
      (∀ t, s.checkAccess ag f.space ea (max n 1) 1 .read false = some t →
        exec (.cctl h a b inv f) s = .next (s.raise ag (.cctl h a b inv f) t)) ∧
      (s.checkAccess ag f.space ea (max n 1) 1 .read false = none →
        ∃ t : State, exec (.cctl h a b inv f) s = .next (t.advance ag) ∧
          (∀ line ∈ s.linesIn ag f.space ea.toNat n, ∀ x : L1Line, t.l1Find (s.coreOf ag) line = some x → x.dirty = 0 ∧ inv = false) ∧
          (Canonical s → ∀ x ∈ (s.core (s.coreOf ag)).l1, x.line ∈ s.linesIn ag f.space ea.toNat n → s.racing x = [] →
            (∀ y ∈ (s.core (s.coreOf ag)).l1, y.line = x.line → y = x) → 64 * x.line + 64 ≤ hbmSize →
            ∀ i < 64, x.dirty.getLsbD i = true → t.hbmRead (64 * x.line + i) 1 = x.byte i))) ∧
    (∀ lvl f, Executes s ag (.pref h a lvl f) →
      ∃ t : State, exec (.pref h a lvl f) s = .next (t.advance ag) ∧ (∀ r, t.reg ag r = s.reg ag r) ∧ t.pc ag = s.pc ag ∧
        ∀ x ∈ s.accs, x ∈ t.accs) ∧
    (∀ ofs sc, Executes s ag (.icinv h a b ofs sc) → Still s ag →
      let start : Int := (s.reg ag a).toNat + ofs.toInt
      let n := (s.reg ag b).toNat
      let ctx := s.ctxNo (s.uidOf ag)
      (n = 0 → exec (.icinv h a b ofs sc) s = .next (s.advance ag)) ∧
      (n ≠ 0 → (start < 0 ∨ 2 ^ 32 < start + n) → exec (.icinv h a b ofs sc) s =
        .next (s.raise ag (.icinv h a b ofs sc) ⟨0x08, 9, BitVec.ofInt 64 start⟩)) ∧
      (n ≠ 0 → 0 ≤ start → start + n ≤ 2 ^ 32 →
        ∃ t, exec (.icinv h a b ofs sc) s = .next t ∧ t.park ag = .icinv ∧ t.pc ag = s.pc ag ∧
          (∀ k, (k = s.coreOf ag ∧ (sc = .grp ∨ sc = .team) ∨ (sc = .dev ∨ sc = .sys) ∧ k < 192) → ∀ p, start / 64 ≤ p → p ≤ (start + n - 1) / 64 →
            afind (t.core k).icache (ctx * 2 ^ 26 + p.toNat) = none) ∧
          exec (.icinvAcknowledgement ag) t = .next (t.advance ag)))

/-! ## Translation, faults and fetch (chapters 02 and 12) -/

/-- R171, R266 to R269: the walk of an access translates its address page by page for what the access does: with the
translations it goes on to its port; a missing page holds it on a fault record; a page that turns it away makes it a late
PAGE_PROT with the page's reason and the address.
R266 to R268: a page table walk reads one entry a level, each from HBM as 8 little-endian bytes, and its leaf gives the
physical page and its permissions; an entry whose V is 0 is missing, a malformed one is refused with reason 5. An entry is
read as it stands, poisoned or not (log entry 106). -/
def Obligations.WalksTranslateHoldOrRefuse : Prop :=
  (∀ (s s1 : State) (a : Access) (v : Nat), s.accs = [a] → a.stage = .issued → a.op.multi = false → (∀ ws, a.op ≠ .known ws) →
     (s.team (s.uidOf a.ag)).stat = .running → s.park a.ag = .run → s.live a.ag = true → a.len ∈ [1, 2, 4, 8] →
     s.va a.ag a.space a.ea = some v →
     let core := s.coreOf a.ag
     let ctx := s.ctxNo (s.uidOf a.ag)
     let need := match a.op with
       | .store _ | .upd .. | .cas .. => Need.write
       | _ => .read
     s1.accs = s.accs → s1.live a.ag = true → s1.park a.ag = .run →
     (∀ x, s.translate core ctx v need = (s1, .pa x) → exec (.pageWalk a.id) s = .next (s1.putAcc { a with
       xl := [(0, x)], stage := .ready })) ∧
     (∀ r, s.translate core ctx v need = (s1, .bad r) → exec (.pageWalk a.id) s = .next (s1.putAcc { a with
       stage := .trapped 0x0B (BitVec.ofNat 64 r) (BitVec.ofNat 64 v) })) ∧
     (s.translate core ctx v need = (s1, .missing) → ∃ t n, exec (.pageWalk a.id) s = .next t ∧
       t.accs = [{ a with stage := .held (dieOf core) n }] ∧
       ∃ f ∈ (t.die (dieOf core)).faults ++ (t.die (dieOf core)).waiting, f.num = n ∧ f.ctx = ctx ∧ f.va / 4096 = v / 4096)) ∧
  (∀ (s : State) (ctx va : Nat) (root : Nat) (e4 e3 e2 e1 : Nat), va < 2 ^ 57 →
     let entry := fun (table lvl : Nat) => s.hbmRead (table + 8 * (va / 2 ^ (12 + 9 * lvl) % (if lvl = 3 then 2 ^ 18 else 512))) 8
     let next := fun (e : Nat) => e / 2 ^ 12 % 2 ^ 40 * 4096
     let valid := fun (e : Nat) => e % 2 = 1
     e4 = entry root 3 → e3 = entry (next e4) 2 → e2 = entry (next e3) 1 → e1 = entry (next e2) 0 →
     (¬ valid e4 → (walkFrom s [] ctx va 4 root).1 = .missing) ∧
     (valid e4 → pteBad 4 e4 = true → (walkFrom s [] ctx va 4 root).1 = .bad 5) ∧
     (valid e4 → pteBad 4 e4 = false → valid e3 → pteBad 3 e3 = false → nbit e3 4 = false → valid e2 → pteBad 2 e2 = false →
       nbit e2 4 = false →
       (¬ valid e1 → (walkFrom s [] ctx va 4 root).1 = .missing) ∧
       (valid e1 → pteBad 1 e1 = true → (walkFrom s [] ctx va 4 root).1 = .bad 5) ∧
       (valid e1 → pteBad 1 e1 = false → (walkFrom s [] ctx va 4 root).1 =
         .ok ⟨ctx, va / 4096, next e1 / 4096, nbit e1 1, nbit e1 2, nbit e1 3⟩)) ∧
     (valid e4 → pteBad 4 e4 = false → valid e3 → pteBad 3 e3 = false → nbit e3 4 = false → valid e2 → pteBad 2 e2 = false →
       nbit e2 4 = true → (walkFrom s [] ctx va 4 root).1 =
         .ok ⟨ctx, va / 4096, next e2 / 4096 + va / 4096 % 512, nbit e2 1, nbit e2 2, nbit e2 3⟩))

/-- R31, R32, R51, R266: a line in the instruction cache is checked on every fetch, and a sound one is used. Otherwise the
line is fetched at the address CODEBASE + PC: a sound one is kept; one that fails parity again, and a poisoned one, is a machine
check. This is so where the team holds back no write to that line. A slot whose VALID bit is clear is one issue that steps on,
and ILLEGAL under an unsound line word. -/
def Obligations.FetchKeepsSoundLines : Prop :=
  ∀ (s s1 : State) (ag : Agent) (x : Nat), s.atBoundary ag = true →
    let core := s.coreOf ag
    let ctx := s.ctxNo (s.uidOf ag)
    let p := s.pc ag
    let va := (s.ctx ctx).codebase.toNat + p.toNat
    let pa := x - p.toNat % 64
    let line : Line := BitVec.ofNat 512 (s1.hbmRead pa 64)
    let cached := fun (t : State) => afind (t.core core).icache (lineKey ctx p)
    s.heldCode (s.uidOf ag) ctx p = none →
    (∀ l, cached s = some l → l.sound = true → exec (.fetchLine ag) s = .next s) ∧
    ((∀ l, cached s = some l → l.sound = false) → va < 2 ^ 57 → s.translate core ctx va .fetch = (s1, .pa x) →
      (s1.poisoned (.hbm pa) 64 = false → line.sound = true →
        ∃ t, exec (.fetchLine ag) s = .next t ∧ cached t = some line) ∧
      (s1.poisoned (.hbm pa) 64 = false → line.sound = false → exec (.fetchLine ag) s =
        .next (s1.machineCheck (s1.uidOf ag) (s1.coreOf ag) 0x43 0 0 p (Agent.lane ag) none)) ∧
      (s1.poisoned (.hbm pa) 64 = true → exec (.fetchLine ag) s =
        .next (s1.machineCheck (s1.uidOf ag) (s1.coreOf ag) 0x42 0 pa p (Agent.lane ag) none))) ∧
    (∀ lw, s.cur.agents = [ag] →
      exec (.emptySlot lw) s = .next (if lineReserved lw then s.raiseAs ag [] ⟨0x01, 0, 0⟩ else s.advance ag))

/-- R45, R46, R257: the late traps of a thread whose windows have closed are delivered at an instruction boundary, the earliest
in program order first: the thread enters the handler with that access's PC saved and its own PC as the resume point, and the
others stay pending in program order. Those held pending come before any other, at TRAPLVL 0.
R270: the host's answers to a fault. `map` lets the accesses held on it be translated again; `refuse` turns them into
late PAGE_PROT traps with reason 4 and each its own address on the fault's page (log entry 79). Either way the record leaves
the queue. -/
def Obligations.LateTrapsAndFaultAnswers : Prop :=
  (∀ (s : State) (ag : Agent) (a : Access) (c : Nat) (v x : DWord), s.atBoundary ag = true → (s.trapOf ag).pend = [] →
     (∀ y ∈ s.accsOf ag, y.left = none ∧ ∃ k p q, y.stage = .trapped k p q) → (s.accs.map (fun y => y.id)).Nodup →
     a ∈ s.accsOf ag → a.stage = .trapped c v x → (∀ y ∈ s.accsOf ag, a.id ≤ y.id) → Agent.bursar ag = false →
     (s.trapOf ag).lvl = false → (s.descOf ag).handler ≠ 0 →
     ∃ t, exec (.lateTrapDelivery ag) s = .next t ∧ t.pc ag = (s.descOf ag).handler ∧ (t.trapOf ag).lvl = true ∧
       (t.trapOf ag).cause = c ∧ (t.trapOf ag).pc = a.pc ∧ (t.trapOf ag).val = v ∧ (t.trapOf ag).addr = x ∧
       (t.trapOf ag).resume = s.pc ag ∧ (t.trapOf ag).saved = some { a with stage := .ready } ∧ t.accsOf ag = [] ∧
       (∀ l, l ∈ (t.trapOf ag).pend ↔ l.acc ∈ s.accsOf ag ∧ l.acc ≠ a ∧ l.acc.stage = .trapped l.cause l.val l.addr) ∧
       (t.trapOf ag).pend.Pairwise (fun l m => l.acc.id < m.acc.id) ∧
       (∀ r, t.reg ag r = s.reg ag r) ∧ SameMemory s t) ∧
  (∀ (s : State) (ag : Agent) (l : Late) (rest : List Late), s.atBoundary ag = true → (s.trapOf ag).pend = l :: rest →
     MayEnter s ag →
     ∃ t, exec (.lateTrapDelivery ag) s = .next t ∧ t.pc ag = (s.descOf ag).handler ∧ t.trapOf ag = { s.trapOf ag with
         pend := rest, lvl := true, cause := l.cause, pc := l.acc.pc, val := l.val, addr := l.addr, resume := s.pc ag,
         saved := some { l.acc with stage := .ready } } ∧
       (∀ r, t.reg ag r = s.reg ag r) ∧ SameMemory s t) ∧
  (∀ (s : State) (a : Access) (dn n : Nat) (f : FaultRec), dn < 2 → s.accs = [a] → a.stage = .held dn n →
     (s.die dn).faults = [f] → f.num = n → (s.die dn).waiting = [] → s.live a.ag = true → s.park a.ag = .run →
     s.tiles = [] → (∀ k ∈ s.cores, k.2.rays = [] ∧ k.2.slots = []) → s.ports = [] → s.malgWaiters dn f.ctx f.va = [] →
     (∃ t, exec (.faultAnswerMap dn n) s = .next t ∧ t.accs = [{ a with stage := .issued }] ∧ (t.die dn).faults = [] ∧
       t.live a.ag = true) ∧
     (∀ v, a.op.samples = false → a.len ≠ 16 → s.va a.ag a.space a.ea = some v → v / 4096 = f.va / 4096 →
       ∃ t, exec (.faultAnswerRefuse dn n) s = .next t ∧ (t.die dn).faults = [] ∧
         t.accs = [{ a with stage := .trapped 0x0B 4 (BitVec.ofNat 64 v) }]))


/-! ## Named barriers (chapter 11) -/

/-- R244, R246 to R250, R251: BINIT sets a barrier up for a count of 1 to 127, BEXPT adds to the bytes it expects, BTEST reads
its status word or its promise, and BWAIT answers at once when the phase given is over and waits otherwise. BARV arrives
once for all its signers, waits or not, and with the last arrival the phase advances and its waiters go on. In a team that
does not span and outside escrow and deterministic mode. -/
def Obligations.NamedBarriers : Prop :=
  ∀ (s : State) (ag : Agent) (h : Hdr) (d a : Reg) (bar : BarNo),
    let u := s.uidOf ag
    let b := bar.toNat
    let x := s.bar u b
    let n := (s.reg ag a).toNat
    let z := fun (psn : Bool) => (⟨false, !psn, false, false⟩ : CC)
    let next := fun (y : Barrier) => if y.arr = 0 ∧ y.tx = 0 then
      { y with phase := !y.phase, arr := y.n, prom := 0, arrived := [] } else y
    s.det ag = false → (s.launchOf ag).lr.escrow = false → (s.descOf ag).spans = false →
    (Executes s ag (.binit h a bar) → exec (.binit h a bar) s = .next (if 1 ≤ n ∧ n ≤ 127 then
        (s.setBar u b ⟨x.phase, n, n, 0, 0, false, []⟩).advance ag
      else s.raise ag (.binit h a bar) ⟨0x16, BitVec.ofNat 64 n, 0⟩)) ∧
    (Executes s ag (.bexpt h a bar) →
      (2 ^ 31 ≤ n → exec (.bexpt h a bar) s = .next (s.raise ag (.bexpt h a bar) ⟨0x16, BitVec.ofNat 64 n, 0⟩)) ∧
      (n < 2 ^ 31 → x.psn = false → x.tx + n < 2 ^ 31 → -(2 ^ 31) ≤ x.tx + n →
        (s.barAgents u b = [] →
          exec (.bexpt h a bar) s = .next ((s.setBar u b (next { x with tx := x.tx + n })).advance ag)) ∧
        (∀ w d' cw, s.barAgents u b = [w] → w ≠ ag → s.park w = .bar b x.phase none d' cw → d' ≠ vz → Still s ag →
          Still s w → NoMeeting s w → x.arr = 0 → x.tx + n = 0 → ∃ t, exec (.bexpt h a bar) s = .next t ∧
            t.park w = .run ∧ t.pc w = nextPc (s.pc w) ∧ t.reg w d' = BitVec.ofNat 32 (b2n (!x.phase)) ∧
            (t.bar u b).phase = !x.phase)) ∧
      (n < 2 ^ 31 → x.psn = false → 2 ^ 31 ≤ x.tx + n → s.barAgents u b = [] →
        exec (.bexpt h a bar) s = .next ((s.setBar u b (next { x with psn := true, tx := 0 })).advance ag)) ∧
      (n < 2 ^ 31 → x.psn = true → s.barAgents u b = [] →
        exec (.bexpt h a bar) s = .next ((s.setBar u b (next x)).advance ag))) ∧
    (Executes s ag (.btest h d false bar) → exec (.btest h d false bar) s = .next ((s.result ag h false d
      (b2n x.phase + 2 * b2n x.psn + 4 * (x.arr % 128) + 512 * (x.n % 128)) (z x.psn)).advance ag)) ∧
    (Executes s ag (.btest h d true bar) →
      exec (.btest h d true bar) s = .next ((s.setReg64 ag d (BitVec.ofNat 64 x.prom)).advance ag)) ∧
    (Executes s ag (.bwait h d a bar) → let p := (s.reg ag a).getLsbD 0
      exec (.bwait h d a bar) s = .next (if x.phase = p then s.parkOn ag (.bar b p none d h.w)
        else (s.result ag h false d (b2n x.phase + 2 * b2n x.psn) (z x.psn)).advance ag)) ∧
    (∀ g m mm ls l op, ag = .thread u g l → ls.head? = some l → Signed s u g m (.barv h d a mm op bar) ls →
      (∀ k ∈ ls, ∀ t ∈ s.tiles, .thread u g k ∉ t.ags) → s.barAgents u b = [] → x.psn = false →
      let e := if op = .expect then n else 0
      (2 ^ 31 ≤ e → exec (.collectiveBody u g m) s = .next ((marked s u g m).trapAll
        (ls.map (Agent.thread u g)) ⟨0x16, BitVec.ofNat 64 e, 0⟩)) ∧
      (e < 2 ^ 31 → x.tx + e < 2 ^ 31 → -(2 ^ 31) ≤ x.tx →
        (x.arr ≠ 0 → ∃ t whole, exec (.collectiveBody u g m) s = .next t ∧
          t.bar u b = next { x with arr := x.arr - 1, tx := x.tx + e, arrived := x.arrived ++ [(g, whole)] } ∧
          (op ≠ .wait ∨ x.arr = 1 ∧ x.tx = 0 →
            Collected s t u g ls h false d (fun _ => some (b2n x.phase)) (fun _ => z false)) ∧
          (op = .wait → ¬ (x.arr = 1 ∧ x.tx = 0) → ∀ k ∈ ls,
            t.park (.thread u g k) = .bar b x.phase (some x.phase) d h.w ∧ t.pc (.thread u g k) = s.pc (.thread u g k))) ∧
        (x.arr = 0 → op ≠ .wait → ∃ t, exec (.collectiveBody u g m) s = .next t ∧ (t.bar u b).psn = true ∧
          Collected s t u g ls h false d (fun _ => some (b2n x.phase + 2)) (fun _ => z true))))

/-! ## The matrix array (chapters 14 and 15) -/

/-- R300, R302 to R305, R307, R308, R311: MALG writes an algebra slot from its record; MWLD, MGATH and MSCALE fill the latches;
MZERO and MLDACC write a bank and its type; MDRAIN opens each signer's run from its row; MSTAT reads MSTATUS and may clear
it, once the results of the team's earlier array bodies have come. Up to 32 members have signed, and the array is theirs or free; outside deterministic mode and escrow. -/
def Obligations.ArrayOperandsAndBanks : Prop :=
  ∀ (s : State) (u g m l0 : Nat) (ls : List Nat) (h : Hdr) (a b c d : Reg) (mm : MaskNo) (bank : Bool),
    let ag := Agent.thread u g
    let core := (s.grp u g).core
    let k := (s.team u).desc
    let arr := arrayAs s u core
    let at' := fun l o => if o < k.half then s.place (ag l) .sp o else s.place (ag l) .psp (o - k.half)
    let sound := fun l o n => o % 4 = 0 ∧ (o + n ≤ k.half ∨ k.spans = true ∧ k.half ≤ o ∧ o + n ≤ 2 * k.half) ∧
      s.poisoned (at' l o) n = false
    let bytes := fun l o n => s.rawRead (at' l o) n
    let begins := fun i => Signed s u g m i ls ∧ ls.length ≤ 32 ∧ MayUse s u g core ls ∧ s.tiles = [] ∧ ls.head? = some l0
    let latched := fun (t : State) => Passed s t u g ls h ∧ t.accs = s.accs
    let oneBank := fun (r : MArray) (ty : BankTy) (cell : Nat → Nat → Word) =>
      r = (if bank then { arr with a1 := r.a1, t1 := ty } else { arr with a0 := r.a0, t0 := ty }) ∧
        ∀ i < 32, ∀ j < 32, r.cell bank i j = cell i j
    (∀ ty, begins (.mzero h mm ty bank) → ∃ t, exec (.collectiveBody u g m) s = .next t ∧ latched t ∧
      oneBank (t.core core).array ty (fun _ _ => 0)) ∧
    (∀ ty, begins (.mldacc h a mm ty bank) → ∃ t, exec (.collectiveBody u g m) s = .next t ∧ latched t ∧
      oneBank (t.core core).array ty (fun i j => match ls[i]? with
        | some l => s.reg (ag l) (regAt a j)
        | none => 0)) ∧
    (begins (.mscale h a mm) → ∃ t, exec (.collectiveBody u g m) s = .next t ∧ latched t ∧
      let r := (t.core core).array
      r = { arr with ascale := r.ascale } ∧ ∀ i < 32, aget unitScale r.ascale i = match ls[i]? with
        | some l => s.reg (ag l) (regAt a 2) ++ s.reg (ag l) (regAt a 1) ++ s.reg (ag l) a
        | none => 0x7F7F7F7F7F7F7F7F7F7F7F7F) ∧
    (begins (.mgath h a mm) → (∀ l ∈ ls, sound l (s.reg (ag l) a).toNat 192) →
      ∃ t, exec (.collectiveBody u g m) s = .next t ∧ latched t ∧
        let r := (t.core core).array
        r = { arr with arow := r.arow, ascale := [] } ∧ ∀ i < 32, aget 0 r.arow i = match ls[i]? with
          | some l => BitVec.ofNat 1536 (bytes l (s.reg (ag l) a).toNat 192)
          | none => 0) ∧
    (∀ fmt alg, begins (.mwld h a b c mm fmt alg) →
      let r0 := s.algebra (ag l0) alg
      let narrow := fmt ∈ [BFmt.e4m3, .e5m2, .e2m1, .p2x2, .s8]
      let col := fun e => (s.reg (ag l0) a).toNat + e * (s.reg (ag l0) b).toNat
      let sc := fun e => (s.reg (ag l0) c).toNat + 16 * e
      r0.d ∈ [1, 2, 4] → (∀ e < 32 / r0.d, sound l0 (col e) 192 ∧ (narrow → sound l0 (sc e) 16)) →
      ∃ t, exec (.collectiveBody u g m) s = .next t ∧ latched t ∧
        let r := (t.core core).array
        r = { arr with wcol := r.wcol, wscale := r.wscale, bfmt := fmt, balg := r0 } ∧
        ∀ j < 32, aget 0 r.wcol j = BitVec.ofNat 1536 (bytes l0 (col (j / r0.d)) 192) ∧
          ∀ n < 12, ((aget unitScale r.wscale j).extractLsb' (8 * n) 8).toNat =
            if narrow ∧ n < (if fmt = .e2m1 then 12 else 6) then bytes l0 (sc (j / r0.d)) 16 / 256 ^ n % 256 else 0x7F) ∧
    (∀ alg, Signed s u g m (.malg h a mm true alg) ls → ls.length ≤ 32 → s.tiles = [] → ls.head? = some l0 →
      let o := (s.reg (ag l0) a).toNat
      let x := s.rawRead (s.place (ag l0) .sp o) 16
      let n := x / 2 ^ 64 % 256
      let nib := fun i j => x / 2 ^ (4 * (4 * i + j)) % 16
      let well := n ∈ [1, 2, 4] ∧ x / 2 ^ 76 = 0 ∧ ∀ i < n, ∀ j < n, nib i j < 12 ∧ nib i j % 4 < n ∧
        ∀ q < j, nib i j < 8 → nib i q < 8 → nib i q % 4 ≠ nib i j % 4
      s.checkAccess (ag l0) .sp o 16 16 .read false = none → s.poisoned (s.place (ag l0) .sp o) 16 = false →
      (well → ∃ t, exec (.collectiveBody u g m) s = .next t ∧ latched t ∧ ∀ z, t.algebra (ag l0) z =
        if z = alg then ⟨BitVec.ofNat 64 x, n, BitVec.ofNat 4 (x / 2 ^ 72)⟩ else s.algebra (ag l0) z) ∧
      (¬ well → ∃ v : DWord, exec (.collectiveBody u g m) s =
        .next ((marked s u g m).trapAll (ls.map ag) ⟨0x18, v, 0⟩))) ∧
    (∀ alg s1 x, Signed s u g m (.malg h a mm false alg) ls → ls.length ≤ 32 → s.tiles = [] → ls.head? = some l0 →
      let ea := (s.reg64 (ag l0) a).toNat
      ea % 16 = 0 → ea + 16 ≤ 2 ^ 57 → s.det (ag l0) = false → s.holds u = false → s.direct u = false →
      s.translate core (s.ctxNo u) ea .read = (s1, .pa x) → s1.l1Poison core x 16 = false →
      let rec' := (s1.l1Read core u x 16).2.1
      algebraBad rec' = none → ∃ t, exec (.collectiveBody u g m) s = .next t ∧
        t.algebra (ag l0) alg = ⟨BitVec.ofNat 64 rec', rec' / 2 ^ 64 % 256, BitVec.ofNat 4 (rec' / 2 ^ 72)⟩ ∧
        ∀ l ∈ ls, t.park (ag l) = .run ∧ t.pc (ag l) = nextPc (s.pc (ag l))) ∧
    (begins (.mdrain h d mm bank) → ∃ t xs, exec (.collectiveBody u g m) s = .next t ∧ Passed s t u g ls h ∧
      (t.core core).array = arr ∧ t.accs = s.accs ++ xs ∧ (d = vz → xs = []) ∧ (d ≠ vz → xs.length = ls.length ∧
        ∀ i l, ls[i]? = some l → ∃ x : Access, xs[i]? = some x ∧ x.ag = ag l ∧ x.dst = runOf d 32 ∧
          x.op = .known ((List.range 32).map (arr.cell bank i)) ∧ x.left = some h.la.toNat)) ∧
    (∀ clr, Signed s u g m (.mstat h d mm clr) ls → ls.length ≤ 32 →
      let v := (s.team u).mstatus
      (s.arrayOwes u = false → ∃ t, exec (.collectiveBody u g m) s = .next t ∧
        (t.team u).mstatus = (if clr then 0 else v) ∧
        Collected s t u g ls h false d (fun _ => some v.toNat) (fun _ => ⟨false, decide (v = 0), false, false⟩)) ∧
      (s.arrayOwes u = true → exec (.collectiveBody u g m) s = .next (marked s u g m)))

/-- R284 to R288, R291, R306: MMA adds to each cell of a bank, or writes over it, the exact terms of its row and column, rounded
as the ductus says, with the bank's type that of Table 14-2; a pair that the table does not have, an algebra that the pair
does not admit, or a bank of the other type is MATRIX_FORMAT. The sticky bits are only ever set. -/
def Obligations.MatrixMultiplyAccumulate : Prop :=
  ∀ (s : State) (u g m : Nat) (ls : List Nat) (h : Hdr) (mm : MaskNo) (fmt : AFmt) (cb ca ow : Bool) (duct : BitVec 2)
    (bank : Bool),
    let core := (s.grp u g).core
    let arr := arrayAs s u core
    let r := arr.balg
    let pairs : List (AFmt × BFmt × Nat × BankTy) := [(.e4m3, .e4m3, 192, .f32), (.e4m3, .e5m2, 192, .f32),
      (.e5m2, .e4m3, 192, .f32), (.e5m2, .e5m2, 192, .f32), (.e4m3, .p2x2, 192, .f32), (.e5m2, .p2x2, 192, .f32),
      (.e2m1, .e2m1, 384, .f32), (.e2m1, .p2x2, 192, .f32), (.s8, .s8, 192, .s32), (.f16, .f16, 96, .f32),
      (.f16, .p2x2, 96, .f32), (.bf16, .bf16, 96, .f32), (.f32, .f32, 48, .f32)]
    let wide := (fmt, arr.bfmt) ∈ ([(.f16, .f16), (.bf16, .bf16), (.f32, .f32)] : List (AFmt × BFmt))
    Signed s u g m (.mma h mm fmt cb ca ow duct bank) ls → ls.length ≤ 32 → MayUse s u g core ls →
    ((∀ n ty, (fmt, arr.bfmt, n, ty) ∈ pairs → (1 < r.d ∧ ¬ wide) ∨ (ow = false ∧ arr.ty bank ≠ ty)) →
      ∃ v : State, exec (.collectiveBody u g m) s = .next (v.trapAll (ls.map (Agent.thread u g))
        ⟨0x17, BitVec.ofNat 64 (256 * AFmt.code fmt + BFmt.code arr.bfmt), 0⟩) ∧ (v.core core).array = arr) ∧
    (∀ n ty, (fmt, arr.bfmt, n, ty) ∈ pairs → (r.d ≤ 1 ∨ wide) → (ow = true ∨ arr.ty bank = ty) →
      afind arr.upset arr.count.toNat = none →
      ∃ t, exec (.collectiveBody u g m) s = .next t ∧ Passed s t u g ls h ∧
        (∀ i, (s.team u).mstatus.getLsbD i = true → (t.team u).mstatus.getLsbD i = true) ∧
        (∀ i, 2 ≤ i → (t.team u).mstatus.getLsbD i = (s.team u).mstatus.getLsbD i) ∧
        let q := (t.core core).array
        q = (if bank then { arr with a1 := q.a1, t1 := ty, count := arr.count + 1 }
          else { arr with a0 := q.a0, t0 := ty, count := arr.count + 1 }) ∧
        ∀ i < 32, ∀ j < 32,
          let elem := fun (t : NumTy) (row : BitVec 1536) (k : Nat) =>
            NumTy.toX t (row.toNat / 2 ^ (NumTy.width t * k) % 2 ^ NumTy.width t)
          let scale := fun (t : NumTy) (sc : BitVec 96) (k : Nat) =>
            if t ∈ [NumTy.e4m3, .e5m2, .e2m1, .p2x2, .s8] then (sc.extractLsb' (8 * (k / 32)) 8).toNat else 127
          let conj := fun (on : Bool) (k : Nat) (v : X) => if on && r.mask.getLsbD (k % r.d) then v.neg else v
          let x := fun k => conj ca k (elem (AFmt.ty fmt) (aget 0 arr.arow i) k)
          let y := fun k => conj cb k (elem (BFmt.ty arr.bfmt) (aget 0 arr.wcol j) k)
          let sx := scale (AFmt.ty fmt) (aget unitScale arr.ascale i)
          let sy := scale (BFmt.ty arr.bfmt) (aget unitScale arr.wscale j)
          let c : Word := if ow then 0 else arr.cell bank i j
          let add := fun (v t : X) => xf (rfn (v.add false t))
          let sign := r.tbl.toNat / 4 % 4
          (r.d ≤ 1 → ∃ ts : List X, (2 ≤ sign → ts = [] ∧ (ty = .f32 → duct ≠ 1 → q.cell bank i j = rfn (xf c))) ∧
            (sign < 2 → ts.length = n) ∧
            (sign < 2 → ∀ k < n, ∃ t e, ts[k]? = some (if sign = 1 then t.neg else t) ∧ ExactOf .mul false (x k) (y k) (.zero false) e ∧
              (sx k = 255 ∨ sy k = 255 → t = .nan) ∧
              (sx k ≠ 255 → sy k ≠ 255 → (valueOf e = none → t = e) ∧ t.isNeg = e.isNeg ∧ ∀ p, valueOf e = some p →
                valueOf t = some (p * (2 : ℚ) ^ ((sx k : Int) - 127 + ((sy k : Int) - 127))))) ∧
            (ty = .f32 →
              (duct = 0 → q.cell bank i j = rfn (ts.foldl add (xf c))) ∧
              (duct = 1 → ts ≠ [] → ∀ tree : List X → X, (∀ z, tree [z] = z) →
                (∀ zs k, 1 < zs.length → 2 ^ k < zs.length → zs.length ≤ 2 ^ (k + 1) →
                  tree zs = add (tree (zs.take (2 ^ k))) (tree (zs.drop (2 ^ k)))) →
                q.cell bank i j = rfn ((xf c).add false (tree ts))) ∧
              (duct = 2 → ∀ sum : Nat → X, (∀ k, 32 * k < n → ∀ p : List ℚ,
                  ((ts.drop (32 * k)).take 32).map valueOf = p.map some → valueOf (sum k) = some p.sum ∧ p.sum ≠ 0) →
                (∀ t ∈ ts, valueOf t ≠ none) → valueOf (xf c) ≠ none →
                q.cell bank i j = rfn ((List.range ((n + 31) / 32)).foldl (fun v k => add v (sum k)) (xf c))) ∧
              (duct = 3 → ∀ (p : List ℚ) (z : ℚ), ts.map valueOf = p.map some → valueOf (xf c) = some z → z + p.sum ≠ 0 →
                ∃ e, valueOf e = some (z + p.sum) ∧ q.cell bank i j = rfn e)) ∧
            (ty = .s32 →
              (.nan ∈ ts → q.cell bank i j = 0x80000000) ∧
              (∀ p : List ℚ, ts.map valueOf = p.map some → (∀ v ∈ p, |v| < 2 ^ 57) →
                ∃ z : Nat → Int, q.cell bank i j = c + BitVec.ofInt 32 ((List.range (n / 32)).map z).sum ∧
                  ∀ k < n / 32, let v := ((p.drop (32 * k)).take 32).sum
                    |(z k : ℚ) - v| ≤ 1 / 2 ∧ (|(z k : ℚ) - v| = 1 / 2 → z k % 2 = 0)))) ∧
          (1 < r.d → r.d ≤ 4 → duct = 3 →
            let nib := fun p q => r.tbl.toNat / 2 ^ (4 * (4 * p + q)) % 16
            (∀ p < r.d, ∀ q < r.d, ∀ q' < r.d, nib p q / 4 ≠ 2 → nib p q' / 4 ≠ 2 → nib p q % 4 = nib p q' % 4 → q = q') →
            ∀ (xs ys : Nat → ℚ) (z : ℚ), (∀ k < n, valueOf (x k) = some (xs k) ∧ valueOf (y k) = some (ys k)) →
              valueOf (xf c) = some z →
              let total := z + ((List.range (n / r.d)).map (fun b => ((List.range r.d).map (fun p =>
                ((List.range r.d).map (fun q => if nib p q / 4 ≠ 2 ∧ nib p q % 4 = j % r.d then
                  (if nib p q / 4 = 1 then -1 else 1) * xs (r.d * b + p) * ys (r.d * b + q) else 0)).sum)).sum)).sum
              total ≠ 0 → ∃ e, valueOf e = some total ∧ q.cell bank i j = rfn e))

/-- R277, R294, R309, R310: MDRST that passes its checks sends one tile of its signers' rows, each cell converted, and lets them
go on; the tile, once translated, is applied at its port whole, element by element. An array whose holder has gone passes to
the team that has waited longest, and a body of another team waits until then. -/
def Obligations.TilesAndArrayRelease : Prop :=
  ∀ (s : State) (u g m l0 : Nat) (ls : List Nat),
    let ag := Agent.thread u g
    let core := (s.grp u g).core
    let arr := arrayAs s u core
    (∀ (h : Hdr) (a b : Reg) (mm : MaskNo) (op : MdrstOp) (scope : Scope) (rel : Bool) (space : MSpace) (bank : Bool),
      let i := Instr.mdrst h a b mm op scope rel space bank
      let ty := arr.ty bank
      let spc := MSpace.space space
      let e := if op = .badd then 2 else if op = .xadd then 8 else 4
      let fits := ((op = .fadd ∨ op = .badd) → ty = .f32) ∧ (op = .iadd → ty = .s32)
      let base := if space = .glob then (s.reg64 (ag l0) a).toNat else (s.reg (ag l0) a).toNat
      let stride := (s.reg (ag l0) b).toNat
      let n := ls.length
      let use := if op = .st then Use.write else .update
      let inside := ∀ i < n, ∀ p ∈ vaultParts spc (base + i * stride) (32 * e), s.inRange (ag l0) spc (p.1 : Nat) p.2 = true
      let port : PortOp := match op with
        | .st => .write
        | .fadd => .upd .fadd
        | .badd => .badd
        | .iadd => .upd .add
        | .xadd => .upd .fxadd
        | .min => .upd (if ty = .f32 then .fmin else .smin)
        | .max => .upd (if ty = .f32 then .fmax else .smax)
      let begun := fun (v : State) => (v.core core).array = arr ∧ v.tiles = s.tiles
      let traps := fun (t : Trap) => ∃ v : State, exec (.collectiveBody u g m) s = .next (v.trapAll (ls.map ag) t) ∧ begun v
      Signed s u g m i ls → n ≤ 32 → MayUse s u g core ls → s.tiles = [] → ls.head? = some l0 → s.det (ag l0) = false →
      (¬ fits → traps ⟨0x17, BitVec.ofNat 64 (65536 + 256 * (if ty = .f32 then 6 else 0) + MdrstOp.code op), 0⟩) ∧
      (fits → ¬ inside → ∃ x : DWord, traps ⟨0x08, BitVec.ofNat 64 (spaceNo spc), x⟩) ∧
      (fits → inside → ¬ (base % e = 0 ∧ stride % e = 0) → traps ⟨0x09, BitVec.ofNat 64 e, BitVec.ofNat 64 base⟩) ∧
      (∀ s1 s2 pa, fits → inside → base % e = 0 → stride % e = 0 →
        (space = .vlt → s.vaultOk (ag l0) (base / 2 ^ 24) use = true ∧
          base / 2 ^ 24 = (base + (n - 1) * stride + 32 * e - 1) / 2 ^ 24) →
        (space = .glob → rel = false ∧ base / 4096 = (base + (n - 1) * stride + 32 * e - 1) / 4096 ∧
          s.tilePages core (s.ctxNo u) .write ((List.range n).map (fun i => base + i * stride)) = (s1, none, false) ∧
          s1.translate core (s.ctxNo u) base .write = (s2, .pa pa)) →
        ∃ t x, exec (.collectiveBody u g m) s = .next t ∧ t.tiles = [x] ∧
          (∀ l ∈ ls, t.park (ag l) = .run ∧ t.pc (ag l) = nextPc (s.pc (ag l)) ∧ ∀ r, t.reg (ag l) r = s.reg (ag l) r) ∧
          (t.core core).array = arr ∧ x.uid = u ∧ x.ags = ls.map ag ∧ t.tileCore x = core ∧ x.space = spc ∧ x.base = base ∧
          x.stride = stride ∧ x.esz = e ∧ x.op = port ∧ x.stage = .ready ∧ x.mark = s.nextAcc ∧
          x.pa = (if space = .glob then some pa else none) ∧
          x.rows = (List.range n).map (fun i => (List.range 32).map (fun j => let v := arr.cell bank i j
            if op = .xadd then (if ty = .f32 then (roundFix 64 true 32 (xf v) .rn 0).bits else wrapN 64 (v.toInt * 2 ^ 32))
            else v.toNat)))) ∧
    (∀ x : Tile, s.tiles = [x] → x.stage = .ready → s.accs = [] → s.holds x.uid = false → (s.core (s.tileCore x)).l1 = [] →
      Canonical s → x.esz ∈ [2, 4, 8] → 32 * x.esz ≤ x.stride → (∀ r ∈ x.rows, r.length = 32) →
      let l := s.tileLoc x
      (∀ i < x.rows.length, ∀ j < 32, let p := l.plus (i * x.stride + j * x.esz)
        s.poisoned p x.esz = false ∧ present p x.esz) → (∀ a ∈ x.ags, s.park a = .run) →
      ∃ t, exec (.mdrstTileApply x.id) s = .next t ∧ t.tiles = [] ∧
        (∀ i j v row, x.rows[i]? = some row → row[j]? = some v → let p := l.plus (i * x.stride + j * x.esz)
          t.rawRead p x.esz = x.op.apply x.esz (s.rawRead p x.esz) v % 2 ^ (8 * x.esz)) ∧
        (∀ q, (∀ i < x.rows.length, ∀ k < 32 * x.esz, bare q ≠ bare (l.plus (i * x.stride + k))) →
          byteAt t q = byteAt s q)) ∧
    (∀ w, core < 192 → let mat := (s.core core).array
      mat.holder = some w →
      ((s.team w).allExited = false → s.dead w = false → exec (.arrayRelease core) s = .next s) ∧
      ((s.team w).allExited = true → s.tilesOf w core = false → ∃ t, exec (.arrayRelease core) s = .next t ∧
        (t.core core).array.holder = mat.waiting.find? (s.waitsArray core)) ∧
      (∀ h mm ty bank, w ≠ u → Signed s u g m (.mzero h mm ty bank) ls → FirstDue s u g core ls → u ∉ mat.waiting →
        ∃ t n, exec (.collectiveBody u g m) s = .next t ∧ (t.core core).array = { mat with waiting := mat.waiting ++ [u] } ∧
          ∀ l ∈ ls, t.park (ag l) = .signed m (some n) (.mzero h mm ty bank) ∧ t.pc (ag l) = s.pc (ag l)))

/-! ## Rays (chapter 18) -/

/-- R334 to R336, R338: TBOX and TTRI open a read of their node or triangle, after the checks of its address; for finite rays,
boxes and triangles the result is the exact order of the boxes entered and the exact hit, rounded. SPUSH stores its values on
each signer's stack and raises its depth; SPOP opens the read of the top, or answers an empty stack; a depth beyond 32 is
STACK_OVF. -/
def Obligations.RayTestsAndStacks : Prop :=
  ∀ (s : State) (ag : Agent) (h : Hdr) (d a b c : Reg),
    let issue := fun (i : Instr) (n align k : Nat) (op : AccOp) => let ea := (s.reg64 ag b).toNat
      Executes s ag i →
      (2 ^ 57 < ea + n → exec i s = .next (s.raise ag i ⟨0x08, 0, BitVec.ofNat 64 ea⟩)) ∧
      (ea + n ≤ 2 ^ 57 → ea % align ≠ 0 →
        exec i s = .next (s.raise ag i ⟨0x09, BitVec.ofNat 64 align, BitVec.ofNat 64 ea⟩)) ∧
      (ea + n ≤ 2 ^ 57 → ea % align = 0 → ∃ x : Access, exec i s = .next ((s.push x).advance ag) ∧ x.ag = ag ∧ x.op = op ∧
        x.dst = runOf d k ∧ x.space = .glob ∧ x.ea = ea ∧ x.len = n ∧ x.stage = .issued ∧ x.left = some h.la.toNat ∧
        x.w = h.w)
    let ends := fun (s1 : State) (q : Access) (vals : List Word) (z : Bool) => ∀ half, exec (.portUpdate q.id half) s =
      .next ((s1.putAcc { q with
        stage := .done, vals := vals, flags := if q.w then some ⟨false, z, false, false⟩ else none }).resume q.ag)
    (issue (.tbox h d a b) 128 128 5 (.tbox (s.regRun ag a 8))) ∧
    (∀ cull, issue (.ttri h d a b cull) 36 4 4 (.ttri (s.regRun ag a 8) cull)) ∧
    (∀ (q : Access) (ray : List Word) (s1 : State) (x : Nat) (r : Nat → ℚ) (box : Nat → Nat → ℚ), s.accs = [q] →
      q.stage = .ready → (s.team (s.uidOf q.ag)).stat = .running → s.unitBusy q.seq (s.placeOf q 0) = false → s.tiles = [] →
      q.op = .tbox ray → s.readVa q.ag q.id false .load q.ea 128 = (s1, .ok x) → ray.length = 8 →
      let word := fun i => BitVec.ofNat 32 (x / 2 ^ (32 * i))
      (∀ i < 8, (ray[i]?).bind (fun w => valueOf (xf w)) = some (r i)) →
      (∀ k < 4, ∀ i < 6, valueOf (xf (word (6 * k + i))) = some (box k i)) →
      let p := fun k j => (box k j - r j) * r (3 + j)
      let q' := fun k j => (box k (3 + j) - r j) * r (3 + j)
      let e := fun k => max (r 6) (max (min (p k 0) (q' k 0)) (max (min (p k 1) (q' k 1)) (min (p k 2) (q' k 2))))
      let f := fun k => min (r 7) (min (max (p k 0) (q' k 0)) (min (max (p k 1) (q' k 1)) (max (p k 2) (q' k 2))))
      let hit := fun k => word (24 + k) ≠ 0 ∧ e k ≤ f k ∧ ∀ j < 3, box k j ≤ box k (3 + j)
      ∃ order : List Nat, (∀ k, k ∈ order ↔ k < 4 ∧ hit k) ∧
        order.Pairwise (fun k k' => e k < e k' ∨ e k = e k' ∧ k < k') ∧
        ends s1 q (BitVec.ofNat 32 ((order.map (fun k => 2 ^ k)).sum + 16 * order.length +
            ((List.range 4).map (fun i => order.getD i 0 * 2 ^ (8 + 2 * i))).sum) ::
          (List.range 4).map (fun i => (order[i]?.map (fun k => word (24 + k))).getD 0)) (decide (order = []))) ∧
    (∀ (q : Access) (ray : List Word) (cull : Cull) (s1 : State) (x : Nat) (r v : Nat → ℚ), s.accs = [q] →
      q.stage = .ready → (s.team (s.uidOf q.ag)).stat = .running → s.unitBusy q.seq (s.placeOf q 0) = false → s.tiles = [] → q.op = .ttri ray cull →
      s.readVa q.ag q.id false .load q.ea 36 = (s1, .ok x) → ray.length = 8 →
      (∀ i < 8, (ray[i]?).bind (fun w => valueOf (xf w)) = some (r i)) →
      (∀ i < 9, valueOf (xf (BitVec.ofNat 32 (x / 2 ^ (32 * i)))) = some (v i)) →
      let dot := fun (y z : Nat → ℚ) => y 0 * z 0 + y 1 * z 1 + y 2 * z 2
      let cross := fun (y z : Nat → ℚ) (i : Nat) => y ((i + 1) % 3) * z ((i + 2) % 3) - y ((i + 2) % 3) * z ((i + 1) % 3)
      let corner := fun (k i : Nat) => v (3 * k + i) - r i
      let n := cross (fun i => v (3 + i) - v i) (fun i => v (6 + i) - v i)
      let dir := fun i => r (3 + i)
      let e0 := dot dir (cross (corner 1) (corner 2))
      let e1 := dot dir (cross (corner 2) (corner 0))
      let e2 := dot dir (cross (corner 0) (corner 1))
      let sum := e0 + e1 + e2
      let t := dot n (corner 0) / sum
      let hit := sum ≠ 0 ∧ (0 ≤ e0 ∧ 0 ≤ e1 ∧ 0 ≤ e2 ∨ e0 ≤ 0 ∧ e1 ≤ 0 ∧ e2 ≤ 0) ∧ r 6 ≤ t ∧ t ≤ r 7 ∧
        (cull = .cullb → sum < 0) ∧ (cull = .cullf → 0 < sum)
      (hit → ∃ y0 y1 y2, valueOf y0 = some t ∧ valueOf y1 = some (e1 / sum) ∧ valueOf y2 = some (e2 / sum) ∧
        ends s1 q [rfn y0, rfn y1, rfn y2, if 0 < sum then 3 else 1] false) ∧
      (¬ hit → ends s1 q [0x7F800000, 0, 0, 0] true)) ∧
    (∀ u g m l0 ls mm, s.tiles = [] → ls.head? = some l0 →
      let at' := Agent.thread u g
      let k := (s.team u).desc
      let base := (s.reg (at' l0) b).toNat
      let entry := fun l j => base + 4 * (j * k.gwidth + l)
      let low := if k.spans = true ∧ k.half ≤ base then k.half else 0
      let place := fun o => if o < k.half then (Space.sp, o) else (Space.psp, o - k.half)
      let dp := fun l => (s.reg (at' l) c).toNat
      let okAt := fun o => low ≤ o ∧ o + 4 ≤ low + k.half
      (∀ nz (n : BitVec 2), Signed s u g m (.spush h a b c mm nz n) ls →
        let vals := fun l => ((s.regRun (at' l) a (n.toNat + 1)).reverse).filter (fun w => !nz || w != 0)
        ((∀ l ∈ ls, dp l + (vals l).length ≤ 32 ∧ base % 4 = 0 ∧ ∀ i < (vals l).length, okAt (entry l (dp l + i))) →
          ∃ t, exec (.collectiveBody u g m) s = .next t ∧ ∀ l ∈ ls, t.park (at' l) = .run ∧
            t.pc (at' l) = nextPc (s.pc (at' l)) ∧ (c ≠ vz → t.reg (at' l) c = BitVec.ofNat 32 (dp l + (vals l).length)) ∧
            (∀ r, r ≠ c → t.reg (at' l) r = s.reg (at' l) r) ∧
            (t.accsOf (at' l)).map (fun q => (q.op, (q.space, q.ea), q.len, q.stage)) =
              (List.range (vals l).length).map (fun i => (.store ((vals l).getD i 0).toNat, place (entry l (dp l + i)), 4,
                .ready))) ∧
        (∀ l, ls = [l] → 32 < dp l + (vals l).length → exec (.collectiveBody u g m) s =
          .next ((marked s u g m).raiseSigned (at' l) ⟨0x1A, 0, 0⟩))) ∧
      (Signed s u g m (.spop h d b c mm) ls →
        ((∀ l ∈ ls, dp l ≤ 32 ∧ (0 < dp l → base % 4 = 0 ∧ okAt (entry l (dp l - 1)))) →
          ∃ t, exec (.collectiveBody u g m) s = .next t ∧ ∀ l ∈ ls, t.park (at' l) = .run ∧
            t.pc (at' l) = nextPc (s.pc (at' l)) ∧ (∀ r, t.reg (at' l) r = s.reg (at' l) r) ∧
            ∃ q : Access, t.accsOf (at' l) = [q] ∧ q.left = some h.la.toNat ∧
              (dp l = 0 → q.op = .known [0] ∧ q.dst = [d] ∧
                q.flags = if h.w then some ⟨false, true, false, false⟩ else none) ∧
              (0 < dp l → q.op = .pop (BitVec.ofNat 32 (dp l - 1)) ∧ q.dst = [d, c] ∧ q.len = 4 ∧ q.stage = .ready ∧
                (q.space, q.ea) = place (entry l (dp l - 1)))) ∧
        (∀ l, ls = [l] → 32 < dp l → exec (.collectiveBody u g m) s =
          .next ((marked s u g m).raiseSigned (at' l) ⟨0x1A, 0, 0⟩)))) ∧
    (∀ (q : Access) (dp : Word) (half : Bool), AtPort s q → q.op = .pop dp → q.len = 4 → q.ord = .plain →
      (∀ pa, s.placeOf q 0 ≠ .hbm pa) → s.poisoned (s.placeOf q 0) 4 = false →
      ((s.raceAt q (s.placeOf q 0) 4 false true).1 && !q.racy) = false →
      ∃ t y, exec (.portUpdate q.id half) s = .next t ∧ t.accs = [y] ∧ y.stage = .done ∧ y.dst = q.dst ∧
        y.vals = [BitVec.ofNat 32 (s.rawRead (s.placeOf q 0) 4), dp] ∧
        y.flags = (if q.w then some ⟨false, false, false, false⟩ else none) ∧ SameMemory s t)

/-! ## The sampler, and invalidations (chapters 12 and 17) -/

/-- R318, R322 to R325, R327, R328, R265: SAMP opens a request after the checks of its descriptor's address; its result is
the filtered texels with their status, or zeros, or SAMPLE_TABLE, with the first of DESC, PROT and TABLE that fails; the sampler counts
the request and, unless it fails, the texels that its filter names (log entry 95). A fill reads, in the context that asked for it, some of the words not yet read of the table, or the rest of them, and then keeps a sound table in at most 16 entries. SAMPINV and TLBINV drop what they name at once and wait for acknowledgement. -/
def Obligations.SamplesAndInvalidations : Prop :=
  ∀ (s : State) (ag : Agent) (h : Hdr) (d a b c : Reg) (filt : Filter),
    (Executes s ag (.samp h d a b c filt) →
      let i := Instr.samp h d a b c filt
      let ea := (s.reg64 ag a).toNat
      (2 ^ 57 < ea + 64 → exec i s = .next (s.raise ag i ⟨0x08, 0, BitVec.ofNat 64 ea⟩)) ∧
      (ea + 64 ≤ 2 ^ 57 → ea % 64 ≠ 0 → exec i s = .next (s.raise ag i ⟨0x09, 64, BitVec.ofNat 64 ea⟩)) ∧
      (ea + 64 ≤ 2 ^ 57 → ea % 64 = 0 → ∃ x : Access, exec i s = .next ((s.push x).advance ag) ∧ x.ag = ag ∧
        x.op = .samp (s.reg ag b) (s.reg ag (regAt b 1)) (s.reg ag c) filt ∧ x.dst = runOf d 5 ∧ x.space = .glob ∧
        x.ea = ea ∧ x.len = 64 ∧ x.stage = .issued ∧ x.left = some h.la.toNat ∧ x.w = h.w)) ∧
    (∀ (q : Access) (u v lam : Word) (s1 s2 s3 : State) (x : Nat) (cells : List Nat) (w : WTable) (half : Bool),
      s.accs = [q] → q.stage = .ready → (s.team (s.uidOf q.ag)).stat = .running → s.tiles = [] →
      s.unitBusy q.seq (s.placeOf q 0) = false →
      q.op = .samp u v lam filt → s.readVa q.ag q.id true .sampler q.ea 64 = (s1, .ok x) →
      let t := Tex.read x
      let p := t.plan filt u v lam
      let fails := fun (r : State) (st : Nat) => exec (.portUpdate q.id half) s =
        .next ((if nbit t.flags 3 then (r.tallySamp q true).trapAcc q 0x1B (BitVec.ofNat 64 st) (BitVec.ofNat 64 t.table)
          else (r.tallySamp q true).putAcc { q with
            stage := .done, vals := [0, 0, 0, 0, BitVec.ofNat 32 st],
            flags := if q.w then some ⟨false, false, false, false⟩ else none }).resume q.ag)
      let reads := s1.readMany q.ag q.id true .sampler (p.texels.map (fun e => (t.cell e.1 e.2.1 e.2.2, 8)))
      (t.ok = false → fails s1 2) ∧
      (t.ok = true → ∀ r y, reads = (s2, .bad r y) → fails s2 4) ∧
      (t.ok = true → reads = (s2, .ok cells) →
        (∀ r y, s2.getTable q.ag q.id t = (s3, .bad r y) → fails s3 4) ∧
        (s2.getTable q.ag q.id t = (s3, .ok w) → WTable.ok w = false → fails s3 1) ∧
        (s2.getTable q.ag q.id t = (s3, .ok w) → WTable.ok w = true →
          let ts := (p.texels.zip cells).map (fun e => w.texel (nbit t.flags 2) e.2 e.1.2.1 e.1.2.2)
          let st := if ∃ y ∈ ts, ∃ z ∈ y, xf z = .nan then 8 else 0
          exec (.portUpdate q.id half) s = .next (((s3.tallySamp q false).putAcc { q with
            stage := .done,
            vals := (List.range 4).map (fun k => p.filter filt (ts.map (fun y => y.getD k 0))) ++ [BitVec.ofNat 32 st],
            flags := if q.w then some ⟨false, decide (st = 0), false, false⟩ else none }).resume q.ag)))) ∧
    (∀ (t : Tex) (u v lam : Word) (x y z : ℚ), valueOf (xf u) = some x → valueOf (xf v) = some y → valueOf (xf lam) = some z →
      1 ≤ t.nlev →
      let top := max (min z ((t.nlev : ℚ) - 1)) 0
      let l := ⌊top⌋.toNat
      let idx := fun (wrap : Bool) (i : Int) (n : Nat) => if wrap then (i % n).toNat else (max 0 (min i (n - 1))).toNat
      let corner := fun l (e f : Int) => (l, idx (nbit t.flags 0) (⌊x * t.width l - 1 / 2⌋ + e) (t.width l),
        idx (nbit t.flags 1) (⌊y * t.height l - 1 / 2⌋ + f) (t.height l))
      let four := fun l => [corner l 0 0, corner l 1 0, corner l 0 1, corner l 1 1]
      (t.plan .near u v lam).texels = [(l, idx (nbit t.flags 0) ⌊x * t.width l⌋ (t.width l),
        idx (nbit t.flags 1) ⌊y * t.height l⌋ (t.height l))] ∧
      (t.plan .bil u v lam).texels = four l ∧
      (t.plan .tri u v lam).texels = four l ++ four (min (l + 1) (t.nlev - 1)) ∧
      ((t.plan .tri u v lam).fl : ℤ) = ⌊(top - l) * 256⌋ ∧
      ((t.plan .bil u v lam).fx0 : ℤ) = ⌊Int.fract (x * t.width l - 1 / 2) * 256⌋ ∧
      ((t.plan .bil u v lam).fy0 : ℤ) = ⌊Int.fract (y * t.height l - 1 / 2) * 256⌋) ∧
    (∀ (p : SampPlan) (t0 t1 t2 t3 : Word) (q : Nat → ℚ),
      (∀ i < 4, valueOf (xf ([t0, t1, t2, t3].getD i 0)) = some (q i)) → p.fx0 ≤ 256 → p.fy0 ≤ 256 →
      let fx := (p.fx0 : ℚ) / 256
      let fy := (p.fy0 : ℚ) / 256
      p.filter .near [t0] = t0 ∧ ∃ e : Nat → X, valueOf (e 0) = some ((1 - fx) * (1 - fy) * q 0) ∧
        valueOf (e 1) = some (fx * (1 - fy) * q 1) ∧ valueOf (e 2) = some ((1 - fx) * fy * q 2) ∧
        valueOf (e 3) = some (fx * fy * q 3) ∧
        p.filter .bil [t0, t1, t2, t3] = addf (addf (addf (rfn (e 0)) (rfn (e 1))) (rfn (e 2))) (rfn (e 3))) ∧
    (∀ (smp : Nat) (table : DWord) (gen : BitVec 16) (q : Access) (s1 : State) (x : Nat), smp < 96 → s.accs = [q] →
      s.wantsKey smp table gen q = true → (∀ e ∈ (s.pair smp).wcache, ¬ (e.table = table ∧ e.gen = gen)) →
      s.homeTable q.ag table.toNat = (s1, .ok x) → s1.pair smp = s.pair smp →
      let ctx := s.ctxNo (s.uidOf q.ag)
      let old := s.filledWords smp ctx table.toNat gen.toNat
      let word := fun i => x / 2 ^ (64 * i) % 2 ^ 64
      ∃ t, exec (.weightCacheFill smp table gen) s = .next t ∧
        ((s.pair smp).wcache.length ≤ 16 → (t.pair smp).wcache.length ≤ 16) ∧
        ((∃ w : WTable, (∀ i < 144, w.toNat / 2 ^ (64 * i) % 2 ^ 64 = aget (word i) old i % 2 ^ 64) ∧
            t.filledWords smp ctx table.toNat gen.toNat = [] ∧
            (WTable.ok w = true → ∃ e ∈ (t.pair smp).wcache, e.table = table ∧ e.gen = gen ∧ e.copy = w) ∧
            (WTable.ok w = false → (t.pair smp).wcache = (s.pair smp).wcache)) ∨
          ∃ new, new ≠ [] ∧ t.filledWords smp ctx table.toNat gen.toNat = old ++ new ∧
            (∀ p ∈ new, p.1 < 144 ∧ afind old p.1 = none ∧ p.2 = word p.1) ∧ (t.pair smp).wcache = (s.pair smp).wcache)) ∧
    (∀ adr dev, Executes s ag (.sampinv h adr dev) → Still s ag → s.tiles = [] →
      (s.det ag = true → exec (.sampinv h adr dev) s = .next ((s.releaseAction ag .dev).advance ag)) ∧
      (s.det ag = false → ∃ t, exec (.sampinv h adr dev) s = .next t ∧ t.park ag = .sampinv ∧ t.pc ag = s.pc ag ∧
        (∀ p, (t.pair p).wcache = if (if dev then p < 96 else p = s.coreOf ag / 2) then
            (s.pair p).wcache.filter (fun e => match adr with
              | some r => decide (e.table ≠ s.reg64 ag r)
              | none => false)
          else (s.pair p).wcache) ∧
        exec (.sampinvAcknowledgement ag) t = .next (t.advance ag))) ∧
    (∀ rng, Executes s ag (.tlbinv h rng) → Still s ag → s.tiles = [] →
      let i := Instr.tlbinv h rng
      let ctx := s.ctxNo (s.uidOf ag)
      let drops := fun (page : Nat → Prop) => ∃ t, exec i s = .next t ∧ t.park ag = .tlbinv ∧ t.pc ag = s.pc ag ∧
        (∀ k e, e ∈ (t.core k).tlb ↔ e ∈ (s.core k).tlb ∧ ¬ (e.ctx = ctx ∧ page e.vpn)) ∧
        (∀ k e, e ∈ (t.pair k).tlb2 ↔ e ∈ (s.pair k).tlb2 ∧ ¬ (e.ctx = ctx ∧ page e.vpn)) ∧
        exec (.tlbinvAcknowledgement ag) t = .next (t.advance ag)
      (rng = none → drops (fun _ => True)) ∧
      (∀ x y, rng = some (x, y) → let start := (s.reg64 ag x).toNat
        let n := (s.reg ag y).toNat
        (n = 0 → exec i s = .next (s.advance ag)) ∧
        (n ≠ 0 → 2 ^ 57 < start + n → exec i s = .next (s.raise ag i ⟨0x08, 0, BitVec.ofNat 64 start⟩)) ∧
        (n ≠ 0 → start + n ≤ 2 ^ 57 → drops (fun v => start / 4096 ≤ v ∧ v ≤ (start + n - 1) / 4096))))

/-! ## Copies (chapter 11) -/

/-- R229, R231, R232, R236 to R240, R242, R244: an accepted COPY takes a free slot, the lowest (log entry 38), raises its barrier's bytes and
promise, and the context goes on with the slot's number; a chunk is sent with the values of its elements, applied at its
ports, in the non-coherent host window by whole words (R370), and acknowledged with its credit; the last completes the copy, and a cause of Table 11-6 stops it at its chunk with
IDX and CHUNK written, zeros for the dimensions that the record does not have (log entry 42). The checks of the two records come
in the order of log entry 85, and their ALIGN has the size of log entry 39. CWAIT returns the status of a finished slot and frees
it. A context that waits in EXIT with nothing on its way ends. Outside deterministic mode and escrow, with one copy on its way on
its core. -/
def Obligations.CopiesMoveTheirElements : Prop :=
  ∀ (s : State) (core c n : Nat) (h : Hdr) (d a b : Reg), core < 192 →
    let ag := Agent.ctx core c
    let u := s.uidOf ag
    s.holds u = false → (s.launchOf ag).lr.escrow = false → (s.descOf ag).spans = false →
    (∀ (f : CopyF) (x y : Nat) (s1 s2 : State),
      let i := Instr.copy h d a b f
      let sa := if f.srs then (s.reg ag a).toNat else (s.reg64 ag a).toNat
      let da := if f.drs then (s.reg ag b).toNat else (s.reg64 ag b).toNat
      let j : CopyJob := ⟨IterRec.ofBytes sa f.srs x, IterRec.ofBytes da f.drs y, f, d⟩
      Executes s ag i →
      (∀ t, s.recordTrap ag f.srs sa = some t → exec i s = .next (s.raise ag i t)) ∧
      (∀ t, s.recordTrap ag f.srs sa = none → s.recordTrap ag f.drs da = some t → exec i s = .next (s.raise ag i t)) ∧
      (s.recordTrap ag f.srs sa = none → s.recordTrap ag f.drs da = none →
        s.readRecord ag f.srs sa = (s1, .ok x) → s1.readRecord ag f.drs da = (s2, .ok y) →
        (∀ t, s2.copyTrap ag j x y = some t → exec i s = .next (s2.raise ag i t)) ∧
        (s2.copyTrap ag j x y = none → Still s2 ag → s2.uidOf ag = u → s2.pc ag = s.pc ag → s2.tick = s.tick →
          (s2.descOf ag).spans = false → (∀ bar : BarNo, f.bar = some bar → s2.barAgents u bar.toNat = []) →
          (n < 16 → afind (s2.core core).slots n = none → (∀ k < n, afind (s2.core core).slots k ≠ none) →
            let level := fun (side : Bool) => let z := (if side then j.dst else j.src).space
              if z = 0 then 450 else if z = 1 then 24 else if z = 2 then 36 else if z = 8 then 24000
              else if z = 3 then j.level core side else 900
            let full := ((List.range j.chunks).filter (fun q => !(j.chunk q).isEmpty)).length
            let bytes := ((List.range j.chunks).map (fun q => (j.chunk q).length)).sum * j.src.esize
            ∃ t e, exec i s = .next t ∧ (t.core core).slots = (s2.core core).slots ++ [(n, e)] ∧ e.ctx = c ∧ e.uid = u ∧
              e.owned = true ∧ e.job = j ∧ e.next = 0 ∧ e.acked = 0 ∧ e.sent = [] ∧ e.stat = .sending ∧
              t.pc ag = nextPc (s.pc ag) ∧ t.park ag = .run ∧ (d ≠ vz → t.reg ag d = BitVec.ofNat 32 n) ∧
              (∀ bar : BarNo, f.bar = some bar → let v := s2.bar u bar.toNat
                v.psn = false → v.arr ≠ 0 → v.tx + bytes < 2 ^ 31 → -(2 ^ 31) ≤ v.tx →
                t.bar u bar.toNat = { v with
                  tx := v.tx + (if f.exp then bytes else 0)
                  prom := max v.prom ((s.tick + level false + level true + 4 * full) % 2 ^ 64) })) ∧
          ((∀ k < 16, ∃ e, afind (s2.core core).slots k = some e ∧ ∀ st, e.stat ≠ .finished st) →
            (∀ e ∈ (s2.core core).slots, ∀ st, e.2.stat ≠ .finished st) →
            exec i s = .next (s2.parkOn ag (.copySlot j)))))) ∧
    (Executes s ag (.cwait h d a) → Still s ag → (∀ k j, (s.bctx core k).park ≠ .copySlot j) →
      let k := (s.reg ag a).toNat % 16
      let gets := fun (st : Nat) => ∃ t, exec (.cwait h d a) s = .next t ∧ t.pc ag = nextPc (s.pc ag) ∧ t.park ag = .run ∧
        (d ≠ vz → t.reg ag d = BitVec.ofNat 32 st) ∧
        t.cc ag = (if h.w then ⟨false, decide (st = 0), false, false⟩ else s.cc ag) ∧
        t.slot? core k = if st = 0x80 then s.slot? core k else none
      (∀ e, s.slot? core k = some e → e.ctx = c → e.owned = true →
        (∀ st, e.stat = .finished st → st < 5 → gets st) ∧
        ((∀ st, e.stat ≠ .finished st) → exec (.cwait h d a) s = .next (s.parkOn ag (.cwait k d h.w)))) ∧
      ((∀ e, s.slot? core k = some e → e.ctx ≠ c ∨ e.owned = false) → gets 0x80)) ∧
    (∀ e : CopySlot, n < 16 → s.slot? core n = some e → (s.core core).slots = [(n, e)] → e.uid = u → e.ctx = c →
      e.owned = true → e.halted = false → (∀ k j, (s.bctx core k).park ≠ .copySlot j) → s.park ag = .run → s.accs = [] →
      let j := e.job
      let z := j.src.esize
      let es := j.chunk e.next
      let local' := j.src.space ∈ [0, 1, 2, 3] ∧ j.dst.space ∈ [0, 1, 2, 3]
      (∀ s1 ps, e.stat = .sending → e.next < j.chunks → local' → s.copySpots core u j es = (s1, .ok ps) →
        (∀ p ∈ ps, ∀ l, p.1 = some (Spot.at l) → s1.poisoned l z = false) →
        ∃ t ch, exec (.copyChunkSend core n) s = .next t ∧
          t.slot? core n = some { e with next := e.next + 1, idx := e.next + 1, sent := e.sent ++ [ch] } ∧
          ch.chunk = e.next ∧ ch.bytes = es.length * z ∧ ch.net = none ∧ ch.left.length = ps.length ∧
          ∀ (k : Nat) (p : Option Spot × Spot) (l : Loc), ps[k]? = some p → p.2 = .at l → ch.left[k]? = some (Held.of l z (CopyF.portOp j.f) (match p.1 with
            | some (.at q) => s1.rawRead q z
            | _ => j.src.pad % 2 ^ (8 * z)))) ∧
      (∀ s1 st, e.stat = .sending → e.next < j.chunks → e.sent = [] → Canonical s → j.dst.inSp = true →
        (∀ v ∈ j.src.box, v < 2 ^ 32) →
        s.copySpots core u j es = (s1, .stop st) → st < 4 →
        ∃ t f, exec (.copyChunkSend core n) s = .next t ∧ t.slot? core n = some f ∧ f.stat = .finished st ∧
          (∀ bar : BarNo, j.f.bar = some bar → (t.bar u bar.toNat).psn = true) ∧
          let rec' := t.rawRead (.scr u (decide (core ≠ (s.team u).core)) (j.dst.addr + 0x68)) 24
          (∀ k < 5, rec' / 2 ^ (32 * k) % 2 ^ 32 = (if k < j.dst.rank then (j.first e.next).getD k 0 else 0) % 2 ^ 32) ∧
            rec' / 2 ^ 160 % 2 ^ 32 = e.acked % 2 ^ 32) ∧
      (∀ s1 va, e.stat = .sending → e.next < j.chunks → e.sent = [] → s.copySpots core u j es = (s1, .missing va) →
        ∃ t k, exec (.copyChunkSend core n) s = .next t ∧
          t.slot? core n = some { e with stat := .held (dieOf core) k, idx := e.next } ∧
          ∃ f ∈ (t.die (dieOf core)).faults ++ (t.die (dieOf core)).waiting, f.num = k ∧ f.va / 4096 = va / 4096) ∧
      (∀ ch w rest half, e.sent = [ch] → ch.left = w :: rest → ch.whole = false → (∀ x ∈ ch.left, x.ret = none) →
        Canonical s → s.poisoned w.loc w.n = false → (∀ k ∈ s.cores, k.1 ≠ core → k.2.slots = []) → (akeys s.cores).Nodup →
        (∀ q, w.loc = .host q false → w.op ≠ .write → q % 8 + w.n ≤ 8 →
          let o := q % 8
          let word := s.rawRead (.host (q / 8 * 8) false) 8
          let part := fun (x : Nat) => x / 2 ^ (8 * o) % 2 ^ (8 * w.n)
          ∃ t x, exec (.portUpdate ch.id half) s = .next t ∧ SameMemory s t ∧ x.loc = .host (q / 8 * 8) false ∧ x.n = 8 ∧
            t.slot? core n = some { e with sent := [{ ch with left := x :: rest }] } ∧
            part x.data = w.op.apply w.n (part word) w.data % 2 ^ (8 * w.n) ∧
            (∀ i < 8, i < o ∨ o + w.n ≤ i → x.data / 256 ^ i % 256 = word / 256 ^ i % 256) ∧
            ∀ hm, Memory.wf hm = true → ∃ v, exec (.portUpdate ch.id half) { t with host := hm } = .next v ∧
              v.rawRead x.loc 8 = x.data % 2 ^ 64 ∧ v.slot? core n = some { e with sent := [{ ch with left := rest }] }) ∧
        ((∀ q, w.loc = .host q false → w.op = .write) → present w.loc w.n → ∃ t, exec (.portUpdate ch.id half) s = .next t ∧
          t.rawRead w.loc w.n = (match w.op with
            | .cas x => if s.rawRead w.loc w.n = x % 2 ^ (8 * w.n) then w.data else s.rawRead w.loc w.n
            | op => op.apply w.n (s.rawRead w.loc w.n) w.data) % 2 ^ (8 * w.n) ∧
          t.slot? core n = some { e with sent := [{ ch with left := rest }] })) ∧
      (∀ ch, e.sent = [ch] → ch.left = [] → ch.net = none → e.stat = .sending →
        (e.next < j.chunks → (∀ bar : BarNo, j.f.bar = some bar → (s.bar u bar.toNat).arr ≠ 0 ∧
            (s.bar u bar.toNat).psn = false ∧ -(2 ^ 31) ≤ (s.bar u bar.toNat).tx - ch.bytes ∧
            (s.bar u bar.toNat).tx < 2 ^ 31) →
          ∃ t, exec (.copyChunkAck core n ch.chunk) s = .next t ∧
            t.slot? core n = some { e with sent := [], acked := e.acked + 1 } ∧
            ∀ bar : BarNo, j.f.bar = some bar → (t.bar u bar.toNat).tx = (s.bar u bar.toNat).tx - ch.bytes) ∧
        (j.chunks ≤ e.next → (∀ bar : BarNo, j.f.bar = some bar → s.barAgents u bar.toNat = []) →
          ∃ t f, exec (.copyChunkAck core n ch.chunk) s = .next t ∧ t.slot? core n = some f ∧ f.stat = .finished 0 ∧
            f.sent = [] ∧
            ∀ bar : BarNo, j.f.bar = some bar → let v := s.bar u bar.toNat
              v.psn = false → v.arr = 1 → j.f.arv = true → v.tx = ch.bytes → v.tx < 2 ^ 31 →
              (t.bar u bar.toNat).phase = (!v.phase) ∧ (t.bar u bar.toNat).arr = v.n))) ∧
    (c < 4 → (∀ k < 4, k ≠ c → ∀ x, (s.bctx core k).park ≠ .ending x) → (s.bctx core c).park = .ending false → Still s ag →
      s.tiles = [] → (∀ t ∈ s.teams, ∀ g ∈ t.2.groups, ∀ l ∈ g.2.threads,
        (∀ q, l.2.park ≠ .rdv q) ∧ ∀ i q x, l.2.park ≠ .stall i q x) →
      ∃ t, exec (.bursarExit core) s = .next t ∧ (t.bctx core c).run = .ended)

/-! ## Shadow rays and the outputs of a draw's kernels (chapter 18) -/

/-- R339 to R342, R345, R347, R351: SHRAY enters a ray into its core's queue, or stalls while the queue is full; the walker, created
for the first ray and retired when no contribution is left, drops an occluded ray and applies an unoccluded one's contribution at its target, as one update when it lies in one aligned
64-byte block: which rays are under way, and in what order, is log entry 58. EMIT.payload publishes the next slot of the ring, once it is
free, in its payload area (log entry 19), and the size of its ALIGN is log entry 39; EMIT.vertex, EMIT.prim and EMIT.colour
record what a mesh group or a pixel thread puts out. One agent, outside deterministic mode and escrow. -/
def Obligations.ShadowRaysAndKernelOutputs : Prop :=
  ∀ (s : State) (ag : Agent) (h : Hdr) (d a b c : Reg),
    let u := s.uidOf ag
    let core := s.coreOf ag
    let on := fun (t : State) => t.pc ag = nextPc (s.pc ag) ∧ t.park ag = .run
    s.park ag = .run → NoMeeting s ag →
    (∀ fx, let i := Instr.shray h d a b c fx
      let root := (s.reg64 ag d).toNat
      let tgt := (s.reg64 ag c).toNat
      let e := if fx then 8 else 4
      let ray : Ray := ⟨core, (s.team u).launch, u, root, s.regRun ag a 8, s.regRun ag b 3, tgt, fx, false, none, false, 0⟩
      let clear := (s.det ag = false ∨ fx = true) ∧ root + 128 ≤ 2 ^ 57 ∧ tgt + 3 * e ≤ 2 ^ 57 ∧ root % 128 = 0 ∧ tgt % e = 0
      Executes s ag i →
      (s.det ag = true → fx = false → exec i s = .next (s.raise ag i ⟨0x0F, 0, 0⟩)) ∧
      ((s.det ag = false ∨ fx = true) → 2 ^ 57 < root + 128 →
        exec i s = .next (s.raise ag i ⟨0x08, 0, BitVec.ofNat 64 root⟩)) ∧
      ((s.det ag = false ∨ fx = true) → root + 128 ≤ 2 ^ 57 → 2 ^ 57 < tgt + 3 * e →
        exec i s = .next (s.raise ag i ⟨0x08, 0, BitVec.ofNat 64 tgt⟩)) ∧
      (clear → s.holds u = false → (s.core core).queued < 256 → ∃ t, exec i s = .next t ∧ on t ∧
        (t.core core).rays = (s.core core).rays ++ [ray] ∧ (∀ r, t.reg ag r = s.reg ag r)) ∧
      (clear → s.holds u = false → 256 ≤ (s.core core).queued →
        exec i s = .next (s.setPark ag (.stall i s.nextSeq false))) ∧
      (clear → s.holds u = true → ∃ t, exec i s = .next t ∧ on t ∧ (t.team u).rays = (s.team u).rays ++ [ray] ∧
        ∀ k, (t.core k).rays = (s.core k).rays)) ∧
    (∀ k, k < 192 → (s.core k).rays = [] → (s.core k).walker ≠ none → s.rayComes = false →
      exec (.walkerRay k) s = .next (s.setCore k { s.core k with walker := none })) ∧
    (∀ (k : Nat) (r : Ray) (rest : List Ray), k < 192 → (s.core k).rays = r :: rest → (s.core k).walker = none →
      exec (.walkerRay k) s = .next (s.makeWalker k r.launch)) ∧
    (∀ (k : Nat) (r : Ray) (rest : List Ray), k < 192 → (s.core k).rays = r :: rest → r.held = none →
      (s.core k).walker ≠ none → (r.taken = true ∨ (rest.filter (fun x => x.taken)).length < 64) →
      (∀ t ∈ s.teams, ∀ g ∈ t.2.groups, ∀ l ∈ g.2.threads, ∀ i q x, l.2.park ≠ .stall i q x) →
      let e := if r.fx then 8 else 4
      let clipped := fun (p : State × Got Bool) => s.occluded k (s.launch r.launch).ctx r.uid r.ray (2 ^ 64) [(2 ^ 30, r.root, 0)] = p
      (∀ s1, r.lit = false → clipped (s1, .ok true) → (s1.core k).rays = r :: rest →
        ∃ t, exec (.walkerRay k) s = .next t ∧ (t.core k).rays = rest ∧ SameMemory s1 t) ∧
      (∀ s0 s1 pa, (r.lit = true ∧ s0 = s ∨ r.lit = false ∧ clipped (s0, .ok false)) → (s0.core k).rays = r :: rest →
        Canonical s0 → r.target / 64 = (r.target + 3 * e - 1) / 64 →
        s0.translate k (s0.launch r.launch).ctx r.target .write = (s1, .pa pa) → (s1.core k).rays = r :: rest →
        let s2 := s1.l1Flush k pa
        (∀ j < 3, s2.poisoned (.hbm (pa + j * e)) e = false) → present (.hbm pa) (3 * e) →
        ∃ t, exec (.walkerRay k) s = .next t ∧ (t.core k).rays = rest ∧
          (∀ j < 3, let old := s2.rawRead (.hbm (pa + j * e)) e
            let v := r.contrib.getD j 0
            t.rawRead (.hbm (pa + j * e)) e = (if r.fx then old + (roundFix 64 true 32 (xf v) .rn 0).bits else
              (addf (BitVec.ofNat 32 old) v).toNat) % 2 ^ (8 * e)) ∧
          ∀ l, (∀ j < 3 * e, bare l ≠ .hbm (pa + j)) → byteAt t l = byteAt s2 l)) ∧
    (let i := Instr.emitPayload h d a b c
      let o := (s.reg ag a).toNat
      let n := (s.reg ag b).toNat
      let g := (s.reg ag c).toNat
      let half := (s.descOf ag).half
      let k := s.core core
      let l := (s.team u).launch
      let out := g ≠ 0 ∧ g ≤ 1024 ∧ n ≤ 16384 ∧ o + n ≤ half ∧ o % 4 = 0 ∧ n % 4 = 0
      Executes s ag i → Still s ag → s.tiles = [] →
      (g = 0 → ∃ t, exec i s = .next t ∧ on t ∧ (d ≠ vz → t.reg ag d = 0xFFFFFFFF) ∧ (t.core core).ring = k.ring) ∧
      (g ≠ 0 → (1024 < g ∨ 16384 < n ∨ half < o + n) → exec i s = .next (s.raise ag i ⟨0x08, 1, BitVec.ofNat 64 o⟩)) ∧
      (g ≠ 0 → g ≤ 1024 → n ≤ 16384 → o + n ≤ half → ¬ (o % 4 = 0 ∧ n % 4 = 0) →
        exec i s = .next (s.raise ag i ⟨0x09, 4, BitVec.ofNat 64 o⟩)) ∧
      (out → (k.slotOf k.ringNext).busy = true → exec i s = .next (s.setPark ag (.stall i s.nextSeq false))) ∧
      (out → (k.slotOf k.ringNext).busy = false → s.holds u = false → Canonical s →
        ∃ t, exec i s = .next t ∧ on t ∧ (d ≠ vz → t.reg ag d = BitVec.ofNat 32 k.ringNext) ∧
          (∀ r, r ≠ d → t.reg ag r = s.reg ag r) ∧ (t.core core).ringNext = (k.ringNext + 1) % 4 ∧
          (t.core core).slotOf k.ringNext = ⟨true, l, u, n, g, (s.launch l).meshTotal, 0, 0⟩ ∧
          (t.launch l).meshTotal = (s.launch l).meshTotal + g ∧
          t.vault.read (payloadArea core k.ringNext) n = ((s.team u).half (s.side ag .sp)).read o n)) ∧
    (∀ w g l, ag = .thread w g l →
      let at' := (s.reg ag a).toNat
      let kept := fun (t : State) => on t ∧ (∀ r, t.reg ag r = s.reg ag r) ∧ SameMemory s t
      (Executes s ag (.emitVertex h a b c) →
        (95 < at' → exec (.emitVertex h a b c) s = .next (s.raise ag (.emitVertex h a b c) ⟨0x08, 0, BitVec.ofNat 64 at'⟩)) ∧
        (at' ≤ 95 → ∃ t, exec (.emitVertex h a b c) s = .next t ∧ kept t ∧ (t.grp w g).prims = (s.grp w g).prims ∧
          ∀ k, afind (t.grp w g).verts k = if k = at' then some (s.regRun ag b 4 ++ s.regRun ag c 4) else
            afind (s.grp w g).verts k)) ∧
      (Executes s ag (.emitPrim h a b) →
        (159 < at' → exec (.emitPrim h a b) s = .next (s.raise ag (.emitPrim h a b) ⟨0x08, 0, BitVec.ofNat 64 at'⟩)) ∧
        (at' ≤ 159 → ∃ t, exec (.emitPrim h a b) s = .next t ∧ kept t ∧ (t.grp w g).verts = (s.grp w g).verts ∧
          ∀ k, afind (t.grp w g).prims k = if k = at' then some (s.reg ag b) else afind (s.grp w g).prims k)) ∧
      (Executes s ag (.emitColour h a) → ∃ t, exec (.emitColour h a) s = .next t ∧ kept t ∧
        (t.thr w g l).out = some (s.regRun ag a 4)))

/-! ## The stages of a draw (chapter 18) -/

/-- R345 to R352: the published slots start their mesh groups in the order of the ring, each its own in order, with the payload
(log entry 19), and a slot is free once they have passed their
primitives on; setup takes the retired mesh group of lowest TEAMID, puts its primitives into raster order in screen
coordinates, binned into the tiles where they cover a sample; a pair starts pixel groups of up to four quads and holds their
tile; a tile is flushed to the addresses of Table 18-7, held again once primitives have arrived, and written at the end of a
pass. The lanes of a pixel group's quads are log entry 22, the moment at which a tile is loaded log entry 37, and that its team's
core is the even one of the pair log entry 81. -/
def Obligations.StagesOfADraw : Prop :=
  ∀ (s : State) (l core slot pair : Nat) (d : DrawInfo), core < 192 → slot < 4 → pair < 96 →
    (let r := (s.core core).slotOf slot
     let k := s.launch r.launch
     let n := s.nextUid
     r.busy = true → k.draw = some d → k.lr.escrow = false →
      (∀ p, r.started < r.count → s.nextSlotOf core = some slot → s.admitsNew k = true →
        s.unitBad k.ctx d.mesh.coefAddr 8192 = none →
        s.fits r.launch d.mesh .mesh core [[core]] (s.image k.ctx d.mesh) = some [p] →
        ∃ t, exec (.meshGroupStart core slot) s = .next t ∧ (t.core core).slotOf slot = { r with started := r.started + 1 } ∧
          (t.team n).launch = r.launch ∧ (t.team n).teamid = r.base + r.started ∧ (t.team n).stage = .mesh ∧
          (t.team n).core = core ∧ (t.team n).stat = .running ∧ (t.team n).payload = some (payloadArea core slot, r.size) ∧
          (t.core core).coef = s.image k.ctx d.mesh ∧ (t.grp n 0).slot = p.slot ∧ (t.grp n 0).part = p.part ∧
          ∀ i < d.mesh.gwidth, (t.thr n 0 i).exited = false ∧ (t.thr n 0 i).pc = d.mesh.entry ∧
            (t.thr n 0 i).park = .run) ∧
      (r.done < r.count → exec (.taskSlotFree core slot) s = .next s) ∧
      (r.count ≤ r.done → (∀ t ∈ s.teams, ∀ g ∈ t.2.groups, ∀ x ∈ g.2.threads, ∀ i q y, x.2.park ≠ .stall i q y) →
        ∃ t, exec (.taskSlotFree core slot) s = .next t ∧ (t.core core).slotOf slot = .free ∧
          ∀ q, q ≠ slot → (t.core core).slotOf q = (s.core core).slotOf q)) ∧
    (let k := s.launch l
     ∀ m, k.draw = some d → k.ended = false → s.meshDone? l = some m →
        ∃ t, ∃ new : List Prim, exec (.primitiveSetup l) s = .next t ∧ (t.launch l).passed = k.passed ++ [m.teamid] ∧
          (t.launch l).prims = new.foldl insertPrim k.prims ∧ (k.prims.Pairwise (fun a b => a.order ≤ b.order) →
            (t.launch l).prims.Pairwise (fun a b => a.order ≤ b.order)) ∧
          (∀ p ∈ new, p.teamid = m.teamid ∧ p.order = 160 * m.teamid + p.index ∧ p.tiles ≠ [] ∧
            ∀ x ∈ p.tiles, p.touches d.pass x.1 x.2 = true) ∧
          new.map (fun p => p.index) = (List.range 160).filter (fun i => ((afind (m.grp 0).prims i).bind (fun w =>
            setupPrim d.pass (m.grp 0).verts m.teamid i w)).isSome) ∧
          ∀ c q, let r := (s.core c).slotOf q
            (t.core c).slotOf q = (if r.covers l m.teamid then { r with done := r.done + 1 } else r)) ∧
    (∀ (p : PassDesc) (v : List Word) (x y z w : ℚ), valueOf (xf (v.getD 0 0)) = some x → valueOf (xf (v.getD 1 0)) = some y →
      valueOf (xf (v.getD 2 0)) = some z → valueOf (xf (v.getD 3 0)) = some w →
      (w ≤ 0 → setupVertex p v = none) ∧
      (0 < w → ∃ ex ey ez, valueOf ex = some (x / w) ∧ valueOf ey = some (y / w) ∧ valueOf ez = some (z / w) ∧
        ∀ qx qy qz, valueOf (xf (rfn ex)) = some qx → valueOf (xf (rfn ey)) = some qy → valueOf (xf (rfn ez)) = some qz →
          ∃ q, setupVertex p v = some q ∧ q.z = rfn ez ∧ q.attr = v.drop 4 ∧
            |(q.x : ℚ) - (qx / 2 + 1 / 2) * p.width * 256| ≤ 1 / 2 ∧
            |(q.y : ℚ) - (qy / 2 + 1 / 2) * p.height * 256| ≤ 1 / 2)) ∧
    (∀ (p : Prim) (a b c : Word) (x y : Int) (va vb vc : ℚ), valueOf (xf a) = some va → valueOf (xf b) = some vb →
      valueOf (xf c) = some vc →
      let area := areaOf p.v0 p.v1 p.v2
      let w := fun (i j : SetVert) => (edgeAt i j x y : ℚ)
      area ≠ 0 → ∃ e, valueOf e =
          some ((w p.v1 p.v2 * va + w p.v2 p.v0 * vb + w p.v0 p.v1 * vc) / area) ∧ p.interp x y a b c = rfn e) ∧
    (∀ k p tx ty sp, s.launches = [(l, k)] → s.admitsNew k = true → k.draw = some d → k.lr.escrow = false →
      s.nextTile? l pair d.pass k.prims [] = some (p, tx, ty) →
      let qs := s.tileWork k d p tx ty
      let n := s.nextUid
      (qs = [] → exec (.pixelGroupStart pair) s = .next (s.setLaunch l (k.putPrim (p.take tx ty [])))) ∧
      (qs ≠ [] → s.unitBad k.ctx d.pixelDesc.coefAddr 8192 = none → s.targetBad k.ctx d.pass tx ty = none →
        s.fits l d.pixelDesc .pixel (2 * pair) [[2 * pair]] (s.image k.ctx d.pixelDesc) = some [sp] →
        ∃ t, exec (.pixelGroupStart pair) s = .next t ∧ (t.team n).launch = l ∧ (t.team n).stage = .pixel ∧
          (t.team n).core = 2 * pair ∧ (t.team n).stat = .running ∧ (t.grp n 0).quad = some (p.order, tx, ty) ∧
          (t.launch l).prims = (k.putPrim (p.take tx ty (qs.drop 4))).prims ∧
          (∃ b ∈ (t.pair pair).tiles, b.isFor k.ctx d.pass tx ty = true) ∧
          ∀ j < 4, ∀ i < 4, ∀ x y ms, qs[j]? = some (x, y, ms) →
            let ag := Agent.thread n 0 (4 * j + i)
            let q := t.thr n 0 (4 * j + i)
            q.exited = false ∧ q.pc = d.pixel.entry ∧ q.cover = BitVec.ofNat 4 (ms.getD i 0) ∧
              t.reg ag 0 = BitVec.ofNat 32 (x + i % 2) ∧ t.reg ag 1 = BitVec.ofNat 32 (y + i / 2) ∧
              t.reg ag 2 = BitVec.ofNat 32 (ms.getD i 0) ∧ t.reg ag 7 = BitVec.ofNat 32 p.index ∧
              t.reg ag 8 = BitVec.ofNat 32 p.teamid ∧
              ∀ m < 4, t.reg ag (BitVec.ofNat _ (3 + m)) = p.attr (x + i % 2) (y + i / 2) m)) ∧
    (∀ (b : TileBuf) (tx ty : Nat), s.passOf l = some (b.ctx, b.pass) →
      ((s.pair pair).tiles = [b] → tx = b.tx → ty = b.ty →
        ∃ t, exec (.tileFlush pair l tx ty) s = .next t ∧ (t.pair pair).tiles = [] ∧ t.hbm = (s.writeTile b).hbm) ∧
      (pairOfTile b.pass tx ty = pair → (s.pair pair).tiles = [] →
        ((∀ p ∈ (s.launch l).prims, p.hasWork tx ty = false) → exec (.tileReload pair l tx ty) s = .next s) ∧
        ((∃ p ∈ (s.launch l).prims, p.hasWork tx ty = true) → s.targetBad b.ctx b.pass tx ty = none →
          ∃ t, exec (.tileReload pair l tx ty) s = .next t ∧ (t.pair pair).tiles = [s.loadTile b.ctx b.pass tx ty] ∧
            ∀ x y k, x / 32 = tx → y / 32 = ty → k < 4 → t.storedDepth b.ctx b.pass x y k =
              BitVec.ofNat 32 (s.unitRead b.ctx (b.pass.zbase + 16 * (y * b.pass.width + x) + 4 * k) 4)))) ∧
    (∀ (b : TileBuf) (x y k : Nat) (rgba : List Word) (z : Word), x < 32 → y < 32 → k < 4 →
      b.colour = [(4 * (32 * y + x) + k, rgba)] → b.depth = [(4 * (32 * y + x) + k, z)] →
      let at' := (32 * b.ty + y) * b.pass.width + 32 * b.tx + x
      s.writeTile b = (s.unitWrite b.ctx (b.pass.cbase + 64 * at' + 16 * k) 16 (ofWords rgba)).unitWrite b.ctx
        (b.pass.zbase + 16 * at' + 4 * k) 4 z.toNat) ∧
    (∀ ctx va x e w, Canonical s → va < 2 ^ 57 → walkFrom s [] ctx va 4 (s.ctx ctx).ptroot.toNat = (.ok e, w) → e.r = true →
      e.w = true → present (.hbm (e.ppn * 4096 + va % 4096)) 1 →
        WritesOnly s (s.unitWrite ctx va 1 x) (.hbm (e.ppn * 4096 + va % 4096)) 1 (x % 256)) ∧
    (let k := s.launch l
     k.draw = some d → k.lr.passend = true → k.flushed = false → k.complete = false →
      (s.workOver l = false → exec (.passEndWrite l) s = .next s) ∧
      (s.workOver l = true → ∃ t, exec (.passEndWrite l) s = .next t ∧ (t.launch l).flushed = true ∧
        ∀ n < 96, ∀ b ∈ (t.pair n).tiles, b.isFor k.ctx d.pass b.tx b.ty = false))

/-! ## Queues and launches (chapter 22) -/

/-- R263, R378 to R380, R383, R384, R388: what each packet at QRD does once it is read and well formed, what a malformed
packet and a refused launch do, a LAUNCH that waits, with what has been read of it kept, a held FENCE, which holds the parser,
and the earliest SIGNAL, the doorbell, EN and HALT. QWR taken modulo QSIZE and the waits of the front end are log entry 45, and
that HALT is cleared by a bit of 0 is log entry 55. A packet that would consume a poisoned word is a machine check charged to no
team (R189, R410). LAUNCH submits a checked
child, keeps it for its team's commit in deterministic mode, and traps with the reason when the child is refused. -/
def Obligations.QueuesParseAndLaunch : Prop :=
  ∀ (s : State) (q : Nat), q < 64 →
    let k := s.queue q
    let ctx := k.ctx.toNat
    let ready := (k.en = true ∧ s.mgmt.pwrReq.toNat < 2 ∨ k.pkt ≠ none) ∧ k.halt = false ∧
      k.rd.toNat % k.size.toNat ≠ k.wr.toNat % k.size.toNat ∧ s.mgmt.boot = 1 ∧ s.dbg.frozen = false
    let reads := fun (x : Nat) => ready ∧ k.wait = none ∧ k.hold = [] ∧ (k.pkt = some x ∨ k.pkt = none ∧
      s.frontRead ctx k.deny (k.base.toNat + 64 * (k.rd.toNat % k.size.toNat)) 64 = .ok x)
    let has := fun (rec' : Nat) (y : Reads) => k.reads = some y ∨ k.reads = none ∧ s.frontRead ctx k.deny rec' 64 = .ok y.rec' ∧
      y.block = none ∧ y.pass = none
    let next := BitVec.ofNat 32 ((k.rd.toNat + 1) % k.size.toNat)
    let passed := fun (t : State) => (t.queue q).rd = next ∧ (t.queue q).wait = none ∧ (t.queue q).deny = none ∧
      (t.queue q).pkt = none ∧ (t.queue q).reads = none
    let id := BitVec.ofNat 32 (q * 2 ^ 24 + k.count % 2 ^ 24)
    let counter := fun (v : State) (i x : Nat) => let at' := k.ctrBase.toNat + 4 * i
      v.unitWrite ctx at' 4 ((v.unitRead ctx at' 4 + x) % 2 ^ 32)
    let met := fun (es : List (Nat × Nat)) => ∀ e ∈ es,
      (((s.unitRead ctx (k.ctrBase.toNat + 4 * e.1) 4 : ℤ) - e.2) % 2 ^ 20) < 2 ^ 19
    let record := fun (i : Word) (kind reason : Nat) => (s.setQueue q { k with halt := true, deny := none }).unitWrite ctx k.errBase.toNat 64
      (i.toNat + 2 ^ 32 * kind + 2 ^ 40 * reason)
    let parts := [Instr.launchPacket q, .fencePacket q, .signalPacket q]
    (¬ ready → ∀ i ∈ parts, exec i s = .next s) ∧
    (ready → k.hold ≠ [] → ∀ i ∈ parts, exec i s = .next s) ∧
    (∀ pa, ready → k.wait = none → k.hold = [] → k.pkt = none →
      s.frontRead ctx k.deny (k.base.toNat + 64 * (k.rd.toNat % k.size.toNat)) 64 = .poison pa →
      ∀ i ∈ parts, exec i s = .next (s.unitCheck (homeDie pa) 0 pa)) ∧
    (∀ x, reads x → (x % 256 = 0 ∨ 4 ≤ x % 256) → ∀ i ∈ parts, exec i s = .next (record 0 6 0)) ∧
    (∀ rec', rec' < 2 ^ 64 → reads (1 + 2 ^ 64 * rec') →
      let pkt := 1 + 2 ^ 64 * rec'
      let refused := fun (r : Nat) (add : State → State) => ∃ v, exec (.launchPacket q) s = .next (add v) ∧ passed v ∧
        (v.queue q).halt = true ∧ (v.queue q).count = k.count + 1 ∧ v.hbm = (record id 1 r).hbm
      let waits := fun (y : Option Reads) => ∃ t n, exec (.launchPacket q) s = .next t ∧ (t.queue q).wait = some (0, n) ∧
        (t.queue q).rd = k.rd ∧ (t.queue q).pkt = some pkt ∧ (t.queue q).reads = y
      (rec' % 64 ≠ 0 → exec (.launchPacket q) s = .next (record 0 6 0)) ∧
      (rec' % 64 = 0 → k.reads = none → (s.frontRead ctx k.deny rec' 64 = .bad → refused 5 (fun v => v)) ∧
        ∀ va, s.frontRead ctx k.deny rec' 64 = .missing va → waits none) ∧
      (∀ y, rec' % 64 = 0 → has rec' y →
        (∀ kid kept, s.checkLaunch ctx k.deny y false (k.prio.toNat % 4) = .ok kid kept →
          (bitf y.rec' 424 8 / 8 % 2 = 1 → s.lastDone q = false → exec (.launchPacket q) s =
            .next (s.setQueue q { k with pkt := some pkt, reads := some kept, deny := none })) ∧
          ((bitf y.rec' 424 8 / 8 % 2 = 0 ∨ s.lastDone q = true) → s.stampBad ctx kid = none → ∃ t, exec (.launchPacket q) s = .next t ∧ passed t ∧
            (t.queue q).count = k.count + 1 ∧
            let n := t.launch s.nextLaunch
            n.launchid = id ∧ n.queue = q ∧ n.parent = none ∧ n.ctx = ctx ∧ n.priv = k.priv ∧ n.lr = kid.lr ∧
              n.desc = kid.desc ∧ n.draw = kid.draw ∧ n.next = 0 ∧ n.ended = false ∧ n.complete = false)) ∧
        (∀ r, s.checkLaunch ctx k.deny y false (k.prio.toNat % 4) = .refuse r → s.hbmBad = [] →
          refused r (fun v => if bitf y.rec' 448 16 ≤ 4095 then counter v (bitf y.rec' 448 16) 1 else v)) ∧
        (∀ va kept, s.checkLaunch ctx k.deny y false (k.prio.toNat % 4) = .missing va kept → waits (some kept)))) ∧
    (∀ x, reads x → packetBad x = false → x % 256 = 2 → s.hbmBad = [] →
      let es := (List.range (x / 2 ^ 8 % 2 ^ 8)).map (fun j => (x / 2 ^ (52 + 32 * j) % 2 ^ 12, x / 2 ^ (32 + 32 * j) % 2 ^ 20))
      (met es → ∃ t, exec (.fencePacket q) s = .next t ∧ passed t) ∧
      (¬ met es → exec (.fencePacket q) s = .next (s.setQueue q { k with hold := es }))) ∧
    (ready → k.hold ≠ [] → (∀ e ∈ k.hold, e.2 < 2 ^ 20) → s.hbmBad = [] →
      (met k.hold → ∃ t, exec (.fencePacketRelease q) s = .next t ∧ passed t ∧ (t.queue q).hold = []) ∧
      (¬ met k.hold → exec (.fencePacketRelease q) s = .next s)) ∧
    (∀ i add, i ≤ 4095 → add < 2 ^ 32 → reads (3 + 2 ^ 32 * i + 2 ^ 64 * add) →
      ∃ t, exec (.signalPacket q) s = .next t ∧ passed t ∧
        (t.queue q).signals = k.signals ++ [⟨i, BitVec.ofNat 32 add, s.openLaunches q⟩]) ∧
    (∀ g rest, k.signals = g :: rest → s.hbmBad = [] →
      (∀ l ∈ g.after, (s.launch l).complete = true) →
        exec (.signalApply q) s = .next (counter (s.setQueue q { k with signals := rest }) g.idx g.add.toNat)) ∧
    (∀ g rest l, k.signals = g :: rest → l ∈ g.after → (s.launch l).complete = false →
      exec (.signalApply q) s = .next s) ∧
    (∀ w, exec (.queueDoorbell q w) s = .next (s.setQueue q { k with wr := w })) ∧
    (∃ t, exec (.queueEnable q) s = .next t ∧ (t.queue q).en = true ∧ (k.en = false → (t.queue q).count = 0) ∧
      (t.queue q).rd = k.rd) ∧
    (∃ t, exec (.queueDisable q) s = .next t ∧ (t.queue q).en = false ∧ (t.queue q).hold = [] ∧ (t.queue q).rd = k.rd ∧
      (t.queue q).pkt = k.pkt ∧ t.launches = s.launches) ∧
    exec (.haltClear q) s = .next (s.setQueue q { k with halt := false }) ∧
    (∀ (ag : Agent) (h : Hdr) (d a : Reg), Executes s ag (.launch h d a) → Still s ag → s.park ag = .run → s.tiles = [] →
      let i := Instr.launch h d a
      let x := (s.reg64 ag a).toNat
      let sr := s.setReads ag none
      let s0 := sr.releaseAction ag .dev
      let l := s.launchOf ag
      let parent := (s.team (s.uidOf ag)).launch
      let child := BitVec.ofNat 32 (2 ^ 31 + (l.launchid.toNat * 2 ^ 12 + l.kids) % 2 ^ 31)
      (2 ^ 57 < x + 64 → exec i s = .next (sr.raise ag i ⟨0x08, 0, BitVec.ofNat 64 x⟩)) ∧
      (x + 64 ≤ 2 ^ 57 → x % 64 ≠ 0 → exec i s = .next (sr.raise ag i ⟨0x09, 64, BitVec.ofNat 64 x⟩)) ∧
      (∀ s1 w, x + 64 ≤ 2 ^ 57 → x % 64 = 0 → s0.readVa ag s0.nextAcc false .load x 64 = (s1, .ok w) → s1.park ag = .run →
        s1.launchOf ag = l → { s1.team (s1.uidOf ag) with sig := 0 } = { s0.team (s0.uidOf ag) with sig := 0 } → s0.uidOf ag = s.uidOf ag →
        s1.pc ag = s.pc ag → NoMeeting s1 ag → s1.accsOf ag = [] →
        let s2 := s1.setReads ag none
        (∀ n, s2.checkLaunch l.ctx none ⟨w, none, none⟩ true l.lr.prio = .refuse n →
          exec i s = .next (s2.raise ag i ⟨0x1C, BitVec.ofNat 64 n, BitVec.ofNat 64 x⟩)) ∧
        (∀ kid kept, s2.checkLaunch l.ctx none ⟨w, none, none⟩ true l.lr.prio = .ok kid kept →
          (s1.team (s1.uidOf ag)).ckpt = none →
          (l.lr.det = true → ∃ t, exec i s = .next t ∧ t.pc ag = nextPc (s.pc ag) ∧ t.park ag = .run ∧
            (d ≠ vz → t.reg ag d = 0xFFFFFFFF) ∧ (t.team (s.uidOf ag)).kids = (s1.team (s.uidOf ag)).kids ++ [kid]) ∧
          (l.lr.det = false → s1.pendingKids < 1024 → s1.stampBad l.ctx kid = none → s1.nextLaunch ≠ parent → ∃ t, exec i s = .next t ∧
            t.pc ag = nextPc (s.pc ag) ∧ t.park ag = .run ∧ (d ≠ vz → t.reg ag d = child) ∧
            (t.launch parent).kids = l.kids + 1 ∧
            let n := t.launch s1.nextLaunch
            n.launchid = child ∧ n.queue = l.queue ∧ n.parent = some parent ∧ n.ctx = l.ctx ∧ n.priv = l.priv ∧
              n.lr = kid.lr ∧ n.desc = kid.desc ∧ n.next = 0 ∧ n.complete = false) ∧
          (l.lr.det = false → 1024 ≤ s1.pendingKids → ∃ t, exec i s = .next t ∧ t.park ag = .launch kid d ∧
            t.pc ag = s.pc ag ∧ t.launches = s1.launches))))

/-! ## Admission, completion and pre-emption (chapters 12 and 22) -/

/-- R271 to R274, R385 to R389: the next team of a launch that fits starts at ENTRY with its lanes and its core's coefficient
image; only launches of the highest priority with a team waiting are considered, then the queue whose turn it is, then the
earliest. A launch completes when its work is over: it adds one to its counter, once, and nothing of its teams stays; one
that ended in error counts as soon as its resident teams are killed. PREEMPT halts the teams of a queue; a halted team whose
work in flight is met leaves its cores with its threads kept, and comes back before other teams, every park of it evaluated
again; a restore whose image is refused is an error, and a poisoned word of an image a machine check (R401). The even core of
a team that spans and the choice among queues with a launch that fits are log entry 47; that a restore comes before the teams of
every launch, not only of those whose teams were saved, is the model's choice (log entry 48). -/
def Obligations.AdmissionCompletionAndPreemption : Prop :=
  ∀ (s : State) (l core q u : Nat), core < 192 → q < 64 →
    (∀ k ps, s.launches = [(l, k)] → (∀ t ∈ s.teams, t.2.stat ≠ .saved ∧ t.2.stat ≠ .halting) → s.admits k = true → k.redo = [] →
      k.next < k.lr.grid → s.teamFits l core = some ps → s.unitBad k.ctx k.desc.coefAddr 8192 = none →
      (∀ t ∈ s.teams, ∀ g ∈ t.2.groups, ∀ x ∈ g.2.threads, ∀ y d, x.2.park ≠ .launch y d) →
      let n := s.nextUid
      let c := k.desc.firstCore core
      ∃ t, exec (.teamAdmission core) s = .next t ∧ (t.launch l).next = k.next + 1 ∧ (t.team n).launch = l ∧
        (t.team n).teamid = k.next ∧ (t.team n).stage = (if k.lr.draw then .task else .compute) ∧
        (t.team n).core = c ∧ (t.team n).stat = .running ∧ (t.core c).coef = s.image k.ctx k.desc ∧
        ∀ i p, ps[i]? = some p → (t.grp n i).core = p.core ∧ (t.grp n i).part = p.part ∧ (t.grp n i).slot = p.slot ∧
          (t.grp n i).mask 0 = 2 ^ k.desc.gwidth - 1 ∧ ∀ j < k.desc.gwidth, (t.thr n i j).exited = false ∧
            (t.thr n i j).pc = k.desc.entry ∧ (t.thr n i j).park = .run) ∧
    (s.refusedImage = none → s.saved? core = [] → s.ready? core = [] → exec (.teamAdmission core) s = .next s) ∧
    (∀ e ps, (e, ps) ∈ s.ready? core → s.teamFits e core = some ps ∧ ∃ k, (e, k) ∈ s.waitingTeams ∧
      ∀ x ∈ s.waitingTeams, x.2.lr.prio ≤ k.lr.prio) ∧
    (∀ c e, s.choose c = some e →
      let turn := fun (e : Nat × List Spot') => ((s.launch e.1).queue + 63 - s.lastQueue) % 64
      e ∈ c ∧ ∀ f ∈ c, turn e < turn f ∨ turn e = turn f ∧ e.1 ≤ f.1) ∧
    (∀ w m, s.refusedImage = some (w, m) →
      exec (.teamAdmission core) s = .next (s.launchError m.launch ⟨5, 0, 0, 0, m.teamid, 0, 0, 0⟩)) ∧
    (∀ w ps rest, s.refusedImage = none → s.saved? core = (w, ps) :: rest →
      ∃ v : State, exec (.teamAdmission core) s = .next (v.reevaluate w) ∧ (v.team w).stat = .running ∧ (v.team w).core = core ∧
        (v.core core).coef = (s.team w).imgCoef ∧ (∀ g j, v.thr w g j = s.thr w g j) ∧
        (v.team w).scr = (s.team w).scr ∧ (v.team w).scr2 = (s.team w).scr2 ∧ (v.team w).bars = (s.team w).bars) ∧
    (let k := s.launch l
     let ends := s.workOver l = true ∧ s.kidsOver l = true ∧
       (k.lr.passend = true → k.draw ≠ none → k.flushed = true ∨ k.ended = true)
     k.complete = false →
      let killed := k.ended = true ∧ ∀ x ∈ s.teams, x.2.launch = l → s.released? x.1 = true
      let counts := fun (t : State) =>
        let at' := (s.queue k.queue).ctrBase.toNat + 4 * k.lr.ctr
        let ctx := (s.queue k.queue).ctx.toNat
        let v := s.releaseLaunch l
        s.hbmBad = [] → t.hbm = if k.counted then s.hbm else (v.unitWrite ctx at' 4 ((v.unitRead ctx at' 4 + 1) % 2 ^ 32)).hbm
      (¬ ends → ¬ killed → exec (.launchCompletion l) s = .next s) ∧
      (¬ ends → killed → ∃ t, exec (.launchCompletion l) s = .next t ∧ (t.launch l).complete = false ∧
        (t.launch l).counted = true ∧ counts t) ∧
      (ends → ∃ t, exec (.launchCompletion l) s = .next t ∧ (t.launch l).complete = true ∧
        (∀ x ∈ t.teams, x.2.launch ≠ l) ∧
        ((∀ c ∈ s.cores, ∀ r ∈ c.2.ring, ¬ (r.2.busy = true ∧ r.2.launch = l)) → counts t))) ∧
    ((akeys s.teams).Nodup → ∃ t, exec (.preemptSet q) s = .next t ∧ (t.queue q).preempt = true ∧
      ∀ x ∈ s.teams, (if x.2.stat = .running ∧ (s.launch x.2.launch).queue = q ∧ s.released? x.1 = false then
        t.team x.1 = { x.2 with stat := .halting } ∧
          ∀ k ∈ x.2.cores, ∀ e ∈ (t.core k).slots, e.2.uid = x.1 → e.2.halted = true
        else t.team x.1 = x.2)) ∧
    exec (.preemptClear q) s = .next (s.setQueue q { s.queue q with preempt := false }) ∧
    ((s.team u).stat = .halting →
      (s.metAll u = false → exec (.imageSeal u) s = .next s) ∧
      (∀ l, s.metAll u = true → s.imageBad u = some l → exec (.imageSeal u) s = .next (s.machineCheck u (s.team u).core 0x42
        (BitVec.ofNat 32 l.space) l.addr 0 0 l.row)) ∧
      (s.metAll u = true → s.imageBad u = none → ∃ t, exec (.imageSeal u) s = .next t ∧ (t.team u).stat = .saved ∧
        (t.team u).image = some ⟨1, (s.team u).desc.gwidth, (s.team u).desc.nreg, (s.team u).desc.scratch,
          (s.team u).desc.spans⟩ ∧
        (∀ g j, t.thr u g j = s.thr u g j) ∧ (t.team u).scr = (s.team u).scr ∧ (t.team u).bars = (s.team u).bars ∧
        ∀ k ∈ (s.team u).cores, (t.core k).array.holder ≠ some u ∧ (∀ e ∈ (t.core k).slots, e.2.uid ≠ u) ∧
          (∀ r ∈ (t.core k).rays, r.uid ≠ u) ∧ ∀ r ∈ (t.core k).ring, ¬ (r.2.busy = true ∧ r.2.uid = u)))

/-! ## Deterministic commit, replay and recovery (chapters 12, 22 and 23) -/

/-- R259, R391 to R393, R400, R403 to R405: a finished team whose turn it is commits, of the grid the one of smallest key, its
held writes applied in order, and every speculative team whose reads its writes hit is aborted, to run again; a held atomic
whose value has changed aborts its own team; a team whose turn it is and whose buffer stalls it commits it and goes on
non-speculatively. A replay check executes an eligible instruction again, as exec does, for the next lane from its saved
operands, and a difference is a machine check. A rollback restores the checkpoint, and a relaunch, which comes after the saved
teams of its queue (R389), starts every thread at ENTRY with the stores that the team holds back kept (R259); a team that recovers
while its queue is pre-empted is halted again. The turns of a draw's mesh and pixel teams, and that a mesh team which has read
what its task team has since written is aborted, are the model's choice (log entry 26). -/
def Obligations.CommitReplayAndRecovery : Prop :=
  ∀ (s : State) (l u core port n id : Nat),
    let k := s.launch l
    let tm := s.team u
    let hs := tm.held
    let s0 := s.flushHeld u hs
    (k.lr.det = true → k.ended = false → k.complete = false → k.nextCommit = some id →
      (id < k.lr.grid ∧ id ∉ k.committed ∧ ∀ j < k.lr.grid, j ∉ k.committed → j ≠ id →
        let key := fun i => ((k.keys[i]?).map (fun (t : DWord) => t.toNat)).getD i
        key id < key j ∨ key id = key j ∧ id < j)) ∧
    (tm.ofGrid = true → tm.launch = l → s.mayCommit u = true → k.nextCommit = some tm.teamid) ∧
    (tm.launch = l → tm.ofGrid = true → k.nextCommit = some tm.teamid → k.meshTotal ≤ k.passed.length → s.pixelWork l = [] →
      s.mayCommit u = true) ∧
    (k.lr.det = true → k.ended = false → k.complete = false →
      let ripe := fun (v : Nat × Team) => v.2.launch = l ∧ k.hasCommitted v.2 = false ∧ s.finishedTeam v.1 = true ∧
        s.mayCommit v.1 = true
      ((∀ v ∈ s.teams, ¬ ripe v) → exec (.detCommit l) s = .next s) ∧
      ((akeys s.teams).Nodup → (u, tm) ∈ s.teams → ripe (u, tm) → (∀ v ∈ s.teams, v.1 ≠ u → ¬ ripe v) →
        (tm.stage = .mesh → tm.stale = true → exec (.detCommit l) s = .next (s.abortTeam u)) ∧
        ((tm.stage = .mesh → tm.stale = false) → s0.heldPoison hs = none →
          (s0.commitCheck hs = false → exec (.detCommit l) s = .next (s0.abortTeam u)) ∧
          (s0.commitCheck hs = true → tm.kids = [] → ∃ t, exec (.detCommit l) s = .next t ∧
            (if tm.ofGrid = true then (t.launch l).committed = k.committed ++ [tm.teamid] else (t.team u).committed = true) ∧
            t.hbm = (s0.applyHeld hs).hbm ∧ t.vault = (s0.applyHeld hs).vault ∧
            (∀ c, (t.core c).rays = (s.core c).rays ++ tm.rays.filter (fun r => r.core = c)) ∧
            ∀ v ∈ s.teams, v.1 ≠ u → s.speculative v.1 = true → s.dead v.1 = false →
              (s.launch v.2.launch).hasCommitted v.2 = false →
              (∃ b, v.2.sig.getLsbD b = true ∧ (tm.wsig.getLsbD b = true ∨ ∃ h ∈ hs, h.loc.sigBit = some b)) →
              if v.2.ofGrid = true then v.1 ∉ akeys t.teams ∧ v.2.teamid ∈ (t.launch v.2.launch).redo
              else (t.team v.1).stat = .aborted ∧ (t.team v.1).held = [])))) ∧
    (∀ a pa x m n plain, Canonical s0 → present (.hbm pa) m → hs = [⟨.hbm pa, m, .write, x, a, n, plain⟩] →
      WritesOnly s0 (s0.applyHeld hs) (.hbm pa) m x) ∧
    (1024 ≤ (heldLines hs).length → s.bufferStalls u = true) ∧
    (tm.launch = l → tm.stat = .running ∨ tm.stat = .halting → (tm.stage = .mesh → tm.stale = false) → s.speculative u = true → k.hasCommitted tm = false → s.mayCommit u = true →
      s.bufferStalls u = true → s0.heldPoison hs = none → s0.commitCheck hs = true → tm.kids = [] →
      ∃ v : State, exec (.detBufferFull u) s = .next (v.retryStalls tm.core) ∧ (v.team u).nonspec = true ∧
        (v.team u).held = [] ∧ v.hbm = (s0.applyHeld hs).hbm) ∧
    (∀ (i : Instr) (f : State → Host.Outcome State Fault Refusal), replayOf i = some f → ∀ v, f v = exec i v) ∧
    (core < 192 → port < 8 → ∀ e j rest th key r, (aget [] (s.core core).rq port)[n]? = some e → e.unchecked = j :: rest →
      e.lanes.find? (fun x => x.1 == j) = some (j, th, key, r) →
      let c := s.core core
      let s1 := s.setCore core { c with
        rq := aput c.rq port ((aget [] c.rq port).set n { e with unchecked := rest })
        rqCheck := if rest.isEmpty then amod 0 c.rqCheck port (fun x => x + 1) else c.rqCheck }
      let again := s1.laneResult e.uid e.g j th key e.pc e.instr
      (again = r → ∃ t, exec (.replayCheck core port n) s = .next t ∧
        (aget [] (t.core core).rq port)[n]? = some { e with unchecked := rest } ∧
        aget 0 (t.core core).rqCheck port = aget 0 (s.core core).rqCheck port + (if rest = [] then 1 else 0) ∧
        t.teams = s.teams) ∧
      (again ≠ r → (s.team e.uid).stat = .running → (s.team e.uid).recov < 3 → s.speculative e.uid = false →
        (s.team e.uid).ckpt = none → (s.launch (s.team e.uid).launch).lr.idem = true →
        ∃ t, exec (.replayCheck core port n) s = .next t ∧
          (t.team e.uid).stat = .killed 2 0x41 e.pc ((e.lanes.map (fun x => x.1)).foldl min 63) 0 0)) ∧
    (∀ c, tm.ckpt = some c → s.recovering u = true →
      ∃ t : State, exec (.escrowRollback u) s = .next ((t.reevaluate u).haltAgain u) ∧ (t.team u).stat = .running ∧ (t.team u).recov = tm.recov + 1 ∧
        (t.team u).scr = c.scr ∧ (t.team u).scr2 = c.scr2 ∧ (t.team u).bars = c.bars ∧ (t.team u).algs = c.algs ∧
        (t.team u).mstatus = c.mstatus ∧ (t.team u).held = hs.take c.heldAt ∧ (t.team u).rays = tm.rays.take c.raysAt ∧
        (∀ g ∈ c.groups, ∀ x ∈ g.2.threads, (akeys c.groups).Nodup → (akeys g.2.threads).Nodup →
          ∃ r, t.thr u g.1 x.1 = { x.2 with rels := r }) ∧
        t.hbm = s.hbm ∧ t.vault = s.vault) ∧
    (∀ ps, core < 192 → (tm.stat = .aborted ∧ (s.launch tm.launch).ended = false ∨
        s.recovering u = true ∧ tm.ckpt = none ∧ (s.launch tm.launch).lr.idem = true) →
      (s.preempted u = true ∧ tm.stat ≠ .aborted ∨ s.preempted u = false ∧ s.hasSaved (s.launch tm.launch).queue = false) →
      s.mayStand tm core = true →
      (let off := (tm.cores.foldl (fun v k => v.l1WriteBackAll k) s).removeTeam u
       off.unitBad (s.launch tm.launch).ctx tm.desc.coefAddr 8192 = none ∧
       off.fits tm.launch tm.desc tm.stage core (tm.groups.map (fun _ =>
          if tm.desc.spans then [core, otherCore core] else [core]))
        (off.image (s.launch tm.launch).ctx tm.desc) = some ps) →
      ∃ t : State, exec (.teamRelaunch u core) s = .next (t.haltAgain u) ∧ (t.team u).stat = .running ∧ (t.team u).teamid = tm.teamid ∧
        (t.team u).stage = tm.stage ∧ (t.team u).recov = (if tm.stat = .aborted then tm.recov else tm.recov + 1) ∧
        (t.team u).held = tm.held ∧
        ∀ i g p, tm.groups[i]? = some g → ps[i]? = some p → (t.grp u i).core = p.core ∧
          ∀ x ∈ g.2.threads, (t.thr u i x.1).exited = false ∧ (t.thr u i x.1).pc = tm.desc.entry)

/-! ## Management, power, reset and identity (chapter 24) -/

/-- R378, R415: a register keeps a value within its limits, and any other write, to a read-only register or misaligned, is
discarded and sets BOOTSTAT bit 31; IDENT reads as the family and variant (R1). R424: a request for P0 or P1 is met at once, one for P2 or P3 stops parsing and waits
until the device is drained, with no chunk received still to be applied. R422: reset leaves the memories and a boot code
(Table 24-2). R410 to R412, R423: the dump, the tokens and the report. What reset keeps is log entry 25, the management registers
that it leaves log entry 3, the places and the limits of the quota words log entry 46, what a write does where no register lies
log entries 54 and 94, and how HALT is cleared log entry 55. -/
def Obligations.HostRegistersPowerAndReset : Prop :=
  ∀ (s : State),
    let m := s.mgmt
    let w := fun (off : Nat) (wide : Bool) (v : DWord) => exec (.managementWrite off wide v) s
    let refused : Host.Outcome State Fault Refusal := .next { s with mgmt := { m with refused := true } }
    let v32 := fun (x : Nat) => BitVec.ofNat 64 x
    (∀ off v, off % 4 ≠ 0 → w off false v = refused) ∧ (∀ off v, off % 8 ≠ 0 → w off true v = refused) ∧
    (∀ off v, off = 0 ∨ off = 8 ∨ (∃ q < 64, off = 0x100010 + 64 * q) → w off false v = refused) ∧
    (∃ x, s.read32 0 = some x ∧ x % 2 ^ 16 = 0x7300) ∧ s.read32 8 = some (m.boot.toNat + 2 ^ 31 * b2n m.refused) ∧
    (∀ x, x < 2 ^ 32 → w 0x18 false (v32 x) = if 1200 ≤ x ∧ x ≤ 2400 then
        .next { s with mgmt := { m with pwrCap := BitVec.ofNat 32 x } } else refused) ∧
    (∀ x, x < 2 ^ 32 → w 0x20 false (v32 x) = if x < 8192 then
        .next { s with mgmt := { m with pkgid := BitVec.ofNat 32 x } } else refused) ∧
    (∀ x v, x < 2 ^ 32 → v < 48 → w (0x40 + 8 * v) false (v32 x) = if x ≤ 16 ∧ s.anyResident = false then
        .next { s with mgmt := { m with vsplit := aput m.vsplit v x } } else refused) ∧
    (∀ v, w 0x1000 true v = .next { s with mgmt := { m with stopTick := v }, dbg := { s.dbg with
        stopArmed := s.dbg.stopArmed || s.feature 0 } }) ∧
    (∀ v, w 0x1038 true v = .next { s with mgmt := { m with attestReg := v } }) ∧ (∀ v, w 0x18 true v = refused) ∧
    (∀ q, q < 64 →
      let k := s.queue q
      let off := 0x100000 + 64 * q
      let put := fun (k : Queue) => Host.Outcome.next (s.setQueue q k)
      (∀ v : DWord, w off true v = if v.toNat % 64 = 0 then put { k with base := v } else refused) ∧
      (∀ v : DWord, w (off + 0x20) true v = if v.toNat % 64 = 0 then put { k with ctrBase := v } else refused) ∧
      (∀ v : DWord, w (off + 0x28) true v = if v.toNat % 64 = 0 then put { k with errBase := v } else refused) ∧
      (∀ v : DWord, w (off + 0x30) true v = put { k with saveBase := v }) ∧
      (∀ x, x < 2 ^ 32 → w (off + 0x08) false (v32 x) = if x ∈ (List.range 13).map (fun i => 2 ^ (i + 4)) then
        put { k with size := BitVec.ofNat 32 x, rd := BitVec.ofNat 32 (k.rd.toNat % x) } else refused) ∧
      (∀ x, x < 2 ^ 32 → w (off + 0x0C) false (v32 x) = if x < 4 then put { k with prio := BitVec.ofNat 32 x } else refused) ∧
      (∀ x, x < 2 ^ 32 → w (off + 0x14) false (v32 x) = exec (.queueDoorbell q (BitVec.ofNat 32 x)) s) ∧
      (∀ x y, x < 2 ^ 32 → y < 2 ^ 32 → w (off + 0x10) true (v32 (x + 2 ^ 32 * y)) =
        exec (.queueDoorbell q (BitVec.ofNat 32 y)) s) ∧
      (∀ x, 16 ≤ x → x < 2 ^ 32 → w (off + 0x18) false (v32 x) = refused) ∧
      (∀ en priv keep : Bool, ∃ t, w (off + 0x18) false (v32 (b2n en + 2 * b2n priv + 4 * b2n keep)) = .next t ∧
        (t.queue q).en = en ∧ (t.queue q).priv = priv ∧ (t.queue q).halt = (k.halt && keep) ∧
        (t.queue q).preempt = false ∧ (t.queue q).rd = k.rd ∧
        (t.queue q).count = if en = true ∧ k.en = false then 0 else k.count)) ∧
    (∀ x (v : DWord), x < 57344 → w (0x200000 + 64 * x) true v = if s.residentIn x = false ∧ v.toNat % 2 ^ 21 = 0 then
        .next { s with ctxs := aput s.ctxs x { s.ctx x with ptroot := v } } else refused) ∧
    (∀ c i (v : DWord), c < 16 → i < 8 → 3 ≤ i → v ≠ 0 → w (0x40000 + 64 * c + 8 * i) true v = refused) ∧
    (∀ c i (v : DWord), c < 16 → i < 8 → i < 3 ∨ v = 0 → ∃ t, w (0x40000 + 64 * c + 8 * i) true v = .next t ∧
      (∀ j, (aget 0 (aget [] t.quotas c) j) = if j = i then v else aget 0 (aget [] s.quotas c) j)) ∧
    (m.pwrCur ≠ 3 →
      (∀ p, p = 0 ∨ p = 1 → ∃ t, exec (if p = 0 then .powerRequestP0 else .powerRequestP1) s = .next t ∧
        t.mgmt = { m with pwrReq := p, pwrCur := p } ∧ t.teams = s.teams ∧
        (m.pwrCur = 2 → ∀ e ∈ t.ports, e.2.up = e.2.enable)) ∧
      (∀ p, p = 2 ∨ p = 3 → ∃ t, exec (if p = 2 then .powerRequestP2 else .powerRequestP3) s = .next t ∧
        t.mgmt = { m with pwrReq := p } ∧ t.teams = s.teams ∧ (∀ e ∈ t.queues, e.2.hold = []) ∧
        ∀ q, (t.queue q).pkt = none → t.parses q = false)) ∧
    (let busy := (∃ q ∈ s.queues, q.2.pkt ≠ none) ∨ (∃ t ∈ s.teams, s.leases t.1 = true) ∨ s.tiles ≠ [] ∨ (∃ p ∈ s.ports, p.2.unacked ≠ [] ∨ p.2.pending ≠ []) ∨
        ∃ c ∈ s.cores, c.2.rays ≠ [] ∨ ∃ e ∈ c.2.slots, ∀ st, e.2.stat ≠ .finished st
     m.pwrCur.toNat < m.pwrReq.toNat → 2 ≤ m.pwrReq.toNat →
      (busy → exec .retentionEntry s = .next s) ∧
      (¬ busy → m.pwrReq = 2 → ∃ t, exec .retentionEntry s = .next t ∧ t.mgmt = { m with pwrCur := 2 } ∧
        (∀ e ∈ t.ports, e.2.up = false) ∧ t.vault = s.vault ∧ t.queues = s.queues ∧ t.tick = s.tick) ∧
      (¬ busy → m.pwrReq = 3 → ∃ t, exec .retentionEntry s = .next t ∧ t.mgmt.pwrCur = 3 ∧ t.hbm = [] ∧ t.vault = [] ∧
        t.teams = [] ∧ t.host = s.host)) ∧
    (∀ f : FwImage,
      let code : BitVec 8 := if f.magic ≠ 0x31574658 then 0 else if Config.sha512 f.body ≠ f.digest then 2
        else if Config.ecdsaValid 0 f.digest f.sig = false then 3 else if f.version < Config.minVersion then 4
        else if f.trains = false then 5 else 1
      (∃ t, exec (.reset f) s = .next t ∧ t.mgmt = { Mgmt.start with boot := code } ∧ t.tick = 0 ∧ t.teams = [] ∧
        t.accs = [] ∧ t.launches = [] ∧ t.cores = [] ∧ t.queues = [] ∧ t.ctxs = [] ∧ t.ports = [] ∧ t.host = s.host ∧
        t.hbm = (if m.pwrCur = 3 then [] else s.hbm) ∧ t.vault = (if m.pwrCur = 3 then [] else s.vault) ∧
        t.dbg.challenges = s.dbg.challenges + 1 ∧ t.dbg.features = 0) ∧
      (m.boot ≠ 1 → m.pwrCur ≠ 3 → ∃ t, exec (.firmwareImage f) s = .next t ∧ t.mgmt = { m with boot := code }) ∧
      (m.boot = 1 → exec (.firmwareImage f) s = .next s)) ∧
    (∀ tok : List Byte,
      let good := decide (tok.length = 0xF4 ∧ tok.take 4 = [0x48, 0x4D, 0x4B, 0x31] ∧ (tok.drop 4).take 2 = [1, 0] ∧
        (tok.drop 0x10).take 64 = Config.deviceId ∧ (tok.drop 0x50).take 32 = Config.challenge s.dbg.challenges ∧
        Config.ecdsaValid 1 (Config.sha512 (tok.take 0x70)) (tok.drop 0x70) = true)
      exec (.tokenSubmit tok) s = .next (if Config.lifeCycle.val = 3 ∨ 3 ≤ s.dbg.refusedTokens then s
        else if good = true then { s with dbg := { s.dbg with
          features := s.dbg.features ||| BitVec.ofNat 3 (ofBytes ((tok.drop 8).take 4)),
          challenges := s.dbg.challenges + 1 } }
        else { s with dbg := { s.dbg with refusedTokens := s.dbg.refusedTokens + 1 } })) ∧
    (∀ (f : FwImage) (nonce : List Byte), s.dbg.firmware = some f → nonce.length = 32 → m.boot = 1 →
      ∃ t r, exec (.attest nonce) s = .next t ∧ t.mgmt.attest = some r ∧ r.nonce = nonce ∧
        r.firmware = Config.sha512 f.body ∧ r.tick = s.tick % 2 ^ 64 ∧ r.version = f.version) ∧
    (s.dbg.dumped = false → m.boot = 1 → ∃ t, exec .fatalDump s = .next t ∧ t.dbg.frozen = true ∧ t.dbg.dumped = true ∧
      exec .clockRelease t = .next t)

/-! ## The common time line and the network (chapters 23 and 24) -/

/-- R407 to R409: the clocks stop at the armed tick, and go on only if every port was off and no dump was made; both dies latch
their records at each sample tick, with the tick, the sample number and k, until TSLEN is reached (the places of TSCTL's bits are log
entry 15, TSBASE as a physical address log entry 10, and what a word counts log entry 95); a monitor is read, cleared and pointed at a
source, which keeps its statistics (log entry 55). R415, R418, R419: DOWN is cleared; a chunk is applied once and acknowledged; an acknowledgement
credits its copy; heartbeats and retransmissions keep their times; 80 µs of silence takes a port down with its copies. Sequence
numbers and the numbers remembered are log entry 93. A part
at the end of its life cycle has no series and no monitors (R411). -/
def Obligations.TimeLineAndNetwork : Prop :=
  ∀ (s : State) (dn mon n seq : Nat), dn < 2 → mon < 16 → n < 12 →
    let p := s.port n
    let now := s.tick % 2 ^ 64
    let link := p.enable = true ∧ p.up = true
    let off := 8192 * (n / 6) + 0x1E80 + 16 * (n % 6)
    let heard := fun (t : State) => (t.port n).lastRx = s.tick ∧ aget 0 t.counters (off + 4) = aget 0 s.counters (off + 4) + 1
    (∀ bits, s.dbg.stopArmed = true → s.mgmt.stopTick.toNat = now → s.mgmt.boot = 1 → s.dbg.frozen = false →
      s.mgmt.pwrCur.toNat < 3 → bits = (List.range 12).all (fun i => !(s.port i).enable) →
      ∃ t, exec .stoptick s = .next t ∧ t.dbg = { s.dbg with frozen := true, stopArmed := false, portsWereOff := bits } ∧
        t.tick = s.tick ∧ t.teams = s.teams ∧
        exec .clockRelease t = .next (if bits = true ∧ s.dbg.dumped = false then
          { t with dbg := { t.dbg with frozen := false } } else t)) ∧
    (let c := s.mgmt.tsCtl
     let k := tsK c
     let i := s.dbg.samples
     c.getLsbD 0 = true → c.getLsbD 1 = false → 10 ≤ k → k ≤ 24 → now % 2 ^ k = 0 → s.dbg.latched ≠ some now →
      ∃ t, exec (.timeSeriesSample dn) s = .next t ∧ (Config.lifeCycle.val = 3 → t = s) ∧
        (Config.lifeCycle.val ≠ 3 → t.dbg.samples = i + 1 ∧ t.dbg.latched = some now ∧ ∀ e < 2,
          (s.mgmt.tsLen.toNat < 8192 * (2 * i + e) + 8192 → t.mgmt.tsCtl = c ||| 2 ∧
            ∀ x, x / 8192 = e → aget 0 t.counters x = aget 0 s.counters x) ∧
          (8192 * (2 * i + e) + 8192 ≤ s.mgmt.tsLen.toNat → Canonical s → i < 2 ^ 32 →
            let at' := s.mgmt.tsBase.toNat + 8192 * (2 * i + e)
            at' + 8192 ≤ hbmSize →
            t.rawRead (.hbm at') 8 = now ∧ t.rawRead (.hbm (at' + 8)) 4 = i ∧
            t.rawRead (.hbm (at' + 12)) 4 = e + 256 * k ∧
            (∀ x, x / 8192 = e → aget 0 t.counters x = 0) ∧
            (∀ j < 96, ∀ f : Core → List (Nat × Nat), (f = fun c => c.rqEnter) ∨ (f = fun c => c.rqCheck) ∨
                (f = fun c => c.rqDrop) → (f (t.core (96 * e + j))) = []) ∧
            (∀ j < 6, t.rawRead (.hbm (at' + 0x1E80 + 16 * j)) 4 =
              (aget 0 s.counters (8192 * e + (0x1E80 + 16 * j))).toNat)))) ∧
    (let d := s.die dn
     let m := d.monitor mon
     exec (.monitorRead dn mon) s = .next (if Config.lifeCycle.val = 3 then s
       else { s with dbg := { s.dbg with readout := some m } }) ∧
     (∃ t, exec (.monitorClear dn mon) s = .next t ∧ (Config.lifeCycle.val = 3 → t = s) ∧ (Config.lifeCycle.val ≠ 3 →
       ((t.die dn).monitor mon) = { Monitor.zero with src := m.src, w := m.w })) ∧
     (∀ src w, ∃ t, exec (.monitorSelect dn mon src w) s = .next t ∧ (Config.lifeCycle.val = 3 → t = s) ∧
       (Config.lifeCycle.val ≠ 3 → ((t.die dn).monitor mon) = { m with src := some src, w := w.toNat }))) ∧
    (∀ (m : Monitor) (x : Nat), let a := m.add x 1
      a.count = m.count + 1 ∧ a.sum = m.sum + BitVec.ofNat 64 x ∧ a.max = max m.max x ∧
      a.min = (if m.count = 0 then x else min m.min x) ∧
      (let b := min (x / 2 ^ m.w) 15
       aget 0 a.bins b = aget 0 m.bins b + 1)) ∧
    exec (.portDownClear n) s = .next (s.setPort n { p with down := false }) ∧
    (link →
      (∃ t, exec (.heartbeatReceive n) s = .next t ∧ heard t) ∧
      (p.lastBeat + 24000 ≤ s.tick → ∃ t, exec (.heartbeatSend n) s = .next t ∧
        (t.port n).heartbeats = p.heartbeats + 1 ∧ (t.port n).lastBeat = s.tick ∧
        aget 0 t.counters off = aget 0 s.counters off + 1) ∧
      (s.tick < p.lastBeat + 24000 → exec (.heartbeatSend n) s = .next s) ∧
      (∀ f : ChunkFlit, let bytes := fun (e : Nat × List Byte) => e.2.length
        (f.seq ∈ p.rxSeen → ∃ t, exec (.peerChunkReceive n f) s = .next t ∧ heard t ∧
          (t.port n).acks = p.acks ++ [(f.seq, false)] ∧ SameMemory s t) ∧
        (∀ hs, f.seq ∉ p.rxSeen → (∀ x ∈ p.pending, x.1.seq ≠ f.seq) → s.peerSpots (ChunkFlit.portOp f) f.elems = .ok hs →
          (∀ h ∈ hs, h.op = .write ∨ s.poisoned h.loc h.n = false) →
          hs.map (fun h => h.n) = f.elems.map bytes ∧
          ∃ t, exec (.peerChunkReceive n f) s = .next t ∧ heard t ∧ (t.port n).rxSeen = p.rxSeen.filter (near f.seq) ++ [f.seq] ∧
            (t.port n).acks = p.acks ++ [(f.seq, false)] ∧ t.hbm = (s.applyHeld hs).hbm ∧
            t.vault = (s.applyHeld hs).vault) ∧
        (f.seq ∉ p.rxSeen → (∀ x ∈ p.pending, x.1.seq ≠ f.seq) →
          s.peerSpots (ChunkFlit.portOp f) f.elems = .error none →
          ∃ t, exec (.peerChunkReceive n f) s = .next t ∧ heard t ∧ (t.port n).acks = p.acks ++ [(f.seq, true)] ∧
            SameMemory s t)) ∧
      (∀ core k c e prot, s.netChunk n seq = some (core, k, c, e) → (s.core core).slots = [(k, c)] → c.sent = [e] →
        c.stat = .sending → c.next < c.job.chunks → c.job.f.bar = none → c.owned = true →
        (∀ x, (s.bctx core x).park = .run) →
        ∃ t, exec (.peerAckReceive n seq prot) s = .next t ∧ heard t ∧ (∀ x ∈ (t.port n).unacked, x.1.seq ≠ seq) ∧
          (prot = false → t.slot? core k = some { c with sent := [], acked := c.acked + 1 }) ∧
          (prot = true → ∃ f, t.slot? core k = some f ∧ f.stat = .finished 3 ∧ f.sent = [] ∧ f.idx = min c.idx e.chunk)) ∧
      (∀ u, p.unacked = [u] → u.1.seq = seq →
        (u.2.2.2 + 48000 ≤ s.tick → ∃ t, exec (.chunkRetransmit n seq) s = .next t ∧
          (t.port n).unacked = [(u.1, u.2.1, u.2.2.1, s.tick)] ∧ aget 0 t.counters (off + 8) = aget 0 s.counters (off + 8) + 1) ∧
        (s.tick < u.2.2.2 + 48000 → exec (.chunkRetransmit n seq) s = .next s)) ∧
      (p.down = false →
        (s.tick < p.lastRx + 192000 → exec (.portDown n) s = .next s) ∧
        (p.lastRx + 192000 ≤ s.tick →
          (akeys s.cores).Nodup → (∀ c ∈ s.cores, (akeys c.2.slots).Nodup) →
          ∃ t f, exec (.portDown n) s = .next t ∧ (t.port n).down = true ∧ (t.port n).unacked = [] ∧
            f ∈ (t.die (n / 6)).faults ++ (t.die (n / 6)).waiting ∧ f.kind = .copy ∧
            ∀ c ∈ t.cores, ∀ e ∈ c.2.slots, ∀ x ∈ e.2.sent, ∀ y, x.net ≠ some (n, y))))

/-! ## Encodings (chapter 2) -/

/-- R34 to R37, R47: every well-formed instruction has one word, and the decoder reads from it that instruction with every
operand; a device step has no word. -/
def Obligations.EncodedInstructionsDecodeToThemselves : Prop :=
  ∀ i, (i.encoded = false → encode i = none) ∧
    (i.encoded = true → i.wf = true → ∃ w, encode i = some w ∧ decode w = .ok i)

/-- R49: a word that the decoder accepts is the word of the instruction it reads, which is well-formed: every bit that a form
does not use has the value that the form's page gives it. -/
def Obligations.AcceptedWordsAreEncodings : Prop :=
  ∀ w i, decode w = .ok i → i.wf = true ∧ i.encoded = true ∧ encode i = some w

/-- Table 2-2, Table 2-3, Table 2-7: words written out field by field decode to the instructions they stand for: EXT, MOD, C,
B, A, D, KEEP, LA, YLD, GAP, CND, W, OP. -/
def Obligations.WordsDecodeAsTheTablesSay : Prop :=
  let rest := fun (la : BitVec 4) (cnd : BitVec 4) (w : BitVec 1) (op : BitVec 8) =>
    (0#2 ++ la ++ 0#1 ++ 0#3 ++ cnd ++ w ++ op : BitVec 23)
  let word := fun (ext : BitVec 32) (mod : BitVec 5) (c b a d : BitVec 9) (low : BitVec 23) =>
    (ext ++ mod ++ c ++ b ++ a ++ d ++ low : BitVec 96)
  let h : Hdr := { w := false, cnd := .al, gap := 0, yld := false, la := 0, keep := 0 }
  decode (word 0x00FFFFFE#32 0#5 511#9 511#9 511#9 511#9 (rest 0#4 15#4 0#1 0x01#8)) = .ok (.bra h 0xFFFFFE#24) ∧
  decode (word 0#32 0#5 511#9 3#9 2#9 1#9 (rest 0#4 15#4 1#1 0x20#8)) =
    .ok (.iadd { h with w := true } 1 2 3 .wrap false) ∧
  decode (word 0x12345678#32 0#5 511#9 511#9 511#9 7#9 (rest 0#4 15#4 0#1 0x2E#8)) = .ok (.movi h 7 0x12345678 false) ∧
  decode (word 0#32 0#5 6#9 5#9 4#9 3#9 (rest 0#4 15#4 0#1 0x42#8)) = .ok (.ffma h 3 4 5 6 false .rn) ∧
  decode (word 0#32 0#5 511#9 511#9 9#9 8#9 (rest 0#4 15#4 0#1 0x45#8)) = .ok (.fclass h 8 9 0) ∧
  decode (word 5#32 0#5 511#9 511#9 511#9 8#9 (rest 3#4 15#4 0#1 0x80#8)) = .ok (.draw { h with la := 3 } 8 5) ∧
  decode (word 0x00010080#32 0#5 511#9 511#9 10#9 9#9 (rest 2#4 15#4 0#1 0xA0#8)) =
    .ok (.ld { h with la := 2 } 9 10 ⟨16, .glob, .w, .plain, .grp, .normal⟩ false) ∧
  decode (word 0x00001001#32 0#5 511#9 511#9 511#9 511#9 (rest 0#4 15#4 0#1 0xC5#8)) = .ok (.mzero h 1 .f32 true) ∧
  decode (word 0#32 0#5 511#9 3#9 2#9 1#9 (rest 0#4 15#4 0#1 0xEB#8)) = .ok (.ttri h 1 2 3 .off) ∧
  decode (word 0x00000FFF#32 0#5 511#9 511#9 4#9 511#9 (rest 0#4 15#4 0#1 0xF0#8)) = .ok (.trap h 4 0xFFF)

/-! ## The step, and what holds of every step -/

/-- R28, R31, R32, R49, R75, R77, R226, R407, R408: when the schedule names a port of a partition and the group that the partition
chooses there, and a fetch finds the line at the cohort's PC at once, the step is exec of the instruction that the slot decodes to, at
the state in which that cohort issues, with the register blocks that it is the first to write in an escrow interval saved; then what
follows an issue, and a tick. A slot without VALID is an empty slot, and a word that is no instruction raises ILLEGAL in each lane and
is an issue all the same. A bursar's turn is the same for its next context, a device step that may take place is exec of it, a store
of the host changes its bytes, and a replacement drops an entry of a cache. A stop that is due, or a sample, comes first, and time goes
no further than the next of them. The lanes have nothing on their way and nothing pending, their group has its key, and they are not
at their first instruction of a launch-level replay. What one step is, and the order of the turns, are log entry 4, a tick for each
step log entry 5. -/
def Obligations.StepRunsTheDecodedInstruction : Prop :=
  ∀ (s : State) (ts : List Turn) (line : Line), ((s.stopDue && s.clocked) = true → step s = exec .stoptick s) ∧
    ((s.stopDue && s.clocked) = false → (s.sampleDue && s.clocked) = true → step s = exec (.timeSeriesSample 0) s) ∧
    ((s.stopDue && s.clocked) = false → (s.sampleDue && s.clocked) = false →
    let s0 : State := { s.markEligible with turns := ts }
    let after := fun (port : Nat) (v : State) (i : Instr) => match exec i v with
      | .next t => Host.Outcome.next ((t.afterIssue v port i).pass 1)
      | .fault f => .fault f
      | .refused x => .refused x
    let runs := fun (port : Nat) (v : State) (ags : List Agent) (p : Word) => let n := slotOf p
      lineReserved line.word = false →
        (lineValid line.word n = false → step s = after port (v.saveBlocks (.emptySlot line.word) ags) (.emptySlot line.word)) ∧
        (lineValid line.word n = true → ∀ i, decode (line.slot n) = .ok i → step s = after port (v.saveBlocks i ags) i) ∧
        (lineValid line.word n = true → ∀ e, decode (line.slot n) = .error e →
          step s = .next (((ags.foldl (fun s ag => s.raiseAs ag [] ⟨0x01, 0, 0⟩) v).afterSpent port).pass 1))
    let free := fun (ag : Agent) => Still s0 ag ∧ (s0.trapOf ag).pend = []
    (∀ u g port, s.turns = .issue u g port :: ts → s.clocked = true → port < 2 → s0.chosen u g port = true →
      let k := s0.grp u g
      let s1 := s0.clearYields k.core k.part port
      ∀ l0 ls, s1.cohortOf u g (s1.readyLanes u g) = l0 :: ls → (s1.grp u g).unkeyed = false →
      (∀ l ∈ l0 :: ls, free (.thread u g l) ∧ (s0.thr u g l).boot = false) →
      let p := s0.pc (.thread u g l0)
      let ags := (l0 :: ls).map (Agent.thread u g)
      s1.fetchFor (.thread u g l0) p = (s1, .line line) →
      runs port { s1.starveStep u g (s1.readyLanes u g) (l0 :: ls) with cur := ⟨ags, p⟩ } ags p) ∧
    (∀ k c, s.turns = .bursar k :: ts → s.clocked = true → s0.nextCtx k = some c → free (.ctx k c) →
      let p := s0.pc (.ctx k c)
      let s1 := s0.setCore k { s0.core k with lastCtx := c }
      s1.fetchFor (.ctx k c) p = (s1, .line line) →
      runs 0 { s1 with cur := ⟨[.ctx k c], p⟩ } [.ctx k c] p) ∧
    (∀ i, s.turns = .event i :: ts → deviceStep i = true → (s.clocked || s.hostMay i) = true →
      step s = match exec i s0 with
        | .next t => .next (t.pass 1)
        | .fault f => .fault f
        | .refused x => .refused x) ∧
    (∀ n, s.turns = .pass n :: ts → step s = .next (s0.pass n)) ∧
    (∀ l n v, s.turns = .hostStore l n v :: ts → (∀ u sd o, l ≠ .scr u sd o) →
      (s.clocked = true ∨ (∃ a c, l = Loc.host a c) → step s = .next ((s0.rawWrite l n v).pass 1)) ∧
      (s.clocked = false → (∀ a c, l ≠ Loc.host a c) → step s = .next (s0.pass 1))) ∧
    (∀ c, s.turns = .evict c :: ts → s.clocked = true → step s = .next ((s0.evict c).pass 1)) ∧
    (s.clocked = true → s.dbg.stopArmed = false → s.sampling = false → ∀ n, (s.pass n).tick = s.tick + n) ∧
    (s.clocked = true → s.sampling = true → let k := 2 ^ tsK s.mgmt.tsCtl
      ∀ n, (s.pass n).tick ≤ s.tick + (k - s.tick % 2 ^ 64 % k)))

/-- Every instruction, and every device step that names parts of the package (R13, R14, R378), answers a next state in every state.
A step that names another part stops with a fault: the stop is the model's own, as the spec has no such step. -/
def Obligations.EveryInstructionHasAnEffect : Prop :=
  ∀ (i : Instr) (s : State), (partsOk i = true → ∃ t, exec i s = .next t) ∧
    (partsOk i = false → exec i s = .fault .absentPart)

/-- Every step keeps memory of every kind in canonical form: HBM, the vaults, host memory, each team's scratchpad halves and
those of its checkpoint. The form is the model's own. -/
def Obligations.StepsKeepMemoryCanonical : Prop :=
  ∀ s t : State, Canonical s → step s = .next t → Canonical t

/-- R422, R412: after reset both dies are in reset hold with boot code 0, no team, launch, access or queue's work stands, no
feature is open, the clocks do not run, and memory is in canonical form. Memory reads as zero, every queue is disabled and every
context is free by the model's own choices (log entries 2 and 3). -/
def Obligations.ResetIsHeldAndCanonical : Prop :=
  let s := State.reset
  Canonical s ∧ s.mgmt.boot = 0 ∧ s.clocked = false ∧ s.teams = [] ∧ s.launches = [] ∧ s.accs = [] ∧ s.tiles = [] ∧
    s.dbg.features = 0 ∧ (∀ q, (s.queue q).en = false ∧ s.parses q = false) ∧ (∀ l, present l 1 → byteAt s l = 0) ∧
    ∀ k c, (s.bctx k c).run = .free
end

