-- ==== Sys2Proof/Laws/Codes.lean ====
section
/-! SUPPORT. The codes of the encoding tables read back as what they stand for, and stay below the bound of their field. -/

namespace Sys2Proof

@[simp] theorem ofCode_code_Cond (x : Cond) : Cond.ofCode x.code = some x := by cases x <;> rfl

theorem code_lt_Cond (x : Cond) : x.code < 16 := by cases x <;> decide

@[simp] theorem ofCode_code_MsetOp (x : MsetOp) : MsetOp.ofCode x.code = some x := by cases x <;> rfl

theorem code_lt_MsetOp (x : MsetOp) : x.code < 3 := by cases x <;> decide

@[simp] theorem ofCode_code_MgetOp (x : MgetOp) : MgetOp.ofCode x.code = some x := by cases x <;> rfl

theorem code_lt_MgetOp (x : MgetOp) : x.code < 3 := by cases x <;> decide

@[simp] theorem ofCode_code_VoteOp (x : VoteOp) : VoteOp.ofCode x.code = some x := by cases x <;> rfl

theorem code_lt_VoteOp (x : VoteOp) : x.code < 4 := by cases x <;> decide

@[simp] theorem ofCode_code_AddMode (x : AddMode) : AddMode.ofCode x.code = some x := by cases x <;> rfl

theorem code_lt_AddMode (x : AddMode) : x.code < 4 := by cases x <;> decide

@[simp] theorem ofCode_code_HiMode (x : HiMode) : HiMode.ofCode x.code = some x := by cases x <;> rfl

theorem code_lt_HiMode (x : HiMode) : x.code < 3 := by cases x <;> decide

@[simp] theorem ofCode_code_MadMode (x : MadMode) : MadMode.ofCode x.code = some x := by cases x <;> rfl

theorem code_lt_MadMode (x : MadMode) : x.code < 3 := by cases x <;> decide

@[simp] theorem ofCode_code_MinMax (x : MinMax) : MinMax.ofCode x.code = some x := by cases x <;> rfl

theorem code_lt_MinMax (x : MinMax) : x.code < 2 := by cases x <;> decide

@[simp] theorem ofCode_code_IntTy (x : IntTy) : IntTy.ofCode x.code = some x := by cases x <;> rfl

theorem code_lt_IntTy (x : IntTy) : x.code < 4 := by cases x <;> decide

@[simp] theorem ofCode_code_ShfOp (x : ShfOp) : ShfOp.ofCode x.code = some x := by cases x <;> rfl

theorem code_lt_ShfOp (x : ShfOp) : x.code < 7 := by cases x <;> decide

@[simp] theorem ofCode_code_BitcOp (x : BitcOp) : BitcOp.ofCode x.code = some x := by cases x <;> rfl

theorem code_lt_BitcOp (x : BitcOp) : x.code < 4 := by cases x <;> decide

@[simp] theorem ofCode_code_ShflOp (x : ShflOp) : ShflOp.ofCode x.code = some x := by cases x <;> rfl

theorem code_lt_ShflOp (x : ShflOp) : x.code < 4 := by cases x <;> decide

@[simp] theorem ofCode_code_ScanOp (x : ScanOp) : ScanOp.ofCode x.code = some x := by cases x <;> rfl

theorem code_lt_ScanOp (x : ScanOp) : x.code < 8 := by cases x <;> decide

@[simp] theorem ofCode_code_Rnd (x : Rnd) : Rnd.ofCode x.code = some x := by cases x <;> rfl

theorem code_lt_Rnd (x : Rnd) : x.code < 6 := by cases x <;> decide

@[simp] theorem ofCode_code_FMinMax (x : FMinMax) : FMinMax.ofCode x.code = some x := by cases x <;> rfl

theorem code_lt_FMinMax (x : FMinMax) : x.code < 4 := by cases x <;> decide

@[simp] theorem ofCode_code_HalfTy (x : HalfTy) : HalfTy.ofCode x.code = some x := by cases x <;> rfl

theorem code_lt_HalfTy (x : HalfTy) : x.code < 2 := by cases x <;> decide

@[simp] theorem ofCode_code_FRedOp (x : FRedOp) : FRedOp.ofCode x.code = some x := by cases x <;> rfl

theorem code_lt_FRedOp (x : FRedOp) : x.code < 3 := by cases x <;> decide

@[simp] theorem ofCode_code_NumTy (x : NumTy) : NumTy.ofCode x.code = some x := by cases x <;> rfl

theorem code_lt_NumTy (x : NumTy) : x.code < 15 := by cases x <;> decide

@[simp] theorem ofCode_code_Q8Ty (x : Q8Ty) : Q8Ty.ofCode x.code = some x := by cases x <;> rfl

theorem code_lt_Q8Ty (x : Q8Ty) : x.code < 4 := by cases x <;> decide

@[simp] theorem ofCode_code_CvtwOp (x : CvtwOp) : CvtwOp.ofCode x.code = some x := by cases x <;> rfl

theorem code_lt_CvtwOp (x : CvtwOp) : x.code < 6 := by cases x <;> decide

@[simp] theorem ofCode_code_UnpTy (x : UnpTy) : UnpTy.ofCode x.code = some x := by cases x <;> rfl

theorem code_lt_UnpTy (x : UnpTy) : x.code < 7 := by cases x <;> decide

@[simp] theorem ofCode_code_BscTy (x : BscTy) : BscTy.ofCode x.code = some x := by cases x <;> rfl

theorem code_lt_BscTy (x : BscTy) : x.code < 5 := by cases x <;> decide

@[simp] theorem ofCode_code_I2ITy (x : I2ITy) : I2ITy.ofCode x.code = some x := by cases x <;> rfl

theorem code_lt_I2ITy (x : I2ITy) : x.code < 8 := by cases x <;> decide

@[simp] theorem ofCode_code_Space (x : Space) : Space.ofCode x.code = some x := by cases x <;> rfl

theorem code_lt_Space (x : Space) : x.code < 8 := by cases x <;> decide

@[simp] theorem ofCode_code_Size (x : Size) : Size.ofCode x.code = some x := by cases x <;> rfl

theorem code_lt_Size (x : Size) : x.code < 6 := by cases x <;> decide

@[simp] theorem ofCode_code_Ord (x : Ord) : Ord.ofCode x.code = some x := by cases x <;> rfl

theorem code_lt_Ord (x : Ord) : x.code < 4 := by cases x <;> decide

@[simp] theorem ofCode_code_Scope (x : Scope) : Scope.ofCode x.code = some x := by cases x <;> rfl

theorem code_lt_Scope (x : Scope) : x.code < 4 := by cases x <;> decide

@[simp] theorem ofCode_code_Hint (x : Hint) : Hint.ofCode x.code = some x := by cases x <;> rfl

theorem code_lt_Hint (x : Hint) : x.code < 4 := by cases x <;> decide

@[simp] theorem ofCode_code_UpdOp (x : UpdOp) : UpdOp.ofCode x.code = some x := by cases x <;> rfl

theorem code_lt_UpdOp (x : UpdOp) : x.code < 16 := by cases x <;> decide

@[simp] theorem ofCode_code_FenceKind (x : FenceKind) : FenceKind.ofCode x.code = some x := by cases x <;> rfl

theorem code_lt_FenceKind (x : FenceKind) : x.code < 4 := by cases x <;> decide

@[simp] theorem ofCode_code_PrefLvl (x : PrefLvl) : PrefLvl.ofCode x.code = some x := by cases x <;> rfl

theorem code_lt_PrefLvl (x : PrefLvl) : x.code < 2 := by cases x <;> decide

@[simp] theorem ofCode_code_BFmt (x : BFmt) : BFmt.ofCode x.code = some x := by cases x <;> rfl

theorem code_lt_BFmt (x : BFmt) : x.code < 15 := by cases x <;> decide

@[simp] theorem ofCode_code_AFmt (x : AFmt) : AFmt.ofCode x.code = some x := by cases x <;> rfl

theorem code_lt_AFmt (x : AFmt) : x.code < 15 := by cases x <;> decide

@[simp] theorem ofCode_code_BankTy (x : BankTy) : BankTy.ofCode x.code = some x := by cases x <;> rfl

theorem code_lt_BankTy (x : BankTy) : x.code < 2 := by cases x <;> decide

@[simp] theorem ofCode_code_MdrstOp (x : MdrstOp) : MdrstOp.ofCode x.code = some x := by cases x <;> rfl

theorem code_lt_MdrstOp (x : MdrstOp) : x.code < 7 := by cases x <;> decide

@[simp] theorem ofCode_code_MSpace (x : MSpace) : MSpace.ofCode x.code = some x := by cases x <;> rfl

theorem code_lt_MSpace (x : MSpace) : x.code < 4 := by cases x <;> decide

@[simp] theorem ofCode_code_CopyRop (x : CopyRop) : CopyRop.ofCode x.code = some x := by cases x <;> rfl

theorem code_lt_CopyRop (x : CopyRop) : x.code < 4 := by cases x <;> decide

@[simp] theorem ofCode_code_CopyTy (x : CopyTy) : CopyTy.ofCode x.code = some x := by cases x <;> rfl

theorem code_lt_CopyTy (x : CopyTy) : x.code < 8 := by cases x <;> decide

@[simp] theorem ofCode_code_BarvOp (x : BarvOp) : BarvOp.ofCode x.code = some x := by cases x <;> rfl

theorem code_lt_BarvOp (x : BarvOp) : x.code < 3 := by cases x <;> decide

@[simp] theorem ofCode_code_Filter (x : Filter) : Filter.ofCode x.code = some x := by cases x <;> rfl

theorem code_lt_Filter (x : Filter) : x.code < 3 := by cases x <;> decide

@[simp] theorem ofCode_code_Cull (x : Cull) : Cull.ofCode x.code = some x := by cases x <;> rfl

theorem code_lt_Cull (x : Cull) : x.code < 3 := by cases x <;> decide

end Sys2Proof
end

