-- ==== Sys2Proof/Laws/State.lean ====
section
/-! SUPPORT. What each named update of State leaves in each field: one lemma per update and field, and reading back what an
update wrote. -/

namespace Sys2Proof.Machine

/-! ## Tables -/

theorem afind_aput_self {α : Type} (t : List (Nat × α)) (k : Nat) (v : α) : afind (aput t k v) k = some v := by
  induction t with
  | nil => simp [aput, afind]
  | cons e t ih =>
    obtain ⟨j, w⟩ := e
    by_cases h : j = k <;> simp [aput, afind, h, ih]

theorem afind_aput_ne {α : Type} (t : List (Nat × α)) {j k : Nat} (v : α) (h : j ≠ k) :
    afind (aput t k v) j = afind t j := by
  induction t with
  | nil => simp [aput, afind, Ne.symm h]
  | cons e t ih =>
    obtain ⟨i, w⟩ := e
    by_cases hk : i = k
    · subst hk; simp [aput, afind, Ne.symm h]
    · rw [aput, if_neg hk]
      by_cases hj : i = j
      · simp [afind, hj]
      · simp [afind, hj, ih]

@[simp] theorem aget_aput_self {α : Type} (d : α) (t : List (Nat × α)) (k : Nat) (v : α) :
    aget d (aput t k v) k = v := by simp [aget, afind_aput_self]

theorem aget_aput_ne {α : Type} (d : α) (t : List (Nat × α)) {j k : Nat} (v : α) (h : j ≠ k) :
    aget d (aput t k v) j = aget d t j := by simp [aget, afind_aput_ne t v h]

theorem aget_aput {α : Type} (d : α) (t : List (Nat × α)) (j k : Nat) (v : α) :
    aget d (aput t k v) j = if j = k then v else aget d t j := by
  split
  · next h => subst h; simp
  · next h => exact aget_aput_ne d t v h

/-- Writing back what an entry holds changes no reading. -/
theorem aget_aput_same {α : Type} (d : α) (t : List (Nat × α)) (j k : Nat) : aget d (aput t k (aget d t k)) j = aget d t j := by
  rw [aget_aput]; split
  · next h => rw [h]
  · rfl

/-! ## Updates of a part, field by field -/

@[simp] theorem State.setCore_tick (s : State) (n : Nat) (c : Core) : (s.setCore n c).tick = s.tick := rfl
@[simp] theorem State.setCore_teams (s : State) (n : Nat) (c : Core) : (s.setCore n c).teams = s.teams := rfl
@[simp] theorem State.setCore_accs (s : State) (n : Nat) (c : Core) : (s.setCore n c).accs = s.accs := rfl
@[simp] theorem State.setCore_tiles (s : State) (n : Nat) (c : Core) : (s.setCore n c).tiles = s.tiles := rfl
@[simp] theorem State.setCore_launches (s : State) (n : Nat) (c : Core) : (s.setCore n c).launches = s.launches := rfl
@[simp] theorem State.setCore_cores (s : State) (n : Nat) (c : Core) : (s.setCore n c).cores = aput s.cores n c := rfl
@[simp] theorem State.setCore_pairs (s : State) (n : Nat) (c : Core) : (s.setCore n c).pairs = s.pairs := rfl
@[simp] theorem State.setCore_dies (s : State) (n : Nat) (c : Core) : (s.setCore n c).dies = s.dies := rfl
@[simp] theorem State.setCore_hbm (s : State) (n : Nat) (c : Core) : (s.setCore n c).hbm = s.hbm := rfl
@[simp] theorem State.setCore_hbmBad (s : State) (n : Nat) (c : Core) : (s.setCore n c).hbmBad = s.hbmBad := rfl
@[simp] theorem State.setCore_vault (s : State) (n : Nat) (c : Core) : (s.setCore n c).vault = s.vault := rfl
@[simp] theorem State.setCore_vaultBad (s : State) (n : Nat) (c : Core) : (s.setCore n c).vaultBad = s.vaultBad := rfl
@[simp] theorem State.setCore_host (s : State) (n : Nat) (c : Core) : (s.setCore n c).host = s.host := rfl
@[simp] theorem State.setCore_hostBad (s : State) (n : Nat) (c : Core) : (s.setCore n c).hostBad = s.hostBad := rfl
@[simp] theorem State.setCore_lineTags (s : State) (n : Nat) (c : Core) : (s.setCore n c).lineTags = s.lineTags := rfl
@[simp] theorem State.setCore_queues (s : State) (n : Nat) (c : Core) : (s.setCore n c).queues = s.queues := rfl
@[simp] theorem State.setCore_lastQueue (s : State) (n : Nat) (c : Core) : (s.setCore n c).lastQueue = s.lastQueue := rfl
@[simp] theorem State.setCore_ctxs (s : State) (n : Nat) (c : Core) : (s.setCore n c).ctxs = s.ctxs := rfl
@[simp] theorem State.setCore_quotas (s : State) (n : Nat) (c : Core) : (s.setCore n c).quotas = s.quotas := rfl
@[simp] theorem State.setCore_mgmt (s : State) (n : Nat) (c : Core) : (s.setCore n c).mgmt = s.mgmt := rfl
@[simp] theorem State.setCore_ports (s : State) (n : Nat) (c : Core) : (s.setCore n c).ports = s.ports := rfl
@[simp] theorem State.setCore_dbg (s : State) (n : Nat) (c : Core) : (s.setCore n c).dbg = s.dbg := rfl
@[simp] theorem State.setCore_counters (s : State) (n : Nat) (c : Core) : (s.setCore n c).counters = s.counters := rfl
@[simp] theorem State.setCore_turns (s : State) (n : Nat) (c : Core) : (s.setCore n c).turns = s.turns := rfl
@[simp] theorem State.setCore_cur (s : State) (n : Nat) (c : Core) : (s.setCore n c).cur = s.cur := rfl
@[simp] theorem State.setCore_nextUid (s : State) (n : Nat) (c : Core) : (s.setCore n c).nextUid = s.nextUid := rfl
@[simp] theorem State.setCore_nextAcc (s : State) (n : Nat) (c : Core) : (s.setCore n c).nextAcc = s.nextAcc := rfl
@[simp] theorem State.setCore_nextSeq (s : State) (n : Nat) (c : Core) : (s.setCore n c).nextSeq = s.nextSeq := rfl
@[simp] theorem State.setCore_nextLaunch (s : State) (n : Nat) (c : Core) : (s.setCore n c).nextLaunch = s.nextLaunch := rfl
@[simp] theorem State.setCore_nextTile (s : State) (n : Nat) (c : Core) : (s.setCore n c).nextTile = s.nextTile := rfl

@[simp] theorem State.setPair_tick (s : State) (n : Nat) (c : CorePair) : (s.setPair n c).tick = s.tick := rfl
@[simp] theorem State.setPair_teams (s : State) (n : Nat) (c : CorePair) : (s.setPair n c).teams = s.teams := rfl
@[simp] theorem State.setPair_accs (s : State) (n : Nat) (c : CorePair) : (s.setPair n c).accs = s.accs := rfl
@[simp] theorem State.setPair_tiles (s : State) (n : Nat) (c : CorePair) : (s.setPair n c).tiles = s.tiles := rfl
@[simp] theorem State.setPair_launches (s : State) (n : Nat) (c : CorePair) : (s.setPair n c).launches = s.launches := rfl
@[simp] theorem State.setPair_cores (s : State) (n : Nat) (c : CorePair) : (s.setPair n c).cores = s.cores := rfl
@[simp] theorem State.setPair_pairs (s : State) (n : Nat) (c : CorePair) : (s.setPair n c).pairs = aput s.pairs n c := rfl
@[simp] theorem State.setPair_dies (s : State) (n : Nat) (c : CorePair) : (s.setPair n c).dies = s.dies := rfl
@[simp] theorem State.setPair_hbm (s : State) (n : Nat) (c : CorePair) : (s.setPair n c).hbm = s.hbm := rfl
@[simp] theorem State.setPair_hbmBad (s : State) (n : Nat) (c : CorePair) : (s.setPair n c).hbmBad = s.hbmBad := rfl
@[simp] theorem State.setPair_vault (s : State) (n : Nat) (c : CorePair) : (s.setPair n c).vault = s.vault := rfl
@[simp] theorem State.setPair_vaultBad (s : State) (n : Nat) (c : CorePair) : (s.setPair n c).vaultBad = s.vaultBad := rfl
@[simp] theorem State.setPair_host (s : State) (n : Nat) (c : CorePair) : (s.setPair n c).host = s.host := rfl
@[simp] theorem State.setPair_hostBad (s : State) (n : Nat) (c : CorePair) : (s.setPair n c).hostBad = s.hostBad := rfl
@[simp] theorem State.setPair_lineTags (s : State) (n : Nat) (c : CorePair) : (s.setPair n c).lineTags = s.lineTags := rfl
@[simp] theorem State.setPair_queues (s : State) (n : Nat) (c : CorePair) : (s.setPair n c).queues = s.queues := rfl
@[simp] theorem State.setPair_lastQueue (s : State) (n : Nat) (c : CorePair) : (s.setPair n c).lastQueue = s.lastQueue := rfl
@[simp] theorem State.setPair_ctxs (s : State) (n : Nat) (c : CorePair) : (s.setPair n c).ctxs = s.ctxs := rfl
@[simp] theorem State.setPair_quotas (s : State) (n : Nat) (c : CorePair) : (s.setPair n c).quotas = s.quotas := rfl
@[simp] theorem State.setPair_mgmt (s : State) (n : Nat) (c : CorePair) : (s.setPair n c).mgmt = s.mgmt := rfl
@[simp] theorem State.setPair_ports (s : State) (n : Nat) (c : CorePair) : (s.setPair n c).ports = s.ports := rfl
@[simp] theorem State.setPair_dbg (s : State) (n : Nat) (c : CorePair) : (s.setPair n c).dbg = s.dbg := rfl
@[simp] theorem State.setPair_counters (s : State) (n : Nat) (c : CorePair) : (s.setPair n c).counters = s.counters := rfl
@[simp] theorem State.setPair_turns (s : State) (n : Nat) (c : CorePair) : (s.setPair n c).turns = s.turns := rfl
@[simp] theorem State.setPair_cur (s : State) (n : Nat) (c : CorePair) : (s.setPair n c).cur = s.cur := rfl
@[simp] theorem State.setPair_nextUid (s : State) (n : Nat) (c : CorePair) : (s.setPair n c).nextUid = s.nextUid := rfl
@[simp] theorem State.setPair_nextAcc (s : State) (n : Nat) (c : CorePair) : (s.setPair n c).nextAcc = s.nextAcc := rfl
@[simp] theorem State.setPair_nextSeq (s : State) (n : Nat) (c : CorePair) : (s.setPair n c).nextSeq = s.nextSeq := rfl
@[simp] theorem State.setPair_nextLaunch (s : State) (n : Nat) (c : CorePair) : (s.setPair n c).nextLaunch = s.nextLaunch := rfl
@[simp] theorem State.setPair_nextTile (s : State) (n : Nat) (c : CorePair) : (s.setPair n c).nextTile = s.nextTile := rfl

@[simp] theorem State.setDie_tick (s : State) (n : Nat) (c : Die) : (s.setDie n c).tick = s.tick := rfl
@[simp] theorem State.setDie_teams (s : State) (n : Nat) (c : Die) : (s.setDie n c).teams = s.teams := rfl
@[simp] theorem State.setDie_accs (s : State) (n : Nat) (c : Die) : (s.setDie n c).accs = s.accs := rfl
@[simp] theorem State.setDie_tiles (s : State) (n : Nat) (c : Die) : (s.setDie n c).tiles = s.tiles := rfl
@[simp] theorem State.setDie_launches (s : State) (n : Nat) (c : Die) : (s.setDie n c).launches = s.launches := rfl
@[simp] theorem State.setDie_cores (s : State) (n : Nat) (c : Die) : (s.setDie n c).cores = s.cores := rfl
@[simp] theorem State.setDie_pairs (s : State) (n : Nat) (c : Die) : (s.setDie n c).pairs = s.pairs := rfl
@[simp] theorem State.setDie_dies (s : State) (n : Nat) (c : Die) : (s.setDie n c).dies = aput s.dies n c := rfl
@[simp] theorem State.setDie_hbm (s : State) (n : Nat) (c : Die) : (s.setDie n c).hbm = s.hbm := rfl
@[simp] theorem State.setDie_hbmBad (s : State) (n : Nat) (c : Die) : (s.setDie n c).hbmBad = s.hbmBad := rfl
@[simp] theorem State.setDie_vault (s : State) (n : Nat) (c : Die) : (s.setDie n c).vault = s.vault := rfl
@[simp] theorem State.setDie_vaultBad (s : State) (n : Nat) (c : Die) : (s.setDie n c).vaultBad = s.vaultBad := rfl
@[simp] theorem State.setDie_host (s : State) (n : Nat) (c : Die) : (s.setDie n c).host = s.host := rfl
@[simp] theorem State.setDie_hostBad (s : State) (n : Nat) (c : Die) : (s.setDie n c).hostBad = s.hostBad := rfl
@[simp] theorem State.setDie_lineTags (s : State) (n : Nat) (c : Die) : (s.setDie n c).lineTags = s.lineTags := rfl
@[simp] theorem State.setDie_queues (s : State) (n : Nat) (c : Die) : (s.setDie n c).queues = s.queues := rfl
@[simp] theorem State.setDie_lastQueue (s : State) (n : Nat) (c : Die) : (s.setDie n c).lastQueue = s.lastQueue := rfl
@[simp] theorem State.setDie_ctxs (s : State) (n : Nat) (c : Die) : (s.setDie n c).ctxs = s.ctxs := rfl
@[simp] theorem State.setDie_quotas (s : State) (n : Nat) (c : Die) : (s.setDie n c).quotas = s.quotas := rfl
@[simp] theorem State.setDie_mgmt (s : State) (n : Nat) (c : Die) : (s.setDie n c).mgmt = s.mgmt := rfl
@[simp] theorem State.setDie_ports (s : State) (n : Nat) (c : Die) : (s.setDie n c).ports = s.ports := rfl
@[simp] theorem State.setDie_dbg (s : State) (n : Nat) (c : Die) : (s.setDie n c).dbg = s.dbg := rfl
@[simp] theorem State.setDie_counters (s : State) (n : Nat) (c : Die) : (s.setDie n c).counters = s.counters := rfl
@[simp] theorem State.setDie_turns (s : State) (n : Nat) (c : Die) : (s.setDie n c).turns = s.turns := rfl
@[simp] theorem State.setDie_cur (s : State) (n : Nat) (c : Die) : (s.setDie n c).cur = s.cur := rfl
@[simp] theorem State.setDie_nextUid (s : State) (n : Nat) (c : Die) : (s.setDie n c).nextUid = s.nextUid := rfl
@[simp] theorem State.setDie_nextAcc (s : State) (n : Nat) (c : Die) : (s.setDie n c).nextAcc = s.nextAcc := rfl
@[simp] theorem State.setDie_nextSeq (s : State) (n : Nat) (c : Die) : (s.setDie n c).nextSeq = s.nextSeq := rfl
@[simp] theorem State.setDie_nextLaunch (s : State) (n : Nat) (c : Die) : (s.setDie n c).nextLaunch = s.nextLaunch := rfl
@[simp] theorem State.setDie_nextTile (s : State) (n : Nat) (c : Die) : (s.setDie n c).nextTile = s.nextTile := rfl

@[simp] theorem State.setQueue_tick (s : State) (n : Nat) (c : Queue) : (s.setQueue n c).tick = s.tick := rfl
@[simp] theorem State.setQueue_teams (s : State) (n : Nat) (c : Queue) : (s.setQueue n c).teams = s.teams := rfl
@[simp] theorem State.setQueue_accs (s : State) (n : Nat) (c : Queue) : (s.setQueue n c).accs = s.accs := rfl
@[simp] theorem State.setQueue_tiles (s : State) (n : Nat) (c : Queue) : (s.setQueue n c).tiles = s.tiles := rfl
@[simp] theorem State.setQueue_launches (s : State) (n : Nat) (c : Queue) : (s.setQueue n c).launches = s.launches := rfl
@[simp] theorem State.setQueue_cores (s : State) (n : Nat) (c : Queue) : (s.setQueue n c).cores = s.cores := rfl
@[simp] theorem State.setQueue_pairs (s : State) (n : Nat) (c : Queue) : (s.setQueue n c).pairs = s.pairs := rfl
@[simp] theorem State.setQueue_dies (s : State) (n : Nat) (c : Queue) : (s.setQueue n c).dies = s.dies := rfl
@[simp] theorem State.setQueue_hbm (s : State) (n : Nat) (c : Queue) : (s.setQueue n c).hbm = s.hbm := rfl
@[simp] theorem State.setQueue_hbmBad (s : State) (n : Nat) (c : Queue) : (s.setQueue n c).hbmBad = s.hbmBad := rfl
@[simp] theorem State.setQueue_vault (s : State) (n : Nat) (c : Queue) : (s.setQueue n c).vault = s.vault := rfl
@[simp] theorem State.setQueue_vaultBad (s : State) (n : Nat) (c : Queue) : (s.setQueue n c).vaultBad = s.vaultBad := rfl
@[simp] theorem State.setQueue_host (s : State) (n : Nat) (c : Queue) : (s.setQueue n c).host = s.host := rfl
@[simp] theorem State.setQueue_hostBad (s : State) (n : Nat) (c : Queue) : (s.setQueue n c).hostBad = s.hostBad := rfl
@[simp] theorem State.setQueue_lineTags (s : State) (n : Nat) (c : Queue) : (s.setQueue n c).lineTags = s.lineTags := rfl
@[simp] theorem State.setQueue_queues (s : State) (n : Nat) (c : Queue) : (s.setQueue n c).queues = aput s.queues n c := rfl
@[simp] theorem State.setQueue_lastQueue (s : State) (n : Nat) (c : Queue) : (s.setQueue n c).lastQueue = s.lastQueue := rfl
@[simp] theorem State.setQueue_ctxs (s : State) (n : Nat) (c : Queue) : (s.setQueue n c).ctxs = s.ctxs := rfl
@[simp] theorem State.setQueue_quotas (s : State) (n : Nat) (c : Queue) : (s.setQueue n c).quotas = s.quotas := rfl
@[simp] theorem State.setQueue_mgmt (s : State) (n : Nat) (c : Queue) : (s.setQueue n c).mgmt = s.mgmt := rfl
@[simp] theorem State.setQueue_ports (s : State) (n : Nat) (c : Queue) : (s.setQueue n c).ports = s.ports := rfl
@[simp] theorem State.setQueue_dbg (s : State) (n : Nat) (c : Queue) : (s.setQueue n c).dbg = s.dbg := rfl
@[simp] theorem State.setQueue_counters (s : State) (n : Nat) (c : Queue) : (s.setQueue n c).counters = s.counters := rfl
@[simp] theorem State.setQueue_turns (s : State) (n : Nat) (c : Queue) : (s.setQueue n c).turns = s.turns := rfl
@[simp] theorem State.setQueue_cur (s : State) (n : Nat) (c : Queue) : (s.setQueue n c).cur = s.cur := rfl
@[simp] theorem State.setQueue_nextUid (s : State) (n : Nat) (c : Queue) : (s.setQueue n c).nextUid = s.nextUid := rfl
@[simp] theorem State.setQueue_nextAcc (s : State) (n : Nat) (c : Queue) : (s.setQueue n c).nextAcc = s.nextAcc := rfl
@[simp] theorem State.setQueue_nextSeq (s : State) (n : Nat) (c : Queue) : (s.setQueue n c).nextSeq = s.nextSeq := rfl
@[simp] theorem State.setQueue_nextLaunch (s : State) (n : Nat) (c : Queue) : (s.setQueue n c).nextLaunch = s.nextLaunch := rfl
@[simp] theorem State.setQueue_nextTile (s : State) (n : Nat) (c : Queue) : (s.setQueue n c).nextTile = s.nextTile := rfl

@[simp] theorem State.setPort_tick (s : State) (n : Nat) (c : Port) : (s.setPort n c).tick = s.tick := rfl
@[simp] theorem State.setPort_teams (s : State) (n : Nat) (c : Port) : (s.setPort n c).teams = s.teams := rfl
@[simp] theorem State.setPort_accs (s : State) (n : Nat) (c : Port) : (s.setPort n c).accs = s.accs := rfl
@[simp] theorem State.setPort_tiles (s : State) (n : Nat) (c : Port) : (s.setPort n c).tiles = s.tiles := rfl
@[simp] theorem State.setPort_launches (s : State) (n : Nat) (c : Port) : (s.setPort n c).launches = s.launches := rfl
@[simp] theorem State.setPort_cores (s : State) (n : Nat) (c : Port) : (s.setPort n c).cores = s.cores := rfl
@[simp] theorem State.setPort_pairs (s : State) (n : Nat) (c : Port) : (s.setPort n c).pairs = s.pairs := rfl
@[simp] theorem State.setPort_dies (s : State) (n : Nat) (c : Port) : (s.setPort n c).dies = s.dies := rfl
@[simp] theorem State.setPort_hbm (s : State) (n : Nat) (c : Port) : (s.setPort n c).hbm = s.hbm := rfl
@[simp] theorem State.setPort_hbmBad (s : State) (n : Nat) (c : Port) : (s.setPort n c).hbmBad = s.hbmBad := rfl
@[simp] theorem State.setPort_vault (s : State) (n : Nat) (c : Port) : (s.setPort n c).vault = s.vault := rfl
@[simp] theorem State.setPort_vaultBad (s : State) (n : Nat) (c : Port) : (s.setPort n c).vaultBad = s.vaultBad := rfl
@[simp] theorem State.setPort_host (s : State) (n : Nat) (c : Port) : (s.setPort n c).host = s.host := rfl
@[simp] theorem State.setPort_hostBad (s : State) (n : Nat) (c : Port) : (s.setPort n c).hostBad = s.hostBad := rfl
@[simp] theorem State.setPort_lineTags (s : State) (n : Nat) (c : Port) : (s.setPort n c).lineTags = s.lineTags := rfl
@[simp] theorem State.setPort_queues (s : State) (n : Nat) (c : Port) : (s.setPort n c).queues = s.queues := rfl
@[simp] theorem State.setPort_lastQueue (s : State) (n : Nat) (c : Port) : (s.setPort n c).lastQueue = s.lastQueue := rfl
@[simp] theorem State.setPort_ctxs (s : State) (n : Nat) (c : Port) : (s.setPort n c).ctxs = s.ctxs := rfl
@[simp] theorem State.setPort_quotas (s : State) (n : Nat) (c : Port) : (s.setPort n c).quotas = s.quotas := rfl
@[simp] theorem State.setPort_mgmt (s : State) (n : Nat) (c : Port) : (s.setPort n c).mgmt = s.mgmt := rfl
@[simp] theorem State.setPort_ports (s : State) (n : Nat) (c : Port) : (s.setPort n c).ports = aput s.ports n c := rfl
@[simp] theorem State.setPort_dbg (s : State) (n : Nat) (c : Port) : (s.setPort n c).dbg = s.dbg := rfl
@[simp] theorem State.setPort_counters (s : State) (n : Nat) (c : Port) : (s.setPort n c).counters = s.counters := rfl
@[simp] theorem State.setPort_turns (s : State) (n : Nat) (c : Port) : (s.setPort n c).turns = s.turns := rfl
@[simp] theorem State.setPort_cur (s : State) (n : Nat) (c : Port) : (s.setPort n c).cur = s.cur := rfl
@[simp] theorem State.setPort_nextUid (s : State) (n : Nat) (c : Port) : (s.setPort n c).nextUid = s.nextUid := rfl
@[simp] theorem State.setPort_nextAcc (s : State) (n : Nat) (c : Port) : (s.setPort n c).nextAcc = s.nextAcc := rfl
@[simp] theorem State.setPort_nextSeq (s : State) (n : Nat) (c : Port) : (s.setPort n c).nextSeq = s.nextSeq := rfl
@[simp] theorem State.setPort_nextLaunch (s : State) (n : Nat) (c : Port) : (s.setPort n c).nextLaunch = s.nextLaunch := rfl
@[simp] theorem State.setPort_nextTile (s : State) (n : Nat) (c : Port) : (s.setPort n c).nextTile = s.nextTile := rfl

@[simp] theorem State.setLaunch_tick (s : State) (n : Nat) (c : Launch) : (s.setLaunch n c).tick = s.tick := rfl
@[simp] theorem State.setLaunch_teams (s : State) (n : Nat) (c : Launch) : (s.setLaunch n c).teams = s.teams := rfl
@[simp] theorem State.setLaunch_accs (s : State) (n : Nat) (c : Launch) : (s.setLaunch n c).accs = s.accs := rfl
@[simp] theorem State.setLaunch_tiles (s : State) (n : Nat) (c : Launch) : (s.setLaunch n c).tiles = s.tiles := rfl
@[simp] theorem State.setLaunch_launches (s : State) (n : Nat) (c : Launch) : (s.setLaunch n c).launches = aput s.launches n c := rfl
@[simp] theorem State.setLaunch_cores (s : State) (n : Nat) (c : Launch) : (s.setLaunch n c).cores = s.cores := rfl
@[simp] theorem State.setLaunch_pairs (s : State) (n : Nat) (c : Launch) : (s.setLaunch n c).pairs = s.pairs := rfl
@[simp] theorem State.setLaunch_dies (s : State) (n : Nat) (c : Launch) : (s.setLaunch n c).dies = s.dies := rfl
@[simp] theorem State.setLaunch_hbm (s : State) (n : Nat) (c : Launch) : (s.setLaunch n c).hbm = s.hbm := rfl
@[simp] theorem State.setLaunch_hbmBad (s : State) (n : Nat) (c : Launch) : (s.setLaunch n c).hbmBad = s.hbmBad := rfl
@[simp] theorem State.setLaunch_vault (s : State) (n : Nat) (c : Launch) : (s.setLaunch n c).vault = s.vault := rfl
@[simp] theorem State.setLaunch_vaultBad (s : State) (n : Nat) (c : Launch) : (s.setLaunch n c).vaultBad = s.vaultBad := rfl
@[simp] theorem State.setLaunch_host (s : State) (n : Nat) (c : Launch) : (s.setLaunch n c).host = s.host := rfl
@[simp] theorem State.setLaunch_hostBad (s : State) (n : Nat) (c : Launch) : (s.setLaunch n c).hostBad = s.hostBad := rfl
@[simp] theorem State.setLaunch_lineTags (s : State) (n : Nat) (c : Launch) : (s.setLaunch n c).lineTags = s.lineTags := rfl
@[simp] theorem State.setLaunch_queues (s : State) (n : Nat) (c : Launch) : (s.setLaunch n c).queues = s.queues := rfl
@[simp] theorem State.setLaunch_lastQueue (s : State) (n : Nat) (c : Launch) : (s.setLaunch n c).lastQueue = s.lastQueue := rfl
@[simp] theorem State.setLaunch_ctxs (s : State) (n : Nat) (c : Launch) : (s.setLaunch n c).ctxs = s.ctxs := rfl
@[simp] theorem State.setLaunch_quotas (s : State) (n : Nat) (c : Launch) : (s.setLaunch n c).quotas = s.quotas := rfl
@[simp] theorem State.setLaunch_mgmt (s : State) (n : Nat) (c : Launch) : (s.setLaunch n c).mgmt = s.mgmt := rfl
@[simp] theorem State.setLaunch_ports (s : State) (n : Nat) (c : Launch) : (s.setLaunch n c).ports = s.ports := rfl
@[simp] theorem State.setLaunch_dbg (s : State) (n : Nat) (c : Launch) : (s.setLaunch n c).dbg = s.dbg := rfl
@[simp] theorem State.setLaunch_counters (s : State) (n : Nat) (c : Launch) : (s.setLaunch n c).counters = s.counters := rfl
@[simp] theorem State.setLaunch_turns (s : State) (n : Nat) (c : Launch) : (s.setLaunch n c).turns = s.turns := rfl
@[simp] theorem State.setLaunch_cur (s : State) (n : Nat) (c : Launch) : (s.setLaunch n c).cur = s.cur := rfl
@[simp] theorem State.setLaunch_nextUid (s : State) (n : Nat) (c : Launch) : (s.setLaunch n c).nextUid = s.nextUid := rfl
@[simp] theorem State.setLaunch_nextAcc (s : State) (n : Nat) (c : Launch) : (s.setLaunch n c).nextAcc = s.nextAcc := rfl
@[simp] theorem State.setLaunch_nextSeq (s : State) (n : Nat) (c : Launch) : (s.setLaunch n c).nextSeq = s.nextSeq := rfl
@[simp] theorem State.setLaunch_nextLaunch (s : State) (n : Nat) (c : Launch) : (s.setLaunch n c).nextLaunch = s.nextLaunch := rfl
@[simp] theorem State.setLaunch_nextTile (s : State) (n : Nat) (c : Launch) : (s.setLaunch n c).nextTile = s.nextTile := rfl

@[simp] theorem State.setTeam_tick (s : State) (n : Nat) (c : Team) : (s.setTeam n c).tick = s.tick := rfl
@[simp] theorem State.setTeam_teams (s : State) (n : Nat) (c : Team) : (s.setTeam n c).teams = aput s.teams n c := rfl
@[simp] theorem State.setTeam_accs (s : State) (n : Nat) (c : Team) : (s.setTeam n c).accs = s.accs := rfl
@[simp] theorem State.setTeam_tiles (s : State) (n : Nat) (c : Team) : (s.setTeam n c).tiles = s.tiles := rfl
@[simp] theorem State.setTeam_launches (s : State) (n : Nat) (c : Team) : (s.setTeam n c).launches = s.launches := rfl
@[simp] theorem State.setTeam_cores (s : State) (n : Nat) (c : Team) : (s.setTeam n c).cores = s.cores := rfl
@[simp] theorem State.setTeam_pairs (s : State) (n : Nat) (c : Team) : (s.setTeam n c).pairs = s.pairs := rfl
@[simp] theorem State.setTeam_dies (s : State) (n : Nat) (c : Team) : (s.setTeam n c).dies = s.dies := rfl
@[simp] theorem State.setTeam_hbm (s : State) (n : Nat) (c : Team) : (s.setTeam n c).hbm = s.hbm := rfl
@[simp] theorem State.setTeam_hbmBad (s : State) (n : Nat) (c : Team) : (s.setTeam n c).hbmBad = s.hbmBad := rfl
@[simp] theorem State.setTeam_vault (s : State) (n : Nat) (c : Team) : (s.setTeam n c).vault = s.vault := rfl
@[simp] theorem State.setTeam_vaultBad (s : State) (n : Nat) (c : Team) : (s.setTeam n c).vaultBad = s.vaultBad := rfl
@[simp] theorem State.setTeam_host (s : State) (n : Nat) (c : Team) : (s.setTeam n c).host = s.host := rfl
@[simp] theorem State.setTeam_hostBad (s : State) (n : Nat) (c : Team) : (s.setTeam n c).hostBad = s.hostBad := rfl
@[simp] theorem State.setTeam_lineTags (s : State) (n : Nat) (c : Team) : (s.setTeam n c).lineTags = s.lineTags := rfl
@[simp] theorem State.setTeam_queues (s : State) (n : Nat) (c : Team) : (s.setTeam n c).queues = s.queues := rfl
@[simp] theorem State.setTeam_lastQueue (s : State) (n : Nat) (c : Team) : (s.setTeam n c).lastQueue = s.lastQueue := rfl
@[simp] theorem State.setTeam_ctxs (s : State) (n : Nat) (c : Team) : (s.setTeam n c).ctxs = s.ctxs := rfl
@[simp] theorem State.setTeam_quotas (s : State) (n : Nat) (c : Team) : (s.setTeam n c).quotas = s.quotas := rfl
@[simp] theorem State.setTeam_mgmt (s : State) (n : Nat) (c : Team) : (s.setTeam n c).mgmt = s.mgmt := rfl
@[simp] theorem State.setTeam_ports (s : State) (n : Nat) (c : Team) : (s.setTeam n c).ports = s.ports := rfl
@[simp] theorem State.setTeam_dbg (s : State) (n : Nat) (c : Team) : (s.setTeam n c).dbg = s.dbg := rfl
@[simp] theorem State.setTeam_counters (s : State) (n : Nat) (c : Team) : (s.setTeam n c).counters = s.counters := rfl
@[simp] theorem State.setTeam_turns (s : State) (n : Nat) (c : Team) : (s.setTeam n c).turns = s.turns := rfl
@[simp] theorem State.setTeam_cur (s : State) (n : Nat) (c : Team) : (s.setTeam n c).cur = s.cur := rfl
@[simp] theorem State.setTeam_nextUid (s : State) (n : Nat) (c : Team) : (s.setTeam n c).nextUid = s.nextUid := rfl
@[simp] theorem State.setTeam_nextAcc (s : State) (n : Nat) (c : Team) : (s.setTeam n c).nextAcc = s.nextAcc := rfl
@[simp] theorem State.setTeam_nextSeq (s : State) (n : Nat) (c : Team) : (s.setTeam n c).nextSeq = s.nextSeq := rfl
@[simp] theorem State.setTeam_nextLaunch (s : State) (n : Nat) (c : Team) : (s.setTeam n c).nextLaunch = s.nextLaunch := rfl
@[simp] theorem State.setTeam_nextTile (s : State) (n : Nat) (c : Team) : (s.setTeam n c).nextTile = s.nextTile := rfl

@[simp] theorem State.setGrp_tick (s : State) (u g : Nat) (x : Group) : (s.setGrp u g x).tick = s.tick := rfl
@[simp] theorem State.setGrp_accs (s : State) (u g : Nat) (x : Group) : (s.setGrp u g x).accs = s.accs := rfl
@[simp] theorem State.setGrp_tiles (s : State) (u g : Nat) (x : Group) : (s.setGrp u g x).tiles = s.tiles := rfl
@[simp] theorem State.setGrp_launches (s : State) (u g : Nat) (x : Group) : (s.setGrp u g x).launches = s.launches := rfl
@[simp] theorem State.setGrp_cores (s : State) (u g : Nat) (x : Group) : (s.setGrp u g x).cores = s.cores := rfl
@[simp] theorem State.setGrp_pairs (s : State) (u g : Nat) (x : Group) : (s.setGrp u g x).pairs = s.pairs := rfl
@[simp] theorem State.setGrp_dies (s : State) (u g : Nat) (x : Group) : (s.setGrp u g x).dies = s.dies := rfl
@[simp] theorem State.setGrp_hbm (s : State) (u g : Nat) (x : Group) : (s.setGrp u g x).hbm = s.hbm := rfl
@[simp] theorem State.setGrp_hbmBad (s : State) (u g : Nat) (x : Group) : (s.setGrp u g x).hbmBad = s.hbmBad := rfl
@[simp] theorem State.setGrp_vault (s : State) (u g : Nat) (x : Group) : (s.setGrp u g x).vault = s.vault := rfl
@[simp] theorem State.setGrp_vaultBad (s : State) (u g : Nat) (x : Group) : (s.setGrp u g x).vaultBad = s.vaultBad := rfl
@[simp] theorem State.setGrp_host (s : State) (u g : Nat) (x : Group) : (s.setGrp u g x).host = s.host := rfl
@[simp] theorem State.setGrp_hostBad (s : State) (u g : Nat) (x : Group) : (s.setGrp u g x).hostBad = s.hostBad := rfl
@[simp] theorem State.setGrp_lineTags (s : State) (u g : Nat) (x : Group) : (s.setGrp u g x).lineTags = s.lineTags := rfl
@[simp] theorem State.setGrp_queues (s : State) (u g : Nat) (x : Group) : (s.setGrp u g x).queues = s.queues := rfl
@[simp] theorem State.setGrp_lastQueue (s : State) (u g : Nat) (x : Group) : (s.setGrp u g x).lastQueue = s.lastQueue := rfl
@[simp] theorem State.setGrp_ctxs (s : State) (u g : Nat) (x : Group) : (s.setGrp u g x).ctxs = s.ctxs := rfl
@[simp] theorem State.setGrp_quotas (s : State) (u g : Nat) (x : Group) : (s.setGrp u g x).quotas = s.quotas := rfl
@[simp] theorem State.setGrp_mgmt (s : State) (u g : Nat) (x : Group) : (s.setGrp u g x).mgmt = s.mgmt := rfl
@[simp] theorem State.setGrp_ports (s : State) (u g : Nat) (x : Group) : (s.setGrp u g x).ports = s.ports := rfl
@[simp] theorem State.setGrp_dbg (s : State) (u g : Nat) (x : Group) : (s.setGrp u g x).dbg = s.dbg := rfl
@[simp] theorem State.setGrp_counters (s : State) (u g : Nat) (x : Group) : (s.setGrp u g x).counters = s.counters := rfl
@[simp] theorem State.setGrp_turns (s : State) (u g : Nat) (x : Group) : (s.setGrp u g x).turns = s.turns := rfl
@[simp] theorem State.setGrp_cur (s : State) (u g : Nat) (x : Group) : (s.setGrp u g x).cur = s.cur := rfl
@[simp] theorem State.setGrp_nextUid (s : State) (u g : Nat) (x : Group) : (s.setGrp u g x).nextUid = s.nextUid := rfl
@[simp] theorem State.setGrp_nextAcc (s : State) (u g : Nat) (x : Group) : (s.setGrp u g x).nextAcc = s.nextAcc := rfl
@[simp] theorem State.setGrp_nextSeq (s : State) (u g : Nat) (x : Group) : (s.setGrp u g x).nextSeq = s.nextSeq := rfl
@[simp] theorem State.setGrp_nextLaunch (s : State) (u g : Nat) (x : Group) : (s.setGrp u g x).nextLaunch = s.nextLaunch := rfl
@[simp] theorem State.setGrp_nextTile (s : State) (u g : Nat) (x : Group) : (s.setGrp u g x).nextTile = s.nextTile := rfl

@[simp] theorem State.setThr_tick (s : State) (u g l : Nat) (x : Thread) : (s.setThr u g l x).tick = s.tick := rfl
@[simp] theorem State.setThr_accs (s : State) (u g l : Nat) (x : Thread) : (s.setThr u g l x).accs = s.accs := rfl
@[simp] theorem State.setThr_tiles (s : State) (u g l : Nat) (x : Thread) : (s.setThr u g l x).tiles = s.tiles := rfl
@[simp] theorem State.setThr_launches (s : State) (u g l : Nat) (x : Thread) : (s.setThr u g l x).launches = s.launches := rfl
@[simp] theorem State.setThr_cores (s : State) (u g l : Nat) (x : Thread) : (s.setThr u g l x).cores = s.cores := rfl
@[simp] theorem State.setThr_pairs (s : State) (u g l : Nat) (x : Thread) : (s.setThr u g l x).pairs = s.pairs := rfl
@[simp] theorem State.setThr_dies (s : State) (u g l : Nat) (x : Thread) : (s.setThr u g l x).dies = s.dies := rfl
@[simp] theorem State.setThr_hbm (s : State) (u g l : Nat) (x : Thread) : (s.setThr u g l x).hbm = s.hbm := rfl
@[simp] theorem State.setThr_hbmBad (s : State) (u g l : Nat) (x : Thread) : (s.setThr u g l x).hbmBad = s.hbmBad := rfl
@[simp] theorem State.setThr_vault (s : State) (u g l : Nat) (x : Thread) : (s.setThr u g l x).vault = s.vault := rfl
@[simp] theorem State.setThr_vaultBad (s : State) (u g l : Nat) (x : Thread) : (s.setThr u g l x).vaultBad = s.vaultBad := rfl
@[simp] theorem State.setThr_host (s : State) (u g l : Nat) (x : Thread) : (s.setThr u g l x).host = s.host := rfl
@[simp] theorem State.setThr_hostBad (s : State) (u g l : Nat) (x : Thread) : (s.setThr u g l x).hostBad = s.hostBad := rfl
@[simp] theorem State.setThr_lineTags (s : State) (u g l : Nat) (x : Thread) : (s.setThr u g l x).lineTags = s.lineTags := rfl
@[simp] theorem State.setThr_queues (s : State) (u g l : Nat) (x : Thread) : (s.setThr u g l x).queues = s.queues := rfl
@[simp] theorem State.setThr_lastQueue (s : State) (u g l : Nat) (x : Thread) : (s.setThr u g l x).lastQueue = s.lastQueue := rfl
@[simp] theorem State.setThr_ctxs (s : State) (u g l : Nat) (x : Thread) : (s.setThr u g l x).ctxs = s.ctxs := rfl
@[simp] theorem State.setThr_quotas (s : State) (u g l : Nat) (x : Thread) : (s.setThr u g l x).quotas = s.quotas := rfl
@[simp] theorem State.setThr_mgmt (s : State) (u g l : Nat) (x : Thread) : (s.setThr u g l x).mgmt = s.mgmt := rfl
@[simp] theorem State.setThr_ports (s : State) (u g l : Nat) (x : Thread) : (s.setThr u g l x).ports = s.ports := rfl
@[simp] theorem State.setThr_dbg (s : State) (u g l : Nat) (x : Thread) : (s.setThr u g l x).dbg = s.dbg := rfl
@[simp] theorem State.setThr_counters (s : State) (u g l : Nat) (x : Thread) : (s.setThr u g l x).counters = s.counters := rfl
@[simp] theorem State.setThr_turns (s : State) (u g l : Nat) (x : Thread) : (s.setThr u g l x).turns = s.turns := rfl
@[simp] theorem State.setThr_cur (s : State) (u g l : Nat) (x : Thread) : (s.setThr u g l x).cur = s.cur := rfl
@[simp] theorem State.setThr_nextUid (s : State) (u g l : Nat) (x : Thread) : (s.setThr u g l x).nextUid = s.nextUid := rfl
@[simp] theorem State.setThr_nextAcc (s : State) (u g l : Nat) (x : Thread) : (s.setThr u g l x).nextAcc = s.nextAcc := rfl
@[simp] theorem State.setThr_nextSeq (s : State) (u g l : Nat) (x : Thread) : (s.setThr u g l x).nextSeq = s.nextSeq := rfl
@[simp] theorem State.setThr_nextLaunch (s : State) (u g l : Nat) (x : Thread) : (s.setThr u g l x).nextLaunch = s.nextLaunch := rfl
@[simp] theorem State.setThr_nextTile (s : State) (u g l : Nat) (x : Thread) : (s.setThr u g l x).nextTile = s.nextTile := rfl

@[simp] theorem State.setBctx_tick (s : State) (k c : Nat) (x : BCtx) : (s.setBctx k c x).tick = s.tick := rfl
@[simp] theorem State.setBctx_teams (s : State) (k c : Nat) (x : BCtx) : (s.setBctx k c x).teams = s.teams := rfl
@[simp] theorem State.setBctx_accs (s : State) (k c : Nat) (x : BCtx) : (s.setBctx k c x).accs = s.accs := rfl
@[simp] theorem State.setBctx_tiles (s : State) (k c : Nat) (x : BCtx) : (s.setBctx k c x).tiles = s.tiles := rfl
@[simp] theorem State.setBctx_launches (s : State) (k c : Nat) (x : BCtx) : (s.setBctx k c x).launches = s.launches := rfl
@[simp] theorem State.setBctx_pairs (s : State) (k c : Nat) (x : BCtx) : (s.setBctx k c x).pairs = s.pairs := rfl
@[simp] theorem State.setBctx_dies (s : State) (k c : Nat) (x : BCtx) : (s.setBctx k c x).dies = s.dies := rfl
@[simp] theorem State.setBctx_hbm (s : State) (k c : Nat) (x : BCtx) : (s.setBctx k c x).hbm = s.hbm := rfl
@[simp] theorem State.setBctx_hbmBad (s : State) (k c : Nat) (x : BCtx) : (s.setBctx k c x).hbmBad = s.hbmBad := rfl
@[simp] theorem State.setBctx_vault (s : State) (k c : Nat) (x : BCtx) : (s.setBctx k c x).vault = s.vault := rfl
@[simp] theorem State.setBctx_vaultBad (s : State) (k c : Nat) (x : BCtx) : (s.setBctx k c x).vaultBad = s.vaultBad := rfl
@[simp] theorem State.setBctx_host (s : State) (k c : Nat) (x : BCtx) : (s.setBctx k c x).host = s.host := rfl
@[simp] theorem State.setBctx_hostBad (s : State) (k c : Nat) (x : BCtx) : (s.setBctx k c x).hostBad = s.hostBad := rfl
@[simp] theorem State.setBctx_lineTags (s : State) (k c : Nat) (x : BCtx) : (s.setBctx k c x).lineTags = s.lineTags := rfl
@[simp] theorem State.setBctx_queues (s : State) (k c : Nat) (x : BCtx) : (s.setBctx k c x).queues = s.queues := rfl
@[simp] theorem State.setBctx_lastQueue (s : State) (k c : Nat) (x : BCtx) : (s.setBctx k c x).lastQueue = s.lastQueue := rfl
@[simp] theorem State.setBctx_ctxs (s : State) (k c : Nat) (x : BCtx) : (s.setBctx k c x).ctxs = s.ctxs := rfl
@[simp] theorem State.setBctx_quotas (s : State) (k c : Nat) (x : BCtx) : (s.setBctx k c x).quotas = s.quotas := rfl
@[simp] theorem State.setBctx_mgmt (s : State) (k c : Nat) (x : BCtx) : (s.setBctx k c x).mgmt = s.mgmt := rfl
@[simp] theorem State.setBctx_ports (s : State) (k c : Nat) (x : BCtx) : (s.setBctx k c x).ports = s.ports := rfl
@[simp] theorem State.setBctx_dbg (s : State) (k c : Nat) (x : BCtx) : (s.setBctx k c x).dbg = s.dbg := rfl
@[simp] theorem State.setBctx_counters (s : State) (k c : Nat) (x : BCtx) : (s.setBctx k c x).counters = s.counters := rfl
@[simp] theorem State.setBctx_turns (s : State) (k c : Nat) (x : BCtx) : (s.setBctx k c x).turns = s.turns := rfl
@[simp] theorem State.setBctx_cur (s : State) (k c : Nat) (x : BCtx) : (s.setBctx k c x).cur = s.cur := rfl
@[simp] theorem State.setBctx_nextUid (s : State) (k c : Nat) (x : BCtx) : (s.setBctx k c x).nextUid = s.nextUid := rfl
@[simp] theorem State.setBctx_nextAcc (s : State) (k c : Nat) (x : BCtx) : (s.setBctx k c x).nextAcc = s.nextAcc := rfl
@[simp] theorem State.setBctx_nextSeq (s : State) (k c : Nat) (x : BCtx) : (s.setBctx k c x).nextSeq = s.nextSeq := rfl
@[simp] theorem State.setBctx_nextLaunch (s : State) (k c : Nat) (x : BCtx) : (s.setBctx k c x).nextLaunch = s.nextLaunch := rfl
@[simp] theorem State.setBctx_nextTile (s : State) (k c : Nat) (x : BCtx) : (s.setBctx k c x).nextTile = s.nextTile := rfl

/-! ## Updates of an agent: only teams and cores change -/

@[simp] theorem State.setPc_tick (s : State) (ag : Agent) (p : Word) : (s.setPc ag p).tick = s.tick := by cases ag <;> rfl
@[simp] theorem State.setPc_accs (s : State) (ag : Agent) (p : Word) : (s.setPc ag p).accs = s.accs := by cases ag <;> rfl
@[simp] theorem State.setPc_tiles (s : State) (ag : Agent) (p : Word) : (s.setPc ag p).tiles = s.tiles := by cases ag <;> rfl
@[simp] theorem State.setPc_launches (s : State) (ag : Agent) (p : Word) : (s.setPc ag p).launches = s.launches := by cases ag <;> rfl
@[simp] theorem State.setPc_pairs (s : State) (ag : Agent) (p : Word) : (s.setPc ag p).pairs = s.pairs := by cases ag <;> rfl
@[simp] theorem State.setPc_dies (s : State) (ag : Agent) (p : Word) : (s.setPc ag p).dies = s.dies := by cases ag <;> rfl
@[simp] theorem State.setPc_hbm (s : State) (ag : Agent) (p : Word) : (s.setPc ag p).hbm = s.hbm := by cases ag <;> rfl
@[simp] theorem State.setPc_hbmBad (s : State) (ag : Agent) (p : Word) : (s.setPc ag p).hbmBad = s.hbmBad := by cases ag <;> rfl
@[simp] theorem State.setPc_vault (s : State) (ag : Agent) (p : Word) : (s.setPc ag p).vault = s.vault := by cases ag <;> rfl
@[simp] theorem State.setPc_vaultBad (s : State) (ag : Agent) (p : Word) : (s.setPc ag p).vaultBad = s.vaultBad := by cases ag <;> rfl
@[simp] theorem State.setPc_host (s : State) (ag : Agent) (p : Word) : (s.setPc ag p).host = s.host := by cases ag <;> rfl
@[simp] theorem State.setPc_hostBad (s : State) (ag : Agent) (p : Word) : (s.setPc ag p).hostBad = s.hostBad := by cases ag <;> rfl
@[simp] theorem State.setPc_lineTags (s : State) (ag : Agent) (p : Word) : (s.setPc ag p).lineTags = s.lineTags := by cases ag <;> rfl
@[simp] theorem State.setPc_queues (s : State) (ag : Agent) (p : Word) : (s.setPc ag p).queues = s.queues := by cases ag <;> rfl
@[simp] theorem State.setPc_lastQueue (s : State) (ag : Agent) (p : Word) : (s.setPc ag p).lastQueue = s.lastQueue := by cases ag <;> rfl
@[simp] theorem State.setPc_ctxs (s : State) (ag : Agent) (p : Word) : (s.setPc ag p).ctxs = s.ctxs := by cases ag <;> rfl
@[simp] theorem State.setPc_quotas (s : State) (ag : Agent) (p : Word) : (s.setPc ag p).quotas = s.quotas := by cases ag <;> rfl
@[simp] theorem State.setPc_mgmt (s : State) (ag : Agent) (p : Word) : (s.setPc ag p).mgmt = s.mgmt := by cases ag <;> rfl
@[simp] theorem State.setPc_ports (s : State) (ag : Agent) (p : Word) : (s.setPc ag p).ports = s.ports := by cases ag <;> rfl
@[simp] theorem State.setPc_dbg (s : State) (ag : Agent) (p : Word) : (s.setPc ag p).dbg = s.dbg := by cases ag <;> rfl
@[simp] theorem State.setPc_counters (s : State) (ag : Agent) (p : Word) : (s.setPc ag p).counters = s.counters := by cases ag <;> rfl
@[simp] theorem State.setPc_turns (s : State) (ag : Agent) (p : Word) : (s.setPc ag p).turns = s.turns := by cases ag <;> rfl
@[simp] theorem State.setPc_cur (s : State) (ag : Agent) (p : Word) : (s.setPc ag p).cur = s.cur := by cases ag <;> rfl
@[simp] theorem State.setPc_nextUid (s : State) (ag : Agent) (p : Word) : (s.setPc ag p).nextUid = s.nextUid := by cases ag <;> rfl
@[simp] theorem State.setPc_nextAcc (s : State) (ag : Agent) (p : Word) : (s.setPc ag p).nextAcc = s.nextAcc := by cases ag <;> rfl
@[simp] theorem State.setPc_nextSeq (s : State) (ag : Agent) (p : Word) : (s.setPc ag p).nextSeq = s.nextSeq := by cases ag <;> rfl
@[simp] theorem State.setPc_nextLaunch (s : State) (ag : Agent) (p : Word) : (s.setPc ag p).nextLaunch = s.nextLaunch := by cases ag <;> rfl
@[simp] theorem State.setPc_nextTile (s : State) (ag : Agent) (p : Word) : (s.setPc ag p).nextTile = s.nextTile := by cases ag <;> rfl

@[simp] theorem State.setCC_tick (s : State) (ag : Agent) (x : CC) : (s.setCC ag x).tick = s.tick := by cases ag <;> rfl
@[simp] theorem State.setCC_accs (s : State) (ag : Agent) (x : CC) : (s.setCC ag x).accs = s.accs := by cases ag <;> rfl
@[simp] theorem State.setCC_tiles (s : State) (ag : Agent) (x : CC) : (s.setCC ag x).tiles = s.tiles := by cases ag <;> rfl
@[simp] theorem State.setCC_launches (s : State) (ag : Agent) (x : CC) : (s.setCC ag x).launches = s.launches := by cases ag <;> rfl
@[simp] theorem State.setCC_pairs (s : State) (ag : Agent) (x : CC) : (s.setCC ag x).pairs = s.pairs := by cases ag <;> rfl
@[simp] theorem State.setCC_dies (s : State) (ag : Agent) (x : CC) : (s.setCC ag x).dies = s.dies := by cases ag <;> rfl
@[simp] theorem State.setCC_hbm (s : State) (ag : Agent) (x : CC) : (s.setCC ag x).hbm = s.hbm := by cases ag <;> rfl
@[simp] theorem State.setCC_hbmBad (s : State) (ag : Agent) (x : CC) : (s.setCC ag x).hbmBad = s.hbmBad := by cases ag <;> rfl
@[simp] theorem State.setCC_vault (s : State) (ag : Agent) (x : CC) : (s.setCC ag x).vault = s.vault := by cases ag <;> rfl
@[simp] theorem State.setCC_vaultBad (s : State) (ag : Agent) (x : CC) : (s.setCC ag x).vaultBad = s.vaultBad := by cases ag <;> rfl
@[simp] theorem State.setCC_host (s : State) (ag : Agent) (x : CC) : (s.setCC ag x).host = s.host := by cases ag <;> rfl
@[simp] theorem State.setCC_hostBad (s : State) (ag : Agent) (x : CC) : (s.setCC ag x).hostBad = s.hostBad := by cases ag <;> rfl
@[simp] theorem State.setCC_lineTags (s : State) (ag : Agent) (x : CC) : (s.setCC ag x).lineTags = s.lineTags := by cases ag <;> rfl
@[simp] theorem State.setCC_queues (s : State) (ag : Agent) (x : CC) : (s.setCC ag x).queues = s.queues := by cases ag <;> rfl
@[simp] theorem State.setCC_lastQueue (s : State) (ag : Agent) (x : CC) : (s.setCC ag x).lastQueue = s.lastQueue := by cases ag <;> rfl
@[simp] theorem State.setCC_ctxs (s : State) (ag : Agent) (x : CC) : (s.setCC ag x).ctxs = s.ctxs := by cases ag <;> rfl
@[simp] theorem State.setCC_quotas (s : State) (ag : Agent) (x : CC) : (s.setCC ag x).quotas = s.quotas := by cases ag <;> rfl
@[simp] theorem State.setCC_mgmt (s : State) (ag : Agent) (x : CC) : (s.setCC ag x).mgmt = s.mgmt := by cases ag <;> rfl
@[simp] theorem State.setCC_ports (s : State) (ag : Agent) (x : CC) : (s.setCC ag x).ports = s.ports := by cases ag <;> rfl
@[simp] theorem State.setCC_dbg (s : State) (ag : Agent) (x : CC) : (s.setCC ag x).dbg = s.dbg := by cases ag <;> rfl
@[simp] theorem State.setCC_counters (s : State) (ag : Agent) (x : CC) : (s.setCC ag x).counters = s.counters := by cases ag <;> rfl
@[simp] theorem State.setCC_turns (s : State) (ag : Agent) (x : CC) : (s.setCC ag x).turns = s.turns := by cases ag <;> rfl
@[simp] theorem State.setCC_cur (s : State) (ag : Agent) (x : CC) : (s.setCC ag x).cur = s.cur := by cases ag <;> rfl
@[simp] theorem State.setCC_nextUid (s : State) (ag : Agent) (x : CC) : (s.setCC ag x).nextUid = s.nextUid := by cases ag <;> rfl
@[simp] theorem State.setCC_nextAcc (s : State) (ag : Agent) (x : CC) : (s.setCC ag x).nextAcc = s.nextAcc := by cases ag <;> rfl
@[simp] theorem State.setCC_nextSeq (s : State) (ag : Agent) (x : CC) : (s.setCC ag x).nextSeq = s.nextSeq := by cases ag <;> rfl
@[simp] theorem State.setCC_nextLaunch (s : State) (ag : Agent) (x : CC) : (s.setCC ag x).nextLaunch = s.nextLaunch := by cases ag <;> rfl
@[simp] theorem State.setCC_nextTile (s : State) (ag : Agent) (x : CC) : (s.setCC ag x).nextTile = s.nextTile := by cases ag <;> rfl

@[simp] theorem State.setPark_tick (s : State) (ag : Agent) (p : Park) : (s.setPark ag p).tick = s.tick := by cases ag <;> rfl
@[simp] theorem State.setPark_accs (s : State) (ag : Agent) (p : Park) : (s.setPark ag p).accs = s.accs := by cases ag <;> rfl
@[simp] theorem State.setPark_tiles (s : State) (ag : Agent) (p : Park) : (s.setPark ag p).tiles = s.tiles := by cases ag <;> rfl
@[simp] theorem State.setPark_launches (s : State) (ag : Agent) (p : Park) : (s.setPark ag p).launches = s.launches := by cases ag <;> rfl
@[simp] theorem State.setPark_pairs (s : State) (ag : Agent) (p : Park) : (s.setPark ag p).pairs = s.pairs := by cases ag <;> rfl
@[simp] theorem State.setPark_dies (s : State) (ag : Agent) (p : Park) : (s.setPark ag p).dies = s.dies := by cases ag <;> rfl
@[simp] theorem State.setPark_hbm (s : State) (ag : Agent) (p : Park) : (s.setPark ag p).hbm = s.hbm := by cases ag <;> rfl
@[simp] theorem State.setPark_hbmBad (s : State) (ag : Agent) (p : Park) : (s.setPark ag p).hbmBad = s.hbmBad := by cases ag <;> rfl
@[simp] theorem State.setPark_vault (s : State) (ag : Agent) (p : Park) : (s.setPark ag p).vault = s.vault := by cases ag <;> rfl
@[simp] theorem State.setPark_vaultBad (s : State) (ag : Agent) (p : Park) : (s.setPark ag p).vaultBad = s.vaultBad := by cases ag <;> rfl
@[simp] theorem State.setPark_host (s : State) (ag : Agent) (p : Park) : (s.setPark ag p).host = s.host := by cases ag <;> rfl
@[simp] theorem State.setPark_hostBad (s : State) (ag : Agent) (p : Park) : (s.setPark ag p).hostBad = s.hostBad := by cases ag <;> rfl
@[simp] theorem State.setPark_lineTags (s : State) (ag : Agent) (p : Park) : (s.setPark ag p).lineTags = s.lineTags := by cases ag <;> rfl
@[simp] theorem State.setPark_queues (s : State) (ag : Agent) (p : Park) : (s.setPark ag p).queues = s.queues := by cases ag <;> rfl
@[simp] theorem State.setPark_lastQueue (s : State) (ag : Agent) (p : Park) : (s.setPark ag p).lastQueue = s.lastQueue := by cases ag <;> rfl
@[simp] theorem State.setPark_ctxs (s : State) (ag : Agent) (p : Park) : (s.setPark ag p).ctxs = s.ctxs := by cases ag <;> rfl
@[simp] theorem State.setPark_quotas (s : State) (ag : Agent) (p : Park) : (s.setPark ag p).quotas = s.quotas := by cases ag <;> rfl
@[simp] theorem State.setPark_mgmt (s : State) (ag : Agent) (p : Park) : (s.setPark ag p).mgmt = s.mgmt := by cases ag <;> rfl
@[simp] theorem State.setPark_ports (s : State) (ag : Agent) (p : Park) : (s.setPark ag p).ports = s.ports := by cases ag <;> rfl
@[simp] theorem State.setPark_dbg (s : State) (ag : Agent) (p : Park) : (s.setPark ag p).dbg = s.dbg := by cases ag <;> rfl
@[simp] theorem State.setPark_counters (s : State) (ag : Agent) (p : Park) : (s.setPark ag p).counters = s.counters := by cases ag <;> rfl
@[simp] theorem State.setPark_turns (s : State) (ag : Agent) (p : Park) : (s.setPark ag p).turns = s.turns := by cases ag <;> rfl
@[simp] theorem State.setPark_cur (s : State) (ag : Agent) (p : Park) : (s.setPark ag p).cur = s.cur := by cases ag <;> rfl
@[simp] theorem State.setPark_nextUid (s : State) (ag : Agent) (p : Park) : (s.setPark ag p).nextUid = s.nextUid := by cases ag <;> rfl
@[simp] theorem State.setPark_nextAcc (s : State) (ag : Agent) (p : Park) : (s.setPark ag p).nextAcc = s.nextAcc := by cases ag <;> rfl
@[simp] theorem State.setPark_nextSeq (s : State) (ag : Agent) (p : Park) : (s.setPark ag p).nextSeq = s.nextSeq := by cases ag <;> rfl
@[simp] theorem State.setPark_nextLaunch (s : State) (ag : Agent) (p : Park) : (s.setPark ag p).nextLaunch = s.nextLaunch := by cases ag <;> rfl
@[simp] theorem State.setPark_nextTile (s : State) (ag : Agent) (p : Park) : (s.setPark ag p).nextTile = s.nextTile := by cases ag <;> rfl

@[simp] theorem State.setTrap_tick (s : State) (ag : Agent) (x : TrapState) : (s.setTrap ag x).tick = s.tick := by cases ag <;> rfl
@[simp] theorem State.setTrap_accs (s : State) (ag : Agent) (x : TrapState) : (s.setTrap ag x).accs = s.accs := by cases ag <;> rfl
@[simp] theorem State.setTrap_tiles (s : State) (ag : Agent) (x : TrapState) : (s.setTrap ag x).tiles = s.tiles := by cases ag <;> rfl
@[simp] theorem State.setTrap_launches (s : State) (ag : Agent) (x : TrapState) : (s.setTrap ag x).launches = s.launches := by cases ag <;> rfl
@[simp] theorem State.setTrap_pairs (s : State) (ag : Agent) (x : TrapState) : (s.setTrap ag x).pairs = s.pairs := by cases ag <;> rfl
@[simp] theorem State.setTrap_dies (s : State) (ag : Agent) (x : TrapState) : (s.setTrap ag x).dies = s.dies := by cases ag <;> rfl
@[simp] theorem State.setTrap_hbm (s : State) (ag : Agent) (x : TrapState) : (s.setTrap ag x).hbm = s.hbm := by cases ag <;> rfl
@[simp] theorem State.setTrap_hbmBad (s : State) (ag : Agent) (x : TrapState) : (s.setTrap ag x).hbmBad = s.hbmBad := by cases ag <;> rfl
@[simp] theorem State.setTrap_vault (s : State) (ag : Agent) (x : TrapState) : (s.setTrap ag x).vault = s.vault := by cases ag <;> rfl
@[simp] theorem State.setTrap_vaultBad (s : State) (ag : Agent) (x : TrapState) : (s.setTrap ag x).vaultBad = s.vaultBad := by cases ag <;> rfl
@[simp] theorem State.setTrap_host (s : State) (ag : Agent) (x : TrapState) : (s.setTrap ag x).host = s.host := by cases ag <;> rfl
@[simp] theorem State.setTrap_hostBad (s : State) (ag : Agent) (x : TrapState) : (s.setTrap ag x).hostBad = s.hostBad := by cases ag <;> rfl
@[simp] theorem State.setTrap_lineTags (s : State) (ag : Agent) (x : TrapState) : (s.setTrap ag x).lineTags = s.lineTags := by cases ag <;> rfl
@[simp] theorem State.setTrap_queues (s : State) (ag : Agent) (x : TrapState) : (s.setTrap ag x).queues = s.queues := by cases ag <;> rfl
@[simp] theorem State.setTrap_lastQueue (s : State) (ag : Agent) (x : TrapState) : (s.setTrap ag x).lastQueue = s.lastQueue := by cases ag <;> rfl
@[simp] theorem State.setTrap_ctxs (s : State) (ag : Agent) (x : TrapState) : (s.setTrap ag x).ctxs = s.ctxs := by cases ag <;> rfl
@[simp] theorem State.setTrap_quotas (s : State) (ag : Agent) (x : TrapState) : (s.setTrap ag x).quotas = s.quotas := by cases ag <;> rfl
@[simp] theorem State.setTrap_mgmt (s : State) (ag : Agent) (x : TrapState) : (s.setTrap ag x).mgmt = s.mgmt := by cases ag <;> rfl
@[simp] theorem State.setTrap_ports (s : State) (ag : Agent) (x : TrapState) : (s.setTrap ag x).ports = s.ports := by cases ag <;> rfl
@[simp] theorem State.setTrap_dbg (s : State) (ag : Agent) (x : TrapState) : (s.setTrap ag x).dbg = s.dbg := by cases ag <;> rfl
@[simp] theorem State.setTrap_counters (s : State) (ag : Agent) (x : TrapState) : (s.setTrap ag x).counters = s.counters := by cases ag <;> rfl
@[simp] theorem State.setTrap_turns (s : State) (ag : Agent) (x : TrapState) : (s.setTrap ag x).turns = s.turns := by cases ag <;> rfl
@[simp] theorem State.setTrap_cur (s : State) (ag : Agent) (x : TrapState) : (s.setTrap ag x).cur = s.cur := by cases ag <;> rfl
@[simp] theorem State.setTrap_nextUid (s : State) (ag : Agent) (x : TrapState) : (s.setTrap ag x).nextUid = s.nextUid := by cases ag <;> rfl
@[simp] theorem State.setTrap_nextAcc (s : State) (ag : Agent) (x : TrapState) : (s.setTrap ag x).nextAcc = s.nextAcc := by cases ag <;> rfl
@[simp] theorem State.setTrap_nextSeq (s : State) (ag : Agent) (x : TrapState) : (s.setTrap ag x).nextSeq = s.nextSeq := by cases ag <;> rfl
@[simp] theorem State.setTrap_nextLaunch (s : State) (ag : Agent) (x : TrapState) : (s.setTrap ag x).nextLaunch = s.nextLaunch := by cases ag <;> rfl
@[simp] theorem State.setTrap_nextTile (s : State) (ag : Agent) (x : TrapState) : (s.setTrap ag x).nextTile = s.nextTile := by cases ag <;> rfl

@[simp] theorem State.setReg_tick (s : State) (ag : Agent) (r : Reg) (v : Word) : (s.setReg ag r v).tick = s.tick := by
  unfold State.setReg; cases ag <;> (split <;> rfl)
@[simp] theorem State.setReg_accs (s : State) (ag : Agent) (r : Reg) (v : Word) : (s.setReg ag r v).accs = s.accs := by
  unfold State.setReg; cases ag <;> (split <;> rfl)
@[simp] theorem State.setReg_tiles (s : State) (ag : Agent) (r : Reg) (v : Word) : (s.setReg ag r v).tiles = s.tiles := by
  unfold State.setReg; cases ag <;> (split <;> rfl)
@[simp] theorem State.setReg_launches (s : State) (ag : Agent) (r : Reg) (v : Word) : (s.setReg ag r v).launches = s.launches := by
  unfold State.setReg; cases ag <;> (split <;> rfl)
@[simp] theorem State.setReg_pairs (s : State) (ag : Agent) (r : Reg) (v : Word) : (s.setReg ag r v).pairs = s.pairs := by
  unfold State.setReg; cases ag <;> (split <;> rfl)
@[simp] theorem State.setReg_dies (s : State) (ag : Agent) (r : Reg) (v : Word) : (s.setReg ag r v).dies = s.dies := by
  unfold State.setReg; cases ag <;> (split <;> rfl)
@[simp] theorem State.setReg_hbm (s : State) (ag : Agent) (r : Reg) (v : Word) : (s.setReg ag r v).hbm = s.hbm := by
  unfold State.setReg; cases ag <;> (split <;> rfl)
@[simp] theorem State.setReg_hbmBad (s : State) (ag : Agent) (r : Reg) (v : Word) : (s.setReg ag r v).hbmBad = s.hbmBad := by
  unfold State.setReg; cases ag <;> (split <;> rfl)
@[simp] theorem State.setReg_vault (s : State) (ag : Agent) (r : Reg) (v : Word) : (s.setReg ag r v).vault = s.vault := by
  unfold State.setReg; cases ag <;> (split <;> rfl)
@[simp] theorem State.setReg_vaultBad (s : State) (ag : Agent) (r : Reg) (v : Word) : (s.setReg ag r v).vaultBad = s.vaultBad := by
  unfold State.setReg; cases ag <;> (split <;> rfl)
@[simp] theorem State.setReg_host (s : State) (ag : Agent) (r : Reg) (v : Word) : (s.setReg ag r v).host = s.host := by
  unfold State.setReg; cases ag <;> (split <;> rfl)
@[simp] theorem State.setReg_hostBad (s : State) (ag : Agent) (r : Reg) (v : Word) : (s.setReg ag r v).hostBad = s.hostBad := by
  unfold State.setReg; cases ag <;> (split <;> rfl)
@[simp] theorem State.setReg_lineTags (s : State) (ag : Agent) (r : Reg) (v : Word) : (s.setReg ag r v).lineTags = s.lineTags := by
  unfold State.setReg; cases ag <;> (split <;> rfl)
@[simp] theorem State.setReg_queues (s : State) (ag : Agent) (r : Reg) (v : Word) : (s.setReg ag r v).queues = s.queues := by
  unfold State.setReg; cases ag <;> (split <;> rfl)
@[simp] theorem State.setReg_lastQueue (s : State) (ag : Agent) (r : Reg) (v : Word) : (s.setReg ag r v).lastQueue = s.lastQueue := by
  unfold State.setReg; cases ag <;> (split <;> rfl)
@[simp] theorem State.setReg_ctxs (s : State) (ag : Agent) (r : Reg) (v : Word) : (s.setReg ag r v).ctxs = s.ctxs := by
  unfold State.setReg; cases ag <;> (split <;> rfl)
@[simp] theorem State.setReg_quotas (s : State) (ag : Agent) (r : Reg) (v : Word) : (s.setReg ag r v).quotas = s.quotas := by
  unfold State.setReg; cases ag <;> (split <;> rfl)
@[simp] theorem State.setReg_mgmt (s : State) (ag : Agent) (r : Reg) (v : Word) : (s.setReg ag r v).mgmt = s.mgmt := by
  unfold State.setReg; cases ag <;> (split <;> rfl)
@[simp] theorem State.setReg_ports (s : State) (ag : Agent) (r : Reg) (v : Word) : (s.setReg ag r v).ports = s.ports := by
  unfold State.setReg; cases ag <;> (split <;> rfl)
@[simp] theorem State.setReg_dbg (s : State) (ag : Agent) (r : Reg) (v : Word) : (s.setReg ag r v).dbg = s.dbg := by
  unfold State.setReg; cases ag <;> (split <;> rfl)
@[simp] theorem State.setReg_counters (s : State) (ag : Agent) (r : Reg) (v : Word) : (s.setReg ag r v).counters = s.counters := by
  unfold State.setReg; cases ag <;> (split <;> rfl)
@[simp] theorem State.setReg_turns (s : State) (ag : Agent) (r : Reg) (v : Word) : (s.setReg ag r v).turns = s.turns := by
  unfold State.setReg; cases ag <;> (split <;> rfl)
@[simp] theorem State.setReg_cur (s : State) (ag : Agent) (r : Reg) (v : Word) : (s.setReg ag r v).cur = s.cur := by
  unfold State.setReg; cases ag <;> (split <;> rfl)
@[simp] theorem State.setReg_nextUid (s : State) (ag : Agent) (r : Reg) (v : Word) : (s.setReg ag r v).nextUid = s.nextUid := by
  unfold State.setReg; cases ag <;> (split <;> rfl)
@[simp] theorem State.setReg_nextAcc (s : State) (ag : Agent) (r : Reg) (v : Word) : (s.setReg ag r v).nextAcc = s.nextAcc := by
  unfold State.setReg; cases ag <;> (split <;> rfl)
@[simp] theorem State.setReg_nextSeq (s : State) (ag : Agent) (r : Reg) (v : Word) : (s.setReg ag r v).nextSeq = s.nextSeq := by
  unfold State.setReg; cases ag <;> (split <;> rfl)
@[simp] theorem State.setReg_nextLaunch (s : State) (ag : Agent) (r : Reg) (v : Word) : (s.setReg ag r v).nextLaunch = s.nextLaunch := by
  unfold State.setReg; cases ag <;> (split <;> rfl)
@[simp] theorem State.setReg_nextTile (s : State) (ag : Agent) (r : Reg) (v : Word) : (s.setReg ag r v).nextTile = s.nextTile := by
  unfold State.setReg; cases ag <;> (split <;> rfl)

@[simp] theorem State.setReg64_tick (s : State) (ag : Agent) (r : Reg) (v : DWord) : (s.setReg64 ag r v).tick = s.tick := by
  simp [State.setReg64]
@[simp] theorem State.setReg64_accs (s : State) (ag : Agent) (r : Reg) (v : DWord) : (s.setReg64 ag r v).accs = s.accs := by
  simp [State.setReg64]
@[simp] theorem State.setReg64_tiles (s : State) (ag : Agent) (r : Reg) (v : DWord) : (s.setReg64 ag r v).tiles = s.tiles := by
  simp [State.setReg64]
@[simp] theorem State.setReg64_launches (s : State) (ag : Agent) (r : Reg) (v : DWord) : (s.setReg64 ag r v).launches = s.launches := by
  simp [State.setReg64]
@[simp] theorem State.setReg64_pairs (s : State) (ag : Agent) (r : Reg) (v : DWord) : (s.setReg64 ag r v).pairs = s.pairs := by
  simp [State.setReg64]
@[simp] theorem State.setReg64_dies (s : State) (ag : Agent) (r : Reg) (v : DWord) : (s.setReg64 ag r v).dies = s.dies := by
  simp [State.setReg64]
@[simp] theorem State.setReg64_hbm (s : State) (ag : Agent) (r : Reg) (v : DWord) : (s.setReg64 ag r v).hbm = s.hbm := by
  simp [State.setReg64]
@[simp] theorem State.setReg64_hbmBad (s : State) (ag : Agent) (r : Reg) (v : DWord) : (s.setReg64 ag r v).hbmBad = s.hbmBad := by
  simp [State.setReg64]
@[simp] theorem State.setReg64_vault (s : State) (ag : Agent) (r : Reg) (v : DWord) : (s.setReg64 ag r v).vault = s.vault := by
  simp [State.setReg64]
@[simp] theorem State.setReg64_vaultBad (s : State) (ag : Agent) (r : Reg) (v : DWord) : (s.setReg64 ag r v).vaultBad = s.vaultBad := by
  simp [State.setReg64]
@[simp] theorem State.setReg64_host (s : State) (ag : Agent) (r : Reg) (v : DWord) : (s.setReg64 ag r v).host = s.host := by
  simp [State.setReg64]
@[simp] theorem State.setReg64_hostBad (s : State) (ag : Agent) (r : Reg) (v : DWord) : (s.setReg64 ag r v).hostBad = s.hostBad := by
  simp [State.setReg64]
@[simp] theorem State.setReg64_lineTags (s : State) (ag : Agent) (r : Reg) (v : DWord) : (s.setReg64 ag r v).lineTags = s.lineTags := by
  simp [State.setReg64]
@[simp] theorem State.setReg64_queues (s : State) (ag : Agent) (r : Reg) (v : DWord) : (s.setReg64 ag r v).queues = s.queues := by
  simp [State.setReg64]
@[simp] theorem State.setReg64_lastQueue (s : State) (ag : Agent) (r : Reg) (v : DWord) : (s.setReg64 ag r v).lastQueue = s.lastQueue := by
  simp [State.setReg64]
@[simp] theorem State.setReg64_ctxs (s : State) (ag : Agent) (r : Reg) (v : DWord) : (s.setReg64 ag r v).ctxs = s.ctxs := by
  simp [State.setReg64]
@[simp] theorem State.setReg64_quotas (s : State) (ag : Agent) (r : Reg) (v : DWord) : (s.setReg64 ag r v).quotas = s.quotas := by
  simp [State.setReg64]
@[simp] theorem State.setReg64_mgmt (s : State) (ag : Agent) (r : Reg) (v : DWord) : (s.setReg64 ag r v).mgmt = s.mgmt := by
  simp [State.setReg64]
@[simp] theorem State.setReg64_ports (s : State) (ag : Agent) (r : Reg) (v : DWord) : (s.setReg64 ag r v).ports = s.ports := by
  simp [State.setReg64]
@[simp] theorem State.setReg64_dbg (s : State) (ag : Agent) (r : Reg) (v : DWord) : (s.setReg64 ag r v).dbg = s.dbg := by
  simp [State.setReg64]
@[simp] theorem State.setReg64_counters (s : State) (ag : Agent) (r : Reg) (v : DWord) : (s.setReg64 ag r v).counters = s.counters := by
  simp [State.setReg64]
@[simp] theorem State.setReg64_turns (s : State) (ag : Agent) (r : Reg) (v : DWord) : (s.setReg64 ag r v).turns = s.turns := by
  simp [State.setReg64]
@[simp] theorem State.setReg64_cur (s : State) (ag : Agent) (r : Reg) (v : DWord) : (s.setReg64 ag r v).cur = s.cur := by
  simp [State.setReg64]
@[simp] theorem State.setReg64_nextUid (s : State) (ag : Agent) (r : Reg) (v : DWord) : (s.setReg64 ag r v).nextUid = s.nextUid := by
  simp [State.setReg64]
@[simp] theorem State.setReg64_nextAcc (s : State) (ag : Agent) (r : Reg) (v : DWord) : (s.setReg64 ag r v).nextAcc = s.nextAcc := by
  simp [State.setReg64]
@[simp] theorem State.setReg64_nextSeq (s : State) (ag : Agent) (r : Reg) (v : DWord) : (s.setReg64 ag r v).nextSeq = s.nextSeq := by
  simp [State.setReg64]
@[simp] theorem State.setReg64_nextLaunch (s : State) (ag : Agent) (r : Reg) (v : DWord) : (s.setReg64 ag r v).nextLaunch = s.nextLaunch := by
  simp [State.setReg64]
@[simp] theorem State.setReg64_nextTile (s : State) (ag : Agent) (r : Reg) (v : DWord) : (s.setReg64 ag r v).nextTile = s.nextTile := by
  simp [State.setReg64]

@[simp] theorem State.setRegN_tick (s : State) (ag : Agent) (w : Bool) (r : Reg) (n : Nat) : (s.setRegN ag w r n).tick = s.tick := by
  unfold State.setRegN; split <;> simp
@[simp] theorem State.setRegN_accs (s : State) (ag : Agent) (w : Bool) (r : Reg) (n : Nat) : (s.setRegN ag w r n).accs = s.accs := by
  unfold State.setRegN; split <;> simp
@[simp] theorem State.setRegN_tiles (s : State) (ag : Agent) (w : Bool) (r : Reg) (n : Nat) : (s.setRegN ag w r n).tiles = s.tiles := by
  unfold State.setRegN; split <;> simp
@[simp] theorem State.setRegN_launches (s : State) (ag : Agent) (w : Bool) (r : Reg) (n : Nat) : (s.setRegN ag w r n).launches = s.launches := by
  unfold State.setRegN; split <;> simp
@[simp] theorem State.setRegN_pairs (s : State) (ag : Agent) (w : Bool) (r : Reg) (n : Nat) : (s.setRegN ag w r n).pairs = s.pairs := by
  unfold State.setRegN; split <;> simp
@[simp] theorem State.setRegN_dies (s : State) (ag : Agent) (w : Bool) (r : Reg) (n : Nat) : (s.setRegN ag w r n).dies = s.dies := by
  unfold State.setRegN; split <;> simp
@[simp] theorem State.setRegN_hbm (s : State) (ag : Agent) (w : Bool) (r : Reg) (n : Nat) : (s.setRegN ag w r n).hbm = s.hbm := by
  unfold State.setRegN; split <;> simp
@[simp] theorem State.setRegN_hbmBad (s : State) (ag : Agent) (w : Bool) (r : Reg) (n : Nat) : (s.setRegN ag w r n).hbmBad = s.hbmBad := by
  unfold State.setRegN; split <;> simp
@[simp] theorem State.setRegN_vault (s : State) (ag : Agent) (w : Bool) (r : Reg) (n : Nat) : (s.setRegN ag w r n).vault = s.vault := by
  unfold State.setRegN; split <;> simp
@[simp] theorem State.setRegN_vaultBad (s : State) (ag : Agent) (w : Bool) (r : Reg) (n : Nat) : (s.setRegN ag w r n).vaultBad = s.vaultBad := by
  unfold State.setRegN; split <;> simp
@[simp] theorem State.setRegN_host (s : State) (ag : Agent) (w : Bool) (r : Reg) (n : Nat) : (s.setRegN ag w r n).host = s.host := by
  unfold State.setRegN; split <;> simp
@[simp] theorem State.setRegN_hostBad (s : State) (ag : Agent) (w : Bool) (r : Reg) (n : Nat) : (s.setRegN ag w r n).hostBad = s.hostBad := by
  unfold State.setRegN; split <;> simp
@[simp] theorem State.setRegN_lineTags (s : State) (ag : Agent) (w : Bool) (r : Reg) (n : Nat) : (s.setRegN ag w r n).lineTags = s.lineTags := by
  unfold State.setRegN; split <;> simp
@[simp] theorem State.setRegN_queues (s : State) (ag : Agent) (w : Bool) (r : Reg) (n : Nat) : (s.setRegN ag w r n).queues = s.queues := by
  unfold State.setRegN; split <;> simp
@[simp] theorem State.setRegN_lastQueue (s : State) (ag : Agent) (w : Bool) (r : Reg) (n : Nat) : (s.setRegN ag w r n).lastQueue = s.lastQueue := by
  unfold State.setRegN; split <;> simp
@[simp] theorem State.setRegN_ctxs (s : State) (ag : Agent) (w : Bool) (r : Reg) (n : Nat) : (s.setRegN ag w r n).ctxs = s.ctxs := by
  unfold State.setRegN; split <;> simp
@[simp] theorem State.setRegN_quotas (s : State) (ag : Agent) (w : Bool) (r : Reg) (n : Nat) : (s.setRegN ag w r n).quotas = s.quotas := by
  unfold State.setRegN; split <;> simp
@[simp] theorem State.setRegN_mgmt (s : State) (ag : Agent) (w : Bool) (r : Reg) (n : Nat) : (s.setRegN ag w r n).mgmt = s.mgmt := by
  unfold State.setRegN; split <;> simp
@[simp] theorem State.setRegN_ports (s : State) (ag : Agent) (w : Bool) (r : Reg) (n : Nat) : (s.setRegN ag w r n).ports = s.ports := by
  unfold State.setRegN; split <;> simp
@[simp] theorem State.setRegN_dbg (s : State) (ag : Agent) (w : Bool) (r : Reg) (n : Nat) : (s.setRegN ag w r n).dbg = s.dbg := by
  unfold State.setRegN; split <;> simp
@[simp] theorem State.setRegN_counters (s : State) (ag : Agent) (w : Bool) (r : Reg) (n : Nat) : (s.setRegN ag w r n).counters = s.counters := by
  unfold State.setRegN; split <;> simp
@[simp] theorem State.setRegN_turns (s : State) (ag : Agent) (w : Bool) (r : Reg) (n : Nat) : (s.setRegN ag w r n).turns = s.turns := by
  unfold State.setRegN; split <;> simp
@[simp] theorem State.setRegN_cur (s : State) (ag : Agent) (w : Bool) (r : Reg) (n : Nat) : (s.setRegN ag w r n).cur = s.cur := by
  unfold State.setRegN; split <;> simp
@[simp] theorem State.setRegN_nextUid (s : State) (ag : Agent) (w : Bool) (r : Reg) (n : Nat) : (s.setRegN ag w r n).nextUid = s.nextUid := by
  unfold State.setRegN; split <;> simp
@[simp] theorem State.setRegN_nextAcc (s : State) (ag : Agent) (w : Bool) (r : Reg) (n : Nat) : (s.setRegN ag w r n).nextAcc = s.nextAcc := by
  unfold State.setRegN; split <;> simp
@[simp] theorem State.setRegN_nextSeq (s : State) (ag : Agent) (w : Bool) (r : Reg) (n : Nat) : (s.setRegN ag w r n).nextSeq = s.nextSeq := by
  unfold State.setRegN; split <;> simp
@[simp] theorem State.setRegN_nextLaunch (s : State) (ag : Agent) (w : Bool) (r : Reg) (n : Nat) : (s.setRegN ag w r n).nextLaunch = s.nextLaunch := by
  unfold State.setRegN; split <;> simp
@[simp] theorem State.setRegN_nextTile (s : State) (ag : Agent) (w : Bool) (r : Reg) (n : Nat) : (s.setRegN ag w r n).nextTile = s.nextTile := by
  unfold State.setRegN; split <;> simp

@[simp] theorem State.setRegs_tick (s : State) (ag : Agent) (rs : List Reg) (vs : List Word) :
    (s.setRegs ag rs vs).tick = s.tick := by
  induction rs generalizing s vs with
  | nil => rfl
  | cons r rs ih => cases vs <;> simp [State.setRegs, ih]
@[simp] theorem State.setRegs_accs (s : State) (ag : Agent) (rs : List Reg) (vs : List Word) :
    (s.setRegs ag rs vs).accs = s.accs := by
  induction rs generalizing s vs with
  | nil => rfl
  | cons r rs ih => cases vs <;> simp [State.setRegs, ih]
@[simp] theorem State.setRegs_tiles (s : State) (ag : Agent) (rs : List Reg) (vs : List Word) :
    (s.setRegs ag rs vs).tiles = s.tiles := by
  induction rs generalizing s vs with
  | nil => rfl
  | cons r rs ih => cases vs <;> simp [State.setRegs, ih]
@[simp] theorem State.setRegs_launches (s : State) (ag : Agent) (rs : List Reg) (vs : List Word) :
    (s.setRegs ag rs vs).launches = s.launches := by
  induction rs generalizing s vs with
  | nil => rfl
  | cons r rs ih => cases vs <;> simp [State.setRegs, ih]
@[simp] theorem State.setRegs_pairs (s : State) (ag : Agent) (rs : List Reg) (vs : List Word) :
    (s.setRegs ag rs vs).pairs = s.pairs := by
  induction rs generalizing s vs with
  | nil => rfl
  | cons r rs ih => cases vs <;> simp [State.setRegs, ih]
@[simp] theorem State.setRegs_dies (s : State) (ag : Agent) (rs : List Reg) (vs : List Word) :
    (s.setRegs ag rs vs).dies = s.dies := by
  induction rs generalizing s vs with
  | nil => rfl
  | cons r rs ih => cases vs <;> simp [State.setRegs, ih]
@[simp] theorem State.setRegs_hbm (s : State) (ag : Agent) (rs : List Reg) (vs : List Word) :
    (s.setRegs ag rs vs).hbm = s.hbm := by
  induction rs generalizing s vs with
  | nil => rfl
  | cons r rs ih => cases vs <;> simp [State.setRegs, ih]
@[simp] theorem State.setRegs_hbmBad (s : State) (ag : Agent) (rs : List Reg) (vs : List Word) :
    (s.setRegs ag rs vs).hbmBad = s.hbmBad := by
  induction rs generalizing s vs with
  | nil => rfl
  | cons r rs ih => cases vs <;> simp [State.setRegs, ih]
@[simp] theorem State.setRegs_vault (s : State) (ag : Agent) (rs : List Reg) (vs : List Word) :
    (s.setRegs ag rs vs).vault = s.vault := by
  induction rs generalizing s vs with
  | nil => rfl
  | cons r rs ih => cases vs <;> simp [State.setRegs, ih]
@[simp] theorem State.setRegs_vaultBad (s : State) (ag : Agent) (rs : List Reg) (vs : List Word) :
    (s.setRegs ag rs vs).vaultBad = s.vaultBad := by
  induction rs generalizing s vs with
  | nil => rfl
  | cons r rs ih => cases vs <;> simp [State.setRegs, ih]
@[simp] theorem State.setRegs_host (s : State) (ag : Agent) (rs : List Reg) (vs : List Word) :
    (s.setRegs ag rs vs).host = s.host := by
  induction rs generalizing s vs with
  | nil => rfl
  | cons r rs ih => cases vs <;> simp [State.setRegs, ih]
@[simp] theorem State.setRegs_hostBad (s : State) (ag : Agent) (rs : List Reg) (vs : List Word) :
    (s.setRegs ag rs vs).hostBad = s.hostBad := by
  induction rs generalizing s vs with
  | nil => rfl
  | cons r rs ih => cases vs <;> simp [State.setRegs, ih]
@[simp] theorem State.setRegs_lineTags (s : State) (ag : Agent) (rs : List Reg) (vs : List Word) :
    (s.setRegs ag rs vs).lineTags = s.lineTags := by
  induction rs generalizing s vs with
  | nil => rfl
  | cons r rs ih => cases vs <;> simp [State.setRegs, ih]
@[simp] theorem State.setRegs_queues (s : State) (ag : Agent) (rs : List Reg) (vs : List Word) :
    (s.setRegs ag rs vs).queues = s.queues := by
  induction rs generalizing s vs with
  | nil => rfl
  | cons r rs ih => cases vs <;> simp [State.setRegs, ih]
@[simp] theorem State.setRegs_lastQueue (s : State) (ag : Agent) (rs : List Reg) (vs : List Word) :
    (s.setRegs ag rs vs).lastQueue = s.lastQueue := by
  induction rs generalizing s vs with
  | nil => rfl
  | cons r rs ih => cases vs <;> simp [State.setRegs, ih]
@[simp] theorem State.setRegs_ctxs (s : State) (ag : Agent) (rs : List Reg) (vs : List Word) :
    (s.setRegs ag rs vs).ctxs = s.ctxs := by
  induction rs generalizing s vs with
  | nil => rfl
  | cons r rs ih => cases vs <;> simp [State.setRegs, ih]
@[simp] theorem State.setRegs_quotas (s : State) (ag : Agent) (rs : List Reg) (vs : List Word) :
    (s.setRegs ag rs vs).quotas = s.quotas := by
  induction rs generalizing s vs with
  | nil => rfl
  | cons r rs ih => cases vs <;> simp [State.setRegs, ih]
@[simp] theorem State.setRegs_mgmt (s : State) (ag : Agent) (rs : List Reg) (vs : List Word) :
    (s.setRegs ag rs vs).mgmt = s.mgmt := by
  induction rs generalizing s vs with
  | nil => rfl
  | cons r rs ih => cases vs <;> simp [State.setRegs, ih]
@[simp] theorem State.setRegs_ports (s : State) (ag : Agent) (rs : List Reg) (vs : List Word) :
    (s.setRegs ag rs vs).ports = s.ports := by
  induction rs generalizing s vs with
  | nil => rfl
  | cons r rs ih => cases vs <;> simp [State.setRegs, ih]
@[simp] theorem State.setRegs_dbg (s : State) (ag : Agent) (rs : List Reg) (vs : List Word) :
    (s.setRegs ag rs vs).dbg = s.dbg := by
  induction rs generalizing s vs with
  | nil => rfl
  | cons r rs ih => cases vs <;> simp [State.setRegs, ih]
@[simp] theorem State.setRegs_counters (s : State) (ag : Agent) (rs : List Reg) (vs : List Word) :
    (s.setRegs ag rs vs).counters = s.counters := by
  induction rs generalizing s vs with
  | nil => rfl
  | cons r rs ih => cases vs <;> simp [State.setRegs, ih]
@[simp] theorem State.setRegs_turns (s : State) (ag : Agent) (rs : List Reg) (vs : List Word) :
    (s.setRegs ag rs vs).turns = s.turns := by
  induction rs generalizing s vs with
  | nil => rfl
  | cons r rs ih => cases vs <;> simp [State.setRegs, ih]
@[simp] theorem State.setRegs_cur (s : State) (ag : Agent) (rs : List Reg) (vs : List Word) :
    (s.setRegs ag rs vs).cur = s.cur := by
  induction rs generalizing s vs with
  | nil => rfl
  | cons r rs ih => cases vs <;> simp [State.setRegs, ih]
@[simp] theorem State.setRegs_nextUid (s : State) (ag : Agent) (rs : List Reg) (vs : List Word) :
    (s.setRegs ag rs vs).nextUid = s.nextUid := by
  induction rs generalizing s vs with
  | nil => rfl
  | cons r rs ih => cases vs <;> simp [State.setRegs, ih]
@[simp] theorem State.setRegs_nextAcc (s : State) (ag : Agent) (rs : List Reg) (vs : List Word) :
    (s.setRegs ag rs vs).nextAcc = s.nextAcc := by
  induction rs generalizing s vs with
  | nil => rfl
  | cons r rs ih => cases vs <;> simp [State.setRegs, ih]
@[simp] theorem State.setRegs_nextSeq (s : State) (ag : Agent) (rs : List Reg) (vs : List Word) :
    (s.setRegs ag rs vs).nextSeq = s.nextSeq := by
  induction rs generalizing s vs with
  | nil => rfl
  | cons r rs ih => cases vs <;> simp [State.setRegs, ih]
@[simp] theorem State.setRegs_nextLaunch (s : State) (ag : Agent) (rs : List Reg) (vs : List Word) :
    (s.setRegs ag rs vs).nextLaunch = s.nextLaunch := by
  induction rs generalizing s vs with
  | nil => rfl
  | cons r rs ih => cases vs <;> simp [State.setRegs, ih]
@[simp] theorem State.setRegs_nextTile (s : State) (ag : Agent) (rs : List Reg) (vs : List Word) :
    (s.setRegs ag rs vs).nextTile = s.nextTile := by
  induction rs generalizing s vs with
  | nil => rfl
  | cons r rs ih => cases vs <;> simp [State.setRegs, ih]

@[simp] theorem State.mapAccs_tick (s : State) (ag : Agent) (f : Access → Access) : (s.mapAccs ag f).tick = s.tick := rfl
@[simp] theorem State.mapAccs_teams (s : State) (ag : Agent) (f : Access → Access) : (s.mapAccs ag f).teams = s.teams := rfl
@[simp] theorem State.mapAccs_tiles (s : State) (ag : Agent) (f : Access → Access) : (s.mapAccs ag f).tiles = s.tiles := rfl
@[simp] theorem State.mapAccs_launches (s : State) (ag : Agent) (f : Access → Access) : (s.mapAccs ag f).launches = s.launches := rfl
@[simp] theorem State.mapAccs_cores (s : State) (ag : Agent) (f : Access → Access) : (s.mapAccs ag f).cores = s.cores := rfl
@[simp] theorem State.mapAccs_pairs (s : State) (ag : Agent) (f : Access → Access) : (s.mapAccs ag f).pairs = s.pairs := rfl
@[simp] theorem State.mapAccs_dies (s : State) (ag : Agent) (f : Access → Access) : (s.mapAccs ag f).dies = s.dies := rfl
@[simp] theorem State.mapAccs_hbm (s : State) (ag : Agent) (f : Access → Access) : (s.mapAccs ag f).hbm = s.hbm := rfl
@[simp] theorem State.mapAccs_hbmBad (s : State) (ag : Agent) (f : Access → Access) : (s.mapAccs ag f).hbmBad = s.hbmBad := rfl
@[simp] theorem State.mapAccs_vault (s : State) (ag : Agent) (f : Access → Access) : (s.mapAccs ag f).vault = s.vault := rfl
@[simp] theorem State.mapAccs_vaultBad (s : State) (ag : Agent) (f : Access → Access) : (s.mapAccs ag f).vaultBad = s.vaultBad := rfl
@[simp] theorem State.mapAccs_host (s : State) (ag : Agent) (f : Access → Access) : (s.mapAccs ag f).host = s.host := rfl
@[simp] theorem State.mapAccs_hostBad (s : State) (ag : Agent) (f : Access → Access) : (s.mapAccs ag f).hostBad = s.hostBad := rfl
@[simp] theorem State.mapAccs_lineTags (s : State) (ag : Agent) (f : Access → Access) : (s.mapAccs ag f).lineTags = s.lineTags := rfl
@[simp] theorem State.mapAccs_queues (s : State) (ag : Agent) (f : Access → Access) : (s.mapAccs ag f).queues = s.queues := rfl
@[simp] theorem State.mapAccs_lastQueue (s : State) (ag : Agent) (f : Access → Access) : (s.mapAccs ag f).lastQueue = s.lastQueue := rfl
@[simp] theorem State.mapAccs_ctxs (s : State) (ag : Agent) (f : Access → Access) : (s.mapAccs ag f).ctxs = s.ctxs := rfl
@[simp] theorem State.mapAccs_quotas (s : State) (ag : Agent) (f : Access → Access) : (s.mapAccs ag f).quotas = s.quotas := rfl
@[simp] theorem State.mapAccs_mgmt (s : State) (ag : Agent) (f : Access → Access) : (s.mapAccs ag f).mgmt = s.mgmt := rfl
@[simp] theorem State.mapAccs_ports (s : State) (ag : Agent) (f : Access → Access) : (s.mapAccs ag f).ports = s.ports := rfl
@[simp] theorem State.mapAccs_dbg (s : State) (ag : Agent) (f : Access → Access) : (s.mapAccs ag f).dbg = s.dbg := rfl
@[simp] theorem State.mapAccs_counters (s : State) (ag : Agent) (f : Access → Access) : (s.mapAccs ag f).counters = s.counters := rfl
@[simp] theorem State.mapAccs_turns (s : State) (ag : Agent) (f : Access → Access) : (s.mapAccs ag f).turns = s.turns := rfl
@[simp] theorem State.mapAccs_cur (s : State) (ag : Agent) (f : Access → Access) : (s.mapAccs ag f).cur = s.cur := rfl
@[simp] theorem State.mapAccs_nextUid (s : State) (ag : Agent) (f : Access → Access) : (s.mapAccs ag f).nextUid = s.nextUid := rfl
@[simp] theorem State.mapAccs_nextAcc (s : State) (ag : Agent) (f : Access → Access) : (s.mapAccs ag f).nextAcc = s.nextAcc := rfl
@[simp] theorem State.mapAccs_nextSeq (s : State) (ag : Agent) (f : Access → Access) : (s.mapAccs ag f).nextSeq = s.nextSeq := rfl
@[simp] theorem State.mapAccs_nextLaunch (s : State) (ag : Agent) (f : Access → Access) : (s.mapAccs ag f).nextLaunch = s.nextLaunch := rfl
@[simp] theorem State.mapAccs_nextTile (s : State) (ag : Agent) (f : Access → Access) : (s.mapAccs ag f).nextTile = s.nextTile := rfl

/-! ## Reading back a part -/

@[simp] theorem State.core_setCore (s : State) (n : Nat) (c : Core) : (s.setCore n c).core n = c := by simp [State.core]
@[simp] theorem State.pair_setPair (s : State) (n : Nat) (c : CorePair) : (s.setPair n c).pair n = c := by simp [State.pair]
@[simp] theorem State.die_setDie (s : State) (n : Nat) (c : Die) : (s.setDie n c).die n = c := by simp [State.die]
@[simp] theorem State.queue_setQueue (s : State) (n : Nat) (c : Queue) : (s.setQueue n c).queue n = c := by
  simp [State.queue]
@[simp] theorem State.port_setPort (s : State) (n : Nat) (c : Port) : (s.setPort n c).port n = c := by simp [State.port]
@[simp] theorem State.launch_setLaunch (s : State) (n : Nat) (c : Launch) : (s.setLaunch n c).launch n = c := by
  simp [State.launch]
@[simp] theorem State.team_setTeam (s : State) (n : Nat) (c : Team) : (s.setTeam n c).team n = c := by simp [State.team]

theorem State.core_setCore_ne (s : State) {n k : Nat} (c : Core) (h : k ≠ n) : (s.setCore n c).core k = s.core k := by
  simp [State.core, aget_aput_ne _ _ _ h]
theorem State.queue_setQueue_ne (s : State) {n k : Nat} (c : Queue) (h : k ≠ n) :
    (s.setQueue n c).queue k = s.queue k := by simp [State.queue, aget_aput_ne _ _ _ h]
theorem State.port_setPort_ne (s : State) {n k : Nat} (c : Port) (h : k ≠ n) : (s.setPort n c).port k = s.port k := by
  simp [State.port, aget_aput_ne _ _ _ h]
theorem State.launch_setLaunch_ne (s : State) {n k : Nat} (c : Launch) (h : k ≠ n) :
    (s.setLaunch n c).launch k = s.launch k := by simp [State.launch, aget_aput_ne _ _ _ h]
theorem State.team_setTeam_ne (s : State) {n k : Nat} (c : Team) (h : k ≠ n) : (s.setTeam n c).team k = s.team k := by
  simp [State.team, aget_aput_ne _ _ _ h]

@[simp] theorem State.grp_setGrp (s : State) (u g : Nat) (x : Group) : (s.setGrp u g x).grp u g = x := by
  simp [State.grp, State.setGrp, Team.grp, Team.setGrp]
@[simp] theorem State.thr_setThr (s : State) (u g l : Nat) (x : Thread) : (s.setThr u g l x).thr u g l = x := by
  simp [State.thr, State.setThr, Group.thr, Group.setThr]

/-- The group that a write of a group leaves in any place. -/
theorem State.grp_setGrp_any (s : State) (u g u' g' : Nat) (x : Group) :
    (s.setGrp u g x).grp u' g' = if u' = u ∧ g' = g then x else s.grp u' g' := by
  by_cases hu : u' = u
  · subst hu
    by_cases hg : g' = g
    · subst hg; simp
    · simp [State.grp, State.setGrp, Team.grp, Team.setGrp, hg, aget_aput_ne _ _ _ hg]
  · simp [State.grp, State.setGrp, hu, State.team_setTeam_ne _ _ hu]

/-- The thread that a write of a thread leaves in any place. -/
theorem State.thr_setThr_any (s : State) (u g l u' g' l' : Nat) (x : Thread) :
    (s.setThr u g l x).thr u' g' l' = if u' = u ∧ g' = g ∧ l' = l then x else s.thr u' g' l' := by
  by_cases h : u' = u ∧ g' = g
  · obtain ⟨rfl, rfl⟩ := h
    by_cases hl : l' = l
    · subst hl; simp
    · simp [State.thr, State.setThr, Group.thr, Group.setThr, hl, aget_aput_ne _ _ _ hl]
  · have : ¬(u' = u ∧ g' = g ∧ l' = l) := fun e => h ⟨e.1, e.2.1⟩
    rw [if_neg this]
    unfold State.thr State.setThr
    rw [State.grp_setGrp_any, if_neg h]

@[simp] theorem State.bctx_setBctx (s : State) (k c : Nat) (x : BCtx) : (s.setBctx k c x).bctx k c = x := by
  simp [State.bctx, State.setBctx, Core.ctx]

/-- The context that a write of a context leaves in any place. -/
theorem State.bctx_setBctx_any (s : State) (k c k' c' : Nat) (x : BCtx) :
    (s.setBctx k c x).bctx k' c' = if k' = k ∧ c' = c then x else s.bctx k' c' := by
  by_cases hk : k' = k
  · subst hk
    by_cases hc : c' = c
    · subst hc; simp
    · simp [State.bctx, State.setBctx, Core.ctx, hc, aget_aput_ne _ _ _ hc]
  · simp [State.bctx, State.setBctx, hk, State.core_setCore_ne _ _ hk]

/-! ## Reading back what an agent's update wrote -/

@[simp] theorem State.pc_setPc (s : State) (ag : Agent) (p : Word) : (s.setPc ag p).pc ag = p := by
  cases ag <;> simp [State.setPc, State.pc]
@[simp] theorem State.cc_setCC (s : State) (ag : Agent) (x : CC) : (s.setCC ag x).cc ag = x := by
  cases ag <;> simp [State.setCC, State.cc]
@[simp] theorem State.park_setPark (s : State) (ag : Agent) (p : Park) : (s.setPark ag p).park ag = p := by
  cases ag <;> simp [State.setPark, State.park]
@[simp] theorem State.trapOf_setTrap (s : State) (ag : Agent) (x : TrapState) : (s.setTrap ag x).trapOf ag = x := by
  cases ag <;> simp [State.setTrap, State.trapOf]

/-- The hard-wired register reads as zero (R38). -/
@[simp] theorem State.reg_vz (s : State) (ag : Agent) : s.reg ag vz = 0 := by simp [State.reg]
/-- A write of the hard-wired register is discarded (R38). -/
@[simp] theorem State.setReg_vz (s : State) (ag : Agent) (v : Word) : s.setReg ag vz v = s := by simp [State.setReg]

/-- A register but vz reads as what was written to it (R38). -/
theorem State.reg_setReg (s : State) (ag : Agent) {r : Reg} (v : Word) (h : r ≠ vz) : (s.setReg ag r v).reg ag r = v := by
  cases ag <;> simp [State.reg, State.setReg, h]

/-- A thread's register keeps its value when another of its registers is written. -/
theorem State.reg_setReg_thread_ne (s : State) (u g l : Nat) {r q : Reg} (v : Word) (h : q ≠ r) :
    (s.setReg (.thread u g l) r v).reg (.thread u g l) q = s.reg (.thread u g l) q := by
  have hn : q.toNat ≠ r.toNat := fun e => h (BitVec.eq_of_toNat_eq e)
  by_cases hr : r = vz
  · subst hr; simp
  · simp [State.reg, State.setReg, hr, aget_aput_ne _ _ _ hn]

end Sys2Proof.Machine
end

