-- ==== Sys2Proof/Laws/Memory.lean ====
section
/-! SUPPORT. Memory: every operation keeps the canonical form, a read after a write gives what was written, and a write
leaves every other byte alone. -/

namespace Sys2Proof.Machine

/-! ## The canonical form -/

/-- A byte below every listed address reads as an unlisted one. -/
theorem Memory.wf_tail {a : Nat} {v : Byte} {t : Memory} (h : Memory.wf ((a, v) :: t) = true) :
    v ≠ unlisted ∧ Memory.wf t = true ∧ ∀ c ∈ t.head?, a < c.1 := by
  cases t with
  | nil => simpa [Memory.wf] using h
  | cons c t => simp [Memory.wf] at h; simp [h]

theorem Memory.wf_cons {a : Nat} {v : Byte} {t : Memory} (hv : v ≠ unlisted) (ht : Memory.wf t = true)
    (hh : ∀ c ∈ t.head?, a < c.1) : Memory.wf ((a, v) :: t) = true := by
  cases t with
  | nil => simpa [Memory.wf] using hv
  | cons c t => simp [Memory.wf, hv, ht, hh c (by simp)]

/-- The lowest listed address after a write is the lowest before, or the address written. -/
theorem Memory.setByte_head (m : Memory) (a : Nat) (v : Byte) (b : Nat) (hb : b < a) (h : ∀ c ∈ m.head?, b < c.1)
    (hw : m.wf = true) : ∀ c ∈ (m.setByte a v).head?, b < c.1 := by
  cases m with
  | nil => simp only [Memory.setByte]; split <;> simp [hb]
  | cons e t =>
    obtain ⟨k, w⟩ := e
    have hk : b < k := h (k, w) (by simp)
    obtain ⟨-, -, ht⟩ := Memory.wf_tail hw
    unfold Memory.setByte
    split
    · split <;> simp [hb, hk]
    · split
      · split
        · intro c hc; exact lt_trans hk (ht c hc)
        · simp [hb]
      · simp [hk]

/-- Writing a byte keeps the canonical form. -/
theorem Memory.setByte_wf (m : Memory) (a : Nat) (v : Byte) (h : m.wf = true) : (m.setByte a v).wf = true := by
  induction m with
  | nil => unfold Memory.setByte; split <;> simp_all [Memory.wf]
  | cons e t ih =>
    obtain ⟨k, w⟩ := e
    obtain ⟨hv, ht, hh⟩ := Memory.wf_tail h
    unfold Memory.setByte
    split
    · next hlt =>
      split
      · exact h
      · next hu => exact Memory.wf_cons hu h (by simpa using hlt)
    · next hlt =>
      split
      · next he =>
        subst he
        split
        · exact ht
        · next hu => exact Memory.wf_cons hu ht hh
      · next hne =>
        have hka : k < a := by omega
        exact Memory.wf_cons hv (ih ht) (Memory.setByte_head t a v k hka hh ht)

/-- Storing bytes keeps the canonical form. -/
theorem Memory.write_wf (m : Memory) (a n x : Nat) (h : m.wf = true) : (m.write a n x).wf = true := by
  induction n generalizing m a x with
  | zero => exact h
  | succ n ih => exact ih _ _ _ (Memory.setByte_wf m a _ h)

/-- Storing a list of bytes keeps the canonical form. -/
theorem Memory.setBytes_wf (m : Memory) (a : Nat) (bs : List Byte) (h : m.wf = true) : (m.setBytes a bs).wf = true := by
  induction bs generalizing m a with
  | nil => exact h
  | cons b t ih => exact ih _ _ (Memory.setByte_wf m a b h)

/-! ## Reading back -/

/-- The byte read after a byte has been written, on a memory in canonical form. -/
theorem Memory.byte_setByte (m : Memory) (a b : Nat) (v : Byte) (h : m.wf = true) :
    (m.setByte a v).byte b = if b = a then v else m.byte b := by
  induction m with
  | nil =>
    unfold Memory.setByte
    split <;> split <;> simp_all [Memory.byte, aget, afind, Ne.symm]
  | cons e t ih =>
    obtain ⟨k, w⟩ := e
    obtain ⟨hv, ht, hh⟩ := Memory.wf_tail h
    have low : ∀ (u : Memory) (c : Nat), u.wf = true → (∀ d ∈ u.head?, c < d.1) → u.byte c = unlisted := by
      intro u
      induction u with
      | nil => intro c _ _; rfl
      | cons d u ihu =>
        intro c hw hl
        obtain ⟨-, hu, hn⟩ := Memory.wf_tail hw
        have hc : c < d.1 := hl d (by simp)
        have hd : d.1 ≠ c := by omega
        have := ihu c hu (fun x hx => lt_trans hc (hn x hx))
        simpa [Memory.byte, aget, afind, hd] using this
    unfold Memory.setByte
    split
    · next hlt =>
      split
      · next hu =>
        split
        · next he => subst he; rw [hu]; exact low _ _ h (by simpa using hlt)
        · rfl
      · split
        · next he => subst he; simp [Memory.byte, aget, afind]
        · next he => simp [Memory.byte, aget, afind, Ne.symm he]
    · next hlt =>
      split
      · next he =>
        subst he
        split
        · next hu =>
          split
          · next hb => subst hb; rw [hu]; exact low _ _ ht hh
          · next hb => simp [Memory.byte, aget, afind, Ne.symm hb]
        · split
          · next hb => subst hb; simp [Memory.byte, aget, afind]
          · next hb => simp [Memory.byte, aget, afind, Ne.symm hb]
      · next hne =>
        have hr := ih ht
        by_cases hk : k = b
        · subst hk
          have : k ≠ a := by omega
          simp [Memory.byte, aget, afind, this]
        · have e1 : Memory.byte ((k, w) :: Memory.setByte t a v) b = Memory.byte (Memory.setByte t a v) b := by
            simp [Memory.byte, aget, afind, hk]
          have e2 : Memory.byte ((k, w) :: t) b = Memory.byte t b := by simp [Memory.byte, aget, afind, hk]
          rw [e1, e2, hr]

/-- The byte read after n bytes have been stored, on a memory in canonical form. -/
theorem Memory.byte_write (m : Memory) (a n x b : Nat) (h : m.wf = true) :
    (m.write a n x).byte b =
      if a ≤ b ∧ b < a + n then BitVec.ofNat 8 (x / 256 ^ (b - a)) else m.byte b := by
  induction n generalizing m a x with
  | zero =>
    rw [if_neg (by omega)]; rfl
  | succ n ih =>
    rw [Memory.write, ih _ _ _ (Memory.setByte_wf m a _ h), Memory.byte_setByte m a b _ h]
    by_cases hb : b = a
    · subst hb
      have h1 : ¬(b + 1 ≤ b ∧ b < b + 1 + n) := by omega
      have h2 : b ≤ b ∧ b < b + (n + 1) := by omega
      rw [if_neg h1, if_pos rfl, if_pos h2]; simp
    · by_cases hi : a + 1 ≤ b ∧ b < a + 1 + n
      · have h2 : a ≤ b ∧ b < a + (n + 1) := by omega
        rw [if_pos hi, if_pos h2, Nat.div_div_eq_div_mul]
        congr 2
        have : b - a = (b - (a + 1)) + 1 := by omega
        rw [this, pow_succ]; ring
      · have h2 : ¬(a ≤ b ∧ b < a + (n + 1)) := by omega
        rw [if_neg hi, if_neg hb, if_neg h2]

/-- A store leaves every byte outside it alone. -/
theorem Memory.byte_write_out (m : Memory) (a n x b : Nat) (h : m.wf = true) (hb : b < a ∨ a + n ≤ b) :
    (m.write a n x).byte b = m.byte b := by
  rw [Memory.byte_write m a n x b h, if_neg (by omega)]

/-- A read looks at its own bytes only. -/
theorem Memory.read_congr (m m' : Memory) (a n : Nat) (h : ∀ b, a ≤ b → b < a + n → m.byte b = m'.byte b) :
    m.read a n = m'.read a n := by
  induction n generalizing a with
  | zero => rfl
  | succ n ih =>
    rw [Memory.read, Memory.read, h a (by omega) (by omega), ih (a + 1) (fun b h1 h2 => h b (by omega) (by omega))]

/-- A read after a store apart from it gives what it gave before. -/
theorem Memory.read_write_out (m : Memory) (a n x b k : Nat) (h : m.wf = true) (hb : b + k ≤ a ∨ a + n ≤ b) :
    (m.write a n x).read b k = m.read b k :=
  Memory.read_congr _ _ _ _ (fun c h1 h2 => Memory.byte_write_out m a n x c h (by omega))

/-- A read of what has just been stored gives it. -/
theorem Memory.read_write (m : Memory) (a n x : Nat) (h : m.wf = true) : (m.write a n x).read a n = x % 256 ^ n := by
  induction n generalizing m a x with
  | zero => simp [Memory.read, Nat.mod_one]
  | succ n ih =>
    have hw := Memory.setByte_wf m a (BitVec.ofNat 8 x) h
    rw [Memory.write, Memory.read, ih _ _ _ hw, Memory.byte_write_out _ _ _ _ _ hw (by omega),
      Memory.byte_setByte m a a _ h, if_pos rfl, pow_succ, BitVec.toNat_ofNat]
    rw [Nat.mul_comm (256 ^ n) 256, Nat.mod_mul]

/-! ## A team's scratchpad and the ports (R175) -/

/-- A scratchpad store keeps the canonical form of both halves. -/
theorem Team.scrWrite_wf (t : Team) (sd : Bool) (o n x : Nat) (h : t.scr.wf = true) (h2 : t.scr2.wf = true) :
    (t.scrWrite sd o n x).scr.wf = true ∧ (t.scrWrite sd o n x).scr2.wf = true := by
  unfold Team.scrWrite; cases sd <;> simp [h, h2, Memory.write_wf]

/-- A store at a port keeps the canonical form of HBM, the vaults and host memory. -/
theorem State.rawWrite_wf (s : State) (l : Loc) (n x : Nat) (h : s.hbm.wf = true) (hv : s.vault.wf = true)
    (hh : s.host.wf = true) :
    (s.rawWrite l n x).hbm.wf = true ∧ (s.rawWrite l n x).vault.wf = true ∧ (s.rawWrite l n x).host.wf = true := by
  cases l with
  | hbm a => by_cases hb : a + n ≤ hbmSize <;> simp [State.rawWrite, State.hbmWrite, hb, h, hv, hh, Memory.write_wf]
  | _ => simp [State.rawWrite, h, hv, hh, Memory.write_wf]

/-- Memory after reset lists nothing, and is in canonical form. -/
theorem reset_memory_wf :
    State.reset.hbm.wf = true ∧ State.reset.vault.wf = true ∧ State.reset.host.wf = true ∧ State.reset.teams = [] :=
  ⟨rfl, rfl, rfl, rfl⟩

end Sys2Proof.Machine
end

