-- ==== Sys2Proof/Laws/Ops.lean ====
section
/-! SUPPORT. What each shared operation can do, once: an instruction of one agent, the windows of an agent with nothing on
its way, parking, stepping on, a transfer, taking a trap, and reading back what a port has written. -/

namespace Sys2Proof.Machine

open Sys2Proof.Safety

/-! ## One agent's instruction (R41, R51) -/

/-- An instruction that executes leaves its agent as its own effect says. -/
theorem perLane_executes {s : State} {ag : Agent} {i : Instr} (f : Agent → State → LaneOut) (h : Executes s ag i) :
    perLane i f s = .next ((f ag s).run i ag) := by
  obtain ⟨h1, h2, h3, h4⟩ := h
  simp [perLane, h1, laneStep, h2, h3, h4]

/-- A form that only changes registers, codes or memory does so and steps on. -/
theorem simple_executes {s : State} {ag : Agent} {i : Instr} (f : Agent → State → State) (h : Executes s ag i) :
    simple i f s = .next ((f ag s).advance ag) := perLane_executes _ h

/-- An instruction whose condition is false steps on and does nothing else. -/
theorem perLane_skips {s : State} {ag : Agent} {i : Instr} (f : Agent → State → LaneOut) (h : Skips s ag i) :
    perLane i f s = .next (s.advance ag) := by
  obtain ⟨h1, h2, h3, h4⟩ := h
  simp [perLane, h1, laneStep, h2, h3, h4]

/-- An instruction whose encoding traps raises that trap, whatever its effect. -/
theorem perLane_traps {s : State} {ag : Agent} {i : Instr} {t : Trap} (f : Agent → State → LaneOut) (h : Traps s ag i t) :
    perLane i f s = .next (s.raise ag i t) := by
  obtain ⟨h1, h2, h3⟩ := h
  simp [perLane, h1, laneStep, h2, h3]

/-- The cohort of one agent that executes is that agent. -/
theorem cohort_executes {s : State} {ag : Agent} {i : Instr} (h : Executes s ag i) : cohort i s = (s, [ag]) := by
  obtain ⟨h1, h2, h3, h4⟩ := h
  simp [cohort, h1, h2, h3, h4]

/-! ## An agent with nothing on its way (R45, R46) -/

/-- Changing an agent's accesses changes nothing when it has none. -/
theorem State.mapAccs_still {s : State} {ag : Agent} (f : Access → Access) (h : Still s ag) : s.mapAccs ag f = s := by
  have : s.accs.map (fun a => if a.ag = ag then f a else a) = s.accs := by
    conv_rhs => rw [← List.map_id s.accs]
    refine List.map_congr_left (fun a ha => ?_)
    have hn : a.ag ≠ ag := fun e => by
      have : a ∈ s.accsOf ag := List.mem_filter.mpr ⟨ha, by simp [e]⟩
      rw [h] at this; cases this
    simp [hn]
  simp [State.mapAccs, this]

/-- No window closes. -/
theorem State.closeWindows_still {s : State} {ag : Agent} (h : Still s ag) : s.closeWindows ag = s := by
  rw [State.closeWindows, State.mapAccs_still _ h]
  simp [State.settleAccs, State.seenAccs, show s.accsOf ag = [] from h, dueOf]

/-- No late trap is held pending. -/
theorem State.pendDue_still {s : State} {ag : Agent} (h : Still s ag) : s.pendDue ag = s := by
  simp [State.pendDue, State.dueTraps, show s.accsOf ag = [] from h]

/-- No late trap is due. -/
theorem State.takeLate_still {s : State} {ag : Agent} (p : Word) (h : Still s ag) : s.takeLate ag p = none := by
  simp [State.takeLate, State.dueTraps, show s.accsOf ag = [] from h]

/-- Parking only parks. -/
theorem State.parkOn_still {s : State} {ag : Agent} (p : Park) (h : Still s ag) : s.parkOn ag p = s.setPark ag p := by
  simp [State.parkOn, State.closeWindows_still h, State.takeLate_still _ h]

/-- A trap at issue is taken at once, at the agent's PC. -/
theorem State.raiseTrap_still {s : State} {ag : Agent} (cause : Nat) (val addr : DWord) (h : Still s ag) :
    s.raiseTrap ag cause val addr = s.takeTrap ag cause (s.pc ag) val addr (s.pc ag) none := by
  simp [State.raiseTrap, State.closeWindows_still h, State.takeLate_still _ h]

/-! ## Stepping on (R30, R78) -/

/-- A context steps to its next slot. -/
theorem State.advance_ctx (s : State) (k c : Nat) :
    s.advance (.ctx k c) = (s.setPc (.ctx k c) (nextPc (s.pc (.ctx k c)))).setPark (.ctx k c) .run := rfl

/-- A thread whose next slot is not its meeting address steps there, and nothing else changes. -/
theorem State.advance_thread {s : State} {u g l : Nat} (h : NoMeeting s (.thread u g l)) :
    s.advance (.thread u g l) = (s.setPc (.thread u g l) (nextPc (s.thr u g l).pc)).setPark (.thread u g l) .run := by
  have : (s.thr u g l).meet ≠ nextPc (s.thr u g l).pc := h
  simp [State.advance, State.compareMeet, State.setPc, State.setPark, State.pc, this]

/-! ## Taking a trap (R59, R228, R256, R259) -/

/-- At TRAPLVL 0, in a kernel with a handler, a thread's trap enters the handler. -/
theorem State.takeTrap_enters {s : State} {u g l : Nat} (cause : Nat) (tpc : Word) (val addr : DWord) (resume : Word)
    (saved : Option Access) (h : (s.trapOf (.thread u g l)).lvl = false) (hh : (s.descOf (.thread u g l)).handler ≠ 0) :
    s.takeTrap (.thread u g l) cause tpc val addr resume saved =
      s.enterHandler (.thread u g l) cause tpc val addr resume saved := by
  simp only [State.takeTrap, Agent.bursar, h, Bool.false_or, beq_iff_eq]
  rw [if_neg hh]

/-- At TRAPLVL 1, or without a handler, it is a double fault of its team. -/
theorem State.takeTrap_double {s : State} {u g l : Nat} (cause : Nat) (tpc : Word) (val addr : DWord) (resume : Word)
    (saved : Option Access) (h : (s.trapOf (.thread u g l)).lvl = true ∨ (s.descOf (.thread u g l)).handler = 0) :
    s.takeTrap (.thread u g l) cause tpc val addr resume saved = s.doubleFault u cause tpc l val addr := by
  obtain h | h := h <;> simp [State.takeTrap, Agent.bursar, Agent.lane, State.uidOf, h]

/-- A context's trap ends it, and is a double fault of its team. -/
theorem State.takeTrap_ctx (s : State) (k c cause : Nat) (tpc : Word) (val addr : DWord) (resume : Word)
    (saved : Option Access) :
    s.takeTrap (.ctx k c) cause tpc val addr resume saved =
      (s.setBctx k c { s.bctx k c with run := .ended }).doubleFault (s.bctx k c).uid cause tpc 0 val addr := by
  simp [State.takeTrap, Agent.bursar, Agent.lane, State.uidOf]

/-- What entering the handler records, with nothing on its way, unless the handler is the thread's meeting address. -/
theorem State.enterHandler_thread {s : State} {u g l : Nat} (cause : Nat) (tpc : Word) (val addr : DWord) (resume : Word)
    (saved : Option Access) (hs : Still s (.thread u g l)) (h : (s.thr u g l).meet ≠ (s.team u).desc.handler) :
    (s.enterHandler (.thread u g l) cause tpc val addr resume saved).thr u g l = { s.thr u g l with
      pc := (s.team u).desc.handler, park := .run,
      trap := { (s.thr u g l).trap with
        lvl := true, cause := cause, pc := tpc, val := val, addr := addr, resume := resume, saved := saved } } := by
  simp [State.enterHandler, State.closeWindows_still hs, State.pendDue_still hs, State.setTrap, State.setPc, State.setPark, State.trapOf, State.descOf, State.uidOf, h]

/-! ## What a port has written (R175) -/

/-- Reading the bytes just written to HBM gives them. -/
theorem State.rawRead_rawWrite_hbm (s : State) (a n x : Nat) (h : s.hbm.wf = true) (hn : a + n ≤ hbmSize) :
    (s.rawWrite (.hbm a) n x).rawRead (.hbm a) n = x % 256 ^ n := by
  simp [State.rawRead, State.rawWrite, State.hbmRead, State.hbmWrite, hn, Memory.read_write _ _ _ _ h]

/-- Reading the bytes just written to a vault gives them. -/
theorem State.rawRead_rawWrite_vault (s : State) (a n x : Nat) (h : s.vault.wf = true) :
    (s.rawWrite (.vault a) n x).rawRead (.vault a) n = x % 256 ^ n := Memory.read_write _ _ _ _ h

/-- Bytes of HBM outside those written keep their value. -/
theorem State.rawRead_rawWrite_hbm_out (s : State) (a n x b k : Nat) (h : s.hbm.wf = true) (hb : b + k ≤ a ∨ a + n ≤ b) :
    (s.rawWrite (.hbm a) n x).rawRead (.hbm b) k = s.rawRead (.hbm b) k := by
  by_cases h1 : a + n ≤ hbmSize <;>
    simp [State.rawRead, State.rawWrite, State.hbmRead, State.hbmWrite, h1, Memory.read_write_out _ _ _ _ _ _ h hb]

/-! ## A turn of the schedule -/

/-- A store of the host that reaches its place changes its bytes, and a cycle passes. -/
theorem runTurn_hostStore {s : State} {l : Loc} (n v : Nat) (h : s.hostReaches l = true) :
    runTurn (.hostStore l n v) s = .next ((s.hostStore l n v).pass 1) := by simp [runTurn, h]

end Sys2Proof.Machine
end

