-- ==== Sys2Proof/Laws/PerInstr.lean ====
section
/-! SUPPORT. The family Encoded: the decoder reads back every instruction that the encoder has laid out in fields (R34, R35,
R49), one lemma for each constructor. -/

namespace Sys2Proof.Laws.Encoded

set_option Elab.async false
set_option linter.unusedSimpArgs false
set_option linter.unusedVariables false

/-- The fields of a well-formed instruction decode to it. -/
def Statement (i : Instr) : Prop := i.wf = true → ∀ f, encodeFields i = some f → decodeFields f = .ok i

theorem ext3_sub {s m c : Nat} (hm : m < 16) (hc : c < 4096) : ext3 s m c / 65536 = s := by unfold ext3; omega
theorem ext3_msel {s m c : Nat} (hm : m < 16) (hc : c < 4096) : ext3 s m c / 4096 % 16 = m := by unfold ext3; omega
theorem ext3_cls {s m c : Nat} (hc : c < 4096) : ext3 s m c % 4096 = c := by unfold ext3; omega
theorem ext3_high {s m c n : Nat} (hs : s < n / 65536) (hm : m < 16) (hc : c < 4096) (hn : n % 65536 = 0) :
    ext3 s m c < n := by unfold ext3; omega
theorem bit_lt (b : Bool) : bit b < 2 := by cases b <;> decide
@[simp] theorem flag_bit (b : Bool) : flag (bit b) = b := by cases b <;> rfl

theorem flag_eq {n : Nat} {b : Bool} (h : n % 2 = bit b) : flag n = b := by cases b <;> simp_all [flag, bit]
theorem rnd2_code {r : Rnd} (h : r ≠ .sr) : rnd2 (r.code % 8) = some r := by cases r <;> first | rfl | exact absurd rfl h
@[simp] theorem rnd3_sr (r : Rnd) : rnd3 true (r.code % 8) = some r := by cases r <;> rfl
theorem rnd3_code {r : Rnd} (h : r ≠ .sr) : rnd3 false (r.code % 8) = some r := rnd2_code h
theorem ofNat_eq {w n : Nat} {x : BitVec w} (h : n % 2 ^ w = x.toNat) : BitVec.ofNat w n = x :=
  BitVec.eq_of_toNat_eq (by rw [BitVec.toNat_ofNat, h])

/-- The FM sub-fields read back (R35, R36). -/
theorem mem_extM (f : Fields) (x : MemF) (h : f.ext = extM x) : f.mem = .ok x := by
  obtain ⟨o, sp, sz, od, sc, hi⟩ := x
  have h1 := o.isLt
  have h2 := code_lt_Space sp
  have h3 := code_lt_Size sz
  have h4 := code_lt_Ord od
  have h5 := code_lt_Scope sc
  have h6 := code_lt_Hint hi
  simp only [extM] at h
  have e1 : f.ext / 64 % 8 = sz.code := by omega
  have e2 : f.ext / 512 % 8 = sp.code := by omega
  have e3 : f.ext / 16 % 4 = od.code := by omega
  have e4 : f.ext / 4 % 4 = sc.code := by omega
  have e5 : f.ext % 4 = hi.code := by omega
  have e6 : f.ext / 4096 = o.toNat := by omega
  simp [Fields.mem, pick, bind, Except.bind, e1, e2, e3, e4, e5, e6]

@[simp] theorem mem_mk (op : Nat) (h : Hdr) (d a b c : Reg) (mod : Nat) (x : MemF) :
    Fields.mem ⟨op, h, d, a, b, c, mod, extM x⟩ = .ok x := mem_extM _ x rfl

/-- COPY's command fields read back (Table 11-4). -/
theorem copyF_extCopy (f : Fields) (x : CopyF) (h : f.ext = extCopy x) : f.copyF = .ok x ∧ f.msel = 0 := by
  obtain ⟨drs, srs, rop, ety, sc, rel, acq, exp, arv, bar⟩ := x
  have h1 := bit_lt drs
  have h2 := bit_lt srs
  have h3 := code_lt_CopyRop rop
  have h4 := code_lt_CopyTy ety
  have h5 := code_lt_Scope sc
  have h6 := bit_lt rel
  have h7 := bit_lt acq
  have h8 := bit_lt exp
  have h9 := bit_lt arv
  have hb : ∃ n, n < 32 ∧ bselOf n = some bar ∧ extCopy ⟨drs, srs, rop, ety, sc, rel, acq, exp, arv, bar⟩ =
      ext3 (64 * bit drs + 32 * bit srs + 8 * rop.code + ety.code) 0
        (512 * sc.code + 256 * bit rel + 128 * bit acq + 64 * bit exp + 32 * bit arv + n) := by
    cases bar with
    | none => exact ⟨0, by decide, rfl, rfl⟩
    | some b =>
      have := b.isLt
      refine ⟨16 + b.toNat, by omega, ?_, rfl⟩
      have e : BitVec.ofNat 4 (16 + b.toNat) = b := ofNat_eq (by omega)
      simp [bselOf, e]
  obtain ⟨n, hn, hsel, he⟩ := hb
  rw [he, ext3] at h
  have e1 : f.ext / 65536 = 64 * bit drs + 32 * bit srs + 8 * rop.code + ety.code := by omega
  have e2 : f.ext % 4096 = 512 * sc.code + 256 * bit rel + 128 * bit acq + 64 * bit exp + 32 * bit arv + n := by omega
  have e3 : f.ext / 4096 % 16 = 0 := by omega
  have g1 : f.sub < 128 := by simp only [Fields.sub, e1]; omega
  have g2 : f.cls < 2048 := by simp only [Fields.cls, e2]; omega
  have g3 : f.sub / 8 % 4 = rop.code := by simp only [Fields.sub, e1]; omega
  have g4 : f.sub % 8 = ety.code := by simp only [Fields.sub, e1]; omega
  have g5 : f.cls / 512 % 4 = sc.code := by simp only [Fields.cls, e2]; omega
  have g6 : f.cls % 32 = n := by simp only [Fields.cls, e2]; omega
  have k1 : flag (f.sub / 64) = drs := flag_eq (by simp only [Fields.sub, e1]; omega)
  have k2 : flag (f.sub / 32) = srs := flag_eq (by simp only [Fields.sub, e1]; omega)
  have k3 : flag (f.cls / 256) = rel := flag_eq (by simp only [Fields.cls, e2]; omega)
  have k4 : flag (f.cls / 128) = acq := flag_eq (by simp only [Fields.cls, e2]; omega)
  have k5 : flag (f.cls / 64) = exp := flag_eq (by simp only [Fields.cls, e2]; omega)
  have k6 : flag (f.cls / 32) = arv := flag_eq (by simp only [Fields.cls, e2]; omega)
  exact ⟨by simp [Fields.copyF, need, pick, bind, Except.bind, *], e3⟩

theorem nop (h : Hdr) : Statement (.nop h) := by
  intro hw f hf
  cases hf
  try simp [Instr.wf, collOk, maskRw] at hw
  simp (disch := omega) [decodeFields, decode0, need, pick, WUse.ok, Fields.plain, Fields.base, Fields.bare, Fields.modded, Fields.coll, Fields.branch, Fields.bar, Fields.two, Fields.satRnd, Fields.rndOnly, Fields.fred, Fields.cvtSub, Fields.site, Fields.choice, Fields.bank, Fields.sub, Fields.msel, Fields.cls, maskNo, subSat, bind, Except.bind, ext3_sub, ext3_msel, ext3_cls, *]

theorem bra (h : Hdr) (disp : Disp) : Statement (.bra h disp) := by
  intro hw f hf
  cases hf
  have h_disp := disp.isLt
  try simp [Instr.wf, collOk, maskRw] at hw
  simp (disch := omega) [decodeFields, decode0, need, pick, WUse.ok, Fields.plain, Fields.base, Fields.bare, Fields.modded, Fields.coll, Fields.branch, Fields.bar, Fields.two, Fields.satRnd, Fields.rndOnly, Fields.fred, Fields.cvtSub, Fields.site, Fields.choice, Fields.bank, Fields.sub, Fields.msel, Fields.cls, maskNo, subSat, bind, Except.bind, ext3_sub, ext3_msel, ext3_cls, *]

theorem brx (h : Hdr) (a : Reg) : Statement (.brx h a) := by
  intro hw f hf
  cases hf
  try simp [Instr.wf, collOk, maskRw] at hw
  simp (disch := omega) [decodeFields, decode0, need, pick, WUse.ok, Fields.plain, Fields.base, Fields.bare, Fields.modded, Fields.coll, Fields.branch, Fields.bar, Fields.two, Fields.satRnd, Fields.rndOnly, Fields.fred, Fields.cvtSub, Fields.site, Fields.choice, Fields.bank, Fields.sub, Fields.msel, Fields.cls, maskNo, subSat, bind, Except.bind, ext3_sub, ext3_msel, ext3_cls, *]

theorem call (h : Hdr) (d : Reg) (t : CallTarget) : Statement (.call h d t) := by
  intro hw f hf
  simp [Instr.wf] at hw
  cases t with
  | disp x => cases hf; have h_x := x.isLt; simp (disch := omega) [decodeFields, decode0, need, WUse.ok, Fields.base, Fields.branch, bind, Except.bind, *]
  | reg a => cases hf; simp [decodeFields, decode0, need, WUse.ok, Fields.base, Fields.branch, bind, Except.bind, *]

theorem ret (h : Hdr) (a : Reg) : Statement (.ret h a) := by
  intro hw f hf
  cases hf
  try simp [Instr.wf, collOk, maskRw] at hw
  simp (disch := omega) [decodeFields, decode0, need, pick, WUse.ok, Fields.plain, Fields.base, Fields.bare, Fields.modded, Fields.coll, Fields.branch, Fields.bar, Fields.two, Fields.satRnd, Fields.rndOnly, Fields.fred, Fields.cvtSub, Fields.site, Fields.choice, Fields.bank, Fields.sub, Fields.msel, Fields.cls, maskNo, subSat, bind, Except.bind, ext3_sub, ext3_msel, ext3_cls, *]

theorem exit (h : Hdr) : Statement (.exit h) := by
  intro hw f hf
  cases hf
  try simp [Instr.wf, collOk, maskRw] at hw
  simp (disch := omega) [decodeFields, decode0, need, pick, WUse.ok, Fields.plain, Fields.base, Fields.bare, Fields.modded, Fields.coll, Fields.branch, Fields.bar, Fields.two, Fields.satRnd, Fields.rndOnly, Fields.fred, Fields.cvtSub, Fields.site, Fields.choice, Fields.bank, Fields.sub, Fields.msel, Fields.cls, maskNo, subSat, bind, Except.bind, ext3_sub, ext3_msel, ext3_cls, *]

theorem meetset (h : Hdr) (d : Reg) (disp : Disp) : Statement (.meetset h d disp) := by
  intro hw f hf
  cases hf
  have h_disp := disp.isLt
  try simp [Instr.wf, collOk, maskRw] at hw
  simp (disch := omega) [decodeFields, decode0, need, pick, WUse.ok, Fields.plain, Fields.base, Fields.bare, Fields.modded, Fields.coll, Fields.branch, Fields.bar, Fields.two, Fields.satRnd, Fields.rndOnly, Fields.fred, Fields.cvtSub, Fields.site, Fields.choice, Fields.bank, Fields.sub, Fields.msel, Fields.cls, maskNo, subSat, bind, Except.bind, ext3_sub, ext3_msel, ext3_cls, *]

theorem meetrst (h : Hdr) (src : Option Reg) : Statement (.meetrst h src) := by
  intro hw f hf
  cases src <;> cases hf
  all_goals try simp [Instr.wf, collOk, maskRw] at hw
  all_goals simp (disch := omega) [decodeFields, decode0, need, pick, WUse.ok, Fields.plain, Fields.base, Fields.bare, Fields.modded, Fields.coll, Fields.branch, Fields.bar, Fields.two, Fields.satRnd, Fields.rndOnly, Fields.fred, Fields.cvtSub, Fields.site, Fields.choice, Fields.bank, Fields.sub, Fields.msel, Fields.cls, maskNo, subSat, bind, Except.bind, ext3_sub, ext3_msel, ext3_cls, *]

theorem mjoin (h : Hdr) (m : MaskNo) : Statement (.mjoin h m) := by
  intro hw f hf
  cases hf
  have h_m := m.isLt
  try simp [Instr.wf, collOk, maskRw] at hw
  simp (disch := omega) [decodeFields, decode0, need, pick, WUse.ok, Fields.plain, Fields.base, Fields.bare, Fields.modded, Fields.coll, Fields.branch, Fields.bar, Fields.two, Fields.satRnd, Fields.rndOnly, Fields.fred, Fields.cvtSub, Fields.site, Fields.choice, Fields.bank, Fields.sub, Fields.msel, Fields.cls, maskNo, subSat, bind, Except.bind, ext3_sub, ext3_msel, ext3_cls, *]

theorem mleave (h : Hdr) (m : MaskNo) : Statement (.mleave h m) := by
  intro hw f hf
  cases hf
  have h_m := m.isLt
  try simp [Instr.wf, collOk, maskRw] at hw
  simp (disch := omega) [decodeFields, decode0, need, pick, WUse.ok, Fields.plain, Fields.base, Fields.bare, Fields.modded, Fields.coll, Fields.branch, Fields.bar, Fields.two, Fields.satRnd, Fields.rndOnly, Fields.fred, Fields.cvtSub, Fields.site, Fields.choice, Fields.bank, Fields.sub, Fields.msel, Fields.cls, maskNo, subSat, bind, Except.bind, ext3_sub, ext3_msel, ext3_cls, *]

theorem mwait (h : Hdr) (m : MaskNo) : Statement (.mwait h m) := by
  intro hw f hf
  cases hf
  have h_m := m.isLt
  try simp [Instr.wf, collOk, maskRw] at hw
  simp (disch := omega) [decodeFields, decode0, need, pick, WUse.ok, Fields.plain, Fields.base, Fields.bare, Fields.modded, Fields.coll, Fields.branch, Fields.bar, Fields.two, Fields.satRnd, Fields.rndOnly, Fields.fred, Fields.cvtSub, Fields.site, Fields.choice, Fields.bank, Fields.sub, Fields.msel, Fields.cls, maskNo, subSat, bind, Except.bind, ext3_sub, ext3_msel, ext3_cls, *]

theorem mset (h : Hdr) (a : Reg) (m : MaskNo) (op : MsetOp) : Statement (.mset h a m op) := by
  intro hw f hf
  cases hf
  have h_m := m.isLt
  have h_op := code_lt_MsetOp op
  try simp [Instr.wf, collOk, maskRw] at hw
  simp (disch := omega) [decodeFields, decode0, need, pick, WUse.ok, Fields.plain, Fields.base, Fields.bare, Fields.modded, Fields.coll, Fields.branch, Fields.bar, Fields.two, Fields.satRnd, Fields.rndOnly, Fields.fred, Fields.cvtSub, Fields.site, Fields.choice, Fields.bank, Fields.sub, Fields.msel, Fields.cls, maskNo, subSat, bind, Except.bind, ext3_sub, ext3_msel, ext3_cls, *]

theorem mget (h : Hdr) (d : Reg) (m : MaskNo) (op : MgetOp) : Statement (.mget h d m op) := by
  intro hw f hf
  cases hf
  have h_m := m.isLt
  have h_op := code_lt_MgetOp op
  try simp [Instr.wf, collOk, maskRw] at hw
  simp (disch := omega) [decodeFields, decode0, need, pick, WUse.ok, Fields.plain, Fields.base, Fields.bare, Fields.modded, Fields.coll, Fields.branch, Fields.bar, Fields.two, Fields.satRnd, Fields.rndOnly, Fields.fred, Fields.cvtSub, Fields.site, Fields.choice, Fields.bank, Fields.sub, Fields.msel, Fields.cls, maskNo, subSat, bind, Except.bind, ext3_sub, ext3_msel, ext3_cls, *]

theorem vote (h : Hdr) (d : Reg) (a : Reg) (m : MaskNo) (op : VoteOp) : Statement (.vote h d a m op) := by
  intro hw f hf
  cases hf
  have h_m := m.isLt
  have h_op := code_lt_VoteOp op
  try simp [Instr.wf, collOk, maskRw] at hw
  simp (disch := omega) [decodeFields, decode0, need, pick, WUse.ok, Fields.plain, Fields.base, Fields.bare, Fields.modded, Fields.coll, Fields.branch, Fields.bar, Fields.two, Fields.satRnd, Fields.rndOnly, Fields.fred, Fields.cvtSub, Fields.site, Fields.choice, Fields.bank, Fields.sub, Fields.msel, Fields.cls, maskNo, subSat, bind, Except.bind, ext3_sub, ext3_msel, ext3_cls, *]

theorem sleept (h : Hdr) (a : Reg) : Statement (.sleept h a) := by
  intro hw f hf
  cases hf
  try simp [Instr.wf, collOk, maskRw] at hw
  simp (disch := omega) [decodeFields, decode0, need, pick, WUse.ok, Fields.plain, Fields.base, Fields.bare, Fields.modded, Fields.coll, Fields.branch, Fields.bar, Fields.two, Fields.satRnd, Fields.rndOnly, Fields.fred, Fields.cvtSub, Fields.site, Fields.choice, Fields.bank, Fields.sub, Fields.msel, Fields.cls, maskNo, subSat, bind, Except.bind, ext3_sub, ext3_msel, ext3_cls, *]

theorem sleepp (h : Hdr) (a : Reg) (bar : BarNo) : Statement (.sleepp h a bar) := by
  intro hw f hf
  cases hf
  have h_bar := bar.isLt
  try simp [Instr.wf, collOk, maskRw] at hw
  simp (disch := omega) [decodeFields, decode0, need, pick, WUse.ok, Fields.plain, Fields.base, Fields.bare, Fields.modded, Fields.coll, Fields.branch, Fields.bar, Fields.two, Fields.satRnd, Fields.rndOnly, Fields.fred, Fields.cvtSub, Fields.site, Fields.choice, Fields.bank, Fields.sub, Fields.msel, Fields.cls, maskNo, subSat, bind, Except.bind, ext3_sub, ext3_msel, ext3_cls, *]

theorem fork (h : Hdr) (d : Reg) (a : Reg) (disp : Disp) : Statement (.fork h d a disp) := by
  intro hw f hf
  cases hf
  have h_disp := disp.isLt
  try simp [Instr.wf, collOk, maskRw] at hw
  simp (disch := omega) [decodeFields, decode0, need, pick, WUse.ok, Fields.plain, Fields.base, Fields.bare, Fields.modded, Fields.coll, Fields.branch, Fields.bar, Fields.two, Fields.satRnd, Fields.rndOnly, Fields.fred, Fields.cvtSub, Fields.site, Fields.choice, Fields.bank, Fields.sub, Fields.msel, Fields.cls, maskNo, subSat, bind, Except.bind, ext3_sub, ext3_msel, ext3_cls, *]

theorem rdv (h : Hdr) (a : Reg) : Statement (.rdv h a) := by
  intro hw f hf
  cases hf
  try simp [Instr.wf, collOk, maskRw] at hw
  simp (disch := omega) [decodeFields, decode0, need, pick, WUse.ok, Fields.plain, Fields.base, Fields.bare, Fields.modded, Fields.coll, Fields.branch, Fields.bar, Fields.two, Fields.satRnd, Fields.rndOnly, Fields.fred, Fields.cvtSub, Fields.site, Fields.choice, Fields.bank, Fields.sub, Fields.msel, Fields.cls, maskNo, subSat, bind, Except.bind, ext3_sub, ext3_msel, ext3_cls, *]

theorem iadd (h : Hdr) (d : Reg) (a : Reg) (b : Reg) (mode : AddMode) (w64 : Bool) : Statement (.iadd h d a b mode w64) := by
  intro hw f hf
  cases hf
  have h_mode := code_lt_AddMode mode
  have h_w64 := bit_lt w64
  try simp [Instr.wf, collOk, maskRw] at hw
  simp (disch := omega) [decodeFields, decode1, need, pick, WUse.ok, Fields.plain, Fields.base, Fields.bare, Fields.modded, Fields.coll, Fields.branch, Fields.bar, Fields.two, Fields.satRnd, Fields.rndOnly, Fields.fred, Fields.cvtSub, Fields.site, Fields.choice, Fields.bank, Fields.sub, Fields.msel, Fields.cls, maskNo, subSat, bind, Except.bind, ext3_sub, ext3_msel, ext3_cls, *]

theorem isub (h : Hdr) (d : Reg) (a : Reg) (b : Reg) (mode : AddMode) (w64 : Bool) : Statement (.isub h d a b mode w64) := by
  intro hw f hf
  cases hf
  have h_mode := code_lt_AddMode mode
  have h_w64 := bit_lt w64
  try simp [Instr.wf, collOk, maskRw] at hw
  simp (disch := omega) [decodeFields, decode1, need, pick, WUse.ok, Fields.plain, Fields.base, Fields.bare, Fields.modded, Fields.coll, Fields.branch, Fields.bar, Fields.two, Fields.satRnd, Fields.rndOnly, Fields.fred, Fields.cvtSub, Fields.site, Fields.choice, Fields.bank, Fields.sub, Fields.msel, Fields.cls, maskNo, subSat, bind, Except.bind, ext3_sub, ext3_msel, ext3_cls, *]

theorem imul (h : Hdr) (d : Reg) (a : Reg) (b : Reg) (w64 : Bool) : Statement (.imul h d a b w64) := by
  intro hw f hf
  cases hf
  have h_w64 := bit_lt w64
  try simp [Instr.wf, collOk, maskRw] at hw
  simp (disch := omega) [decodeFields, decode1, need, pick, WUse.ok, Fields.plain, Fields.base, Fields.bare, Fields.modded, Fields.coll, Fields.branch, Fields.bar, Fields.two, Fields.satRnd, Fields.rndOnly, Fields.fred, Fields.cvtSub, Fields.site, Fields.choice, Fields.bank, Fields.sub, Fields.msel, Fields.cls, maskNo, subSat, bind, Except.bind, ext3_sub, ext3_msel, ext3_cls, *]

theorem imulh (h : Hdr) (d : Reg) (a : Reg) (b : Reg) (mode : HiMode) : Statement (.imulh h d a b mode) := by
  intro hw f hf
  cases hf
  have h_mode := code_lt_HiMode mode
  try simp [Instr.wf, collOk, maskRw] at hw
  simp (disch := omega) [decodeFields, decode1, need, pick, WUse.ok, Fields.plain, Fields.base, Fields.bare, Fields.modded, Fields.coll, Fields.branch, Fields.bar, Fields.two, Fields.satRnd, Fields.rndOnly, Fields.fred, Fields.cvtSub, Fields.site, Fields.choice, Fields.bank, Fields.sub, Fields.msel, Fields.cls, maskNo, subSat, bind, Except.bind, ext3_sub, ext3_msel, ext3_cls, *]

theorem imad (h : Hdr) (d : Reg) (a : Reg) (b : Reg) (c : Reg) (mode : MadMode) : Statement (.imad h d a b c mode) := by
  intro hw f hf
  cases hf
  have h_mode := code_lt_MadMode mode
  try simp [Instr.wf, collOk, maskRw] at hw
  simp (disch := omega) [decodeFields, decode1, need, pick, WUse.ok, Fields.plain, Fields.base, Fields.bare, Fields.modded, Fields.coll, Fields.branch, Fields.bar, Fields.two, Fields.satRnd, Fields.rndOnly, Fields.fred, Fields.cvtSub, Fields.site, Fields.choice, Fields.bank, Fields.sub, Fields.msel, Fields.cls, maskNo, subSat, bind, Except.bind, ext3_sub, ext3_msel, ext3_cls, *]

theorem iminmax (h : Hdr) (d : Reg) (a : Reg) (b : Reg) (op : MinMax) (ty : IntTy) : Statement (.iminmax h d a b op ty) := by
  intro hw f hf
  cases hf
  have h_op := code_lt_MinMax op
  have h_ty := code_lt_IntTy ty
  try simp [Instr.wf, collOk, maskRw] at hw
  simp (disch := omega) [decodeFields, decode1, need, pick, WUse.ok, Fields.plain, Fields.base, Fields.bare, Fields.modded, Fields.coll, Fields.branch, Fields.bar, Fields.two, Fields.satRnd, Fields.rndOnly, Fields.fred, Fields.cvtSub, Fields.site, Fields.choice, Fields.bank, Fields.sub, Fields.msel, Fields.cls, maskNo, subSat, bind, Except.bind, ext3_sub, ext3_msel, ext3_cls, *]

theorem bool (h : Hdr) (d : Reg) (a : Reg) (b : Reg) (c : Reg) (g1 : BitVec 4) (g0 : BitVec 4) : Statement (.bool h d a b c g1 g0) := by
  intro hw f hf
  cases hf
  have h_g1 := g1.isLt
  have h_g0 := g0.isLt
  try simp [Instr.wf, collOk, maskRw] at hw
  have e1 : (16 * g1.toNat + g0.toNat) / 16 = g1.toNat := by omega
  have e2 : BitVec.ofNat 4 (16 * g1.toNat + g0.toNat) = g0 := ofNat_eq (by omega)
  have e3 : 16 * g1.toNat + g0.toNat < 256 := by omega
  simp (disch := omega) [decodeFields, decode1, need, pick, WUse.ok, Fields.plain, Fields.base, Fields.bare, Fields.modded, Fields.coll, Fields.branch, Fields.bar, Fields.two, Fields.satRnd, Fields.rndOnly, Fields.fred, Fields.cvtSub, Fields.site, Fields.choice, Fields.bank, Fields.sub, Fields.msel, Fields.cls, maskNo, subSat, bind, Except.bind, ext3_sub, ext3_msel, ext3_cls, *]

theorem shf (h : Hdr) (d : Reg) (a : Reg) (b : Reg) (c : Reg) (op : ShfOp) : Statement (.shf h d a b c op) := by
  intro hw f hf
  cases hf
  have h_op := code_lt_ShfOp op
  try simp [Instr.wf, collOk, maskRw] at hw
  simp (disch := omega) [decodeFields, decode1, need, pick, WUse.ok, Fields.plain, Fields.base, Fields.bare, Fields.modded, Fields.coll, Fields.branch, Fields.bar, Fields.two, Fields.satRnd, Fields.rndOnly, Fields.fred, Fields.cvtSub, Fields.site, Fields.choice, Fields.bank, Fields.sub, Fields.msel, Fields.cls, maskNo, subSat, bind, Except.bind, ext3_sub, ext3_msel, ext3_cls, *]

theorem bfx (h : Hdr) (d : Reg) (a : Reg) (b : Reg) (sx : Bool) : Statement (.bfx h d a b sx) := by
  intro hw f hf
  cases hf
  have h_sx := bit_lt sx
  try simp [Instr.wf, collOk, maskRw] at hw
  simp (disch := omega) [decodeFields, decode1, need, pick, WUse.ok, Fields.plain, Fields.base, Fields.bare, Fields.modded, Fields.coll, Fields.branch, Fields.bar, Fields.two, Fields.satRnd, Fields.rndOnly, Fields.fred, Fields.cvtSub, Fields.site, Fields.choice, Fields.bank, Fields.sub, Fields.msel, Fields.cls, maskNo, subSat, bind, Except.bind, ext3_sub, ext3_msel, ext3_cls, *]

theorem bfi (h : Hdr) (d : Reg) (a : Reg) (b : Reg) (c : Reg) : Statement (.bfi h d a b c) := by
  intro hw f hf
  cases hf
  try simp [Instr.wf, collOk, maskRw] at hw
  simp (disch := omega) [decodeFields, decode1, need, pick, WUse.ok, Fields.plain, Fields.base, Fields.bare, Fields.modded, Fields.coll, Fields.branch, Fields.bar, Fields.two, Fields.satRnd, Fields.rndOnly, Fields.fred, Fields.cvtSub, Fields.site, Fields.choice, Fields.bank, Fields.sub, Fields.msel, Fields.cls, maskNo, subSat, bind, Except.bind, ext3_sub, ext3_msel, ext3_cls, *]

theorem bitc (h : Hdr) (d : Reg) (a : Reg) (op : BitcOp) : Statement (.bitc h d a op) := by
  intro hw f hf
  cases hf
  have h_op := code_lt_BitcOp op
  try simp [Instr.wf, collOk, maskRw] at hw
  simp (disch := omega) [decodeFields, decode1, need, pick, WUse.ok, Fields.plain, Fields.base, Fields.bare, Fields.modded, Fields.coll, Fields.branch, Fields.bar, Fields.two, Fields.satRnd, Fields.rndOnly, Fields.fred, Fields.cvtSub, Fields.site, Fields.choice, Fields.bank, Fields.sub, Fields.msel, Fields.cls, maskNo, subSat, bind, Except.bind, ext3_sub, ext3_msel, ext3_cls, *]

theorem icmp (h : Hdr) (a : Reg) (b : Reg) (w64 : Bool) : Statement (.icmp h a b w64) := by
  intro hw f hf
  cases hf
  have h_w64 := bit_lt w64
  try simp [Instr.wf, collOk, maskRw] at hw
  simp (disch := omega) [decodeFields, decode1, need, pick, WUse.ok, Fields.plain, Fields.base, Fields.bare, Fields.modded, Fields.coll, Fields.branch, Fields.bar, Fields.two, Fields.satRnd, Fields.rndOnly, Fields.fred, Fields.cvtSub, Fields.site, Fields.choice, Fields.bank, Fields.sub, Fields.msel, Fields.cls, maskNo, subSat, bind, Except.bind, ext3_sub, ext3_msel, ext3_cls, *]

theorem sel (h : Hdr) (d : Reg) (a : Reg) (b : Reg) (w64 : Bool) (sc : Cond) : Statement (.sel h d a b w64 sc) := by
  intro hw f hf
  cases hf
  have h_w64 := bit_lt w64
  have h_sc := code_lt_Cond sc
  try simp [Instr.wf, collOk, maskRw] at hw
  simp (disch := omega) [decodeFields, decode1, need, pick, WUse.ok, Fields.plain, Fields.base, Fields.bare, Fields.modded, Fields.coll, Fields.branch, Fields.bar, Fields.two, Fields.satRnd, Fields.rndOnly, Fields.fred, Fields.cvtSub, Fields.site, Fields.choice, Fields.bank, Fields.sub, Fields.msel, Fields.cls, maskNo, subSat, bind, Except.bind, ext3_sub, ext3_msel, ext3_cls, *]

theorem mov (h : Hdr) (d : Reg) (a : Reg) (w64 : Bool) : Statement (.mov h d a w64) := by
  intro hw f hf
  cases hf
  have h_w64 := bit_lt w64
  try simp [Instr.wf, collOk, maskRw] at hw
  simp (disch := omega) [decodeFields, decode1, need, pick, WUse.ok, Fields.plain, Fields.base, Fields.bare, Fields.modded, Fields.coll, Fields.branch, Fields.bar, Fields.two, Fields.satRnd, Fields.rndOnly, Fields.fred, Fields.cvtSub, Fields.site, Fields.choice, Fields.bank, Fields.sub, Fields.msel, Fields.cls, maskNo, subSat, bind, Except.bind, ext3_sub, ext3_msel, ext3_cls, *]

theorem movi (h : Hdr) (d : Reg) (imm : Word) (s64 : Bool) : Statement (.movi h d imm s64) := by
  intro hw f hf
  cases hf
  have h_imm := imm.isLt
  have h_s64 := bit_lt s64
  try simp [Instr.wf, collOk, maskRw] at hw
  simp (disch := omega) [decodeFields, decode1, need, pick, WUse.ok, Fields.plain, Fields.base, Fields.bare, Fields.modded, Fields.coll, Fields.branch, Fields.bar, Fields.two, Fields.satRnd, Fields.rndOnly, Fields.fred, Fields.cvtSub, Fields.site, Fields.choice, Fields.bank, Fields.sub, Fields.msel, Fields.cls, maskNo, subSat, bind, Except.bind, ext3_sub, ext3_msel, ext3_cls, *]

theorem lea (h : Hdr) (d : Reg) (a : Reg) (b : Reg) (sgn : Bool) (scale : BitVec 3) : Statement (.lea h d a b sgn scale) := by
  intro hw f hf
  cases hf
  have h_sgn := bit_lt sgn
  have h_scale := scale.isLt
  try simp [Instr.wf, collOk, maskRw] at hw
  simp (disch := omega) [decodeFields, decode1, need, pick, WUse.ok, Fields.plain, Fields.base, Fields.bare, Fields.modded, Fields.coll, Fields.branch, Fields.bar, Fields.two, Fields.satRnd, Fields.rndOnly, Fields.fred, Fields.cvtSub, Fields.site, Fields.choice, Fields.bank, Fields.sub, Fields.msel, Fields.cls, maskNo, subSat, bind, Except.bind, ext3_sub, ext3_msel, ext3_cls, *]

theorem srd (h : Hdr) (d : Reg) (n : BitVec 12) : Statement (.srd h d n) := by
  intro hw f hf
  cases hf
  have h_n := n.isLt
  try simp [Instr.wf, collOk, maskRw] at hw
  simp (disch := omega) [decodeFields, decode1, need, pick, WUse.ok, Fields.plain, Fields.base, Fields.bare, Fields.modded, Fields.coll, Fields.branch, Fields.bar, Fields.two, Fields.satRnd, Fields.rndOnly, Fields.fred, Fields.cvtSub, Fields.site, Fields.choice, Fields.bank, Fields.sub, Fields.msel, Fields.cls, maskNo, subSat, bind, Except.bind, ext3_sub, ext3_msel, ext3_cls, *]

theorem swr (h : Hdr) (a : Reg) (n : BitVec 12) : Statement (.swr h a n) := by
  intro hw f hf
  cases hf
  have h_n := n.isLt
  try simp [Instr.wf, collOk, maskRw] at hw
  simp (disch := omega) [decodeFields, decode1, need, pick, WUse.ok, Fields.plain, Fields.base, Fields.bare, Fields.modded, Fields.coll, Fields.branch, Fields.bar, Fields.two, Fields.satRnd, Fields.rndOnly, Fields.fred, Fields.cvtSub, Fields.site, Fields.choice, Fields.bank, Fields.sub, Fields.msel, Fields.cls, maskNo, subSat, bind, Except.bind, ext3_sub, ext3_msel, ext3_cls, *]

theorem shfl (h : Hdr) (d : Reg) (a : Reg) (b : Reg) (c : Reg) (m : MaskNo) (op : ShflOp) : Statement (.shfl h d a b c m op) := by
  intro hw f hf
  cases hf
  have h_m := m.isLt
  have h_op := code_lt_ShflOp op
  try simp [Instr.wf, collOk, maskRw] at hw
  simp (disch := omega) [decodeFields, decode1, need, pick, WUse.ok, Fields.plain, Fields.base, Fields.bare, Fields.modded, Fields.coll, Fields.branch, Fields.bar, Fields.two, Fields.satRnd, Fields.rndOnly, Fields.fred, Fields.cvtSub, Fields.site, Fields.choice, Fields.bank, Fields.sub, Fields.msel, Fields.cls, maskNo, subSat, bind, Except.bind, ext3_sub, ext3_msel, ext3_cls, *]

theorem vcomp (h : Hdr) (d : Reg) (a : Reg) (b : Reg) (m : MaskNo) : Statement (.vcomp h d a b m) := by
  intro hw f hf
  cases hf
  have h_m := m.isLt
  try simp [Instr.wf, collOk, maskRw] at hw
  simp (disch := omega) [decodeFields, decode1, need, pick, WUse.ok, Fields.plain, Fields.base, Fields.bare, Fields.modded, Fields.coll, Fields.branch, Fields.bar, Fields.two, Fields.satRnd, Fields.rndOnly, Fields.fred, Fields.cvtSub, Fields.site, Fields.choice, Fields.bank, Fields.sub, Fields.msel, Fields.cls, maskNo, subSat, bind, Except.bind, ext3_sub, ext3_msel, ext3_cls, *]

theorem vexp (h : Hdr) (d : Reg) (a : Reg) (b : Reg) (m : MaskNo) : Statement (.vexp h d a b m) := by
  intro hw f hf
  cases hf
  have h_m := m.isLt
  try simp [Instr.wf, collOk, maskRw] at hw
  simp (disch := omega) [decodeFields, decode1, need, pick, WUse.ok, Fields.plain, Fields.base, Fields.bare, Fields.modded, Fields.coll, Fields.branch, Fields.bar, Fields.two, Fields.satRnd, Fields.rndOnly, Fields.fred, Fields.cvtSub, Fields.site, Fields.choice, Fields.bank, Fields.sub, Fields.msel, Fields.cls, maskNo, subSat, bind, Except.bind, ext3_sub, ext3_msel, ext3_cls, *]

theorem iscan (h : Hdr) (d : Reg) (a : Reg) (m : MaskNo) (op : ScanOp) (excl : Bool) : Statement (.iscan h d a m op excl) := by
  intro hw f hf
  cases hf
  have h_m := m.isLt
  have h_op := code_lt_ScanOp op
  have h_excl := bit_lt excl
  try simp [Instr.wf, collOk, maskRw] at hw
  simp (disch := omega) [decodeFields, decode1, need, pick, WUse.ok, Fields.plain, Fields.base, Fields.bare, Fields.modded, Fields.coll, Fields.branch, Fields.bar, Fields.two, Fields.satRnd, Fields.rndOnly, Fields.fred, Fields.cvtSub, Fields.site, Fields.choice, Fields.bank, Fields.sub, Fields.msel, Fields.cls, maskNo, subSat, bind, Except.bind, ext3_sub, ext3_msel, ext3_cls, *]

theorem ired (h : Hdr) (d : Reg) (a : Reg) (m : MaskNo) (op : ScanOp) : Statement (.ired h d a m op) := by
  intro hw f hf
  cases hf
  have h_m := m.isLt
  have h_op := code_lt_ScanOp op
  try simp [Instr.wf, collOk, maskRw] at hw
  simp (disch := omega) [decodeFields, decode1, need, pick, WUse.ok, Fields.plain, Fields.base, Fields.bare, Fields.modded, Fields.coll, Fields.branch, Fields.bar, Fields.two, Fields.satRnd, Fields.rndOnly, Fields.fred, Fields.cvtSub, Fields.site, Fields.choice, Fields.bank, Fields.sub, Fields.msel, Fields.cls, maskNo, subSat, bind, Except.bind, ext3_sub, ext3_msel, ext3_cls, *]

theorem bysel (h : Hdr) (d : Reg) (a : Reg) (b : Reg) (c : Reg) : Statement (.bysel h d a b c) := by
  intro hw f hf
  cases hf
  try simp [Instr.wf, collOk, maskRw] at hw
  simp (disch := omega) [decodeFields, decode1, need, pick, WUse.ok, Fields.plain, Fields.base, Fields.bare, Fields.modded, Fields.coll, Fields.branch, Fields.bar, Fields.two, Fields.satRnd, Fields.rndOnly, Fields.fred, Fields.cvtSub, Fields.site, Fields.choice, Fields.bank, Fields.sub, Fields.msel, Fields.cls, maskNo, subSat, bind, Except.bind, ext3_sub, ext3_msel, ext3_cls, *]

theorem fadd (h : Hdr) (d : Reg) (a : Reg) (b : Reg) (sat : Bool) (rnd : Rnd) : Statement (.fadd h d a b sat rnd) := by
  intro hw f hf
  cases hf
  have h_sat := bit_lt sat
  have h_rnd := code_lt_Rnd rnd
  try simp [Instr.wf, collOk, maskRw] at hw
  have e1 : flag ((8 * bit sat + rnd.code) / 8) = sat := flag_eq (by omega)
  have e2 : 8 * bit sat + rnd.code < 16 := by omega
  have e3 := rnd2_code (r := rnd) (by simp_all)
  simp (disch := omega) [decodeFields, decode2, need, pick, WUse.ok, Fields.plain, Fields.base, Fields.bare, Fields.modded, Fields.coll, Fields.branch, Fields.bar, Fields.two, Fields.satRnd, Fields.rndOnly, Fields.fred, Fields.cvtSub, Fields.site, Fields.choice, Fields.bank, Fields.sub, Fields.msel, Fields.cls, maskNo, subSat, bind, Except.bind, ext3_sub, ext3_msel, ext3_cls, *]

theorem fmul (h : Hdr) (d : Reg) (a : Reg) (b : Reg) (sat : Bool) (rnd : Rnd) : Statement (.fmul h d a b sat rnd) := by
  intro hw f hf
  cases hf
  have h_sat := bit_lt sat
  have h_rnd := code_lt_Rnd rnd
  try simp [Instr.wf, collOk, maskRw] at hw
  have e1 : flag ((8 * bit sat + rnd.code) / 8) = sat := flag_eq (by omega)
  have e2 : 8 * bit sat + rnd.code < 16 := by omega
  have e3 := rnd2_code (r := rnd) (by simp_all)
  simp (disch := omega) [decodeFields, decode2, need, pick, WUse.ok, Fields.plain, Fields.base, Fields.bare, Fields.modded, Fields.coll, Fields.branch, Fields.bar, Fields.two, Fields.satRnd, Fields.rndOnly, Fields.fred, Fields.cvtSub, Fields.site, Fields.choice, Fields.bank, Fields.sub, Fields.msel, Fields.cls, maskNo, subSat, bind, Except.bind, ext3_sub, ext3_msel, ext3_cls, *]

theorem ffma (h : Hdr) (d : Reg) (a : Reg) (b : Reg) (c : Reg) (sat : Bool) (rnd : Rnd) : Statement (.ffma h d a b c sat rnd) := by
  intro hw f hf
  cases hf
  have h_sat := bit_lt sat
  have h_rnd := code_lt_Rnd rnd
  try simp [Instr.wf, collOk, maskRw] at hw
  have e1 : flag ((8 * bit sat + rnd.code) / 8) = sat := flag_eq (by omega)
  have e2 : 8 * bit sat + rnd.code < 16 := by omega
  have e3 := rnd2_code (r := rnd) (by simp_all)
  simp (disch := omega) [decodeFields, decode2, need, pick, WUse.ok, Fields.plain, Fields.base, Fields.bare, Fields.modded, Fields.coll, Fields.branch, Fields.bar, Fields.two, Fields.satRnd, Fields.rndOnly, Fields.fred, Fields.cvtSub, Fields.site, Fields.choice, Fields.bank, Fields.sub, Fields.msel, Fields.cls, maskNo, subSat, bind, Except.bind, ext3_sub, ext3_msel, ext3_cls, *]

theorem fminmax (h : Hdr) (d : Reg) (a : Reg) (b : Reg) (op : FMinMax) : Statement (.fminmax h d a b op) := by
  intro hw f hf
  cases hf
  have h_op := code_lt_FMinMax op
  try simp [Instr.wf, collOk, maskRw] at hw
  simp (disch := omega) [decodeFields, decode2, need, pick, WUse.ok, Fields.plain, Fields.base, Fields.bare, Fields.modded, Fields.coll, Fields.branch, Fields.bar, Fields.two, Fields.satRnd, Fields.rndOnly, Fields.fred, Fields.cvtSub, Fields.site, Fields.choice, Fields.bank, Fields.sub, Fields.msel, Fields.cls, maskNo, subSat, bind, Except.bind, ext3_sub, ext3_msel, ext3_cls, *]

theorem fcmp (h : Hdr) (a : Reg) (b : Reg) : Statement (.fcmp h a b) := by
  intro hw f hf
  cases hf
  try simp [Instr.wf, collOk, maskRw] at hw
  simp (disch := omega) [decodeFields, decode2, need, pick, WUse.ok, Fields.plain, Fields.base, Fields.bare, Fields.modded, Fields.coll, Fields.branch, Fields.bar, Fields.two, Fields.satRnd, Fields.rndOnly, Fields.fred, Fields.cvtSub, Fields.site, Fields.choice, Fields.bank, Fields.sub, Fields.msel, Fields.cls, maskNo, subSat, bind, Except.bind, ext3_sub, ext3_msel, ext3_cls, *]

theorem fclass (h : Hdr) (d : Reg) (a : Reg) (mask : BitVec 10) : Statement (.fclass h d a mask) := by
  intro hw f hf
  cases hf
  have h_mask := mask.isLt
  try simp [Instr.wf, collOk, maskRw] at hw
  simp (disch := omega) [decodeFields, decode2, need, pick, WUse.ok, Fields.plain, Fields.base, Fields.bare, Fields.modded, Fields.coll, Fields.branch, Fields.bar, Fields.two, Fields.satRnd, Fields.rndOnly, Fields.fred, Fields.cvtSub, Fields.site, Fields.choice, Fields.bank, Fields.sub, Fields.msel, Fields.cls, maskNo, subSat, bind, Except.bind, ext3_sub, ext3_msel, ext3_cls, *]

theorem frnd (h : Hdr) (d : Reg) (a : Reg) (rnd : Rnd) : Statement (.frnd h d a rnd) := by
  intro hw f hf
  cases hf
  have h_rnd := code_lt_Rnd rnd
  try simp [Instr.wf, collOk, maskRw] at hw
  have e2 : rnd.code < 8 := by omega
  have e3 := rnd2_code (r := rnd) (by simp_all)
  simp (disch := omega) [decodeFields, decode2, need, pick, WUse.ok, Fields.plain, Fields.base, Fields.bare, Fields.modded, Fields.coll, Fields.branch, Fields.bar, Fields.two, Fields.satRnd, Fields.rndOnly, Fields.fred, Fields.cvtSub, Fields.site, Fields.choice, Fields.bank, Fields.sub, Fields.msel, Fields.cls, maskNo, subSat, bind, Except.bind, ext3_sub, ext3_msel, ext3_cls, *]

theorem fscale (h : Hdr) (d : Reg) (a : Reg) (b : Reg) (rnd : Rnd) : Statement (.fscale h d a b rnd) := by
  intro hw f hf
  cases hf
  have h_rnd := code_lt_Rnd rnd
  try simp [Instr.wf, collOk, maskRw] at hw
  have e2 : rnd.code < 8 := by omega
  have e3 := rnd2_code (r := rnd) (by simp_all)
  simp (disch := omega) [decodeFields, decode2, need, pick, WUse.ok, Fields.plain, Fields.base, Fields.bare, Fields.modded, Fields.coll, Fields.branch, Fields.bar, Fields.two, Fields.satRnd, Fields.rndOnly, Fields.fred, Fields.cvtSub, Fields.site, Fields.choice, Fields.bank, Fields.sub, Fields.msel, Fields.cls, maskNo, subSat, bind, Except.bind, ext3_sub, ext3_msel, ext3_cls, *]

theorem dadd (h : Hdr) (d : Reg) (a : Reg) (b : Reg) (sat : Bool) (rnd : Rnd) : Statement (.dadd h d a b sat rnd) := by
  intro hw f hf
  cases hf
  have h_sat := bit_lt sat
  have h_rnd := code_lt_Rnd rnd
  try simp [Instr.wf, collOk, maskRw] at hw
  have e1 : flag ((8 * bit sat + rnd.code) / 8) = sat := flag_eq (by omega)
  have e2 : 8 * bit sat + rnd.code < 16 := by omega
  have e3 := rnd2_code (r := rnd) (by simp_all)
  simp (disch := omega) [decodeFields, decode2, need, pick, WUse.ok, Fields.plain, Fields.base, Fields.bare, Fields.modded, Fields.coll, Fields.branch, Fields.bar, Fields.two, Fields.satRnd, Fields.rndOnly, Fields.fred, Fields.cvtSub, Fields.site, Fields.choice, Fields.bank, Fields.sub, Fields.msel, Fields.cls, maskNo, subSat, bind, Except.bind, ext3_sub, ext3_msel, ext3_cls, *]

theorem dmul (h : Hdr) (d : Reg) (a : Reg) (b : Reg) (sat : Bool) (rnd : Rnd) : Statement (.dmul h d a b sat rnd) := by
  intro hw f hf
  cases hf
  have h_sat := bit_lt sat
  have h_rnd := code_lt_Rnd rnd
  try simp [Instr.wf, collOk, maskRw] at hw
  have e1 : flag ((8 * bit sat + rnd.code) / 8) = sat := flag_eq (by omega)
  have e2 : 8 * bit sat + rnd.code < 16 := by omega
  have e3 := rnd2_code (r := rnd) (by simp_all)
  simp (disch := omega) [decodeFields, decode2, need, pick, WUse.ok, Fields.plain, Fields.base, Fields.bare, Fields.modded, Fields.coll, Fields.branch, Fields.bar, Fields.two, Fields.satRnd, Fields.rndOnly, Fields.fred, Fields.cvtSub, Fields.site, Fields.choice, Fields.bank, Fields.sub, Fields.msel, Fields.cls, maskNo, subSat, bind, Except.bind, ext3_sub, ext3_msel, ext3_cls, *]

theorem dfma (h : Hdr) (d : Reg) (a : Reg) (b : Reg) (c : Reg) (sat : Bool) (rnd : Rnd) : Statement (.dfma h d a b c sat rnd) := by
  intro hw f hf
  cases hf
  have h_sat := bit_lt sat
  have h_rnd := code_lt_Rnd rnd
  try simp [Instr.wf, collOk, maskRw] at hw
  have e1 : flag ((8 * bit sat + rnd.code) / 8) = sat := flag_eq (by omega)
  have e2 : 8 * bit sat + rnd.code < 16 := by omega
  have e3 := rnd2_code (r := rnd) (by simp_all)
  simp (disch := omega) [decodeFields, decode2, need, pick, WUse.ok, Fields.plain, Fields.base, Fields.bare, Fields.modded, Fields.coll, Fields.branch, Fields.bar, Fields.two, Fields.satRnd, Fields.rndOnly, Fields.fred, Fields.cvtSub, Fields.site, Fields.choice, Fields.bank, Fields.sub, Fields.msel, Fields.cls, maskNo, subSat, bind, Except.bind, ext3_sub, ext3_msel, ext3_cls, *]

theorem dcmp (h : Hdr) (a : Reg) (b : Reg) : Statement (.dcmp h a b) := by
  intro hw f hf
  cases hf
  try simp [Instr.wf, collOk, maskRw] at hw
  simp (disch := omega) [decodeFields, decode2, need, pick, WUse.ok, Fields.plain, Fields.base, Fields.bare, Fields.modded, Fields.coll, Fields.branch, Fields.bar, Fields.two, Fields.satRnd, Fields.rndOnly, Fields.fred, Fields.cvtSub, Fields.site, Fields.choice, Fields.bank, Fields.sub, Fields.msel, Fields.cls, maskNo, subSat, bind, Except.bind, ext3_sub, ext3_msel, ext3_cls, *]

theorem hadd2 (h : Hdr) (d : Reg) (a : Reg) (b : Reg) (ty : HalfTy) (sat : Bool) (rnd : Rnd) : Statement (.hadd2 h d a b ty sat rnd) := by
  intro hw f hf
  cases hf
  have h_ty := code_lt_HalfTy ty
  have h_sat := bit_lt sat
  have h_rnd := code_lt_Rnd rnd
  try simp [Instr.wf, collOk, maskRw] at hw
  have e1 : flag ((8 * bit sat + rnd.code) / 8) = sat := flag_eq (by omega)
  have e2 : 8 * bit sat + rnd.code < 16 := by omega
  have e3 := rnd2_code (r := rnd) (by simp_all)
  simp (disch := omega) [decodeFields, decode2, need, pick, WUse.ok, Fields.plain, Fields.base, Fields.bare, Fields.modded, Fields.coll, Fields.branch, Fields.bar, Fields.two, Fields.satRnd, Fields.rndOnly, Fields.fred, Fields.cvtSub, Fields.site, Fields.choice, Fields.bank, Fields.sub, Fields.msel, Fields.cls, maskNo, subSat, bind, Except.bind, ext3_sub, ext3_msel, ext3_cls, *]

theorem hmul2 (h : Hdr) (d : Reg) (a : Reg) (b : Reg) (ty : HalfTy) (sat : Bool) (rnd : Rnd) : Statement (.hmul2 h d a b ty sat rnd) := by
  intro hw f hf
  cases hf
  have h_ty := code_lt_HalfTy ty
  have h_sat := bit_lt sat
  have h_rnd := code_lt_Rnd rnd
  try simp [Instr.wf, collOk, maskRw] at hw
  have e1 : flag ((8 * bit sat + rnd.code) / 8) = sat := flag_eq (by omega)
  have e2 : 8 * bit sat + rnd.code < 16 := by omega
  have e3 := rnd2_code (r := rnd) (by simp_all)
  simp (disch := omega) [decodeFields, decode2, need, pick, WUse.ok, Fields.plain, Fields.base, Fields.bare, Fields.modded, Fields.coll, Fields.branch, Fields.bar, Fields.two, Fields.satRnd, Fields.rndOnly, Fields.fred, Fields.cvtSub, Fields.site, Fields.choice, Fields.bank, Fields.sub, Fields.msel, Fields.cls, maskNo, subSat, bind, Except.bind, ext3_sub, ext3_msel, ext3_cls, *]

theorem hfma2 (h : Hdr) (d : Reg) (a : Reg) (b : Reg) (c : Reg) (ty : HalfTy) (sat : Bool) (rnd : Rnd) : Statement (.hfma2 h d a b c ty sat rnd) := by
  intro hw f hf
  cases hf
  have h_ty := code_lt_HalfTy ty
  have h_sat := bit_lt sat
  have h_rnd := code_lt_Rnd rnd
  try simp [Instr.wf, collOk, maskRw] at hw
  have e1 : flag ((8 * bit sat + rnd.code) / 8) = sat := flag_eq (by omega)
  have e2 : 8 * bit sat + rnd.code < 16 := by omega
  have e3 := rnd2_code (r := rnd) (by simp_all)
  simp (disch := omega) [decodeFields, decode2, need, pick, WUse.ok, Fields.plain, Fields.base, Fields.bare, Fields.modded, Fields.coll, Fields.branch, Fields.bar, Fields.two, Fields.satRnd, Fields.rndOnly, Fields.fred, Fields.cvtSub, Fields.site, Fields.choice, Fields.bank, Fields.sub, Fields.msel, Fields.cls, maskNo, subSat, bind, Except.bind, ext3_sub, ext3_msel, ext3_cls, *]

theorem sfn (h : Hdr) (d : Reg) (a : Reg) (slot : BitVec 4) : Statement (.sfn h d a slot) := by
  intro hw f hf
  cases hf
  have h_slot := slot.isLt
  try simp [Instr.wf, collOk, maskRw] at hw
  simp (disch := omega) [decodeFields, decode2, need, pick, WUse.ok, Fields.plain, Fields.base, Fields.bare, Fields.modded, Fields.coll, Fields.branch, Fields.bar, Fields.two, Fields.satRnd, Fields.rndOnly, Fields.fred, Fields.cvtSub, Fields.site, Fields.choice, Fields.bank, Fields.sub, Fields.msel, Fields.cls, maskNo, subSat, bind, Except.bind, ext3_sub, ext3_msel, ext3_cls, *]

theorem aconj (h : Hdr) (d : Reg) (a : Reg) (alg : BitVec 2) : Statement (.aconj h d a alg) := by
  intro hw f hf
  cases hf
  have h_alg := alg.isLt
  try simp [Instr.wf, collOk, maskRw] at hw
  simp (disch := omega) [decodeFields, decode2, need, pick, WUse.ok, Fields.plain, Fields.base, Fields.bare, Fields.modded, Fields.coll, Fields.branch, Fields.bar, Fields.two, Fields.satRnd, Fields.rndOnly, Fields.fred, Fields.cvtSub, Fields.site, Fields.choice, Fields.bank, Fields.sub, Fields.msel, Fields.cls, maskNo, subSat, bind, Except.bind, ext3_sub, ext3_msel, ext3_cls, *]

theorem anorm (h : Hdr) (d : Reg) (a : Reg) (alg : BitVec 2) (rnd : Rnd) : Statement (.anorm h d a alg rnd) := by
  intro hw f hf
  cases hf
  have h_alg := alg.isLt
  have h_rnd := code_lt_Rnd rnd
  try simp [Instr.wf, collOk, maskRw] at hw
  have e2 : rnd.code < 8 := by omega
  have e3 := rnd2_code (r := rnd) (by simp_all)
  simp (disch := omega) [decodeFields, decode2, need, pick, WUse.ok, Fields.plain, Fields.base, Fields.bare, Fields.modded, Fields.coll, Fields.branch, Fields.bar, Fields.two, Fields.satRnd, Fields.rndOnly, Fields.fred, Fields.cvtSub, Fields.site, Fields.choice, Fields.bank, Fields.sub, Fields.msel, Fields.cls, maskNo, subSat, bind, Except.bind, ext3_sub, ext3_msel, ext3_cls, *]

theorem amul (h : Hdr) (d : Reg) (a : Reg) (b : Reg) (alg : BitVec 2) (ca : Bool) (cb : Bool) (rnd : Rnd) : Statement (.amul h d a b alg ca cb rnd) := by
  intro hw f hf
  cases hf
  have h_alg := alg.isLt
  have h_ca := bit_lt ca
  have h_cb := bit_lt cb
  have h_rnd := code_lt_Rnd rnd
  try simp [Instr.wf, collOk, maskRw] at hw
  have e1 : 32 * bit ca + 16 * bit cb + rnd.code < 64 := by omega
  have e2 : (32 * bit ca + 16 * bit cb + rnd.code) / 8 % 2 = 0 := by omega
  have e4 : (32 * bit ca + 16 * bit cb + rnd.code) % 8 = rnd.code % 8 := by omega
  have e3 := rnd2_code (r := rnd) (by simp_all)
  have e5 : flag ((32 * bit ca + 16 * bit cb + rnd.code) / 32) = ca := flag_eq (by omega)
  have e6 : flag ((32 * bit ca + 16 * bit cb + rnd.code) / 16) = cb := flag_eq (by omega)
  simp (disch := omega) [decodeFields, decode2, need, pick, WUse.ok, Fields.plain, Fields.base, Fields.bare, Fields.modded, Fields.coll, Fields.branch, Fields.bar, Fields.two, Fields.satRnd, Fields.rndOnly, Fields.fred, Fields.cvtSub, Fields.site, Fields.choice, Fields.bank, Fields.sub, Fields.msel, Fields.cls, maskNo, subSat, bind, Except.bind, ext3_sub, ext3_msel, ext3_cls, *]

theorem fred (h : Hdr) (d : Reg) (a : Reg) (m : MaskNo) (op : FRedOp) (duct : BitVec 2) : Statement (.fred h d a m op duct) := by
  intro hw f hf
  cases hf
  have h_m := m.isLt
  have h_op := code_lt_FRedOp op
  have h_duct := duct.isLt
  try simp [Instr.wf, collOk, maskRw] at hw
  simp (disch := omega) [decodeFields, decode2, need, pick, WUse.ok, Fields.plain, Fields.base, Fields.bare, Fields.modded, Fields.coll, Fields.branch, Fields.bar, Fields.two, Fields.satRnd, Fields.rndOnly, Fields.fred, Fields.cvtSub, Fields.site, Fields.choice, Fields.bank, Fields.sub, Fields.msel, Fields.cls, maskNo, subSat, bind, Except.bind, ext3_sub, ext3_msel, ext3_cls, *]

theorem fscan (h : Hdr) (d : Reg) (a : Reg) (m : MaskNo) (op : FRedOp) (duct : BitVec 2) (excl : Bool) : Statement (.fscan h d a m op duct excl) := by
  intro hw f hf
  cases hf
  have h_m := m.isLt
  have h_op := code_lt_FRedOp op
  have h_duct := duct.isLt
  have h_excl := bit_lt excl
  try simp [Instr.wf, collOk, maskRw] at hw
  simp (disch := omega) [decodeFields, decode2, need, pick, WUse.ok, Fields.plain, Fields.base, Fields.bare, Fields.modded, Fields.coll, Fields.branch, Fields.bar, Fields.two, Fields.satRnd, Fields.rndOnly, Fields.fred, Fields.cvtSub, Fields.site, Fields.choice, Fields.bank, Fields.sub, Fields.msel, Fields.cls, maskNo, subSat, bind, Except.bind, ext3_sub, ext3_msel, ext3_cls, *]

theorem cvt (h : Hdr) (d : Reg) (a : Reg) (dst : NumTy) (src : NumTy) (satf : Bool) (rnd : Rnd) : Statement (.cvt h d a dst src satf rnd) := by
  intro hw f hf
  cases hf
  have h_dst := code_lt_NumTy dst
  have h_src := code_lt_NumTy src
  have h_satf := bit_lt satf
  have h_rnd := code_lt_Rnd rnd
  try simp [Instr.wf, collOk, maskRw] at hw
  have e1 : 256 * src.code + (8 * bit satf + rnd.code) < 4096 := by omega
  have e4 : (256 * src.code + (8 * bit satf + rnd.code)) % 8 = rnd.code % 8 := by omega
  have e5 : (256 * src.code + (8 * bit satf + rnd.code)) / 16 % 16 = 0 := by omega
  have e7 : (256 * src.code + (8 * bit satf + rnd.code)) / 256 = src.code := by omega
  have e6 : flag ((256 * src.code + (8 * bit satf + rnd.code)) / 8) = satf := flag_eq (by omega)
  simp (disch := omega) [decodeFields, decode3, need, pick, WUse.ok, Fields.plain, Fields.base, Fields.bare, Fields.modded, Fields.coll, Fields.branch, Fields.bar, Fields.two, Fields.satRnd, Fields.rndOnly, Fields.fred, Fields.cvtSub, Fields.site, Fields.choice, Fields.bank, Fields.sub, Fields.msel, Fields.cls, maskNo, subSat, bind, Except.bind, ext3_sub, ext3_msel, ext3_cls, *]

theorem cvth2 (h : Hdr) (d : Reg) (a : Reg) (b : Reg) (ty : HalfTy) (satf : Bool) (rnd : Rnd) : Statement (.cvth2 h d a b ty satf rnd) := by
  intro hw f hf
  cases hf
  have h_ty := code_lt_HalfTy ty
  have h_satf := bit_lt satf
  have h_rnd := code_lt_Rnd rnd
  try simp [Instr.wf, collOk, maskRw] at hw
  have e1 : flag ((8 * bit satf + rnd.code) / 8) = satf := flag_eq (by omega)
  have e2 : 8 * bit satf + rnd.code < 16 := by omega
  simp (disch := omega) [decodeFields, decode3, need, pick, WUse.ok, Fields.plain, Fields.base, Fields.bare, Fields.modded, Fields.coll, Fields.branch, Fields.bar, Fields.two, Fields.satRnd, Fields.rndOnly, Fields.fred, Fields.cvtSub, Fields.site, Fields.choice, Fields.bank, Fields.sub, Fields.msel, Fields.cls, maskNo, subSat, bind, Except.bind, ext3_sub, ext3_msel, ext3_cls, *]

theorem cvtq8 (h : Hdr) (d : Reg) (a : Reg) (b : Reg) (ty : Q8Ty) (scl : Bool) (satf : Bool) (rnd : Rnd) : Statement (.cvtq8 h d a b ty scl satf rnd) := by
  intro hw f hf
  cases hf
  have h_ty := code_lt_Q8Ty ty
  have h_scl := bit_lt scl
  have h_satf := bit_lt satf
  have h_rnd := code_lt_Rnd rnd
  try simp [Instr.wf, collOk, maskRw] at hw
  have e1 : 16 * bit scl + (8 * bit satf + rnd.code) < 32 := by omega
  have e4 : (16 * bit scl + (8 * bit satf + rnd.code)) % 8 = rnd.code % 8 := by omega
  have e5 : flag ((16 * bit scl + (8 * bit satf + rnd.code)) / 16) = scl := flag_eq (by omega)
  have e6 : flag ((16 * bit scl + (8 * bit satf + rnd.code)) / 8) = satf := flag_eq (by omega)
  simp (disch := omega) [decodeFields, decode3, need, pick, WUse.ok, Fields.plain, Fields.base, Fields.bare, Fields.modded, Fields.coll, Fields.branch, Fields.bar, Fields.two, Fields.satRnd, Fields.rndOnly, Fields.fred, Fields.cvtSub, Fields.site, Fields.choice, Fields.bank, Fields.sub, Fields.msel, Fields.cls, maskNo, subSat, bind, Except.bind, ext3_sub, ext3_msel, ext3_cls, *]

theorem cvtq4 (h : Hdr) (d : Reg) (a : Reg) (b : Reg) (scl : Bool) (satf : Bool) (rnd : Rnd) : Statement (.cvtq4 h d a b scl satf rnd) := by
  intro hw f hf
  cases hf
  have h_scl := bit_lt scl
  have h_satf := bit_lt satf
  have h_rnd := code_lt_Rnd rnd
  try simp [Instr.wf, collOk, maskRw] at hw
  have e1 : 16 * bit scl + (8 * bit satf + rnd.code) < 32 := by omega
  have e4 : (16 * bit scl + (8 * bit satf + rnd.code)) % 8 = rnd.code % 8 := by omega
  have e5 : flag ((16 * bit scl + (8 * bit satf + rnd.code)) / 16) = scl := flag_eq (by omega)
  have e6 : flag ((16 * bit scl + (8 * bit satf + rnd.code)) / 8) = satf := flag_eq (by omega)
  simp (disch := omega) [decodeFields, decode3, need, pick, WUse.ok, Fields.plain, Fields.base, Fields.bare, Fields.modded, Fields.coll, Fields.branch, Fields.bar, Fields.two, Fields.satRnd, Fields.rndOnly, Fields.fred, Fields.cvtSub, Fields.site, Fields.choice, Fields.bank, Fields.sub, Fields.msel, Fields.cls, maskNo, subSat, bind, Except.bind, ext3_sub, ext3_msel, ext3_cls, *]

theorem cvtw (h : Hdr) (d : Reg) (a : Reg) (op : CvtwOp) (q : BitVec 6) (satf : Bool) (rnd : Rnd) : Statement (.cvtw h d a op q satf rnd) := by
  intro hw f hf
  cases hf
  have h_op := code_lt_CvtwOp op
  have h_q := q.isLt
  have h_satf := bit_lt satf
  have h_rnd := code_lt_Rnd rnd
  try simp [Instr.wf, collOk, maskRw] at hw
  have e1 : flag ((8 * bit satf + rnd.code) / 8) = satf := flag_eq (by omega)
  have e2 : 8 * bit satf + rnd.code < 16 := by omega
  simp (disch := omega) [decodeFields, decode3, need, pick, WUse.ok, Fields.plain, Fields.base, Fields.bare, Fields.modded, Fields.coll, Fields.branch, Fields.bar, Fields.two, Fields.satRnd, Fields.rndOnly, Fields.fred, Fields.cvtSub, Fields.site, Fields.choice, Fields.bank, Fields.sub, Fields.msel, Fields.cls, maskNo, subSat, bind, Except.bind, ext3_sub, ext3_msel, ext3_cls, *]

theorem unpq (h : Hdr) (d : Reg) (a : Reg) (b : Reg) (ty : UnpTy) (scl : Bool) (satf : Bool) (rnd : Rnd) : Statement (.unpq h d a b ty scl satf rnd) := by
  intro hw f hf
  cases hf
  have h_ty := code_lt_UnpTy ty
  have h_scl := bit_lt scl
  have h_satf := bit_lt satf
  have h_rnd := code_lt_Rnd rnd
  try simp [Instr.wf, collOk, maskRw] at hw
  have e1 : 16 * bit scl + (8 * bit satf + rnd.code) < 32 := by omega
  have e4 : (16 * bit scl + (8 * bit satf + rnd.code)) % 8 = rnd.code % 8 := by omega
  have e5 : flag ((16 * bit scl + (8 * bit satf + rnd.code)) / 16) = scl := flag_eq (by omega)
  have e6 : flag ((16 * bit scl + (8 * bit satf + rnd.code)) / 8) = satf := flag_eq (by omega)
  have e3 := rnd3_code (r := rnd) (by simp_all)
  simp (disch := omega) [decodeFields, decode3, need, pick, WUse.ok, Fields.plain, Fields.base, Fields.bare, Fields.modded, Fields.coll, Fields.branch, Fields.bar, Fields.two, Fields.satRnd, Fields.rndOnly, Fields.fred, Fields.cvtSub, Fields.site, Fields.choice, Fields.bank, Fields.sub, Fields.msel, Fields.cls, maskNo, subSat, bind, Except.bind, ext3_sub, ext3_msel, ext3_cls, *]

theorem bscale (h : Hdr) (d : Reg) (a : Reg) (m : MaskNo) (ty : BscTy) : Statement (.bscale h d a m ty) := by
  intro hw f hf
  cases hf
  have h_m := m.isLt
  have h_ty := code_lt_BscTy ty
  try simp [Instr.wf, collOk, maskRw] at hw
  simp (disch := omega) [decodeFields, decode3, need, pick, WUse.ok, Fields.plain, Fields.base, Fields.bare, Fields.modded, Fields.coll, Fields.branch, Fields.bar, Fields.two, Fields.satRnd, Fields.rndOnly, Fields.fred, Fields.cvtSub, Fields.site, Fields.choice, Fields.bank, Fields.sub, Fields.msel, Fields.cls, maskNo, subSat, bind, Except.bind, ext3_sub, ext3_msel, ext3_cls, *]

theorem srseed (h : Hdr) (a : Reg) : Statement (.srseed h a) := by
  intro hw f hf
  cases hf
  try simp [Instr.wf, collOk, maskRw] at hw
  simp (disch := omega) [decodeFields, decode3, need, pick, WUse.ok, Fields.plain, Fields.base, Fields.bare, Fields.modded, Fields.coll, Fields.branch, Fields.bar, Fields.two, Fields.satRnd, Fields.rndOnly, Fields.fred, Fields.cvtSub, Fields.site, Fields.choice, Fields.bank, Fields.sub, Fields.msel, Fields.cls, maskNo, subSat, bind, Except.bind, ext3_sub, ext3_msel, ext3_cls, *]

theorem i2i (h : Hdr) (d : Reg) (a : Reg) (dst : I2ITy) (src : I2ITy) (sat : Bool) : Statement (.i2i h d a dst src sat) := by
  intro hw f hf
  cases hf
  have h_dst := code_lt_I2ITy dst
  have h_src := code_lt_I2ITy src
  have h_sat := bit_lt sat
  try simp [Instr.wf, collOk, maskRw] at hw
  have e1 : 256 * src.code + 8 * bit sat < 2048 := by omega
  have e4 : (256 * src.code + 8 * bit sat) % 8 = 0 := by omega
  have e5 : (256 * src.code + 8 * bit sat) / 16 % 16 = 0 := by omega
  have e7 : (256 * src.code + 8 * bit sat) / 256 = src.code := by omega
  have e6 : flag ((256 * src.code + 8 * bit sat) / 8) = sat := flag_eq (by omega)
  simp (disch := omega) [decodeFields, decode3, need, pick, WUse.ok, Fields.plain, Fields.base, Fields.bare, Fields.modded, Fields.coll, Fields.branch, Fields.bar, Fields.two, Fields.satRnd, Fields.rndOnly, Fields.fred, Fields.cvtSub, Fields.site, Fields.choice, Fields.bank, Fields.sub, Fields.msel, Fields.cls, maskNo, subSat, bind, Except.bind, ext3_sub, ext3_msel, ext3_cls, *]

theorem draw (h : Hdr) (d : Reg) (site : BitVec 6) : Statement (.draw h d site) := by
  intro hw f hf
  cases hf
  have h_site := site.isLt
  try simp [Instr.wf, collOk, maskRw] at hw
  have e1 : site.toNat < 63 := by
    have : site.toNat ≠ 63 := fun e => absurd (BitVec.eq_of_toNat_eq e : site = 63#6) (by simp_all)
    omega
  simp (disch := omega) [decodeFields, decode4, need, pick, WUse.ok, Fields.plain, Fields.base, Fields.bare, Fields.modded, Fields.coll, Fields.branch, Fields.bar, Fields.two, Fields.satRnd, Fields.rndOnly, Fields.fred, Fields.cvtSub, Fields.site, Fields.choice, Fields.bank, Fields.sub, Fields.msel, Fields.cls, maskNo, subSat, bind, Except.bind, ext3_sub, ext3_msel, ext3_cls, *]

theorem drawb (h : Hdr) (d : Reg) (site : BitVec 6) : Statement (.drawb h d site) := by
  intro hw f hf
  cases hf
  have h_site := site.isLt
  try simp [Instr.wf, collOk, maskRw] at hw
  have e1 : site.toNat < 63 := by
    have : site.toNat ≠ 63 := fun e => absurd (BitVec.eq_of_toNat_eq e : site = 63#6) (by simp_all)
    omega
  simp (disch := omega) [decodeFields, decode4, need, pick, WUse.ok, Fields.plain, Fields.base, Fields.bare, Fields.modded, Fields.coll, Fields.branch, Fields.bar, Fields.two, Fields.satRnd, Fields.rndOnly, Fields.fred, Fields.cvtSub, Fields.site, Fields.choice, Fields.bank, Fields.sub, Fields.msel, Fields.cls, maskNo, subSat, bind, Except.bind, ext3_sub, ext3_msel, ext3_cls, *]

theorem drawi (h : Hdr) (d : Reg) (b : Reg) (site : BitVec 6) : Statement (.drawi h d b site) := by
  intro hw f hf
  cases hf
  have h_site := site.isLt
  try simp [Instr.wf, collOk, maskRw] at hw
  have e1 : site.toNat < 63 := by
    have : site.toNat ≠ 63 := fun e => absurd (BitVec.eq_of_toNat_eq e : site = 63#6) (by simp_all)
    omega
  simp (disch := omega) [decodeFields, decode4, need, pick, WUse.ok, Fields.plain, Fields.base, Fields.bare, Fields.modded, Fields.coll, Fields.branch, Fields.bar, Fields.two, Fields.satRnd, Fields.rndOnly, Fields.fred, Fields.cvtSub, Fields.site, Fields.choice, Fields.bank, Fields.sub, Fields.msel, Fields.cls, maskNo, subSat, bind, Except.bind, ext3_sub, ext3_msel, ext3_cls, *]

theorem drawn (h : Hdr) (d : Reg) (site : BitVec 6) : Statement (.drawn h d site) := by
  intro hw f hf
  cases hf
  have h_site := site.isLt
  try simp [Instr.wf, collOk, maskRw] at hw
  have e1 : site.toNat < 63 := by
    have : site.toNat ≠ 63 := fun e => absurd (BitVec.eq_of_toNat_eq e : site = 63#6) (by simp_all)
    omega
  simp (disch := omega) [decodeFields, decode4, need, pick, WUse.ok, Fields.plain, Fields.base, Fields.bare, Fields.modded, Fields.coll, Fields.branch, Fields.bar, Fields.two, Fields.satRnd, Fields.rndOnly, Fields.fred, Fields.cvtSub, Fields.site, Fields.choice, Fields.bank, Fields.sub, Fields.msel, Fields.cls, maskNo, subSat, bind, Except.bind, ext3_sub, ext3_msel, ext3_cls, *]

theorem drawt (h : Hdr) (d : Reg) (site : BitVec 6) : Statement (.drawt h d site) := by
  intro hw f hf
  cases hf
  have h_site := site.isLt
  try simp [Instr.wf, collOk, maskRw] at hw
  have e1 : site.toNat < 63 := by
    have : site.toNat ≠ 63 := fun e => absurd (BitVec.eq_of_toNat_eq e : site = 63#6) (by simp_all)
    omega
  simp (disch := omega) [decodeFields, decode4, need, pick, WUse.ok, Fields.plain, Fields.base, Fields.bare, Fields.modded, Fields.coll, Fields.branch, Fields.bar, Fields.two, Fields.satRnd, Fields.rndOnly, Fields.fred, Fields.cvtSub, Fields.site, Fields.choice, Fields.bank, Fields.sub, Fields.msel, Fields.cls, maskNo, subSat, bind, Except.bind, ext3_sub, ext3_msel, ext3_cls, *]

theorem csetup (h : Hdr) (op : CsetupOp) : Statement (.csetup h op) := by
  intro hw f hf
  cases op <;> cases hf
  all_goals try simp [Instr.wf, collOk, maskRw] at hw
  all_goals simp (disch := omega) [decodeFields, decode4, need, pick, WUse.ok, Fields.plain, Fields.base, Fields.bare, Fields.modded, Fields.coll, Fields.branch, Fields.bar, Fields.two, Fields.satRnd, Fields.rndOnly, Fields.fred, Fields.cvtSub, Fields.site, Fields.choice, Fields.bank, Fields.sub, Fields.msel, Fields.cls, maskNo, subSat, bind, Except.bind, ext3_sub, ext3_msel, ext3_cls, *]

theorem cmut (h : Hdr) (a : Reg) (b : Reg) (n : BitVec 2) : Statement (.cmut h a b n) := by
  intro hw f hf
  cases hf
  have h_n := n.isLt
  try simp [Instr.wf, collOk, maskRw] at hw
  simp (disch := omega) [decodeFields, decode4, need, pick, WUse.ok, Fields.plain, Fields.base, Fields.bare, Fields.modded, Fields.coll, Fields.branch, Fields.bar, Fields.two, Fields.satRnd, Fields.rndOnly, Fields.fred, Fields.cvtSub, Fields.site, Fields.choice, Fields.bank, Fields.sub, Fields.msel, Fields.cls, maskNo, subSat, bind, Except.bind, ext3_sub, ext3_msel, ext3_cls, *]

theorem cmutclr (h : Hdr) : Statement (.cmutclr h) := by
  intro hw f hf
  cases hf
  try simp [Instr.wf, collOk, maskRw] at hw
  simp (disch := omega) [decodeFields, decode4, need, pick, WUse.ok, Fields.plain, Fields.base, Fields.bare, Fields.modded, Fields.coll, Fields.branch, Fields.bar, Fields.two, Fields.satRnd, Fields.rndOnly, Fields.fred, Fields.cvtSub, Fields.site, Fields.choice, Fields.bank, Fields.sub, Fields.msel, Fields.cls, maskNo, subSat, bind, Except.bind, ext3_sub, ext3_msel, ext3_cls, *]

theorem cresult (h : Hdr) (a : Reg) (cnt : BitVec 2) : Statement (.cresult h a cnt) := by
  intro hw f hf
  cases hf
  have h_cnt := cnt.isLt
  try simp [Instr.wf, collOk, maskRw] at hw
  simp (disch := omega) [decodeFields, decode4, need, pick, WUse.ok, Fields.plain, Fields.base, Fields.bare, Fields.modded, Fields.coll, Fields.branch, Fields.bar, Fields.two, Fields.satRnd, Fields.rndOnly, Fields.fred, Fields.cvtSub, Fields.site, Fields.choice, Fields.bank, Fields.sub, Fields.msel, Fields.cls, maskNo, subSat, bind, Except.bind, ext3_sub, ext3_msel, ext3_cls, *]

theorem crestart (h : Hdr) (disp : Disp) : Statement (.crestart h disp) := by
  intro hw f hf
  cases hf
  have h_disp := disp.isLt
  try simp [Instr.wf, collOk, maskRw] at hw
  simp (disch := omega) [decodeFields, decode4, need, pick, WUse.ok, Fields.plain, Fields.base, Fields.bare, Fields.modded, Fields.coll, Fields.branch, Fields.bar, Fields.two, Fields.satRnd, Fields.rndOnly, Fields.fred, Fields.cvtSub, Fields.site, Fields.choice, Fields.bank, Fields.sub, Fields.msel, Fields.cls, maskNo, subSat, bind, Except.bind, ext3_sub, ext3_msel, ext3_cls, *]

theorem caccept (h : Hdr) (d : Reg) (a : Reg) (b : Reg) (comp : BitVec 2) : Statement (.caccept h d a b comp) := by
  intro hw f hf
  cases hf
  have h_comp := comp.isLt
  try simp [Instr.wf, collOk, maskRw] at hw
  simp (disch := omega) [decodeFields, decode4, need, pick, WUse.ok, Fields.plain, Fields.base, Fields.bare, Fields.modded, Fields.coll, Fields.branch, Fields.bar, Fields.two, Fields.satRnd, Fields.rndOnly, Fields.fred, Fields.cvtSub, Fields.site, Fields.choice, Fields.bank, Fields.sub, Fields.msel, Fields.cls, maskNo, subSat, bind, Except.bind, ext3_sub, ext3_msel, ext3_cls, *]

theorem ccmp (h : Hdr) (d : Reg) (a : Reg) (comp : BitVec 2) : Statement (.ccmp h d a comp) := by
  intro hw f hf
  cases hf
  have h_comp := comp.isLt
  try simp [Instr.wf, collOk, maskRw] at hw
  simp (disch := omega) [decodeFields, decode4, need, pick, WUse.ok, Fields.plain, Fields.base, Fields.bare, Fields.modded, Fields.coll, Fields.branch, Fields.bar, Fields.two, Fields.satRnd, Fields.rndOnly, Fields.fred, Fields.cvtSub, Fields.site, Fields.choice, Fields.bank, Fields.sub, Fields.msel, Fields.cls, maskNo, subSat, bind, Except.bind, ext3_sub, ext3_msel, ext3_cls, *]

theorem cpeek (h : Hdr) (d : Reg) (a : Reg) (site : BitVec 6) : Statement (.cpeek h d a site) := by
  intro hw f hf
  cases hf
  have h_site := site.isLt
  try simp [Instr.wf, collOk, maskRw] at hw
  have e1 : site.toNat < 63 := by
    have : site.toNat ≠ 63 := fun e => absurd (BitVec.eq_of_toNat_eq e : site = 63#6) (by simp_all)
    omega
  simp (disch := omega) [decodeFields, decode4, need, pick, WUse.ok, Fields.plain, Fields.base, Fields.bare, Fields.modded, Fields.coll, Fields.branch, Fields.bar, Fields.two, Fields.satRnd, Fields.rndOnly, Fields.fred, Fields.cvtSub, Fields.site, Fields.choice, Fields.bank, Fields.sub, Fields.msel, Fields.cls, maskNo, subSat, bind, Except.bind, ext3_sub, ext3_msel, ext3_cls, *]

theorem cseed (h : Hdr) (a : Reg) : Statement (.cseed h a) := by
  intro hw f hf
  cases hf
  try simp [Instr.wf, collOk, maskRw] at hw
  simp (disch := omega) [decodeFields, decode4, need, pick, WUse.ok, Fields.plain, Fields.base, Fields.bare, Fields.modded, Fields.coll, Fields.branch, Fields.bar, Fields.two, Fields.satRnd, Fields.rndOnly, Fields.fred, Fields.cvtSub, Fields.site, Fields.choice, Fields.bank, Fields.sub, Fields.msel, Fields.cls, maskNo, subSat, bind, Except.bind, ext3_sub, ext3_msel, ext3_cls, *]

theorem ld (h : Hdr) (d : Reg) (a : Reg) (f : MemF) (sx : Bool) : Statement (.ld h d a f sx) := by
  intro hw y hf
  cases hf
  cases sx <;> simp [Instr.wf] at hw <;>
    simp [decodeFields, decode5, need, WUse.ok, Fields.base, bind, Except.bind, bit, flag, *]

theorem st (h : Hdr) (a : Reg) (b : Reg) (f : MemF) : Statement (.st h a b f) := by
  intro hw y hf
  cases hf
  try simp [Instr.wf, collOk, maskRw] at hw
  simp (disch := omega) [decodeFields, decode5, need, pick, WUse.ok, Fields.plain, Fields.base, Fields.bare, Fields.modded, Fields.coll, Fields.branch, Fields.bar, Fields.two, Fields.satRnd, Fields.rndOnly, Fields.fred, Fields.cvtSub, Fields.site, Fields.choice, Fields.bank, Fields.sub, Fields.msel, Fields.cls, maskNo, subSat, bind, Except.bind, ext3_sub, ext3_msel, ext3_cls, *]

theorem ldv (h : Hdr) (d : Reg) (a : Reg) (f : MemF) : Statement (.ldv h d a f) := by
  intro hw y hf
  cases hf
  try simp [Instr.wf, collOk, maskRw] at hw
  simp (disch := omega) [decodeFields, decode5, need, pick, WUse.ok, Fields.plain, Fields.base, Fields.bare, Fields.modded, Fields.coll, Fields.branch, Fields.bar, Fields.two, Fields.satRnd, Fields.rndOnly, Fields.fred, Fields.cvtSub, Fields.site, Fields.choice, Fields.bank, Fields.sub, Fields.msel, Fields.cls, maskNo, subSat, bind, Except.bind, ext3_sub, ext3_msel, ext3_cls, *]

theorem stv (h : Hdr) (a : Reg) (b : Reg) (f : MemF) : Statement (.stv h a b f) := by
  intro hw y hf
  cases hf
  try simp [Instr.wf, collOk, maskRw] at hw
  simp (disch := omega) [decodeFields, decode5, need, pick, WUse.ok, Fields.plain, Fields.base, Fields.bare, Fields.modded, Fields.coll, Fields.branch, Fields.bar, Fields.two, Fields.satRnd, Fields.rndOnly, Fields.fred, Fields.cvtSub, Fields.site, Fields.choice, Fields.bank, Fields.sub, Fields.msel, Fields.cls, maskNo, subSat, bind, Except.bind, ext3_sub, ext3_msel, ext3_cls, *]

theorem ldk (h : Hdr) (d : Reg) (a : Reg) (f : MemF) (sx : Bool) : Statement (.ldk h d a f sx) := by
  intro hw y hf
  cases hf
  cases sx <;> simp [Instr.wf] at hw <;>
    simp [decodeFields, decode5, need, WUse.ok, Fields.base, bind, Except.bind, bit, flag, *]

theorem atom (h : Hdr) (d : Reg) (a : Reg) (b : Reg) (f : MemF) (op : UpdOp) : Statement (.atom h d a b f op) := by
  intro hw y hf
  cases hf
  have h_op := code_lt_UpdOp op
  try simp [Instr.wf, collOk, maskRw] at hw
  simp (disch := omega) [decodeFields, decode5, need, pick, WUse.ok, Fields.plain, Fields.base, Fields.bare, Fields.modded, Fields.coll, Fields.branch, Fields.bar, Fields.two, Fields.satRnd, Fields.rndOnly, Fields.fred, Fields.cvtSub, Fields.site, Fields.choice, Fields.bank, Fields.sub, Fields.msel, Fields.cls, maskNo, subSat, bind, Except.bind, ext3_sub, ext3_msel, ext3_cls, *]

theorem red (h : Hdr) (a : Reg) (b : Reg) (f : MemF) (op : UpdOp) : Statement (.red h a b f op) := by
  intro hw y hf
  cases hf
  have h_op := code_lt_UpdOp op
  try simp [Instr.wf, collOk, maskRw] at hw
  simp (disch := omega) [decodeFields, decode5, need, pick, WUse.ok, Fields.plain, Fields.base, Fields.bare, Fields.modded, Fields.coll, Fields.branch, Fields.bar, Fields.two, Fields.satRnd, Fields.rndOnly, Fields.fred, Fields.cvtSub, Fields.site, Fields.choice, Fields.bank, Fields.sub, Fields.msel, Fields.cls, maskNo, subSat, bind, Except.bind, ext3_sub, ext3_msel, ext3_cls, *]

theorem cas (h : Hdr) (d : Reg) (a : Reg) (b : Reg) (c : Reg) (f : MemF) : Statement (.cas h d a b c f) := by
  intro hw y hf
  cases hf
  try simp [Instr.wf, collOk, maskRw] at hw
  simp (disch := omega) [decodeFields, decode5, need, pick, WUse.ok, Fields.plain, Fields.base, Fields.bare, Fields.modded, Fields.coll, Fields.branch, Fields.bar, Fields.two, Fields.satRnd, Fields.rndOnly, Fields.fred, Fields.cvtSub, Fields.site, Fields.choice, Fields.bank, Fields.sub, Fields.msel, Fields.cls, maskNo, subSat, bind, Except.bind, ext3_sub, ext3_msel, ext3_cls, *]

theorem fence (h : Hdr) (kind : FenceKind) (scope : Scope) : Statement (.fence h kind scope) := by
  intro hw f hf
  cases hf
  have h_kind := code_lt_FenceKind kind
  have h_scope := code_lt_Scope scope
  try simp [Instr.wf, collOk, maskRw] at hw
  simp (disch := omega) [decodeFields, decode5, need, pick, WUse.ok, Fields.plain, Fields.base, Fields.bare, Fields.modded, Fields.coll, Fields.branch, Fields.bar, Fields.two, Fields.satRnd, Fields.rndOnly, Fields.fred, Fields.cvtSub, Fields.site, Fields.choice, Fields.bank, Fields.sub, Fields.msel, Fields.cls, maskNo, subSat, bind, Except.bind, ext3_sub, ext3_msel, ext3_cls, *, MemF.okScopeOnly]

theorem icinv (h : Hdr) (a : Reg) (b : Reg) (ofs : BitVec 20) (scope : Scope) : Statement (.icinv h a b ofs scope) := by
  intro hw f hf
  cases hf
  have h_ofs := ofs.isLt
  have h_scope := code_lt_Scope scope
  try simp [Instr.wf, collOk, maskRw] at hw
  simp (disch := omega) [decodeFields, decode5, need, pick, WUse.ok, Fields.plain, Fields.base, Fields.bare, Fields.modded, Fields.coll, Fields.branch, Fields.bar, Fields.two, Fields.satRnd, Fields.rndOnly, Fields.fred, Fields.cvtSub, Fields.site, Fields.choice, Fields.bank, Fields.sub, Fields.msel, Fields.cls, maskNo, subSat, bind, Except.bind, ext3_sub, ext3_msel, ext3_cls, *, MemF.okScopeOnly]

theorem cctl (h : Hdr) (a : Reg) (b : Reg) (inv : Bool) (f : MemF) : Statement (.cctl h a b inv f) := by
  intro hw y hf
  cases hf
  have h_inv := bit_lt inv
  try simp [Instr.wf, collOk, maskRw] at hw
  simp (disch := omega) [decodeFields, decode5, need, pick, WUse.ok, Fields.plain, Fields.base, Fields.bare, Fields.modded, Fields.coll, Fields.branch, Fields.bar, Fields.two, Fields.satRnd, Fields.rndOnly, Fields.fred, Fields.cvtSub, Fields.site, Fields.choice, Fields.bank, Fields.sub, Fields.msel, Fields.cls, maskNo, subSat, bind, Except.bind, ext3_sub, ext3_msel, ext3_cls, *]

theorem pref (h : Hdr) (a : Reg) (lvl : PrefLvl) (f : MemF) : Statement (.pref h a lvl f) := by
  intro hw y hf
  cases hf
  have h_lvl := code_lt_PrefLvl lvl
  try simp [Instr.wf, collOk, maskRw] at hw
  simp (disch := omega) [decodeFields, decode5, need, pick, WUse.ok, Fields.plain, Fields.base, Fields.bare, Fields.modded, Fields.coll, Fields.branch, Fields.bar, Fields.two, Fields.satRnd, Fields.rndOnly, Fields.fred, Fields.cvtSub, Fields.site, Fields.choice, Fields.bank, Fields.sub, Fields.msel, Fields.cls, maskNo, subSat, bind, Except.bind, ext3_sub, ext3_msel, ext3_cls, *]

theorem malg (h : Hdr) (a : Reg) (m : MaskNo) (rsp : Bool) (alg : BitVec 2) : Statement (.malg h a m rsp alg) := by
  intro hw f hf
  cases hf
  have h_m := m.isLt
  have h_rsp := bit_lt rsp
  have h_alg := alg.isLt
  try simp [Instr.wf, collOk, maskRw] at hw
  simp (disch := omega) [decodeFields, decode6, need, pick, WUse.ok, Fields.plain, Fields.base, Fields.bare, Fields.modded, Fields.coll, Fields.branch, Fields.bar, Fields.two, Fields.satRnd, Fields.rndOnly, Fields.fred, Fields.cvtSub, Fields.site, Fields.choice, Fields.bank, Fields.sub, Fields.msel, Fields.cls, maskNo, subSat, bind, Except.bind, ext3_sub, ext3_msel, ext3_cls, *]

theorem mwld (h : Hdr) (a : Reg) (b : Reg) (c : Reg) (m : MaskNo) (fmt : BFmt) (alg : BitVec 2) : Statement (.mwld h a b c m fmt alg) := by
  intro hw f hf
  cases hf
  have h_m := m.isLt
  have h_fmt := code_lt_BFmt fmt
  have h_alg := alg.isLt
  try simp [Instr.wf, collOk, maskRw] at hw
  simp (disch := omega) [decodeFields, decode6, need, pick, WUse.ok, Fields.plain, Fields.base, Fields.bare, Fields.modded, Fields.coll, Fields.branch, Fields.bar, Fields.two, Fields.satRnd, Fields.rndOnly, Fields.fred, Fields.cvtSub, Fields.site, Fields.choice, Fields.bank, Fields.sub, Fields.msel, Fields.cls, maskNo, subSat, bind, Except.bind, ext3_sub, ext3_msel, ext3_cls, *]

theorem mgath (h : Hdr) (a : Reg) (m : MaskNo) : Statement (.mgath h a m) := by
  intro hw f hf
  cases hf
  have h_m := m.isLt
  try simp [Instr.wf, collOk, maskRw] at hw
  simp (disch := omega) [decodeFields, decode6, need, pick, WUse.ok, Fields.plain, Fields.base, Fields.bare, Fields.modded, Fields.coll, Fields.branch, Fields.bar, Fields.two, Fields.satRnd, Fields.rndOnly, Fields.fred, Fields.cvtSub, Fields.site, Fields.choice, Fields.bank, Fields.sub, Fields.msel, Fields.cls, maskNo, subSat, bind, Except.bind, ext3_sub, ext3_msel, ext3_cls, *]

theorem mscale (h : Hdr) (a : Reg) (m : MaskNo) : Statement (.mscale h a m) := by
  intro hw f hf
  cases hf
  have h_m := m.isLt
  try simp [Instr.wf, collOk, maskRw] at hw
  simp (disch := omega) [decodeFields, decode6, need, pick, WUse.ok, Fields.plain, Fields.base, Fields.bare, Fields.modded, Fields.coll, Fields.branch, Fields.bar, Fields.two, Fields.satRnd, Fields.rndOnly, Fields.fred, Fields.cvtSub, Fields.site, Fields.choice, Fields.bank, Fields.sub, Fields.msel, Fields.cls, maskNo, subSat, bind, Except.bind, ext3_sub, ext3_msel, ext3_cls, *]

theorem mma (h : Hdr) (m : MaskNo) (fmt : AFmt) (cb : Bool) (ca : Bool) (ow : Bool) (duct : BitVec 2) (bank : Bool) : Statement (.mma h m fmt cb ca ow duct bank) := by
  intro hw f hf
  cases hf
  have h_m := m.isLt
  have h_fmt := code_lt_AFmt fmt
  have h_cb := bit_lt cb
  have h_ca := bit_lt ca
  have h_ow := bit_lt ow
  have h_duct := duct.isLt
  have h_bank := bit_lt bank
  try simp [Instr.wf, collOk, maskRw] at hw
  have e1 : 32 * bit cb + 16 * bit ca + 8 * bit ow + 2 * duct.toNat + bit bank < 64 := by omega
  have e2 : flag ((32 * bit cb + 16 * bit ca + 8 * bit ow + 2 * duct.toNat + bit bank) / 32) = cb := flag_eq (by omega)
  have e3 : flag ((32 * bit cb + 16 * bit ca + 8 * bit ow + 2 * duct.toNat + bit bank) / 16) = ca := flag_eq (by omega)
  have e4 : flag ((32 * bit cb + 16 * bit ca + 8 * bit ow + 2 * duct.toNat + bit bank) / 8) = ow := flag_eq (by omega)
  have e5 : flag (32 * bit cb + 16 * bit ca + 8 * bit ow + 2 * duct.toNat + bit bank) = bank := flag_eq (by omega)
  have e6 : BitVec.ofNat 2 ((32 * bit cb + 16 * bit ca + 8 * bit ow + 2 * duct.toNat + bit bank) / 2) = duct := ofNat_eq (by omega)
  simp (disch := omega) [decodeFields, decode6, need, pick, WUse.ok, Fields.plain, Fields.base, Fields.bare, Fields.modded, Fields.coll, Fields.branch, Fields.bar, Fields.two, Fields.satRnd, Fields.rndOnly, Fields.fred, Fields.cvtSub, Fields.site, Fields.choice, Fields.bank, Fields.sub, Fields.msel, Fields.cls, maskNo, subSat, bind, Except.bind, ext3_sub, ext3_msel, ext3_cls, *]

theorem mzero (h : Hdr) (m : MaskNo) (ty : BankTy) (bank : Bool) : Statement (.mzero h m ty bank) := by
  intro hw f hf
  cases hf
  have h_m := m.isLt
  have h_ty := code_lt_BankTy ty
  have h_bank := bit_lt bank
  try simp [Instr.wf, collOk, maskRw] at hw
  simp (disch := omega) [decodeFields, decode6, need, pick, WUse.ok, Fields.plain, Fields.base, Fields.bare, Fields.modded, Fields.coll, Fields.branch, Fields.bar, Fields.two, Fields.satRnd, Fields.rndOnly, Fields.fred, Fields.cvtSub, Fields.site, Fields.choice, Fields.bank, Fields.sub, Fields.msel, Fields.cls, maskNo, subSat, bind, Except.bind, ext3_sub, ext3_msel, ext3_cls, *]

theorem mldacc (h : Hdr) (a : Reg) (m : MaskNo) (ty : BankTy) (bank : Bool) : Statement (.mldacc h a m ty bank) := by
  intro hw f hf
  cases hf
  have h_m := m.isLt
  have h_ty := code_lt_BankTy ty
  have h_bank := bit_lt bank
  try simp [Instr.wf, collOk, maskRw] at hw
  simp (disch := omega) [decodeFields, decode6, need, pick, WUse.ok, Fields.plain, Fields.base, Fields.bare, Fields.modded, Fields.coll, Fields.branch, Fields.bar, Fields.two, Fields.satRnd, Fields.rndOnly, Fields.fred, Fields.cvtSub, Fields.site, Fields.choice, Fields.bank, Fields.sub, Fields.msel, Fields.cls, maskNo, subSat, bind, Except.bind, ext3_sub, ext3_msel, ext3_cls, *]

theorem mdrain (h : Hdr) (d : Reg) (m : MaskNo) (bank : Bool) : Statement (.mdrain h d m bank) := by
  intro hw f hf
  cases hf
  have h_m := m.isLt
  have h_bank := bit_lt bank
  try simp [Instr.wf, collOk, maskRw] at hw
  simp (disch := omega) [decodeFields, decode6, need, pick, WUse.ok, Fields.plain, Fields.base, Fields.bare, Fields.modded, Fields.coll, Fields.branch, Fields.bar, Fields.two, Fields.satRnd, Fields.rndOnly, Fields.fred, Fields.cvtSub, Fields.site, Fields.choice, Fields.bank, Fields.sub, Fields.msel, Fields.cls, maskNo, subSat, bind, Except.bind, ext3_sub, ext3_msel, ext3_cls, *]

theorem mdrst (h : Hdr) (a : Reg) (b : Reg) (m : MaskNo) (op : MdrstOp) (scope : Scope) (rel : Bool) (space : MSpace) (bank : Bool) : Statement (.mdrst h a b m op scope rel space bank) := by
  intro hw f hf
  cases hf
  have h_m := m.isLt
  have h_op := code_lt_MdrstOp op
  have h_scope := code_lt_Scope scope
  have h_rel := bit_lt rel
  have h_space := code_lt_MSpace space
  have h_bank := bit_lt bank
  try simp [Instr.wf, collOk, maskRw] at hw
  obtain ⟨hw, rfl⟩ := hw
  have e1 : 16 * scope.code + 8 * bit (scope != Scope.grp) + space.code < 64 := by omega
  have e2 : (16 * scope.code + 8 * bit (scope != Scope.grp) + space.code) / 16 = scope.code := by omega
  have e3 : (16 * scope.code + 8 * bit (scope != Scope.grp) + space.code) % 8 = space.code := by omega
  have e4 : flag ((16 * scope.code + 8 * bit (scope != Scope.grp) + space.code) / 8) = (scope != Scope.grp) := flag_eq (by omega)
  simp (disch := omega) [decodeFields, decode6, need, pick, WUse.ok, Fields.plain, Fields.base, Fields.bare, Fields.modded, Fields.coll, Fields.branch, Fields.bar, Fields.two, Fields.satRnd, Fields.rndOnly, Fields.fred, Fields.cvtSub, Fields.site, Fields.choice, Fields.bank, Fields.sub, Fields.msel, Fields.cls, maskNo, subSat, bind, Except.bind, ext3_sub, ext3_msel, ext3_cls, *]

theorem mstat (h : Hdr) (d : Reg) (m : MaskNo) (clr : Bool) : Statement (.mstat h d m clr) := by
  intro hw f hf
  cases hf
  have h_m := m.isLt
  have h_clr := bit_lt clr
  try simp [Instr.wf, collOk, maskRw] at hw
  simp (disch := omega) [decodeFields, decode6, need, pick, WUse.ok, Fields.plain, Fields.base, Fields.bare, Fields.modded, Fields.coll, Fields.branch, Fields.bar, Fields.two, Fields.satRnd, Fields.rndOnly, Fields.fred, Fields.cvtSub, Fields.site, Fields.choice, Fields.bank, Fields.sub, Fields.msel, Fields.cls, maskNo, subSat, bind, Except.bind, ext3_sub, ext3_msel, ext3_cls, *]

theorem copy (h : Hdr) (d : Reg) (a : Reg) (b : Reg) (f : CopyF) : Statement (.copy h d a b f) := by
  intro hw y hy
  cases hy
  simp [Instr.wf] at hw
  have hc := copyF_extCopy ⟨0xE0, h, d, a, b, vz, 0, extCopy f⟩ f rfl
  have h1 : Fields.msel ⟨0xE0, h, d, a, b, vz, 0, extCopy f⟩ = 0 := hc.2
  simp [decodeFields, decode7, need, WUse.ok, Fields.plain, Fields.base, bind, Except.bind, hc.1, h1, hw.1, hw.2]

theorem cwait (h : Hdr) (d : Reg) (a : Reg) : Statement (.cwait h d a) := by
  intro hw f hf
  cases hf
  try simp [Instr.wf, collOk, maskRw] at hw
  simp (disch := omega) [decodeFields, decode7, need, pick, WUse.ok, Fields.plain, Fields.base, Fields.bare, Fields.modded, Fields.coll, Fields.branch, Fields.bar, Fields.two, Fields.satRnd, Fields.rndOnly, Fields.fred, Fields.cvtSub, Fields.site, Fields.choice, Fields.bank, Fields.sub, Fields.msel, Fields.cls, maskNo, subSat, bind, Except.bind, ext3_sub, ext3_msel, ext3_cls, *]

theorem binit (h : Hdr) (a : Reg) (bar : BarNo) : Statement (.binit h a bar) := by
  intro hw f hf
  cases hf
  have h_bar := bar.isLt
  try simp [Instr.wf, collOk, maskRw] at hw
  simp (disch := omega) [decodeFields, decode7, need, pick, WUse.ok, Fields.plain, Fields.base, Fields.bare, Fields.modded, Fields.coll, Fields.branch, Fields.bar, Fields.two, Fields.satRnd, Fields.rndOnly, Fields.fred, Fields.cvtSub, Fields.site, Fields.choice, Fields.bank, Fields.sub, Fields.msel, Fields.cls, maskNo, subSat, bind, Except.bind, ext3_sub, ext3_msel, ext3_cls, *]

theorem barv (h : Hdr) (d : Reg) (a : Reg) (m : MaskNo) (op : BarvOp) (bar : BarNo) : Statement (.barv h d a m op bar) := by
  intro hw f hf
  cases hf
  have h_m := m.isLt
  have h_op := code_lt_BarvOp op
  have h_bar := bar.isLt
  try simp [Instr.wf, collOk, maskRw] at hw
  simp (disch := omega) [decodeFields, decode7, need, pick, WUse.ok, Fields.plain, Fields.base, Fields.bare, Fields.modded, Fields.coll, Fields.branch, Fields.bar, Fields.two, Fields.satRnd, Fields.rndOnly, Fields.fred, Fields.cvtSub, Fields.site, Fields.choice, Fields.bank, Fields.sub, Fields.msel, Fields.cls, maskNo, subSat, bind, Except.bind, ext3_sub, ext3_msel, ext3_cls, *]

theorem bwait (h : Hdr) (d : Reg) (a : Reg) (bar : BarNo) : Statement (.bwait h d a bar) := by
  intro hw f hf
  cases hf
  have h_bar := bar.isLt
  try simp [Instr.wf, collOk, maskRw] at hw
  simp (disch := omega) [decodeFields, decode7, need, pick, WUse.ok, Fields.plain, Fields.base, Fields.bare, Fields.modded, Fields.coll, Fields.branch, Fields.bar, Fields.two, Fields.satRnd, Fields.rndOnly, Fields.fred, Fields.cvtSub, Fields.site, Fields.choice, Fields.bank, Fields.sub, Fields.msel, Fields.cls, maskNo, subSat, bind, Except.bind, ext3_sub, ext3_msel, ext3_cls, *]

theorem btest (h : Hdr) (d : Reg) (pt : Bool) (bar : BarNo) : Statement (.btest h d pt bar) := by
  intro hw f hf
  cases hf
  have h_bar := bar.isLt
  cases pt <;> simp [Instr.wf] at hw <;>
    simp (disch := omega) [decodeFields, decode7, need, pick, WUse.ok, Fields.plain, Fields.base, Fields.bar, Fields.sub, Fields.msel,
      Fields.cls, bind, Except.bind, ext3_sub, ext3_msel, ext3_cls, bit, flag, *]

theorem bexpt (h : Hdr) (a : Reg) (bar : BarNo) : Statement (.bexpt h a bar) := by
  intro hw f hf
  cases hf
  have h_bar := bar.isLt
  try simp [Instr.wf, collOk, maskRw] at hw
  simp (disch := omega) [decodeFields, decode7, need, pick, WUse.ok, Fields.plain, Fields.base, Fields.bare, Fields.modded, Fields.coll, Fields.branch, Fields.bar, Fields.two, Fields.satRnd, Fields.rndOnly, Fields.fred, Fields.cvtSub, Fields.site, Fields.choice, Fields.bank, Fields.sub, Fields.msel, Fields.cls, maskNo, subSat, bind, Except.bind, ext3_sub, ext3_msel, ext3_cls, *]

theorem discard (h : Hdr) : Statement (.discard h) := by
  intro hw f hf
  cases hf
  try simp [Instr.wf, collOk, maskRw] at hw
  simp (disch := omega) [decodeFields, decode7, need, pick, WUse.ok, Fields.plain, Fields.base, Fields.bare, Fields.modded, Fields.coll, Fields.branch, Fields.bar, Fields.two, Fields.satRnd, Fields.rndOnly, Fields.fred, Fields.cvtSub, Fields.site, Fields.choice, Fields.bank, Fields.sub, Fields.msel, Fields.cls, maskNo, subSat, bind, Except.bind, ext3_sub, ext3_msel, ext3_cls, *]

theorem samp (h : Hdr) (d : Reg) (a : Reg) (b : Reg) (c : Reg) (filt : Filter) : Statement (.samp h d a b c filt) := by
  intro hw f hf
  cases hf
  have h_filt := code_lt_Filter filt
  try simp [Instr.wf, collOk, maskRw] at hw
  simp (disch := omega) [decodeFields, decode7, need, pick, WUse.ok, Fields.plain, Fields.base, Fields.bare, Fields.modded, Fields.coll, Fields.branch, Fields.bar, Fields.two, Fields.satRnd, Fields.rndOnly, Fields.fred, Fields.cvtSub, Fields.site, Fields.choice, Fields.bank, Fields.sub, Fields.msel, Fields.cls, maskNo, subSat, bind, Except.bind, ext3_sub, ext3_msel, ext3_cls, *]

theorem sampinv (h : Hdr) (adr : Option Reg) (dev : Bool) : Statement (.sampinv h adr dev) := by
  intro hw f hf
  simp [Instr.wf] at hw
  have h_v := bit_lt dev
  cases adr <;> cases hf <;>
    simp (disch := omega) [decodeFields, decode7, need, WUse.ok, Fields.plain, Fields.base, Fields.sub, Fields.msel, Fields.cls,
      bind, Except.bind, ext3_sub, ext3_msel, ext3_cls, *]

theorem tbox (h : Hdr) (d : Reg) (a : Reg) (b : Reg) : Statement (.tbox h d a b) := by
  intro hw f hf
  cases hf
  try simp [Instr.wf, collOk, maskRw] at hw
  simp (disch := omega) [decodeFields, decode7, need, pick, WUse.ok, Fields.plain, Fields.base, Fields.bare, Fields.modded, Fields.coll, Fields.branch, Fields.bar, Fields.two, Fields.satRnd, Fields.rndOnly, Fields.fred, Fields.cvtSub, Fields.site, Fields.choice, Fields.bank, Fields.sub, Fields.msel, Fields.cls, maskNo, subSat, bind, Except.bind, ext3_sub, ext3_msel, ext3_cls, *]

theorem ttri (h : Hdr) (d : Reg) (a : Reg) (b : Reg) (cull : Cull) : Statement (.ttri h d a b cull) := by
  intro hw f hf
  cases hf
  have h_cull := code_lt_Cull cull
  try simp [Instr.wf, collOk, maskRw] at hw
  simp (disch := omega) [decodeFields, decode7, need, pick, WUse.ok, Fields.plain, Fields.base, Fields.bare, Fields.modded, Fields.coll, Fields.branch, Fields.bar, Fields.two, Fields.satRnd, Fields.rndOnly, Fields.fred, Fields.cvtSub, Fields.site, Fields.choice, Fields.bank, Fields.sub, Fields.msel, Fields.cls, maskNo, subSat, bind, Except.bind, ext3_sub, ext3_msel, ext3_cls, *]

theorem spush (h : Hdr) (a : Reg) (b : Reg) (c : Reg) (m : MaskNo) (nz : Bool) (n : BitVec 2) : Statement (.spush h a b c m nz n) := by
  intro hw f hf
  cases hf
  have h_m := m.isLt
  have h_nz := bit_lt nz
  have h_n := n.isLt
  try simp [Instr.wf, collOk, maskRw] at hw
  simp (disch := omega) [decodeFields, decode7, need, pick, WUse.ok, Fields.plain, Fields.base, Fields.bare, Fields.modded, Fields.coll, Fields.branch, Fields.bar, Fields.two, Fields.satRnd, Fields.rndOnly, Fields.fred, Fields.cvtSub, Fields.site, Fields.choice, Fields.bank, Fields.sub, Fields.msel, Fields.cls, maskNo, subSat, bind, Except.bind, ext3_sub, ext3_msel, ext3_cls, *]

theorem spop (h : Hdr) (d : Reg) (b : Reg) (c : Reg) (m : MaskNo) : Statement (.spop h d b c m) := by
  intro hw f hf
  cases hf
  have h_m := m.isLt
  try simp [Instr.wf, collOk, maskRw] at hw
  simp (disch := omega) [decodeFields, decode7, need, pick, WUse.ok, Fields.plain, Fields.base, Fields.bare, Fields.modded, Fields.coll, Fields.branch, Fields.bar, Fields.two, Fields.satRnd, Fields.rndOnly, Fields.fred, Fields.cvtSub, Fields.site, Fields.choice, Fields.bank, Fields.sub, Fields.msel, Fields.cls, maskNo, subSat, bind, Except.bind, ext3_sub, ext3_msel, ext3_cls, *]

theorem shray (h : Hdr) (d : Reg) (a : Reg) (b : Reg) (c : Reg) (fx : Bool) : Statement (.shray h d a b c fx) := by
  intro hw f hf
  cases hf
  have h_fx := bit_lt fx
  try simp [Instr.wf, collOk, maskRw] at hw
  simp (disch := omega) [decodeFields, decode7, need, pick, WUse.ok, Fields.plain, Fields.base, Fields.bare, Fields.modded, Fields.coll, Fields.branch, Fields.bar, Fields.two, Fields.satRnd, Fields.rndOnly, Fields.fred, Fields.cvtSub, Fields.site, Fields.choice, Fields.bank, Fields.sub, Fields.msel, Fields.cls, maskNo, subSat, bind, Except.bind, ext3_sub, ext3_msel, ext3_cls, *]

theorem emitPayload (h : Hdr) (d : Reg) (a : Reg) (b : Reg) (c : Reg) : Statement (.emitPayload h d a b c) := by
  intro hw f hf
  cases hf
  try simp [Instr.wf, collOk, maskRw] at hw
  simp (disch := omega) [decodeFields, decode7, need, pick, WUse.ok, Fields.plain, Fields.base, Fields.bare, Fields.modded, Fields.coll, Fields.branch, Fields.bar, Fields.two, Fields.satRnd, Fields.rndOnly, Fields.fred, Fields.cvtSub, Fields.site, Fields.choice, Fields.bank, Fields.sub, Fields.msel, Fields.cls, maskNo, subSat, bind, Except.bind, ext3_sub, ext3_msel, ext3_cls, *]

theorem emitVertex (h : Hdr) (a : Reg) (b : Reg) (c : Reg) : Statement (.emitVertex h a b c) := by
  intro hw f hf
  cases hf
  try simp [Instr.wf, collOk, maskRw] at hw
  simp (disch := omega) [decodeFields, decode7, need, pick, WUse.ok, Fields.plain, Fields.base, Fields.bare, Fields.modded, Fields.coll, Fields.branch, Fields.bar, Fields.two, Fields.satRnd, Fields.rndOnly, Fields.fred, Fields.cvtSub, Fields.site, Fields.choice, Fields.bank, Fields.sub, Fields.msel, Fields.cls, maskNo, subSat, bind, Except.bind, ext3_sub, ext3_msel, ext3_cls, *]

theorem emitPrim (h : Hdr) (a : Reg) (b : Reg) : Statement (.emitPrim h a b) := by
  intro hw f hf
  cases hf
  try simp [Instr.wf, collOk, maskRw] at hw
  simp (disch := omega) [decodeFields, decode7, need, pick, WUse.ok, Fields.plain, Fields.base, Fields.bare, Fields.modded, Fields.coll, Fields.branch, Fields.bar, Fields.two, Fields.satRnd, Fields.rndOnly, Fields.fred, Fields.cvtSub, Fields.site, Fields.choice, Fields.bank, Fields.sub, Fields.msel, Fields.cls, maskNo, subSat, bind, Except.bind, ext3_sub, ext3_msel, ext3_cls, *]

theorem emitColour (h : Hdr) (a : Reg) : Statement (.emitColour h a) := by
  intro hw f hf
  cases hf
  try simp [Instr.wf, collOk, maskRw] at hw
  simp (disch := omega) [decodeFields, decode7, need, pick, WUse.ok, Fields.plain, Fields.base, Fields.bare, Fields.modded, Fields.coll, Fields.branch, Fields.bar, Fields.two, Fields.satRnd, Fields.rndOnly, Fields.fred, Fields.cvtSub, Fields.site, Fields.choice, Fields.bank, Fields.sub, Fields.msel, Fields.cls, maskNo, subSat, bind, Except.bind, ext3_sub, ext3_msel, ext3_cls, *]

theorem trap (h : Hdr) (a : Reg) (code : BitVec 12) : Statement (.trap h a code) := by
  intro hw f hf
  cases hf
  have h_code := code.isLt
  try simp [Instr.wf, collOk, maskRw] at hw
  simp (disch := omega) [decodeFields, decode7, need, pick, WUse.ok, Fields.plain, Fields.base, Fields.bare, Fields.modded, Fields.coll, Fields.branch, Fields.bar, Fields.two, Fields.satRnd, Fields.rndOnly, Fields.fred, Fields.cvtSub, Fields.site, Fields.choice, Fields.bank, Fields.sub, Fields.msel, Fields.cls, maskNo, subSat, bind, Except.bind, ext3_sub, ext3_msel, ext3_cls, *]

theorem trapretRetry (h : Hdr) : Statement (.trapretRetry h) := by
  intro hw f hf
  cases hf
  try simp [Instr.wf, collOk, maskRw] at hw
  simp (disch := omega) [decodeFields, decode7, need, pick, WUse.ok, Fields.plain, Fields.base, Fields.bare, Fields.modded, Fields.coll, Fields.branch, Fields.bar, Fields.two, Fields.satRnd, Fields.rndOnly, Fields.fred, Fields.cvtSub, Fields.site, Fields.choice, Fields.bank, Fields.sub, Fields.msel, Fields.cls, maskNo, subSat, bind, Except.bind, ext3_sub, ext3_msel, ext3_cls, *]

theorem trapretSkip (h : Hdr) : Statement (.trapretSkip h) := by
  intro hw f hf
  cases hf
  try simp [Instr.wf, collOk, maskRw] at hw
  simp (disch := omega) [decodeFields, decode7, need, pick, WUse.ok, Fields.plain, Fields.base, Fields.bare, Fields.modded, Fields.coll, Fields.branch, Fields.bar, Fields.two, Fields.satRnd, Fields.rndOnly, Fields.fred, Fields.cvtSub, Fields.site, Fields.choice, Fields.bank, Fields.sub, Fields.msel, Fields.cls, maskNo, subSat, bind, Except.bind, ext3_sub, ext3_msel, ext3_cls, *]

theorem trapretSupply (h : Hdr) : Statement (.trapretSupply h) := by
  intro hw f hf
  cases hf
  try simp [Instr.wf, collOk, maskRw] at hw
  simp (disch := omega) [decodeFields, decode7, need, pick, WUse.ok, Fields.plain, Fields.base, Fields.bare, Fields.modded, Fields.coll, Fields.branch, Fields.bar, Fields.two, Fields.satRnd, Fields.rndOnly, Fields.fred, Fields.cvtSub, Fields.site, Fields.choice, Fields.bank, Fields.sub, Fields.msel, Fields.cls, maskNo, subSat, bind, Except.bind, ext3_sub, ext3_msel, ext3_cls, *]

theorem trapretAccept (h : Hdr) : Statement (.trapretAccept h) := by
  intro hw f hf
  cases hf
  try simp [Instr.wf, collOk, maskRw] at hw
  simp (disch := omega) [decodeFields, decode7, need, pick, WUse.ok, Fields.plain, Fields.base, Fields.bare, Fields.modded, Fields.coll, Fields.branch, Fields.bar, Fields.two, Fields.satRnd, Fields.rndOnly, Fields.fred, Fields.cvtSub, Fields.site, Fields.choice, Fields.bank, Fields.sub, Fields.msel, Fields.cls, maskNo, subSat, bind, Except.bind, ext3_sub, ext3_msel, ext3_cls, *]

theorem launch (h : Hdr) (d : Reg) (a : Reg) : Statement (.launch h d a) := by
  intro hw f hf
  cases hf
  try simp [Instr.wf, collOk, maskRw] at hw
  simp (disch := omega) [decodeFields, decode7, need, pick, WUse.ok, Fields.plain, Fields.base, Fields.bare, Fields.modded, Fields.coll, Fields.branch, Fields.bar, Fields.two, Fields.satRnd, Fields.rndOnly, Fields.fred, Fields.cvtSub, Fields.site, Fields.choice, Fields.bank, Fields.sub, Fields.msel, Fields.cls, maskNo, subSat, bind, Except.bind, ext3_sub, ext3_msel, ext3_cls, *]

theorem tlbinv (h : Hdr) (rng : Option (Reg × Reg)) : Statement (.tlbinv h rng) := by
  intro hw f hf
  obtain _ | ⟨a, b⟩ := rng <;> cases hf
  all_goals try simp [Instr.wf, collOk, maskRw] at hw
  all_goals simp (disch := omega) [decodeFields, decode7, need, pick, WUse.ok, Fields.plain, Fields.base, Fields.bare, Fields.modded, Fields.coll, Fields.branch, Fields.bar, Fields.two, Fields.satRnd, Fields.rndOnly, Fields.fred, Fields.cvtSub, Fields.site, Fields.choice, Fields.bank, Fields.sub, Fields.msel, Fields.cls, maskNo, subSat, bind, Except.bind, ext3_sub, ext3_msel, ext3_cls, *]

theorem bkpt (h : Hdr) (code : BitVec 12) : Statement (.bkpt h code) := by
  intro hw f hf
  cases hf
  have h_code := code.isLt
  try simp [Instr.wf, collOk, maskRw] at hw
  simp (disch := omega) [decodeFields, decode7, need, pick, WUse.ok, Fields.plain, Fields.base, Fields.bare, Fields.modded, Fields.coll, Fields.branch, Fields.bar, Fields.two, Fields.satRnd, Fields.rndOnly, Fields.fred, Fields.cvtSub, Fields.site, Fields.choice, Fields.bank, Fields.sub, Fields.msel, Fields.cls, maskNo, subSat, bind, Except.bind, ext3_sub, ext3_msel, ext3_cls, *]

theorem emptySlot (lineWord : Word) : Statement (.emptySlot lineWord) := fun _ _ h => by cases h

theorem fetchLine (ag : Agent) : Statement (.fetchLine ag) := fun _ _ h => by cases h

theorem longLatencyResult (acc : Nat) : Statement (.longLatencyResult acc) := fun _ _ h => by cases h

theorem lateTrapDelivery (ag : Agent) : Statement (.lateTrapDelivery ag) := fun _ _ h => by cases h

theorem pageWalk (acc : Nat) : Statement (.pageWalk acc) := fun _ _ h => by cases h

theorem portUpdate (acc : Nat) (half : Bool) : Statement (.portUpdate acc half) := fun _ _ h => by cases h

theorem collectiveBody (uid : Nat) (g : Nat) (mask : Nat) : Statement (.collectiveBody uid g mask) := fun _ _ h => by cases h

theorem sleepWake (ag : Agent) : Statement (.sleepWake ag) := fun _ _ h => by cases h

theorem bursarExit (core : Nat) : Statement (.bursarExit core) := fun _ _ h => by cases h

theorem copyChunkSend (core : Nat) (slot : Nat) : Statement (.copyChunkSend core slot) := fun _ _ h => by cases h

theorem copyChunkAck (core : Nat) (slot : Nat) (chunk : Nat) : Statement (.copyChunkAck core slot chunk) := fun _ _ h => by cases h

theorem arrayRelease (core : Nat) : Statement (.arrayRelease core) := fun _ _ h => by cases h

theorem mdrstTileApply (tile : Nat) : Statement (.mdrstTileApply tile) := fun _ _ h => by cases h

theorem weightCacheFill (smp : Nat) (table : DWord) (gen : BitVec 16) : Statement (.weightCacheFill smp table gen) := fun _ _ h => by cases h

theorem walkerRay (core : Nat) : Statement (.walkerRay core) := fun _ _ h => by cases h

theorem meshGroupStart (core : Nat) (slot : Nat) : Statement (.meshGroupStart core slot) := fun _ _ h => by cases h

theorem taskSlotFree (core : Nat) (slot : Nat) : Statement (.taskSlotFree core slot) := fun _ _ h => by cases h

theorem primitiveSetup (launch : Nat) : Statement (.primitiveSetup launch) := fun _ _ h => by cases h

theorem pixelGroupStart (pair : Nat) : Statement (.pixelGroupStart pair) := fun _ _ h => by cases h

theorem tileFlush (pair : Nat) (launch : Nat) (tx : Nat) (ty : Nat) : Statement (.tileFlush pair launch tx ty) := fun _ _ h => by cases h

theorem tileReload (pair : Nat) (launch : Nat) (tx : Nat) (ty : Nat) : Statement (.tileReload pair launch tx ty) := fun _ _ h => by cases h

theorem passEndWrite (launch : Nat) : Statement (.passEndWrite launch) := fun _ _ h => by cases h

theorem replayCheck (core : Nat) (port : Nat) (entry : Nat) : Statement (.replayCheck core port entry) := fun _ _ h => by cases h

theorem escrowRollback (uid : Nat) : Statement (.escrowRollback uid) := fun _ _ h => by cases h

theorem teamRelaunch (uid : Nat) (core : Nat) : Statement (.teamRelaunch uid core) := fun _ _ h => by cases h

theorem queueDoorbell (q : Nat) (wr : Word) : Statement (.queueDoorbell q wr) := fun _ _ h => by cases h

theorem launchPacket (q : Nat) : Statement (.launchPacket q) := fun _ _ h => by cases h

theorem fencePacket (q : Nat) : Statement (.fencePacket q) := fun _ _ h => by cases h

theorem fencePacketRelease (q : Nat) : Statement (.fencePacketRelease q) := fun _ _ h => by cases h

theorem signalPacket (q : Nat) : Statement (.signalPacket q) := fun _ _ h => by cases h

theorem signalApply (q : Nat) : Statement (.signalApply q) := fun _ _ h => by cases h

theorem queueEnable (q : Nat) : Statement (.queueEnable q) := fun _ _ h => by cases h

theorem queueDisable (q : Nat) : Statement (.queueDisable q) := fun _ _ h => by cases h

theorem haltClear (q : Nat) : Statement (.haltClear q) := fun _ _ h => by cases h

theorem preemptSet (q : Nat) : Statement (.preemptSet q) := fun _ _ h => by cases h

theorem preemptClear (q : Nat) : Statement (.preemptClear q) := fun _ _ h => by cases h

theorem imageSeal (uid : Nat) : Statement (.imageSeal uid) := fun _ _ h => by cases h

theorem teamAdmission (core : Nat) : Statement (.teamAdmission core) := fun _ _ h => by cases h

theorem launchCompletion (launch : Nat) : Statement (.launchCompletion launch) := fun _ _ h => by cases h

theorem detCommit (launch : Nat) : Statement (.detCommit launch) := fun _ _ h => by cases h

theorem detBufferFull (uid : Nat) : Statement (.detBufferFull uid) := fun _ _ h => by cases h

theorem faultAnswerMap (die : Nat) (num : Nat) : Statement (.faultAnswerMap die num) := fun _ _ h => by cases h

theorem faultAnswerRefuse (die : Nat) (num : Nat) : Statement (.faultAnswerRefuse die num) := fun _ _ h => by cases h

theorem managementWrite (off : Nat) (wide : Bool) (val : DWord) : Statement (.managementWrite off wide val) := fun _ _ h => by cases h

theorem portDownClear (port : Nat) : Statement (.portDownClear port) := fun _ _ h => by cases h

theorem powerRequestP0 : Statement (.powerRequestP0) := fun _ _ h => by cases h

theorem powerRequestP1 : Statement (.powerRequestP1) := fun _ _ h => by cases h

theorem powerRequestP2 : Statement (.powerRequestP2) := fun _ _ h => by cases h

theorem powerRequestP3 : Statement (.powerRequestP3) := fun _ _ h => by cases h

theorem retentionEntry : Statement (.retentionEntry) := fun _ _ h => by cases h

theorem stoptick : Statement (.stoptick) := fun _ _ h => by cases h

theorem clockRelease : Statement (.clockRelease) := fun _ _ h => by cases h

theorem timeSeriesSample (die : Nat) : Statement (.timeSeriesSample die) := fun _ _ h => by cases h

theorem monitorRead (die : Nat) (mon : Nat) : Statement (.monitorRead die mon) := fun _ _ h => by cases h

theorem monitorClear (die : Nat) (mon : Nat) : Statement (.monitorClear die mon) := fun _ _ h => by cases h

theorem monitorSelect (die : Nat) (mon : Nat) (src : MonSrc) (w : BitVec 4) : Statement (.monitorSelect die mon src w) := fun _ _ h => by cases h

theorem fatalDump : Statement (.fatalDump) := fun _ _ h => by cases h

theorem tokenSubmit (tok : List Byte) : Statement (.tokenSubmit tok) := fun _ _ h => by cases h

theorem attest (nonce : List Byte) : Statement (.attest nonce) := fun _ _ h => by cases h

theorem reset (img : FwImage) : Statement (.reset img) := fun _ _ h => by cases h

theorem peerChunkReceive (port : Nat) (f : ChunkFlit) : Statement (.peerChunkReceive port f) := fun _ _ h => by cases h

theorem peerAckReceive (port : Nat) (seq : Nat) (prot : Bool) : Statement (.peerAckReceive port seq prot) := fun _ _ h => by cases h

theorem heartbeatReceive (port : Nat) : Statement (.heartbeatReceive port) := fun _ _ h => by cases h

theorem heartbeatSend (port : Nat) : Statement (.heartbeatSend port) := fun _ _ h => by cases h

theorem chunkRetransmit (port : Nat) (seq : Nat) : Statement (.chunkRetransmit port seq) := fun _ _ h => by cases h

theorem portDown (port : Nat) : Statement (.portDown port) := fun _ _ h => by cases h

theorem firmwareImage (img : FwImage) : Statement (.firmwareImage img) := fun _ _ h => by cases h

theorem bkptResumption (uid : Nat) (g : Nat) : Statement (.bkptResumption uid g) := fun _ _ h => by cases h

theorem icinvAcknowledgement (ag : Agent) : Statement (.icinvAcknowledgement ag) := fun _ _ h => by cases h

theorem tlbinvAcknowledgement (ag : Agent) : Statement (.tlbinvAcknowledgement ag) := fun _ _ h => by cases h

theorem sampinvAcknowledgement (ag : Agent) : Statement (.sampinvAcknowledgement ag) := fun _ _ h => by cases h

end Sys2Proof.Laws.Encoded
end

