-- ==== Sys2Proof/Tests/Slice0.lean ====
section
/-! SUPPORT. The model's own tests: words decoded field by field, an ill-formed term for each check of WellFormed, a state
that meets the hypotheses of each statement, and single steps with results worked out from the spec's rules. -/

namespace Sys2Proof.Tests

open Sys2Proof.Machine Sys2Proof.Safety

set_option maxRecDepth 100000
set_option linter.unusedVariables false
set_option Elab.async false

/-! ## Small states -/

/-- A running machine: team 0, one group of 16 lanes on core 0, each at PC 0. -/
def base : State := { State.reset.withWord 96 0 with cur := ⟨[.thread 0 0 0], 0⟩ }

/-- Its lane 0. -/
abbrev lane0 : Agent := .thread 0 0 0

/-- It with these registers in lane 0. -/
def regs (rs : List (Nat × Word)) : State := base.setThr 0 0 0 { base.thr 0 0 0 with regs := rs }

/-- A state with lane 0's thread changed. -/
def onLane (f : Thread → Thread) (s : State := base) : State := s.setThr 0 0 0 (f (s.thr 0 0 0))

/-- A state with the group changed. -/
def onGrp (f : Group → Group) (s : State := base) : State := s.setGrp 0 0 (f (s.grp 0 0))

/-- A state with the team changed. -/
def onTeam (f : Team → Team) (s : State := base) : State := s.setTeam 0 (f (s.team 0))

/-- A state with the launch changed. -/
def onLaunch (f : Launch → Launch) (s : State := base) : State := s.setLaunch 0 (f (s.launch 0))

/-- A state with core 0 changed. -/
def onCore (f : Core → Core) (s : State := base) : State := s.setCore 0 (f (s.core 0))

/-- Context 0 of core 0's bursar, granted by team 0, issues. -/
def baseCtx : State := { onCore (fun c => { c with ctxs := [(0, { BCtx.free with run := .ready })] }) with cur := ⟨[.ctx 0 0], 0⟩ }

/-- That context. -/
abbrev ctx0 : Agent := .ctx 0 0

/-- A header: always, without W. -/
def hd : Hdr := ⟨.al, false, 0, false, 0, 0⟩

/-- A header with W. -/
def hw : Hdr := { hd with w := true }

/-- A header with a false condition. -/
def hf : Hdr := { hd with cnd := .eq }

/-- The state an outcome goes on to. -/
def go (o : Out) : State :=
  match o with
  | .next t => t
  | _ => State.reset

/-- The state after an instruction of `cur`. -/
def after (i : Instr) (s : State) : State := go (exec i s)

/-! ## Conditions on every team, group and thread, from the listed ones -/

theorem aget_listed {α : Type} (d : α) (t : List (Nat × α)) (k : Nat) : aget d t k = d ∨ (k, aget d t k) ∈ t := by
  induction t with
  | nil => exact .inl rfl
  | cons e t ih =>
    obtain ⟨j, v⟩ := e
    by_cases h : j = k
    · subst h; right; simp [aget, afind]
    · have : aget d ((j, v) :: t) k = aget d t k := by simp [aget, afind, h]
      rw [this]; exact ih.imp_right (List.mem_cons_of_mem _)

theorem listed_all {α : Type} (d : α) (t : List (Nat × α)) (P : Nat → α → Prop) (h0 : ∀ k, P k d)
    (h : ∀ e ∈ t, P e.1 e.2) (k : Nat) : P k (aget d t k) := by
  obtain e | e := aget_listed d t k
  · rw [e]; exact h0 k
  · exact h _ e

theorem thr_all (s : State) (u g : Nat) (P : Nat → Thread → Prop) (h0 : ∀ k, P k .absent)
    (h : ∀ e ∈ (s.grp u g).threads, P e.1 e.2) (l : Nat) : P l (s.thr u g l) :=
  listed_all _ _ P h0 h l

theorem tidy_of (s : State) (h : ∀ t ∈ s.teams, ∀ g ∈ t.2.groups, (akeys g.2.threads).Nodup) : Tidy s := by
  intro u g
  refine listed_all _ s.teams (fun _ t => ∀ g, (akeys (t.grp g).threads).Nodup) (fun _ g => ?_) (fun e he g => ?_) u g
  · simp [Team.absent, Team.grp, aget, afind, Group.absent, akeys]
  · exact listed_all _ e.2.groups (fun _ g => (akeys g.threads).Nodup) (fun _ => by simp [Group.absent, akeys]) (h e he) g

theorem canonical_of (s : State) (h : s.hbm.wf = true ∧ s.vault.wf = true ∧ s.host.wf = true)
    (ht : ∀ t ∈ s.teams, t.2.scr.wf = true ∧ t.2.scr2.wf = true ∧ t.2.ckpt = none) : Canonical s := by
  refine ⟨h.1, h.2.1, h.2.2, fun u => ?_⟩
  obtain ⟨h1, h2, h3⟩ := listed_all Team.absent s.teams
    (fun _ t => t.scr.wf = true ∧ t.scr2.wf = true ∧ t.ckpt = none) (fun _ => ⟨rfl, rfl, rfl⟩) ht u
  exact ⟨h1, h2, fun c hc => by rw [State.team, h3] at hc; cases hc⟩

/-- Lanes 0 and 1 of team 0's group, the members of mask 1, have signed i. -/
def signing (i : Instr) (s : State := base) : State :=
  onGrp (fun g => { g with
    masks := [(0, 65535), (1, 3)],
    threads := g.threads.map (fun e => (e.1, if e.1 < 2 then { e.2 with park := .signed 1 (some 0) i } else e.2)) }) s

/-- The conditions of Signed on the listed threads. -/
abbrev SignedIn (s : State) (ls : List Nat) (i : Instr) : Prop :=
  (s.team 0).stat = .running ∧ (s.grp 0 0).lanesOf ((s.grp 0 0).mask 1) = ls ∧
    ∀ l ∈ ls, s.encodingTrap (.thread 0 0 l) i = none ∧ (s.thr 0 0 l).exited = false ∧
      (s.thr 0 0 l).park = .signed 1 (some 0) i ∧ (s.thr 0 0 l).pc = 0 ∧ Still s (.thread 0 0 l) ∧ NoMeeting s (.thread 0 0 l)

/-- They, for lanes 0 and 1. -/
abbrev SignedHere (s : State) (i : Instr) : Prop := SignedIn s [0, 1] i

theorem signed_in (s : State) (ls : List Nat) (i : Instr) (hn : ls ≠ []) (h : SignedIn s ls i)
    (ho : ∀ e ∈ (s.grp 0 0).threads, e.1 ∉ ls → e.2.park = .run) : Signed s 0 0 1 i ls := by
  obtain ⟨h1, h2, h3⟩ := h
  refine ⟨h1, h2, hn, fun l hl => (h3 l hl).1, fun l hl => (h3 l hl).2.1, ⟨some 0, fun l hl => (h3 l hl).2.2.1⟩,
    fun l hl k hk => (h3 l hl).2.2.2.1.trans (h3 k hk).2.2.2.1.symm, fun l hl due j => ?_,
    fun l hl => (h3 l hl).2.2.2.2.1, fun l hl => (h3 l hl).2.2.2.2.2⟩
  have := thr_all s 0 0 (fun l t => l ∉ ls → t.park = .run) (fun _ _ => rfl) ho l hl
  simp [this]

theorem signed_of (s : State) (i : Instr) (h : SignedHere s i)
    (ho : ∀ e ∈ (s.grp 0 0).threads, e.1 ∉ [0, 1] → e.2.park = .run) : Signed s 0 0 1 i [0, 1] :=
  signed_in s [0, 1] i (by simp) h ho

/-- Lane 0 alone, the member of mask 1, has signed i. -/
def signing1 (i : Instr) (s : State := base) : State :=
  onGrp (fun g => { g with
    masks := [(0, 65535), (1, 1)],
    threads := g.threads.map (fun e => (e.1, if e.1 = 0 then { e.2 with park := .signed 1 (some 0) i } else e.2)) }) s

/-! ## Integer forms -/

theorem witness_AddAndSubtract : ∀ m ∈ [AddMode.wrap, .ci, .sats, .satu], ∀ w ∈ [false, true],
    Executes base lane0 (.iadd hw 2 0 0 m w) ∧ Executes base lane0 (.isub hd 2 0 vz m w) := by decide +kernel

theorem test_iadd_wraps : (after (.iadd hw 2 0 1 .wrap false) (regs [(0, 0xFFFFFFFF), (1, 1)])).reg lane0 2 = 0 ∧
    (after (.iadd hw 2 0 1 .wrap false) (regs [(0, 0xFFFFFFFF), (1, 1)])).cc lane0 = ⟨true, true, false, false⟩ := by
  decide +kernel

theorem test_isub_saturates : (after (.isub hd 2 0 1 .sats false) (regs [(0, 0x80000000), (1, 1)])).reg lane0 2 = 0x80000000 ∧
    (after (.isub hd 2 0 4 .satu true) (regs [(0, 5), (4, 6)])).reg64 lane0 2 = 0 := by decide +kernel

theorem witness_CompareAndMinMax : (∀ w ∈ [false, true], Executes base lane0 (.icmp hw 0 0 w)) ∧
    ∀ op ∈ [MinMax.min, .max], ∀ ty ∈ [IntTy.s32, .n32, .s64, .n64], Executes base lane0 (.iminmax hd 2 0 0 op ty) := by
  decide +kernel

theorem test_iminmax_signed : (after (.iminmax hd 2 0 1 .min .s32) (regs [(0, 0xFFFFFFFF), (1, 1)])).reg lane0 2 = 0xFFFFFFFF ∧
    (after (.iminmax hd 2 0 1 .min .n32) (regs [(0, 0xFFFFFFFF), (1, 1)])).reg lane0 2 = 1 := by decide +kernel

theorem witness_MultiplyWritesTheProduct : (∀ w ∈ [false, true], Executes base lane0 (.imul hw 2 0 0 w)) ∧
    (∀ m ∈ [HiMode.s32, .n32, .sn32], Executes base lane0 (.imulh hd 2 0 1 m)) ∧
    ∀ m ∈ [MadMode.lo, .ws, .wu], Executes base lane0 (.imad hd 2 0 1 4 m) := by decide +kernel

theorem test_imulh_mixed : (after (.imulh hd 2 0 1 .sn32) (regs [(0, 0xFFFFFFFF), (1, 0xFFFFFFFF)])).reg lane0 2 = 0xFFFFFFFF ∧
    (after (.imulh hd 2 0 1 .n32) (regs [(0, 0xFFFFFFFF), (1, 0xFFFFFFFF)])).reg lane0 2 = 0xFFFFFFFE := by decide +kernel

theorem witness_BoolAndBitFieldsBitByBit : Executes base lane0 (.bool hw 2 0 1 3 0x8 0xE) ∧
    (∀ sx ∈ [false, true], Executes base lane0 (.bfx hd 2 0 1 sx)) ∧ Executes base lane0 (.bfi hd 2 0 1 3) := by
  decide +kernel

theorem test_bfx_sign : (after (.bfx hd 2 0 1 true) (regs [(0, 0x00000F00), (1, 0x0408)])).reg lane0 2 = 0xFFFFFFFF ∧
    (after (.bfx hd 2 0 1 false) (regs [(0, 0x00000F00), (1, 0x0408)])).reg lane0 2 = 0xF := by decide +kernel

theorem witness_ShiftsForEveryAmount : ∀ op ∈ [ShfOp.shl, .shr, .sar, .rol, .ror, .fshl, .fshr],
    Executes base lane0 (.shf hw 2 0 1 3 op) := by decide +kernel

theorem test_shf_full_width : (after (.shf hw 2 0 1 vz .shl) (regs [(0, 1), (1, 32)])).reg lane0 2 = 0 ∧
    (after (.shf hw 2 0 1 vz .shl) (regs [(0, 1), (1, 32)])).cc lane0 = ⟨true, true, false, false⟩ := by decide +kernel

theorem witness_BitCountsAndByteSelection : (∀ op ∈ [BitcOp.popc, .clz, .ctz, .brev], Executes base lane0 (.bitc hd 2 0 op)) ∧
    Executes base lane0 (.bysel hw 2 0 1 3) := by decide +kernel

theorem test_bysel_sign : (after (.bysel hd 2 0 1 3) (regs [(0, 0x00000080), (1, 0x11223344), (3, 0x11080704)])).reg lane0 2 =
    0xFFFF1144 := by decide +kernel

theorem witness_MovesSelectsAndAddresses : (∀ w ∈ [false, true], Executes base lane0 (.sel hd 2 0 4 w .ne) ∧
      Executes base lane0 (.mov hw 2 0 w) ∧ Executes base lane0 (.movi hd 2 0x80000000 w)) ∧
    ∀ sg ∈ [false, true], Executes base lane0 (.lea hd 2 0 4 sg 7) := by decide +kernel

theorem test_lea_scales : (after (.lea hd 2 0 4 true 3) (regs [(0, 0x1000), (4, 0xFFFFFFFF)])).reg64 lane0 2 = 0xFF8 := by
  decide +kernel

/-! ## Conditions, exceptions and returns -/

/-- The machine with registers V0 to V3 only. -/
def fewRegs : State := onTeam (fun t => { t with desc := { t.desc with nreg := 4 } })

theorem witness_ChecksComeBeforeTheEffect : laneForm (.mov hd 510 0 true) = true ∧ Traps base lane0 (.mov hd 510 0 true) ⟨0x02, 511, 0⟩ ∧
    Traps baseCtx ctx0 (.draw hd 0 3) ⟨0x01, 0, 0⟩ ∧ Skips base lane0 (.mov hf 2 0 true) ∧
    maskOf (.ired hd 2 9 1 .add) = some 1 ∧ Traps fewRegs lane0 (.ired hd 2 9 1 .add) ⟨0x02, 9, 0⟩ ∧
    maskOf (.vote hf 2 0 1 .any) = some 1 ∧ Skips base lane0 (.vote hf 2 0 1 .any) := by decide +kernel

/-- Lane 0 is in its handler. -/
def inHandler : State := onLane fun t => { t with trap := { t.trap with lvl := true } }

/-- The kernel has no handler. -/
def noHandler : State := onTeam fun t => { t with desc := { t.desc with handler := 0 } }

/-- Context 0 is armed for breakpoints, in a device in which they may be. -/
def armed : State := { base with dbg := { base.dbg with armed := [0], features := 7 } }

theorem witness_TrapsEnterTheHandlerOrKill : MayEnter base lane0 ∧ Traps base lane0 (.mov hd 1 0 true) ⟨0x02, 1, 0⟩ ∧
    Executes base lane0 (.trap hd 0 5) ∧ Executes base lane0 (.bkpt hd 5) ∧
    (base.dbg.armed.contains (base.ctxNo (base.uidOf lane0)) && base.feature 1) = false ∧ (base.team 0).first = none ∧
    (Executes inHandler lane0 (.trap hd 0 5) ∧ Still inHandler lane0 ∧ (inHandler.trapOf lane0).lvl = true) ∧
    (Executes noHandler lane0 (.trap hd 0 5) ∧ Still noHandler lane0 ∧ (noHandler.descOf lane0).handler = 0) ∧
    (Executes baseCtx ctx0 (.trap hd 0 5) ∧ Still baseCtx ctx0 ∧ (baseCtx.team (baseCtx.uidOf ctx0)).stat = .running) := by
  decide +kernel

theorem test_trap_enters : (after (.trap hd 0 5) (regs [(0, 7)])).pc lane0 = 64 ∧
    (after (.trap hd 0 5) (regs [(0, 7)])).trapOf lane0 = { TrapState.zero with lvl := true, cause := 4, val := 0x500000007 } := by
  decide +kernel

/-- A state whose line 0 marks slots 0 and 1 as targets. -/
def twoTargets (s : State) : State :=
  onCore (fun c => { c with icache := [(lineKey 0 0, Line.make [0, 0] 3 3 0)] }) s

/-- A load of the word at 0x1000 by lane 0. -/
def load0 : Access :=
  { id := 0, seq := 0, ag := lane0, pc := 0, op := .load false, dst := [2], w := false, space := .glob, ea := 0x1000,
    ga := 0x1000, len := 4, ord := .plain, scope := .grp, nl1 := false, plain := true, racy := false, xl := [],
    stage := .ready, left := none, vals := [], flags := none, retry := false, low := 0, born := 0, shut := 0, watched := false }

/-- Lane 0 is in its handler for a trap of MOV V2 at PC 0. -/
def trapped : State := twoTargets (onLane fun t => { t with trap := { t.trap with lvl := true, cause := 0x0C, dst := [2] } })

/-- Lane 0 is in its handler for a late trap of that load. -/
def trappedLate : State := twoTargets (onLane fun t => { t with trap := { t.trap with lvl := true, cause := 0x0C, saved := some load0 } })

theorem witness_ReturnsFromATrap : (Still trapped lane0 ∧ (trapped.trapOf lane0).pend = [] ∧ (trapped.trapOf lane0).saved = none ∧
      (∀ i ∈ [Instr.trapretRetry hd, .trapretSkip hd, .trapretSupply hd, .trapretAccept hd], Executes trapped lane0 i) ∧
      trapped.aim lane0 0 = (trapped, .go false) ∧ trapped.aim lane0 (nextPc 0).toNat = (trapped, .go false)) ∧
    Still trappedLate lane0 ∧ (trappedLate.trapOf lane0).pend = [] ∧ (trappedLate.trapOf lane0).saved = some load0 ∧
      trappedLate.aim lane0 0 = (trappedLate, .go false) ∧
      Executes trappedLate lane0 (.trapretRetry hd) ∧ Executes trappedLate lane0 (.trapretAccept hd) := by decide +kernel

theorem test_supply_writes : (after (.trapretSupply hd)
    (trapped.setTrap lane0 { trapped.trapOf lane0 with val := 0x9ABCDEF0 })).reg lane0 2 = 0x9ABCDEF0 ∧
    (after (.trapretSupply hd) trapped).pc lane0 = 12 := by decide +kernel

/-! ## Transfers, endings and meetings -/

theorem witness_TransfersGoToMarkedSlots :
    (∀ i ∈ [Instr.bra hd 0, .brx hd 0, .ret hd 0, .call hd 2 (.reg 0), .call hd 2 (.disp 0)], Executes base lane0 i) ∧
    base.fetchFor lane0 0 = (base, .line (wordLine 96 0)) ∧ slotOk 0 = true ∧
    slotpc (slotno (base.pc lane0) + (-1 : Disp).toInt) < 0 ∧ slotOk 4 = false ∧
    Executes (regs [(0, 4)]) lane0 (.brx hd 0) := by decide +kernel

theorem test_call_links : (after (.call hd 2 (.reg 0)) base).reg lane0 2 = 12 ∧
    ((after (.brx hd 0) (regs [(0, 4)])).trapOf lane0).cause = 3 := by decide +kernel

/-- Lanes 0 and 1 meet at slot 1; lane 1 is there already, or not. -/
def meeting (there : Bool) : State :=
  (onLane fun t => { t with meet := 12 }).setThr 0 0 1
    { base.thr 0 0 1 with meet := 12, park := if there then .meeting else .run }

theorem witness_MeetingsAreSetAndReleased :
    (Still base lane0 ∧ Executes base lane0 (.meetset hd 2 3) ∧ Executes base lane0 (.meetrst hd none) ∧
      Executes base lane0 (.meetrst hd (some 0)) ∧ Executes base lane0 (.swr hd 0 0x020)) ∧
    Executes base lane0 (.nop hd) ∧ Tidy base ∧ ((base.grp 0 0).thr 0).meet ≠ nextPc (base.pc lane0) ∧
    (∀ b, Executes (meeting b) lane0 (.nop hd) ∧ Still (meeting b) lane0 ∧
      ((meeting b).thr 0 0 0).meet = nextPc ((meeting b).pc lane0)) ∧ Tidy (meeting true) ∧ Tidy (meeting false) ∧
    (∃ j ∈ ((meeting false).grp 0 0).unexited, j ≠ 0 ∧ ((meeting false).thr 0 0 j).meet = 12 ∧
      ((meeting false).thr 0 0 j).park ≠ .meeting) ∧
    ∀ j ∈ ((meeting true).grp 0 0).unexited, j ≠ 0 → ((meeting true).thr 0 0 j).meet = 12 →
      ((meeting true).thr 0 0 j).park = .meeting := by
  refine ⟨by decide +kernel, by decide +kernel, tidy_of _ ?_, by decide +kernel, by decide +kernel, tidy_of _ ?_,
    tidy_of _ ?_, ⟨1, by decide +kernel, by decide +kernel⟩, ?_⟩ <;> decide +kernel

theorem test_meeting_releases : (after (.nop hd) (meeting true)).park (.thread 0 0 1) = .run ∧
    (after (.nop hd) (meeting false)).park lane0 = .meeting := by decide +kernel

/-- Lane 0 has a store on its way, translated and checked. -/
def storing0 : State := { base with accs := [{ load0 with op := .store 7, dst := [] }] }

/-- The team is of the pixel stage. -/
def pixels : State := onTeam fun t => { t with stage := .pixel }

theorem witness_ExitsAndArmedBreakpoints :
    ((base.team 0).stage ≠ .pixel ∧ Executes base lane0 (.exit hd) ∧ Still base lane0 ∧ base.tiles = [] ∧
      (base.thr 0 0 0).ch.mode = 0 ∧ ∀ j m due f, (base.thr 0 0 j).park ≠ .signed m due f) ∧
    (Executes pixels lane0 (.discard hd) ∧ Still pixels lane0 ∧ pixels.tiles = [] ∧ (pixels.thr 0 0 0).ch.mode = 0 ∧
      ∀ j m due f, (pixels.thr 0 0 j).park ≠ .signed m due f) ∧
    (Executes storing0 lane0 (.exit hd) ∧ storing0.accsOf lane0 = [{ load0 with op := .store 7, dst := [] }] ∧
      (storing0.thr 0 0 0).ch.mode = 0) ∧
    (Executes baseCtx ctx0 (.exit hd) ∧ Still baseCtx ctx0 ∧ baseCtx.tiles = []) ∧
    Executes armed lane0 (.bkpt hd 5) ∧ Still armed lane0 ∧
      armed.dbg.armed.contains (armed.ctxNo 0) = true := by
  have h : ∀ s : State, (∀ e ∈ (s.grp 0 0).threads, e.2.park = .run) → ∀ j m due f, (s.thr 0 0 j).park ≠ .signed m due f := by
    intro s hs j m due f
    rw [thr_all s 0 0 (fun _ t => t.park = .run) (fun _ => rfl) hs j]; simp
  refine ⟨⟨by decide +kernel, by decide +kernel, by decide +kernel, by decide +kernel, by decide +kernel, h _ ?_⟩,
    ⟨by decide +kernel, by decide +kernel, by decide +kernel, by decide +kernel, h _ ?_⟩, ?_, ?_, ?_⟩ <;> decide +kernel

theorem test_exit_leaves_masks : ((after (.exit hd) base).grp 0 0).mask 0 = 0xFFFE := by decide +kernel

/-! ## Masks, waits and the bursar hand-off -/

theorem still_of (s : State) (h : s.accs = []) (ag : Agent) : Still s ag := by simp [Still, State.accsOf, h]

theorem run_all (s : State) (h : ∀ e ∈ (s.grp 0 0).threads, e.2.park = .run) (j : Nat) : (s.thr 0 0 j).park = .run :=
  thr_all s 0 0 (fun _ t => t.park = .run) (fun _ => rfl) h j

/-- Lanes 0 and 1 are the members of mask 1; lane 1 waits on it, or not. -/
def waiting (there : Bool) : State :=
  onGrp fun g => { g with
    masks := [(0, 65535), (1, 3)], threads := aput g.threads 1 { g.thr 1 with park := if there then .mwait 1 else .run } }

theorem witness_MasksAndWaits :
    ((∀ i ∈ [Instr.mjoin hd 1, .mleave hd 1, .mset hd 0 1 .ld, .mset hd 0 1 .or, .mset hd 0 1 .andn, .mget hw 2 1 .bits,
        .mget hw 2 1 .cnt, .mget hw 2 0 .rank], Executes base lane0 i) ∧ Still base lane0 ∧
      (∀ j n due f, (base.thr 0 0 j).park ≠ .signed n due f) ∧ ∀ j n, (base.thr 0 0 j).park ≠ .mwait n) ∧
    ∀ b, Executes (waiting b) lane0 (.mwait hd 1) ∧ Tidy (waiting b) ∧
      (∀ j, Still (waiting b) (.thread 0 0 j) ∧ NoMeeting (waiting b) (.thread 0 0 j)) ∧
      ((waiting b).grp 0 0).lanesOf (((waiting b).grp 0 0).mask 1) = [0, 1] ∧
      ((waiting b).thr 0 0 1).park = if b then .mwait 1 else .run := by
  refine ⟨⟨by decide +kernel, by decide +kernel, fun j => ?_, fun j => ?_⟩, fun b => ⟨?_, tidy_of _ ?_, fun j => ⟨?_, ?_⟩, ?_, ?_⟩⟩
  · rw [run_all base (by decide +kernel) j]; simp
  · rw [run_all base (by decide +kernel) j]; simp
  · revert b; decide +kernel
  · revert b; decide +kernel
  · exact still_of _ (by revert b; decide +kernel) _
  · exact thr_all (waiting b) 0 0 (fun _ t => t.meet ≠ nextPc t.pc) (fun _ => by decide) (by revert b; decide +kernel) j
  · revert b; decide +kernel
  · revert b; decide +kernel

theorem test_mset_stays_in_m0 : ((after (.mset hd 0 1 .ld) (regs [(0, 0xFFFF0001)])).grp 0 0).mask 1 = 1 := by decide +kernel

/-- Context 0 runs, parked on its own rendezvous or not; or every context runs. -/
def withCtx (p : Park) (n : Nat := 1) : State :=
  onCore fun c => { c with ctxs := (List.range n).map (fun k => (k, { BCtx.free with run := .ready, park := p })) }

/-- Context 0 issues, and lane 0 waits for it, or not. -/
def rendezvous (there : Bool) : State :=
  { (withCtx .run).setThr 0 0 0 { base.thr 0 0 0 with park := if there then .rdv 0 else .run } with cur := ⟨[ctx0], 0⟩ }

theorem witness_BursarHandOff :
    (Executes base lane0 (.fork hd 2 0 0) ∧ base.aim lane0 (targetPc (base.pc lane0) 0) = (base, .go false) ∧
      base.park lane0 = .run ∧ Still base lane0 ∧ NoMeeting base lane0 ∧ (base.bctx 0 0).run ≠ .ready ∧
      base.accsOf ctx0 = []) ∧
    (Executes (withCtx .run 4) lane0 (.fork hd 2 0 0) ∧
      (withCtx .run 4).aim lane0 (targetPc ((withCtx .run 4).pc lane0) 0) = (withCtx .run 4, .go false) ∧
      ∀ c < 4, ((withCtx .run 4).bctx 0 c).run = .ready) ∧
    (∀ s ∈ [base, withCtx (.rdv 0), withCtx .run], Executes s lane0 (.rdv hd 0) ∧ Still s lane0 ∧ NoMeeting s lane0) ∧
    (base.bctx 0 0).run ≠ .ready ∧ ((withCtx (.rdv 0)).bctx 0 0).park = .rdv 0 ∧ ((withCtx .run).bctx 0 0).park ≠ .rdv 0 ∧
    ∀ b, Executes (rendezvous b) ctx0 (.rdv hd vz) ∧ Still (rendezvous b) ctx0 ∧ (rendezvous b).rdvWaits 0 0 = b := by
  decide +kernel

theorem test_fork_hands_over : (after (.fork hd 2 0 0) (regs [(0, 9), (2, 5)])).reg (.ctx 0 0) 0 = 9 ∧
    (after (.fork hd 2 0 0) (regs [(0, 9), (2, 5)])).reg lane0 2 = 0 := by decide +kernel

/-- Lane 0 sleeps on barrier 1, whose phase is as given, with a promise that has come or not. -/
def sleeping (p : Park) (phase : Bool) (prom : Nat) : State :=
  (onTeam fun t => { t with bars := [(1, { Barrier.start 1 with phase := phase, prom := prom })] }).setThr 0 0 0
    { base.thr 0 0 0 with park := p }

theorem witness_SleepersWakeAtTheirTick :
    (base.det lane0 = false ∧ Executes base lane0 (.sleept hd 0) ∧ (base.reg64 lane0 0).toNat ≤ base.tick % 2 ^ 64) ∧
    (Executes (regs [(0, 1)]) lane0 (.sleept hd 0) ∧ (regs [(0, 1)]).tick % 2 ^ 64 < ((regs [(0, 1)]).reg64 lane0 0).toNat) ∧
    (∀ q ∈ [(true, 0), (false, 1), (false, 0)], Executes (sleeping .run q.1 q.2) lane0 (.sleepp hd 0 1)) ∧
    (base.live lane0 = true ∧ (sleeping (.sleept 0) false 0).park lane0 = .sleept 0) ∧
    (∀ ph, (sleeping (.sleepp 1 (!ph)) ph 0).live lane0 = true ∧ ((sleeping (.sleepp 1 (!ph)) ph 0).bar 0 1).prom = 0) ∧
    ∀ ph, MayEnter (sleeping (.sleepp 1 ph) ph 0) lane0 ∧ ((sleeping (.sleepp 1 ph) ph 0).bar 0 1).prom ≤ base.tick % 2 ^ 64 := by
  decide +kernel

theorem test_sleepp_promise : ((after (.sleepp hd 0 1) (sleeping .run false 0)).trapOf lane0).cause = 0x10 := by decide +kernel

/-! ## Special registers and the register forms -/

/-- The launch is privileged, or deterministic. -/
def privileged : State := onLaunch fun x => { x with priv := true }
def determined : State := onLaunch fun x => { x with lr := { x.lr with det := true } }

theorem witness_SpecialRegistersOfAThread :
    (∀ n ∈ [0x000, 0x001, 0x002, 0x003, 0x004, 0x005, 0x006, 0x010, 0x011, 0x020, 0x030, 0x031, 0x032, 0x033, 0x034, 0x035,
      0x036, 0x040, 0x050, 0x051, 0x052, 0x053, 0x054, 0x060], Executes base lane0 (.srd hd 2 (BitVec.ofNat 12 n))) ∧
    (∀ n ∈ [0x800, 0x801, 0x802, 0x803, 0x804, 0x805, 0x806], Executes privileged lane0 (.srd hd 2 (BitVec.ofNat 12 n))) ∧
    Executes base lane0 (.swr hd 0 0x052) ∧ base.det lane0 = false ∧
    (base.cur.agents = [lane0] ∧ base.live lane0 = true ∧ base.privOf lane0 = false) ∧
    ∀ n ∈ [0x006, 0x010, 0x011], Executes determined lane0 (.srd hd 2 (BitVec.ofNat 12 n)) ∧ determined.det lane0 = true := by decide +kernel

theorem test_srd_traps : ((after (.srd hd 2 0x800) base).trapOf lane0).cause = 1 ∧
    ((after (.srd hd 2 0x011) determined).trapOf lane0).cause = 0x0D := by decide +kernel

/-- One of each form that works on registers alone. -/
def integerForms : List Instr :=
  [.iadd hw 2 0 4 .ci true, .isub hw 2 0 4 .sats false, .imul hw 2 0 4 true, .imulh hw 2 0 4 .sn32, .imad hw 2 0 4 6 .ws,
   .iminmax hw 2 0 4 .max .s64, .bool hw 2 0 4 6 1 2, .shf hw 2 0 4 6 .fshl, .bfx hw 2 0 4 true, .bfi hw 2 0 4 6,
   .bitc hw 2 0 .clz, .icmp hw 0 4 true, .sel hd 2 0 4 true .mi, .mov hw 2 0 true, .movi hw 2 5 true, .lea hd 2 0 4 true 2,
   .bysel hw 2 0 4 6]
def floatForms : List Instr :=
  [.fadd hw 2 0 4 true .rz, .fmul hw 2 0 4 false .rn, .ffma hw 2 0 4 6 true .rp, .fminmax hw 2 0 4 .minn, .fcmp hw 0 4,
   .fclass hw 2 0 0x81, .frnd hw 2 0 .rna, .fscale hw 2 0 4 .rm, .dadd hw 2 0 4 true .rn, .dmul hw 2 0 4 false .rz,
   .dfma hw 2 0 4 6 true .rn, .dcmp hw 0 4, .hadd2 hd 2 0 4 .f16 true .rn, .hmul2 hd 2 0 4 .bf16 false .rn,
   .hfma2 hd 2 0 4 6 .f16 true .rn, .aconj hd 2 0 1, .anorm hw 2 0 1 .rn, .amul hd 2 0 4 1 true false .rn]
def conversionForms : List Instr :=
  [.cvt hw 2 0 .f64 .s32 true .rn, .cvth2 hw 2 0 4 .f16 true .sr, .cvtq8 hw 2 0 4 .e4m3 true true .sr,
   .cvtq4 hw 2 0 4 true false .rn, .cvtw hw 2 0 .sf64 63 false .rm, .unpq hw 2 0 4 .e2m1 true true .rn,
   .i2i hw 2 0 .n64 .s8 true]
def registerForms : List Instr := integerForms ++ (floatForms ++ conversionForms)

theorem witness_RegisterFormsFrame : (∀ i ∈ .mget hw 2 1 .rank :: registerForms,
      regForm i = true ∧ Executes base lane0 i ∧ Still base lane0) ∧
    ∀ i ∈ registerForms.filter (fun i => (baseCtx.encodingTrap ctx0 i).isNone), Executes baseCtx ctx0 i ∧ Still baseCtx ctx0 := by
  decide +kernel

theorem test_context_registers_shared : (after (.movi hd 2 5 false) baseCtx).reg ctx0 2 = 5 ∧
    ((after (.movi hd 2 5 false) baseCtx).core 0).bregs = [(2, 5)] := by decide +kernel

/-! ## Floating point -/

theorem witness_RoundToChoosesTheNeighbour :
    (∃ top, valueOf (e2m1.toX e2m1.maxEnc) = some top ∧ |((-6 : Int) : ℚ) / ((1 : Nat) : ℚ) * (2 : ℚ) ^ (0 : Int)| ≤ top) ∧
    (∃ lo hi, valueOf (e2m1.toX (e2m1.round (.fin false 5 2 0) .rz 0 false).bits) = some lo ∧
      valueOf (e2m1.toX ((e2m1.round (.fin false 5 2 0) .rz 0 false).bits + 1)) = some hi ∧ lo ≠ 5 / 2 ∧ hi ≠ lo) ∧
    e2m1 ∈ [f64, f32, f16, bf16, e4m3, e5m2, e2m1] := by
  have h7 : e2m1.toX e2m1.maxEnc = .fin false 3 1 1 := by decide
  have h4 : e2m1.toX (e2m1.round (.fin false 5 2 0) .rz 0 false).bits = .fin false 2 1 0 := by decide +kernel
  have h5 : e2m1.toX ((e2m1.round (.fin false 5 2 0) .rz 0 false).bits + 1) = .fin false 3 1 0 := by decide +kernel
  rw [h7, h4, h5]
  exact ⟨⟨6, by norm_num [valueOf], by norm_num⟩, ⟨2, 3, by norm_num [valueOf], by norm_num [valueOf], by norm_num, by norm_num⟩,
    by simp⟩

/-- The tie 2.5 of e2m1 goes to 2, whose encoding is even; beyond 6 every value becomes 6 (Tables 7-1 and 7-2). -/
theorem test_round_e2m1 : (e2m1.round (.fin false 5 2 0) .rn 0 false).bits = 4 ∧
    (e2m1.round (.fin true (-100) 1 0) .rn 0 false).bits = 0xF := by decide +kernel

theorem witness_FloatArithmeticRoundsOnce : ∀ i ∈ [Instr.fadd hw 2 0 4 true .rz, .fmul hw 2 0 4 false .rn, .ffma hw 2 0 4 6 true .rp,
    .dadd hw 2 0 4 true .rn, .dmul hw 2 0 4 false .rz, .dfma hw 2 0 4 6 true .rn, .hadd2 hd 2 0 4 .f16 true .rn,
    .hmul2 hd 2 0 4 .bf16 false .rn, .hfma2 hd 2 0 4 6 .f16 true .rn], Executes base lane0 i := by decide +kernel

/-- 1 + 2^-24 is a tie, which goes to the even 1; the fused form keeps the exact product's tail. -/
theorem test_fma_rounds_once : (after (.fadd hd 2 0 1 false .rn) (regs [(0, 0x3F800000), (1, 0x33800000)])).reg lane0 2 = 0x3F800000 ∧
    (after (.ffma hd 2 0 0 1 false .rn) (regs [(0, 0x3F800001), (1, 0xBF800002)])).reg lane0 2 = 0x28800000 := by decide +kernel

theorem witness_CompareClassRoundAndScale : (∀ i ∈ [Instr.fcmp hw 0 4, .dcmp hw 0 4, .fminmax hw 2 0 4 .maxn, .fclass hw 2 0 0x81,
      .frnd hw 2 0 .rna, .fscale hw 2 0 4 .rm], Executes base lane0 i) ∧
    xf 0x7FC00000 = .nan ∧ xf 0xFF800000 = .inf true ∧ xf 0x80000000 = .fin true 0 1 (-149) := by decide +kernel

theorem test_fcmp_nan : (after (.fcmp hw 0 1) (regs [(0, 0x7FC00000), (1, 0x3F800000)])).cc lane0 = ⟨true, false, false, true⟩ ∧
    (after (.fminmax hd 2 0 1 .min) (regs [(0, 0), (1, 0x80000000)])).reg lane0 2 = 0x80000000 := by decide +kernel

/-- Slot 0 of the coefficient image has this kind. -/
def kindOf (k : Nat) : State := onCore fun c => { c with coef := BitVec.ofNat 65536 k }

theorem witness_SpecialFunctionsOfTheImage : ∀ k < 9, Executes (kindOf k) lane0 (.sfn hw 2 0 0) ∧
    (((kindOf k).core ((kindOf k).coreOf lane0)).coef.extractLsb' 0 8).toNat = k := by decide +kernel

theorem witness_AlgebraElementsMultiply : (∀ a < 4, Executes base lane0 (.aconj hd 8 0 (BitVec.ofNat 2 a)) ∧
      Executes base lane0 (.amul hd 8 0 4 (BitVec.ofNat 2 a) true false .rn) ∧
      Executes base lane0 (.anorm hw 8 0 (BitVec.ofNat 2 a) .rn)) ∧ 0 < (base.algebra lane0 0).d := by decide +kernel

/-! ## Conversions and collectives -/

theorem witness_ConversionsRoundEachElement : (∀ i ∈ [Instr.cvt hw 2 0 .f64 .s32 true .rn, .cvth2 hw 2 0 4 .f16 true .sr,
      .cvtq8 hw 2 0 4 .e4m3 true true .sr, .cvtq4 hw 2 0 4 true false .rn, .cvtw hw 2 0 .sf64 63 false .rm,
      .cvtw hw 2 0 .f32n 0 false .sr], Executes base lane0 i) ∧
    Executes baseCtx ctx0 (.cvt hw 2 0 .f64 .s32 true .rn) ∧ Agent.bursar ctx0 = true := by decide +kernel

/-- 240.5 rounds to 240 in e4m3, whose spacing there is 16; −1 clamps to 0 in n32. -/
theorem test_conversions : (after (.cvt hd 2 0 .e4m3 .f32 false .rn) (regs [(0, 0x43708000)])).reg lane0 2 = 0x77 ∧
    (after (.cvt hw 2 0 .n32 .f32 false .rz) (regs [(0, 0xBF800000)])).cc lane0 = ⟨true, true, false, true⟩ := by decide +kernel

theorem witness_IntegerConversionAndSeed : (∀ t ∈ [UnpTy.f16, .bf16, .e4m3, .e5m2, .e2m1, .p2x2, .s8],
      Executes base lane0 (.unpq hw 8 0 4 t true false .rn)) ∧
    (∀ d ∈ [I2ITy.s8, .n8, .s16, .n16, .s32, .n32, .s64, .n64], ∀ t ∈ [I2ITy.s8, .n8, .s16, .n16, .s32, .n32, .s64, .n64],
      Executes base lane0 (.i2i hw 2 0 d t true)) ∧ Executes base lane0 (.srseed hd 0) ∧ Still base lane0 := by decide +kernel

theorem test_i2i : (after (.i2i hd 2 0 .s8 .s32 true) (regs [(0, 300)])).reg lane0 2 = 127 ∧
    (after (.i2i hd 2 0 .s8 .s32 false) (regs [(0, 0x80)])).reg lane0 2 = 0xFFFFFF80 := by decide +kernel

/-- Lanes 0 and 1 are the members of mask 1. -/
def pair1 : State := onGrp fun g => { g with masks := [(0, 65535), (1, 3)] }

theorem witness_CollectivesSignThenExecute : maskOf (.ired hd 2 0 1 .add) = some 1 ∧
    (Executes pair1 lane0 (.ired hd 2 0 1 .add) ∧ nbit ((pair1.grp 0 0).mask 1) 0 = true) ∧
    (Executes pair1 lane0 (.ired hd 2 0 2 .add) ∧ nbit ((pair1.grp 0 0).mask 2) 0 = false) ∧
    (let i := Instr.ired hd 2 0 1 .add
     let s := signing i
     (s.team 0).stat = .running ∧ (s.grp 0 0).signers 1 = [0, 1] ∧ (s.grp 0 0).lanesOf ((s.grp 0 0).mask 1) = [0, 1] ∧
     (∀ j ∈ [0, 1], (s.thr 0 0 j).park = .signed 1 (some 0) i ∧ (s.thr 0 0 j).pc = 0) ∧
     ∀ j k f, ((runBody i [.thread 0 0 0, .thread 0 0 1] (marked s 0 0 1)).thr 0 0 j).park ≠ .signed 1 (some k) f) := by
  refine ⟨by decide +kernel, by decide +kernel, by decide +kernel, by decide +kernel, by decide +kernel, by decide +kernel,
    by decide +kernel, fun j k f => ?_⟩
  rw [run_all _ (by decide +kernel) j]; simp

theorem witness_CrossLaneResults : ∀ i ∈ [Instr.vote hw 2 0 1 .ballot, .shfl hw 2 0 1 3 1 .xor, .vcomp hw 2 0 1 1,
    .vexp hw 2 0 1 1, .iscan hw 2 0 1 .smin true, .ired hd 2 0 1 .add],
    Signed (signing i) 0 0 1 i [0, 1] := by
  intro i hi
  refine signed_of _ _ ?_ ?_ <;> revert i <;> decide +kernel

/-- V0 of lanes 0 and 1. -/
def two (i : Instr) (x y : Word) : State :=
  signing i ((base.setReg (.thread 0 0 0) 0 x).setReg (.thread 0 0 1) 0 y)

/-- The state after the body of mask 1. -/
def body (s : State) : State := go (exec (.collectiveBody 0 0 1) s)

theorem test_iscan : (body (two (.iscan hd 2 0 1 .add true) 5 7)).reg lane0 2 = 0 ∧
    (body (two (.iscan hd 2 0 1 .add true) 5 7)).reg (.thread 0 0 1) 2 = 5 := by decide +kernel

theorem witness_FloatCollectives : (∀ i ∈ [Instr.fred hw 2 0 1 .add 3, .fscan hw 2 0 1 .add 2 true, .bscale hw 2 0 1 .e4m3],
      ∀ x ∈ [0, 0x3F800000, 0x7F800000], SignedHere (two i (BitVec.ofNat 32 x) 0) i) ∧
    (∀ i ∈ [Instr.fred hw 2 0 1 .add 3, .fscan hw 2 0 1 .add 2 true, .bscale hw 2 0 1 .e4m3], Signed (signing i) 0 0 1 i [0, 1]) ∧
    valueOf (xf 0) = some 0 ∧ valueOf (xf 0x7F800000) = none ∧ valueOf (xf 0x3F800000) = some 1 := by
  refine ⟨by decide +kernel, fun i hi => signed_of _ _ ?_ ?_, ?_, ?_, ?_⟩
  · revert i; decide +kernel
  · revert i; decide +kernel
  · rw [show xf 0 = .fin false 0 1 (-149) by decide +kernel]; norm_num [valueOf]
  · rw [show xf 0x7F800000 = .inf false by decide +kernel]; rfl
  · rw [show xf 0x3F800000 = .fin false 8388608 1 (-23) by decide +kernel]; norm_num [valueOf]

theorem test_bscale : (body (two (.bscale hd 2 0 1 .e4m3) 0x41800000 0)).reg lane0 2 = 123 := by decide +kernel

/-! ## Choice vectors -/

/-- The value of a reading or finding that has succeeded. -/
def good {α : Type} (x : State × Got α) : Bool :=
  match x.2 with
  | .ok _ => true
  | _ => false

theorem good_some {α : Type} (x : State × Got α) (h : good x = true) : ∃ s v, x = (s, .ok v) := by
  obtain ⟨s, r⟩ := x
  cases r <;> simp_all [good]

/-- A reading or finding has succeeded, and what it gives is as asked. -/
def sure {α : Type} (x : State × Got α) (P : State → α → Bool) : Bool :=
  match x with
  | (s, .ok v) => P s v
  | _ => false

theorem sure_some {α : Type} (x : State × Got α) (P : State → α → Bool) (h : sure x P = true) :
    ∃ s v, x = (s, .ok v) ∧ P s v = true := by
  obtain ⟨s, r⟩ := x
  cases r <;> simp_all [sure]

/-- Core 0 holds translations of the pages 0 to 15 of context 0, to the same physical pages. -/
def paged (s : State := base) : State :=
  onCore (fun c => { c with tlb := (List.range 16).map (fun p => ⟨0, p, p, true, true, true⟩) }) s

/-- Lane 0 has this choice mode and geometry, with its record at 0x2000. -/
def choosing (mode geom : Nat) (s : State := base) : State :=
  paged (onLane (fun t => { t with ch := { t.ch with mode := mode, geom := geom, base := 0x2000 } }) s)

/-- The kernel limits its draws: 4 sites, 2 occurrences, or 3 draws. -/
def limited (chmode : Nat) (s : State := base) : State :=
  onTeam (fun t => { t with desc := { t.desc with chmode := chmode, nsites := 4, maxocc := 2, maxdraws := 3 } }) s

/-- Slot 15 of the coefficient image is a table of points. -/
def tabled : State := onCore (fun c => { c with coef := BitVec.ofNat 65536 (1028 * 2 ^ (8 * 126)) }) (choosing 0 0)

/-- Lane 0 is in replay with a splice of a record at `sb` on its first key. -/
def splicing (sb : Nat) : State :=
  onLane (fun t => { t with ch := { t.ch with sbase := BitVec.ofNat 64 sb, muts := [(0, 0x5000000000000000)] } }) (choosing 2 1)

/-- The choice state of a draw in replay. -/
def drawAtCh : ChState := { ChState.zero with mode := 2, geom := 1, base := 0x2000, muts := [(0, 0x3000000000000000)] }

/-- A draw of bits of site 0 at its port, in replay. -/
def drawAt : Access :=
  { load0 with op := .draw .bits [⟨0, 0⟩] drawAtCh KDesc.zero, stage := .ready, len := 4 }

theorem atPort_of (s : State) (a : Access) (h : s.accs = [a] ∧ a.stage = .ready ∧ (s.team (s.uidOf a.ag)).stat = .running ∧
    s.tiles = [] ∧ s.holds (s.uidOf a.ag) = false ∧ s.direct (s.uidOf a.ag) = false ∧
    s.unitBusy a.seq (s.placeOf a 0) = false ∧ s.park a.ag = .run)
    (hm : s.hbm.wf = true ∧ s.vault.wf = true ∧ s.host.wf = true)
    (ht : ∀ t ∈ s.teams, t.2.scr.wf = true ∧ t.2.scr2.wf = true ∧ t.2.ckpt = none) : AtPort s a :=
  ⟨h.1, h.2.1, h.2.2.1, h.2.2.2.1, h.2.2.2.2.1, h.2.2.2.2.2.1, h.2.2.2.2.2.2.1, h.2.2.2.2.2.2.2, canonical_of s hm ht⟩

/-- A state with one access on its way. -/
def withAcc (a : Access) (s : State := base) : State := { s with accs := [a], nextAcc := 1, nextSeq := 1 }

theorem witness_DrawsConsumeTheirKeys :
    (∀ s ∈ [choosing 0 0, choosing 1 1, limited 1 (choosing 0 1), limited 2 (choosing 0 0), tabled],
      ∀ i ∈ [Instr.draw hd 2 0, .drawb hd 2 0, .drawi hd 2 0 0, .drawn hd 2 0, .drawt hd 2 0], Executes s lane0 i) ∧
    drawTableOk (tabled.core 0).coef = true ∧
    ((limited 1).descOf lane0).nsites ≤ 5 ∧ Executes (limited 1 (choosing 0 1)) lane0 (.draw hd 2 5) ∧
    AtPort (withAcc drawAt (choosing 2 1)) drawAt ∧
    (∃ s1 raws, (withAcc drawAt (choosing 2 1)).rawDraws lane0 0 drawAtCh KDesc.zero [⟨0, 0⟩] = (s1, .ok raws) ∧
      sure (s1.findStores lane0 0 [(KDesc.zero.slotAt 0x2000 1 0, 4, (raws.headD 0).toNat)])
        (fun s2 _ => !s2.speculative (s2.uidOf lane0)) = true) ∧
    (∃ s1 x, (choosing 2 1).readVa lane0 0 false .load (KDesc.zero.slotAt 0x2000 0 0) 4 = (s1, .ok x)) ∧
    (∃ m, ({ ChState.zero with mode := 2, geom := 1, muts := [(0, 0x3000000000000000)] }).covering 0 = some m ∧ mutKind m = 3) ∧
    (∃ m, ({ ChState.zero with mode := 2, geom := 1, muts := [(0, 0x1000000000000003)] }).covering 0 = some m ∧ mutKind m = 1) ∧
    (∀ sb ∈ [2 ^ 57 - 6, 2 ^ 57 - 7, 0x3000], Executes (splicing sb) lane0 (.draw hd 2 0) ∧
      ((splicing sb).thr 0 0 0).ch.covering 0 = some 0x5000000000000000 ∧ mutKind 0x5000000000000000 = 5 ∧
      ((splicing sb).thr 0 0 0).ch.mode = 2 ∧ ((splicing sb).thr 0 0 0).ch.sbase.toNat = sb ∧
      ((splicing sb).thr 0 0 0).ch.muts.length = 1) ∧
    ((splicing 0x3000).descOf lane0).bankAt 0x3000 0 + 1 ≤ 2 ^ 57 ∧ ((choosing 1 1).thr 0 0 0).ch.muts = [] := by
  refine ⟨?_, ?_, ?_, ?_, atPort_of _ _ ?_ ?_ ?_, sure_some _ _ ?_, good_some _ ?_, ⟨0x3000000000000000, ?_⟩,
    ⟨0x1000000000000003, ?_⟩, ?_, ?_⟩ <;> decide +kernel

theorem test_splice_beyond_the_space : ((after (.draw hd 2 0) (splicing (2 ^ 57 - 6))).trapOf lane0).cause = 8 ∧
    ((after (.draw hd 2 0) (splicing (2 ^ 57 - 6))).thr 0 0 0).ch.occ = [] := by decide +kernel

theorem test_draw_overflow : ((after (.draw hd 2 3) (limited 1 (choosing 0 1))).thr 0 0 0).ch.occ = [(3, 1)] ∧
    ((after (.draw hd 2 5) (limited 1 (choosing 0 1))).trapOf lane0).cause = 0x11 := by decide +kernel

/-- A record with its header lies at 0x2000. -/
def recorded : State :=
  let s := limited 1 (choosing 0 1)
  { s with hbm := s.hbm.write 0x2000 64 (s.descOf lane0).header }.setReg lane0 0 0x2000

theorem witness_ChoiceStateIsSetUp :
    (∀ i ∈ [Instr.csetup hd .off, .csetup hd (.record 0), .csetup hd (.replay 0), .cmut hd 0 vz 1, .cmut hd 0 4 1, .cmutclr hd,
      .cseed hd 0, .cresult hd 0 3, .crestart hd 0], ∀ m < 3, ∀ g < 2, Executes (choosing m g) lane0 i) ∧
    Executes recorded lane0 (.csetup hd (.replay 0)) ∧ (recorded.descOf lane0).recordOk (recorded.reg64 lane0 0).toNat = true ∧ (recorded.reg64 lane0 0).toNat = 0x2000 ∧
    recorded.park lane0 = .run ∧ (∃ s2 c, (recorded.storing lane0 hd []).loadRecord lane0 0x2000 = (s2, .ok c) ∧
      c.isSome = true) ∧
    ((choosing 0 1).descOf lane0).recordOk 0x2000 = true ∧ ((choosing 0 1).descOf lane0).recordOk 0x2001 = false ∧
    (choosing 1 1).aim lane0 (targetPc ((choosing 1 1).pc lane0) 0) = (choosing 1 1, .go false) := by
  refine ⟨?_, ?_, ?_, ?_, ?_, sure_some _ _ ?_, ?_, ?_, ?_⟩ <;> decide +kernel

theorem test_cmut_refuses : ((after (.cmut hd 0 vz 1) (regs [(1, 0x60000000)])).trapOf lane0).cause = 0x12 ∧
    aget 0 ((after (.cmut hd 0 vz 1) (regs [(0, 5), (1, 0x50000000)])).thr 0 0 0).ch.muts 1 = 0x5000000000000005 := by decide +kernel

theorem witness_ProposalsAreDecided :
    (∀ m < 3, Executes (choosing m 1) lane0 (.cpeek hw 2 0 0) ∧ Executes (choosing m 1) lane0 (.ccmp hw 2 0 1) ∧
      Executes (choosing m 1) lane0 (.caccept hw 2 0 1 1)) ∧
    overflow ((choosing 0 1).descOf lane0) 0 0 1 = none ∧ ((choosing 2 1).thr 0 0 0).ch.muts = [] ∧
    (∃ s1 x, (choosing 2 1).readVa lane0 0 false .load 0x2014 4 = (s1, .ok x) ∧
      decide (s1.reg lane0 0 = (choosing 2 1).reg lane0 0) = true) ∧
    (choosing 2 1).park lane0 = .run ∧
    ∃ s1 xs, ((choosing 2 1).storing lane0 hw [(((choosing 2 1).descOf lane0).bankAt 0x2000 1, 63, 0), (0x2024, 4, 0)]).readMany lane0 0 false
        .load [(0x2010, 16), (0x2028, 8), (0x2030, 16), (((choosing 2 1).descOf lane0).bankAt 0x2000 1 + 63, 1)] = (s1, .ok xs) ∧
      (decide (xs.length = 4) && decide (s1.thr 0 0 0 = (choosing 2 1).thr 0 0 0) &&
        decide (s1.descOf lane0 = (choosing 2 1).descOf lane0)) = true := by
  refine ⟨?_, ?_, ?_, sure_some _ _ ?_, ?_, sure_some _ _ ?_⟩ <;> decide +kernel

theorem test_ccmp_by_zero : (after (.ccmp hw 2 0 1) (choosing 2 1)).reg lane0 2 = 0x7F800000 ∧
    ((after (.ccmp hw 2 0 1) (choosing 1 1)).trapOf lane0).cause = 0x13 := by decide +kernel

/-! ## Memory -/

/-- Fields of a memory form: this space, size and order, offset 0. -/
def mf (x : Space) (z : Size) (o : Ord := .plain) : MemF := ⟨0, x, z, o, .grp, .normal⟩

/-- Context 0 may read and write vault 0, half of which is direct. -/
def vaulted (s : State := base) : State :=
  { s with ctxs := [(0, { Ctx.zero with vread := 1, vwrite := 1 })], mgmt := { s.mgmt with vsplit := [(0, 8)] } }

theorem witness_MemoryFormsOpenAnAccess :
    (∀ x ∈ [Space.glob, .sp, .vlt, .priv], ∀ i ∈ [Instr.ld hd 8 0 (mf x .h) true, .ldv hd 8 0 (mf x .x4),
        .st hd 0 8 (mf x .d), .stv hd 0 8 (mf x .x2), .atom hd 8 0 4 (mf x .w .ar) .incw, .red hd 0 4 (mf x .d) .add,
        .cas hw 8 0 4 6 (mf x .w)],
      Executes (vaulted) lane0 i) ∧ Executes base lane0 (.ldk hd 8 0 (mf .karg .b) false) ∧
    (Executes determined lane0 (.atom hd 8 0 4 (mf .sp .w) .add) ∧ determined.det lane0 = true) ∧
    (base.inRange lane0 .sp 393212 4 = true ∧ base.inRange lane0 .sp 393213 4 = false) ∧
    (base.inRange lane0 .vlt 0 4 = false ∧ (vaulted).inRange lane0 .vlt 0 4 = true ∧
      (vaulted).vaultOk lane0 0 .update = true ∧
      ({ vaulted with ctxs := [] } : State).vaultOk lane0 0 .read = false ∧
      ({ vaulted with ctxs := [] } : State).inRange lane0 .vlt 0 4 = true) ∧
    (∀ v, base.va lane0 .glob 3 = some v → v < 2 ^ 57) := by
  refine ⟨?_, ?_, ?_, ?_, ?_, fun v h => ?_⟩
  · decide +kernel
  · decide +kernel
  · decide +kernel
  · decide +kernel
  · decide +kernel
  · have : base.va lane0 .glob 3 = some 3 := by decide +kernel
    rw [this] at h; cases h; decide

theorem test_ld_checks : ((after (.ld hd 8 0 (mf .sp .w) false) (regs [(0, 2)])).trapOf lane0).cause = 9 ∧
    ((after (.ld hd 8 0 (mf .sp .w) false) (regs [(0, 393216)])).trapOf lane0).cause = 8 := by decide +kernel

/-- The outcome of an access at its port. -/
def atPortNow (a : Access) (s : State := base) : State := go (exec (.portUpdate a.id false) (withAcc a s))

/-- A store of 0x11223344 to word 1 of the scratchpad; and to physical word 1 of HBM. -/
def storeSp : Access := { load0 with op := .store 0x11223344, dst := [], space := .sp, ea := 4, ga := 4 }
def storeHbm : Access := { load0 with op := .store 0x11223344, dst := [], xl := [(0, 4)], ea := 4, ga := 4 }

/-- It past the L1; and a store of a record's 16 bytes to the scratchpad. -/
def storeNl1 : Access := { storeHbm with nl1 := true }
def store16 : Access := { storeSp with ea := 16, ga := 16, len := 16, plain := false }

/-- It to the non-coherent host window. -/
def storeHost : Access := { storeSp with space := .hnc }

theorem witness_StoresWriteTheirBytes :
    (AtPort (withAcc storeNl1) storeNl1 ∧ (withAcc storeNl1).placeOf storeNl1 0 = .hbm 4 ∧
      (((atRelease (withAcc storeNl1) storeNl1).raceAt storeNl1 (.hbm 4) 4 true true).1 && !storeNl1.racy) = false ∧
      4 + 4 ≤ hbmSize) ∧
    (AtPort (withAcc store16) store16 ∧ store16.xl = [] ∧
      ((withAcc store16).placeOf store16 0).unit = ((withAcc store16).placeOf store16 1).unit) ∧
    (AtPort (withAcc storeSp) storeSp ∧ (withAcc storeSp).placeOf storeSp 0 = .scr 0 false 4 ∧
      (((atRelease (withAcc storeSp) storeSp).raceAt storeSp (.scr 0 false 4) 4 true true).1 && !storeSp.racy) = false) ∧
    (AtPort (withAcc storeHost) storeHost ∧ (withAcc storeHost).placeOf storeHost 0 = .host 4 false ∧
      (((atRelease (withAcc storeHost) storeHost).raceAt storeHost (.host 4 false) 4 true true).1 && !storeHost.racy) = false ∧
      (withAcc storeHost).busError (.host 4 false) 4 = false) ∧
    (∀ i < 2, (withAcc store16).busError ((withAcc store16).placeOf store16 i) 8 = false) ∧
    AtPort (withAcc storeHbm) storeHbm ∧ (withAcc storeHbm).placeOf storeHbm 0 = .hbm 4 ∧ storeHbm.nl1 = false := by
  refine ⟨⟨atPort_of _ _ ?_ ?_ ?_, ?_⟩, ⟨atPort_of _ _ ?_ ?_ ?_, ?_⟩, ⟨atPort_of _ _ ?_ ?_ ?_, ?_⟩, ⟨atPort_of _ _ ?_ ?_ ?_, ?_⟩, ?_,
    atPort_of _ _ ?_ ?_ ?_, ?_⟩ <;>
    decide +kernel

theorem test_bus_error_of_a_store :
    ((go (exec (.portUpdate 0 false) { withAcc storeHost with hostBad := [4] })).accs.map (fun a => a.stage == .ready)) = [] := by
  decide +kernel

theorem test_store_little_endian : ((atPortNow storeSp).team 0).scr = [(4, 0x44), (5, 0x33), (6, 0x22), (7, 0x11)] := by
  decide +kernel

/-- A load of the half word at 4 of the scratchpad, sign-extended, whose window has closed. -/
def loadSp : Access :=
  { load0 with op := .load true, space := .sp, ea := 4, ga := 4, len := 2, left := none }

/-- The scratchpad holds 0x80FF at 4. -/
def scrHas : State := onTeam fun t => { t with scr := [(4, 0xFF), (5, 0x80)] }

theorem witness_LoadsReadTheirBytes : AtPort (withAcc loadSp scrHas) loadSp ∧
    loadPoison (atPort (withAcc loadSp scrHas) loadSp) loadSp (.scr 0 false 4) 2 = false ∧
    (((atPort (withAcc loadSp scrHas) loadSp).raceAt loadSp (.scr 0 false 4) 2 false true).1 && !loadSp.racy) = false ∧
    loadSp.left = none ∧ loadSp.flags = none ∧ loadSp.dst = [2] := by
  refine ⟨atPort_of _ _ ?_ ?_ ?_, ?_⟩ <;> decide +kernel

theorem test_load_arrives : (go (exec (.longLatencyResult 0) (atPortNow loadSp scrHas))).reg lane0 2 = 0xFFFF80FF := by
  decide +kernel

/-- An update of that word by addition, and a compare-and-store. -/
def updSp : Access := { loadSp with op := .upd .add 0x7F01, len := 4 }
def casSp : Access := { loadSp with op := .cas 0x80FF 7, len := 4, w := true }

/-- An update of the word at 4 of the non-coherent host window. -/
def updHost : Access := { updSp with space := .hnc }

theorem witness_UpdatesReadAndWriteAtOnce : (AtPort (withAcc updHost) updHost ∧
      (withAcc updHost).placeOf updHost 0 = .host 4 false ∧ (withAcc updHost).poisoned (.host 4 false) 4 = false) ∧ AtPort (withAcc updSp scrHas) updSp ∧ AtPort (withAcc casSp scrHas) casSp ∧
    (atPort (withAcc updSp scrHas) updSp).poisoned (.scr 0 false 4) 4 = false := by
  refine ⟨⟨atPort_of _ _ ?_ ?_ ?_, ?_⟩, atPort_of _ _ ?_ ?_ ?_, atPort_of _ _ ?_ ?_ ?_, ?_⟩ <;> decide +kernel

theorem test_updates : ((atPortNow updSp scrHas).team 0).scr = [(6, 1)] ∧
    ((atPortNow casSp scrHas).team 0).scr = [(4, 7)] := by decide +kernel

/-- Core 0's L1 holds a dirty byte of the line at 0x2000; page tables at 0 map the first 1 GiB to itself. -/
def dirtyLine : State :=
  onCore (fun c => { c with l1 := [⟨128, 0x0705, 2, 0, 0, []⟩] })
    { regs [(0, 0x2000), (2, 64)] with hbm := Memory.write (Memory.write [] 0 8 0x1001) 0x1000 8 0x17 }

theorem witness_FencesAndCacheForms : (Canonical dirtyLine ∧ (∀ inv, Executes dirtyLine lane0 (.cctl hd 0 2 inv (mf .glob .b))) ∧
      dirtyLine.checkAccess lane0 .glob (dirtyLine.reg64 lane0 0).toNat (max (dirtyLine.reg lane0 2).toNat 1) 1 .read false = none ∧
      dirtyLine.linesIn lane0 .glob 0x2000 64 = [128] ∧ dirtyLine.racing ⟨128, 0x0705, 2, 0, 0, []⟩ = []) ∧ (∀ k ∈ [FenceKind.acq, .rel, .ar, .sc], Executes base lane0 (.fence hd k .dev)) ∧
    Still base lane0 ∧ (∀ inv, Executes base lane0 (.cctl hd 0 2 inv (mf .glob .b))) ∧
    base.checkAccess lane0 .glob 0 (max (base.reg lane0 2).toNat 1) 1 .read false = none ∧
    (base.checkAccess lane0 .glob (2 ^ 57) 1 1 .read false).isSome = true ∧
    Executes base lane0 (.pref hd 0 .vc (mf .vlt .b)) ∧ Executes base lane0 (.icinv hd 0 2 0 .dev) ∧
    Executes (regs [(2, 64)]) lane0 (.icinv hd 0 2 (-1) .grp) ∧ ((regs [(2, 64)]).reg lane0 2).toNat ≠ 0 := by
  refine ⟨⟨canonical_of _ ?_ ?_, ?_⟩, ?_⟩ <;> decide +kernel

theorem test_cctl_writes_back : (after (.cctl hd 0 2 true (mf .glob .b)) dirtyLine).hbm.byte 0x2001 = 7 ∧
    ((after (.cctl hd 0 2 true (mf .glob .b)) dirtyLine).core 0).l1 = [] := by decide +kernel

theorem test_icinv_drops : ((after (.icinv hd 0 2 0 .grp) (regs [(2, 64)])).core 0).icache = [] := by decide +kernel

/-! ## Translation, faults and fetch -/

/-- A load of word 0x1000 that has not been translated. -/
def issued0 : Access := { load0 with stage := .issued }

/-- Page 1 may not be read. -/
def unreadable : State := onCore fun c => { c with tlb := [⟨0, 1, 1, false, true, true⟩] }

/-- A page table that maps page 1 to page 0x14, read and write, and the pages from 512 by one large page. -/
def tables : Memory :=
  Memory.write (Memory.write (Memory.write (Memory.write (Memory.write [] 0x10000 8 0x11001) 0x11000 8 0x12001) 0x12000 8
    0x13001) 0x12008 8 0x400011) 0x13008 8 0x14017

theorem witness_WalksTranslateHoldOrRefuse :
    (∀ s ∈ [withAcc issued0 (paged), withAcc issued0 unreadable, withAcc issued0], s.accs = [issued0] ∧
      (s.team 0).stat = .running ∧ s.park lane0 = .run ∧ s.live lane0 = true) ∧ issued0.op.multi = false ∧
    (withAcc issued0).va lane0 .glob 0x1000 = some 0x1000 ∧
    (withAcc issued0 (paged)).translate 0 0 0x1000 .read = (withAcc issued0 (paged), .pa 0x1000) ∧
    (withAcc issued0 unreadable).translate 0 0 0x1000 .read = (withAcc issued0 unreadable, .bad 2) ∧
    ((withAcc issued0).translate 0 0 0x1000 .read).2 = .missing ∧
    (let s := { base with hbm := tables }
     s.hbmRead 0x10000 8 = 0x11001 ∧ s.hbmRead 0x11000 8 = 0x12001 ∧ s.hbmRead 0x12000 8 = 0x13001 ∧
     s.hbmRead 0x12008 8 = 0x400011 ∧ s.hbmRead 0x13008 8 = 0x14017 ∧ pteBad 4 0x11001 = false ∧ pteBad 3 0x12001 = false ∧ pteBad 2 0x13001 = false ∧
     pteBad 1 0x14017 = false ∧ pteBad 1 0x14007 = true ∧ pteBad 4 0x11011 = true ∧ pteBad 2 0x400011 = false) := by decide +kernel

theorem test_walk : (walkFrom { base with hbm := tables } [] 0 0x1ABC 4 0x10000).1 = .ok ⟨0, 1, 0x14, true, true, false⟩ := by
  decide +kernel

/-- The line of PC 0 is not cached; its page is page 0, where HBM holds this line. -/
def uncached (l : Line) : State :=
  { paged (onCore fun c => { c with icache := [] }) with hbm := Memory.write [] 0 64 l.toNat }

theorem no_held_code (s : State) (h : (s.team 0).held = []) : s.heldCode 0 0 0 = none := by simp [State.heldCode, h]

theorem witness_FetchKeepsSoundLines : base.atBoundary lane0 = true ∧
    afind (base.core 0).icache (lineKey 0 0) = some (wordLine 96 0) ∧ (wordLine 96 0).sound = true ∧
    (let s := { uncached 1 with hbmBad := [0] }
     s.atBoundary lane0 = true ∧ s.translate 0 0 0 .fetch = (s, .pa 0) ∧ s.poisoned (.hbm 0) 64 = true) ∧
    (∀ ok : Bool, let l := if ok then Line.make [1, 2] 3 1 0 else 1
      (uncached l).atBoundary lane0 = true ∧
      afind ((uncached l).core 0).icache (lineKey 0 0) = none ∧
      (uncached l).translate 0 0 0 .fetch = (uncached l, .pa 0) ∧ (uncached l).poisoned (.hbm 0) 64 = false ∧
      BitVec.ofNat 512 ((uncached l).hbmRead 0 64) = l) ∧
    (Line.make [1, 2] 3 1 0).sound = true ∧ (1 : Line).sound = false ∧ base.cur.agents = [lane0] ∧
    base.heldCode 0 0 0 = none ∧ ({ uncached 1 with hbmBad := [0] }).heldCode 0 0 0 = none ∧ ∀ l, (uncached l).heldCode 0 0 0 = none := by
  refine ⟨?_, ?_, ?_, ?_, ?_, ?_, ?_, ?_, no_held_code _ ?_, no_held_code _ ?_, fun l => no_held_code _ rfl⟩ <;> decide +kernel

theorem test_empty_slot : (go (exec (.emptySlot 0) base)).pc lane0 = 12 ∧
    ((go (exec (.emptySlot 0x40000000) base)).trapOf lane0).cause = 1 := by decide +kernel

/-- A load found to trap, with its window closed. -/
def trapping : Access := { load0 with stage := .trapped 0x0B 2 0x1000 }

/-- A later load found to trap; it and that one, the later listed first; and the later one pending after the earlier. -/
def trapping2 : Access := { load0 with id := 1, stage := .trapped 0x0B 2 0x2000 }
def twoTrap : State := { withAcc trapping with accs := [trapping2, trapping], nextAcc := 2 }
def twoPend : State := onLane fun t => { t with trap := { t.trap with
  pend := [⟨trapping, 0x0B, 2, 0x1000⟩, ⟨trapping2, 0x0B, 2, 0x2000⟩] } }

/-- A load held on fault 3 of die 0. -/
def held3 : Access := { load0 with stage := .held 0 3 }

/-- It with its fault record. -/
def faulted : State := (withAcc held3).setDie 0 { Die.start with faults := [⟨3, 0x1000, 0, 0, .load⟩] }

theorem witness_LateTrapsAndFaultAnswers :
    (twoTrap.atBoundary lane0 = true ∧ (twoTrap.trapOf lane0).pend = [] ∧
      (∀ y ∈ twoTrap.accsOf lane0, y.left = none ∧ ∃ p q, y.stage = .trapped 0x0B p q) ∧
      (twoTrap.accs.map (fun y => y.id)).Nodup ∧ trapping ∈ twoTrap.accsOf lane0 ∧ trapping.stage = .trapped 0x0B 2 0x1000 ∧
      (∀ y ∈ twoTrap.accsOf lane0, trapping.id ≤ y.id) ∧ (twoTrap.trapOf lane0).lvl = false ∧
      (twoTrap.descOf lane0).handler ≠ 0) ∧
    (twoPend.atBoundary lane0 = true ∧ (twoPend.trapOf lane0).pend = [⟨trapping, 0x0B, 2, 0x1000⟩, ⟨trapping2, 0x0B, 2, 0x2000⟩] ∧
      MayEnter twoPend lane0) ∧
    ((withAcc trapping).atBoundary lane0 = true ∧ ((withAcc trapping).trapOf lane0).pend = [] ∧
      ((withAcc trapping).trapOf lane0).lvl = false ∧ ((withAcc trapping).descOf lane0).handler ≠ 0) ∧
    faulted.accs = [held3] ∧ (faulted.die 0).faults = [⟨3, 0x1000, 0, 0, .load⟩] ∧ (faulted.die 0).waiting = [] ∧
      faulted.live lane0 = true ∧ faulted.park lane0 = .run ∧ faulted.tiles = [] ∧
      (∀ k ∈ faulted.cores, k.2.rays = [] ∧ k.2.slots = []) ∧ faulted.ports = [] ∧ faulted.malgWaiters 0 0 0x1000 = [] ∧
      faulted.va lane0 .glob 0x1000 = some 0x1000 := by
  have h : ∀ y ∈ twoTrap.accsOf lane0, y.left = none ∧ ∃ p q, y.stage = .trapped 0x0B p q := by
    rw [show twoTrap.accsOf lane0 = [trapping2, trapping] by decide +kernel]
    simp [trapping, trapping2, load0]
  refine ⟨⟨?_, ?_, h, ?_⟩, ?_⟩ <;> decide +kernel

theorem test_late_traps_in_order : let t := go (exec (.lateTrapDelivery lane0) twoTrap)
    (t.trapOf lane0).addr = 0x1000 ∧ (t.trapOf lane0).pend.map (fun l => l.addr) = [0x2000] ∧ t.accs = [] := by decide +kernel

theorem test_late_trap : (go (exec (.lateTrapDelivery lane0) (withAcc trapping))).pc lane0 = 64 ∧
    (go (exec (.faultAnswerMap 0 3) faulted)).accs = [issued0] := by decide +kernel

/-! ## Named barriers -/

/-- Barrier 1 as given, with V0 of lane 0, and lane 1 waiting on it in phase 0 or not. -/
def barred (b : Barrier) (v0 : Word) (waits : Bool := false) : State :=
  onTeam (fun t => { t with bars := [(1, b)] }) ((regs [(0, v0)]).setThr 0 0 1
    { base.thr 0 0 1 with park := if waits then .bar 1 false none 3 false else .run })

theorem witness_NamedBarriers : base.det lane0 = false ∧ (base.launchOf lane0).lr.escrow = false ∧ (base.descOf lane0).spans = false ∧
    (∀ i ∈ [Instr.binit hd 0 1, .bexpt hd 0 1, .btest hw 2 false 1, .btest hd 2 true 1, .bwait hw 2 0 1],
      Executes (barred ⟨false, 2, 2, 0, 0, false, []⟩ 5) lane0 i) ∧
    ((barred ⟨false, 2, 2, 0, 0, false, []⟩ 5).barAgents 0 1 = [] ∧ (barred ⟨false, 2, 2, 0, 0, false, []⟩ 5).bar 0 1 =
      ⟨false, 2, 2, 0, 0, false, []⟩) ∧
    (Executes (barred ⟨false, 0, 2, -5, 0, false, []⟩ 5 true) lane0 (.bexpt hd 0 1) ∧
      (barred ⟨false, 0, 2, -5, 0, false, []⟩ 5 true).barAgents 0 1 = [.thread 0 0 1] ∧
      (barred ⟨false, 0, 2, -5, 0, false, []⟩ 5 true).park (.thread 0 0 1) = .bar 1 false none 3 false ∧
      NoMeeting (barred ⟨false, 0, 2, -5, 0, false, []⟩ 5 true) (.thread 0 0 1)) ∧
    (Executes (barred ⟨false, 2, 2, 2147483647, 0, false, []⟩ 1) lane0 (.bexpt hd 0 1)) ∧
    (Executes (barred ⟨false, 2, 2, 0, 0, true, []⟩ 0x80000000) lane0 (.bexpt hd 0 1)) ∧
    (∀ op ∈ [BarvOp.arrive, .wait, .expect], ∀ arr < 3,
      let i := Instr.barv hw 2 (if op = .expect then 0 else vz) 1 op 1
      SignedHere (signing i (barred ⟨false, arr, 2, 0, 0, false, []⟩ 5)) i) ∧
    Signed (signing (.barv hd 2 vz 1 .wait 1)) 0 0 1 (.barv hd 2 vz 1 .wait 1) [0, 1] := by
  refine ⟨?_, ?_, ?_, ?_, ?_, ?_, ?_, ?_, ?_, signed_of _ _ ?_ ?_⟩ <;> decide +kernel

theorem test_bexpt_completes : (after (.bexpt hd 0 1) (barred ⟨false, 0, 2, -5, 0, false, []⟩ 5 true)).bar 0 1 =
    ⟨true, 2, 2, 0, 0, false, []⟩ ∧
    (after (.bexpt hd 0 1) (barred ⟨false, 0, 2, -5, 0, false, []⟩ 5 true)).reg (.thread 0 0 1) 3 = 1 := by decide +kernel

/-! ## The matrix array -/

/-- A state in which core 0's array is of team 0, or of team w. -/
def arrayOf (w : Option Nat) (s : State := base) : State :=
  onCore (fun c => { c with array := { c.array with holder := w } }) s

/-- A tile of two rows of 32 words, at 0 of the scratchpad. -/
def tile0 : Tile :=
  ⟨0, 0, [lane0], 0, 0, 0, .sp, 0, 128, [List.replicate 32 1, List.replicate 32 2], 4, .write, none, .ready⟩

/-- It alone is on its way. -/
def tiling : State := { base with tiles := [tile0], nextTile := 1 }

/-- The array forms of these tests. -/
def arrayForms : List Instr :=
  [.mzero hd 1 .s32 true, .mldacc hd 32 1 .f32 false, .mscale hd 0 1, .mgath hd 0 1, .mwld hd 0 1 vz 1 .f16 0,
    .mwld hd 0 1 2 1 .e2m1 0, .mdrain hd 64 1 true, .mdrain hd vz 1 false, .mma hd 1 .f32 true false true 3 true,
    .mma hd 1 .f16 false true false 0 false, .mdrst hd 0 2 1 .st .grp false .sp false,
    .mdrst hd 0 2 1 .xadd .dev true .vlt true, .mdrst hd 0 2 1 .badd .grp false .glob false,
    .mdrst hd 0 2 1 .iadd .grp false .sp false]

theorem mayUse_base : ∀ i ∈ arrayForms, MayUse (signing i) 0 0 0 [0, 1] := by
  unfold MayUse FirstDue; decide +kernel

theorem signed_base : ∀ i ∈ arrayForms ++ [.malg hd 0 1 true 1, .malg hd 0 1 false 1, .mstat hw 2 1 true],
    Signed (signing i) 0 0 1 i [0, 1] := by
  intro i hi
  refine signed_of _ _ ?_ ?_ <;> revert i <;> decide +kernel

theorem witness_ArrayOperandsAndBanks :
    (∀ i ∈ arrayForms, Signed (signing i) 0 0 1 i [0, 1] ∧ MayUse (signing i) 0 0 0 [0, 1] ∧ (signing i).tiles = []) ∧
    (∀ i ∈ [Instr.malg hd 0 1 true 1, .malg hd 0 1 false 1, .mstat hw 2 1 true], Signed (signing i) 0 0 1 i [0, 1] ∧
      (signing i).tiles = []) ∧
    base.poisoned (base.place lane0 .sp 0) 192 = false ∧ (base.team 0).desc.half = 393216 ∧
    (base.algebra lane0 0).d ∈ [1, 2, 4] ∧ base.checkAccess lane0 .sp 0 16 16 .read false = none ∧
    (paged).translate 0 0 0 .read = (paged, .pa 0) ∧ (paged).holds 0 = false ∧ (paged).direct 0 = false ∧
    (paged).l1Poison 0 0 16 = false ∧ (paged).det lane0 = false ∧ base.arrayOwes 0 = false ∧
    tiling.arrayOwes 0 = true ∧ algebraBad (2 ^ 64) = none ∧ (algebraBad 0).isSome = true := by
  refine ⟨fun i hi => ⟨signed_base i (List.mem_append_left _ hi), mayUse_base i hi, rfl⟩,
    fun i hi => ⟨signed_base i (List.mem_append_right _ hi), rfl⟩, ?_⟩
  decide +kernel

theorem test_mldacc_rows : ((body (two (.mldacc hd 0 1 .s32 false) 5 7)).core 0).array.cell false 1 0 = 7 ∧
    ((body (two (.mldacc hd 0 1 .s32 false) 5 7)).core 0).array.cell false 2 0 = 0 := by decide +kernel

theorem witness_MatrixMultiplyAccumulate :
    (∀ i ∈ [Instr.mma hd 1 .f32 true false true 3 true, .mma hd 1 .f16 false true false 0 false],
      Signed (signing i) 0 0 1 i [0, 1] ∧ MayUse (signing i) 0 0 0 [0, 1]) ∧
    (arrayAs base 0 0).balg.d = 1 ∧ (arrayAs base 0 0).bfmt = .f32 ∧ (arrayAs base 0 0).ty true = .f32 ∧
    afind (arrayAs base 0 0).upset (arrayAs base 0 0).count.toNat = none := by
  refine ⟨fun i hi => ⟨signed_base i ?_, mayUse_base i ?_⟩, ?_⟩
  · revert i; decide +kernel
  · revert i; decide +kernel
  · decide +kernel

/-- Row 0 of A holds 3 and column 0 of B holds 5, in f32. -/
def loaded : State :=
  onCore (fun c => { c with array := { c.array with holder := some 0, arow := [(0, 0x40400000)], wcol := [(0, 0x40A00000)] } })

theorem test_mma_f32 : ((body (signing (.mma hd 1 .f32 false false true 3 true) loaded)).core 0).array.cell true 0 0 = 0x41700000 := by
  decide +kernel

theorem test_mma_format : ((body (signing (.mma hd 1 .f16 false false true 3 true) loaded)).trapOf lane0).cause = 0x17 := by
  decide +kernel

theorem witness_TilesAndArrayRelease :
    (∀ i ∈ [Instr.mdrst hd 0 2 1 .st .grp false .sp false, .mdrst hd 0 2 1 .xadd .dev true .vlt true,
        .mdrst hd 0 2 1 .badd .grp false .glob false, .mdrst hd 0 2 1 .iadd .grp false .sp false],
      Signed (signing i) 0 0 1 i [0, 1] ∧ MayUse (signing i) 0 0 0 [0, 1] ∧ (signing i).tiles = []) ∧
    base.det lane0 = false ∧ base.inRange lane0 .sp 0 128 = true ∧ base.inRange lane0 .vlt 0 128 = false ∧
    (paged).tilePages 0 0 .write [0, 0] = (paged, none, false) ∧ (paged).translate 0 0 0 .write = (paged, .pa 0) ∧
    (tiling.tiles = [tile0] ∧ tiling.accs = [] ∧ tiling.holds 0 = false ∧ (tiling.core (tiling.tileCore tile0)).l1 = [] ∧ Canonical tiling ∧
      (∀ r ∈ tile0.rows, r.length = 32) ∧
      (∀ i < 2, ∀ j < 32, tiling.poisoned ((tiling.tileLoc tile0).plus (i * 128 + j * 4)) 4 = false ∧
        present ((tiling.tileLoc tile0).plus (i * 128 + j * 4)) 4) ∧ tiling.park lane0 = .run) ∧
    (((arrayOf (some 0)).core 0).array.holder = some 0 ∧ ((arrayOf (some 0)).team 0).allExited = false ∧
      (arrayOf (some 0)).dead 0 = false) ∧
    (((arrayOf (some 5)).core 0).array.holder = some 5 ∧ ((arrayOf (some 5)).team 5).allExited = true ∧
      (arrayOf (some 5)).tilesOf 5 0 = false) ∧
    (SignedHere (signing (.mzero hd 1 .f32 false) (arrayOf (some 5))) (.mzero hd 1 .f32 false) ∧
      FirstDue (signing (.mzero hd 1 .f32 false) (arrayOf (some 5))) 0 0 0 [0, 1] ∧
      ¬ 0 ∈ ((arrayOf (some 5)).core 0).array.waiting) := by
  have hp : ∀ i < 2, ∀ j < 32, present ((tiling.tileLoc tile0).plus (i * 128 + j * 4)) 4 := fun _ _ _ _ => trivial
  refine ⟨fun i hi => ⟨signed_base i ?_, mayUse_base i ?_, rfl⟩, ?_, ?_, ?_, ?_, ?_,
    ⟨?_, ?_, ?_, ?_, canonical_of _ ?_ ?_, ?_, fun i hi j hj => ⟨?_, hp i hi j hj⟩, ?_⟩, ?_, ?_, ⟨?_, ?_, ?_⟩⟩
  · revert i; decide +kernel
  · revert i; decide +kernel
  all_goals first | (revert i j; decide +kernel) | (unfold FirstDue; decide +kernel) | decide +kernel

theorem test_tile_stores_rows : Memory.read ((go (exec (.mdrstTileApply 0) tiling)).team 0).scr 128 4 = 2 ∧
    ((go (exec (.arrayRelease 0) (arrayOf (some 5)))).core 0).array.holder = none := by decide +kernel

/-! ## Rays -/

theorem value_zero : valueOf (xf 0) = some 0 := by
  rw [show xf 0 = .fin false 0 1 (-149) by decide +kernel]; norm_num [valueOf]

/-- A ray of zeros at a node or a triangle at 0x1000. -/
def tboxAt : Access := { load0 with op := .tbox (List.replicate 8 0), dst := [16, 17, 18, 19, 20], len := 128 }
def ttriAt : Access := { load0 with op := .ttri (List.replicate 8 0) .off, dst := [16, 17, 18, 19], len := 36 }

/-- A pop of the scratchpad word 0. -/
def popAt : Access := { load0 with op := .pop 0, dst := [2, 3], space := .sp, ea := 0, ga := 0 }

theorem witness_RayTestsAndStacks :
    Executes base lane0 (.tbox hw 16 0 8) ∧ Executes base lane0 (.ttri hw 16 0 8 .cullb) ∧
    (∀ q ∈ [tboxAt, ttriAt], (withAcc q (paged)).accs = [q] ∧ q.stage = .ready ∧ (withAcc q (paged)).tiles = [] ∧
      (withAcc q (paged)).unitBusy q.seq ((withAcc q (paged)).placeOf q 0) = false ∧
      ((withAcc q (paged)).team 0).stat = .running) ∧
    (∃ s1 x, (withAcc tboxAt (paged)).readVa lane0 0 false .load 0x1000 128 = (s1, .ok x)) ∧
    (∃ s1 x, (withAcc ttriAt (paged)).readVa lane0 0 false .load 0x1000 36 = (s1, .ok x)) ∧
    (∀ i < 8, ((List.replicate 8 (0 : Word))[i]?).bind (fun w => valueOf (xf w)) = some ((fun _ => 0 : Nat → ℚ) i)) ∧
    (∀ i ∈ [Instr.spush hd 0 8 9 1 true 3, .spop hw 2 8 9 1], Signed (signing i) 0 0 1 i [0, 1]) ∧
    ((base.team 0).desc.half = 393216 ∧ (base.team 0).desc.gwidth = 16) ∧
    (∀ i ∈ [Instr.spush hd 0 8 9 1 true 3, .spop hw 2 8 9 1],
      Signed (signing1 i (regs [(9, 33)])) 0 0 1 i [0] ∧ ((signing1 i (regs [(9, 33)])).reg lane0 9).toNat = 33) ∧
    AtPort (withAcc popAt) popAt ∧ (withAcc popAt).placeOf popAt 0 = .scr 0 false 0 ∧
      (withAcc popAt).poisoned (.scr 0 false 0) 4 = false ∧
      (((withAcc popAt).raceAt popAt (.scr 0 false 0) 4 false true).1 && !popAt.racy) = false := by
  refine ⟨by decide +kernel, by decide +kernel, by decide +kernel, good_some _ (by decide +kernel), good_some _ (by decide +kernel),
    fun i hi => ?_, fun i hi => signed_of _ _ ?_ ?_, by decide +kernel, fun i hi => ⟨signed_in _ _ _ (by simp) ?_ ?_, ?_⟩,
    atPort_of _ _ ?_ ?_ ?_, ?_⟩
  · interval_cases i <;> exact value_zero
  · revert i; decide +kernel
  · revert i; decide +kernel
  · revert i; decide +kernel
  · revert i; decide +kernel
  · revert i; decide +kernel
  all_goals decide +kernel

theorem test_ray_misses : ((atPortNow ttriAt (paged)).accs.map (fun q => q.vals)) = [[0x7F800000, 0, 0, 0]] := by decide +kernel

theorem test_stack_overflow : ((body (signing1 (.spop hw 2 8 9 1) (regs [(9, 33)]))).trapOf lane0).cause = 0x1A ∧
    ((body (signing (.spush hd 0 8 9 1 true 0) (regs [(0, 7)]))).reg lane0 9) = 1 := by decide +kernel

/-! ## The sampler, and invalidations -/

/-- Context 0's page tables map page 1 to physical page 0x14, which holds x at its start and y at 0x400. -/
def mapped (x y : Nat) (s : State := base) : State :=
  { s with
    ctxs := [(0, { Ctx.zero with ptroot := 0x10000 })],
    hbm := Memory.write (Memory.write tables 0x14000 19 x) 0x14400 10 y }

/-- A texture of one 2 × 2 level at 0x1800 with its weight table at 0x1400; the header of a table. -/
def texture : Nat := 0x1800 + 0x1400 * 2 ^ 64 + 2 ^ 128 + 2 ^ 136 + 2 ^ 144
def header : Nat := 0x04_10_10_0C_0001_4345444C

/-- A sample at that descriptor, and the texture with its table. -/
def sampAt : Access := { load0 with op := .samp 0 0 0 .near, dst := [16, 17, 18, 19, 20], len := 64 }
def textured : State := withAcc sampAt (mapped texture header)

/-- Core 0 holds the translation of page 1. -/
def warm : State := onCore (fun c => { c with tlb := [⟨0, 1, 0x14, true, true, true⟩] }) textured

/-- The table is in the weight cache. -/
def cached : State := textured.setPair 0 { CorePair.start with wcache := [⟨0x1400, 0, BitVec.ofNat 9216 header, 0⟩] }

theorem witness_SamplesAndInvalidations :
    (Executes base lane0 (.samp hw 16 0 2 4 .tri) ∧ textured.accs = [sampAt] ∧ textured.tiles = [] ∧
      textured.unitBusy sampAt.seq (textured.placeOf sampAt 0) = false) ∧
    (∃ s1 x, textured.readVa lane0 0 true .sampler 0x1000 64 = (s1, .ok x)) ∧ (Tex.read texture).ok = true ∧
    (Tex.read 0).ok = false ∧ WTable.ok (BitVec.ofNat 9216 header) = true ∧ WTable.ok 0 = false ∧
    good (textured.readMany lane0 0 true .sampler ((((Tex.read texture).plan .near 0 0 0).texels).map
      (fun e => ((Tex.read texture).cell e.1 e.2.1 e.2.2, 8)))) = true ∧
    good (cached.getTable lane0 0 (Tex.read texture)) = true ∧
    valueOf (xf 0) = some 0 ∧ (warm.accs = [sampAt] ∧ warm.wantsKey 0 0x1400 0 sampAt = true ∧ (warm.pair 0).wcache = []) ∧
    (∃ s1 x, warm.homeTable lane0 0x1400 = (s1, .ok x) ∧
      (decide (x % 2 ^ 80 = header) && decide (s1.pair 0 = warm.pair 0)) = true) ∧
    (∀ dev, Executes base lane0 (.sampinv hd (some 0) dev) ∧ Executes determined lane0 (.sampinv hd none dev)) ∧
    Executes privileged lane0 (.tlbinv hd none) ∧ Executes privileged lane0 (.tlbinv hd (some (0, 2))) ∧
      Still privileged lane0 ∧ privileged.tiles = [] := by
  refine ⟨by decide +kernel, good_some _ (by decide +kernel), by decide +kernel, by decide +kernel, by decide +kernel,
    by decide +kernel, by decide +kernel, by decide +kernel, value_zero, by decide +kernel, sure_some _ _ (by decide +kernel), ?_⟩
  decide +kernel

theorem test_invalidations : ((go (exec (.sampinv hd none false) { cached with accs := [] })).pair 0).wcache = [] ∧
    ((go (exec (.tlbinv hd none) { privileged with cores := (paged).cores })).core 0).tlb = [] := by decide +kernel

/-! ## Copies -/

/-- An iterator record of 20 words of a space at a base (Table 11-2). -/
def iterRec (space at' : Nat) : Nat :=
  at' + 2 ^ 64 * space + 2 ^ 72 * 4 + 2 ^ 80 + 2 ^ 192 * 20 + 2 ^ 512 * 4 + 2 ^ 832 * 20

/-- A context issues, with V0 = 0 and V1 = 128, where the scratchpad holds two records. -/
def copying : State :=
  let s := onCore (fun c => { c with bregs := [(1, 128)] }) baseCtx
  onTeam (fun t => { t with scr := Memory.write (Memory.write [] 0 128 (iterRec 1 0x1000)) 128 128 (iterRec 1 0x2000) }) s

/-- Command fields: both records in the scratchpad, words, with barrier 1's bytes and arrival. -/
def copyF : CopyF := ⟨true, true, .plain, .b, .grp, false, false, true, true, some 1⟩

/-- The copy from a space to a space. -/
def copyJob (x y : Nat) (at' : Nat := 0x2000) : CopyJob :=
  ⟨IterRec.ofBytes 0 true (iterRec x 0x1000), IterRec.ofBytes 128 true (iterRec y at'), copyF, 2⟩

/-- Its slot with some chunks sent, in a state. -/
def slot0 (j : CopyJob) (next : Nat) (sent : List SentChunk) : CopySlot :=
  ⟨0, true, 0, j, next, 0, sent, .sending, 0, false, 0⟩

def slotted (e : CopySlot) (s : State := baseCtx) : State :=
  onTeam (fun t => { t with bars := [(1, ⟨false, 1, 1, 64, 0, false, []⟩)] }) (onCore (fun c => { c with slots := [(0, e)] }) s)

/-- Sixteen slots, none finished. -/
def full : State :=
  onCore (fun c => { c with slots := (List.range 16).map (fun k => (k, slot0 (copyJob 1 1) 0 [])) }) copying

/-- A chunk of one word to go to 0x2000 of the scratchpad; and one with nothing left. -/
def chunk1 : SentChunk := ⟨0, 0, 64, false, [.of (.scr 0 false 0x2000) 4 .write 7], none⟩
def chunk0 : SentChunk := ⟨0, 0, 64, false, [], none⟩

/-- A chunk with an addition to word 1 of the non-coherent host window. -/
def chunkHost : SentChunk := ⟨0, 0, 64, false, [.of (.host 4 false) 4 (.upd .add) 7], none⟩

/-- Context 0 waits in EXIT. -/
def leaving : State := onCore fun c => { c with ctxs := [(0, { BCtx.free with run := .ready, park := .ending false })] }

theorem witness_CopiesMoveTheirElements :
    (baseCtx.holds 0 = false ∧ (baseCtx.launchOf ctx0).lr.escrow = false ∧ (baseCtx.descOf ctx0).spans = false) ∧
    (Executes copying ctx0 (.copy hd 2 0 1 copyF) ∧ copying.recordTrap ctx0 true 0 = none ∧
      copying.recordTrap ctx0 true 128 = none ∧ (copying.recordTrap ctx0 true 4).isSome = true ∧
      copying.readRecord ctx0 true 0 = (copying, .ok (iterRec 1 0x1000)) ∧
      copying.readRecord ctx0 true 128 = (copying, .ok (iterRec 1 0x2000)) ∧
      copying.copyTrap ctx0 (copyJob 1 1) (iterRec 1 0x1000) (iterRec 1 0x2000) = none ∧
      (copying.copyTrap ctx0 (copyJob 9 1) (iterRec 9 0x1000) (iterRec 1 0x2000)).isSome = true ∧ Still copying ctx0 ∧
      copying.barAgents 0 1 = [] ∧ afind (copying.core 0).slots 0 = none ∧
      (copying.bar 0 1).psn = false) ∧
    (Executes full ctx0 (.copy hd 2 0 1 copyF) ∧ full.recordTrap ctx0 true 0 = none ∧
      full.readRecord ctx0 true 0 = (full, .ok (iterRec 1 0x1000)) ∧ (∀ e ∈ (full.core 0).slots, e.2.stat = .sending) ∧
      ∀ k < 16, (afind (full.core 0).slots k).isSome = true) ∧
    (∀ st ∈ [CopyStat.sending, .finished 0, .finished 4],
      Executes (slotted { slot0 (copyJob 1 1) 0 [] with stat := st }) ctx0 (.cwait hw 2 0) ∧
      (slotted { slot0 (copyJob 1 1) 0 [] with stat := st }).slot? 0 0 = some { slot0 (copyJob 1 1) 0 [] with stat := st }) ∧
    (∀ j ∈ [copyJob 1 1, copyJob 1 0, copyJob 1 1 0x5FFFC], let s := slotted (slot0 j 0 [])
      s.slot? 0 0 = some (slot0 j 0 []) ∧ (s.core 0).slots = [(0, slot0 j 0 [])] ∧ s.park ctx0 = .run ∧ s.accs = [] ∧
      j.chunks = 2 ∧ (∀ v ∈ j.src.box, v < 2 ^ 32) ∧ s.uidOf ctx0 = 0) ∧
    ((∃ ps, ((slotted (slot0 (copyJob 1 1) 0 [])).copySpots 0 0 (copyJob 1 1) ((copyJob 1 1).chunk 0)).2 = .ok ps) ∧
      ((slotted (slot0 (copyJob 1 1 0x5FFFC) 0 [])).copySpots 0 0 (copyJob 1 1 0x5FFFC) ((copyJob 1 1 0x5FFFC).chunk 0)).2 = .stop 1 ∧
      ((slotted (slot0 (copyJob 1 0) 0 [])).copySpots 0 0 (copyJob 1 0) ((copyJob 1 0).chunk 0)).2 = .missing 0x2000) ∧
    (∀ ch ∈ [chunk1, chunk0], ∀ next ∈ [1, 2], let s := slotted (slot0 (copyJob 1 1) next [ch])
      s.slot? 0 0 = some (slot0 (copyJob 1 1) next [ch]) ∧ (∀ k ∈ s.cores, k.1 ≠ 0 → k.2.slots = []) ∧
      (akeys s.cores).Nodup ∧ s.poisoned (.scr 0 false 0x2000) 4 = false ∧ s.barAgents 0 1 = [] ∧
      (s.bar 0 1).tx = ch.bytes ∧ (s.bar 0 1).arr = 1) ∧
    ((slotted (slot0 (copyJob 1 1) 1 [chunkHost])).slot? 0 0 = some (slot0 (copyJob 1 1) 1 [chunkHost]) ∧
      (slotted (slot0 (copyJob 1 1) 1 [chunkHost])).poisoned (.host 4 false) 4 = false ∧ 4 % 8 + 4 ≤ 8 ∧ Memory.wf [] = true) ∧
    (∀ t ∈ leaving.teams, ∀ g ∈ t.2.groups, ∀ l ∈ g.2.threads, l.2.park = .run) ∧
    Canonical (slotted (slot0 (copyJob 1 1) 1 [chunk1])) ∧
    ((leaving.bctx 0 0).park = .ending false ∧ Still leaving ctx0 ∧ leaving.tiles = [] ∧
      ∀ k < 4, k ≠ 0 → (leaving.bctx 0 k).park = .run) := by
  have h : ∃ ps, ((slotted (slot0 (copyJob 1 1) 0 [])).copySpots 0 0 (copyJob 1 1) ((copyJob 1 1).chunk 0)).2 = .ok ps := by
    have : (match ((slotted (slot0 (copyJob 1 1) 0 [])).copySpots 0 0 (copyJob 1 1) ((copyJob 1 1).chunk 0)).2 with
      | .ok _ => true
      | _ => false) = true := by decide +kernel
    split at this
    · exact ⟨_, by assumption⟩
    · cases this
  refine ⟨?_, ?_, ?_, ?_, ?_, ⟨h, ?_, ?_⟩, ?_, ?_, ?_, canonical_of _ ?_ ?_, ?_⟩ <;> decide +kernel

theorem test_copy_accepted : ((after (.copy hd 2 0 1 copyF) copying).bar 0 1).tx = 80 := by decide +kernel

theorem test_chunk_acknowledged : ((go (exec (.copyChunkAck 0 0 0) (slotted (slot0 (copyJob 1 1) 1 [chunk0])))).bar 0 1).tx = 0 := by
  decide +kernel

/-! ## Shadow rays and the outputs of a draw's kernels -/

/-- A shadow ray along +Z through the origin, with its contribution of one at 0x2000. -/
def ray0 : Ray :=
  ⟨0, 0, 0, 0x1000, [0, 0, 0xBF800000, 0, 0, 0x3F800000, 0, 0x40800000], [0x3F800000, 0x3F800000, 0x3F800000], 0x2000, false,
    false, none, false, 0⟩

/-- It is the one ray of core 0; memory at 0x1000 is a node with no child, or with a leaf of the triangle at 0x1100. -/
def tracing (leaf : Bool) (r : Ray := ray0) : State :=
  let tri := ofWords [0xBF800000, 0xBF800000, 0, 0x3F800000, 0xBF800000, 0, 0, 0x3F800000, 0]
  let node := Memory.write (Memory.write (Memory.write [] 0x1060 4 0x80000000) 0x1078 8 0x1100) 0x1100 36 tri
  { paged (onCore fun c => { c with rays := [r], walker := some (0, 3, 15) }) with hbm := if leaf then node else [] }

/-- Core 0's ray queue is full. -/
def manyRays : State := onCore fun c => { c with rays := List.replicate 256 ray0 }

/-- A walker is resident on core 0, with no ray. -/
def walking : State := onCore fun c => { c with walker := some (0, 3, 15) }

/-- The team is of this stage. -/
def staged (x : Stage) (s : State := base) : State := onTeam (fun t => { t with stage := x }) s

/-- Every slot of core 0's ring is taken. -/
def ringFull (s : State) : State :=
  onCore (fun c => { c with ring := (List.range 4).map (fun k => (k, { RingSlot.free with busy := true })) }) s

theorem witness_ShadowRaysAndKernelOutputs :
    (base.park lane0 = .run ∧ NoMeeting base lane0 ∧ base.holds 0 = false ∧
      ∀ fx, Executes base lane0 (.shray hd 16 0 8 18 fx) ∧ Executes determined lane0 (.shray hd 16 0 8 18 fx)) ∧
    (determined.det lane0 = true ∧ determined.holds 0 = true ∧ 256 ≤ (manyRays.core 0).queued ∧
      Executes manyRays lane0 (.shray hd 16 0 8 18 false)) ∧
    (((walking).core 0).rays = [] ∧ ((walking).core 0).walker ≠ none ∧ walking.rayComes = false ∧
      (manyRays.core 0).rays = ray0 :: List.replicate 255 ray0 ∧ (manyRays.core 0).walker = none) ∧
    (∀ lit, ((tracing true { ray0 with lit := lit }).core 0).rays = [{ ray0 with lit := lit }]) ∧
    ((tracing true).occluded 0 0 0 ray0.ray (2 ^ 64) [(2 ^ 30, 0x1000, 0)]).2 = .ok true ∧
    ((tracing false).occluded 0 0 0 ray0.ray (2 ^ 64) [(2 ^ 30, 0x1000, 0)]).2 = .ok false ∧
    ray0.target / 64 = (ray0.target + 3 * 4 - 1) / 64 ∧
    (tracing false { ray0 with lit := true }).translate 0 0 0x2000 .write = (tracing false { ray0 with lit := true }, .pa 0x2000) ∧
    Canonical (tracing false { ray0 with lit := true }) ∧
    (∀ j < 3, ((tracing false { ray0 with lit := true }).l1Flush 0 0x2000).poisoned (.hbm (0x2000 + j * 4)) 4 = false) ∧
    present (.hbm 0x2000) 12 ∧
    (∀ t ∈ (tracing true).teams, ∀ g ∈ t.2.groups, ∀ l ∈ g.2.threads, l.2.park = .run) ∧
    (Executes (staged .task) lane0 (.emitPayload hd 2 0 1 3) ∧ Still (staged .task) lane0 ∧ (staged .task).tiles = [] ∧
      (((staged .task).core 0).slotOf 0).busy = false ∧ Canonical (staged .task) ∧
      Executes (ringFull (staged .task)) lane0 (.emitPayload hd 2 0 1 3) ∧
      (((ringFull (staged .task)).core 0).slotOf 0).busy = true) ∧
    (Executes (staged .mesh) lane0 (.emitVertex hd 0 4 8) ∧ Executes (staged .mesh) lane0 (.emitPrim hd 0 1)) ∧
    Executes (staged .pixel) lane0 (.emitColour hd 0) := by
  refine ⟨?_, ?_, ?_, ?_, ?_, ?_, ?_, ?_, canonical_of _ ?_ ?_, ?_, ?_, ?_, ⟨?_, ?_, ?_, ?_, canonical_of _ ?_ ?_, ?_⟩, ?_, ?_⟩ <;>
    first | decide +kernel | (unfold present; decide +kernel)

theorem test_ray_applied : Memory.read (go (exec (.walkerRay 0) (tracing false))).hbm 0x2004 4 = 0x3F800000 ∧
    Memory.read (go (exec (.walkerRay 0) (tracing true))).hbm 0x2004 4 = 0 := by decide +kernel

theorem test_vertex_limit : ((after (.emitVertex hd 0 4 8) (staged .mesh (regs [(0, 96)]))).trapOf lane0).cause = 8 ∧
    afind ((after (.emitVertex hd 0 4 8) (staged .mesh (regs [(0, 95)]))).grp 0 0).verts 95 = some [0, 0, 0, 0, 0, 0, 0, 0] := by
  decide +kernel

/-! ## The stages of a draw -/

/-- A pass of 64 × 64 pixels with its depth at 0x1000, and a draw of the kernels of `base`. -/
def pass0 : PassDesc := ⟨0x1400, 0x1000, 64, 64, false, false, 0⟩
def draw0 : DrawInfo := ⟨wordKernel, { wordKernel with nreg := 16 }, pass0, 0⟩

/-- The half of the screen below a diagonal, and a vertex of it. -/
def vert (x y : Int) : SetVert := ⟨x, y, 0, [0x3F800000, 0, 0, 0]⟩
def prim0 (begun : List TileWork) : Prim := ⟨5, 0, 5, vert 0 0, vert 16384 0, vert 0 16384, [(0, 0)], begun⟩

/-- A machine with the launch of that draw, whose mesh work is done, and classes with room; nothing is resident. -/
def drawing (f : Launch → Launch := id) : State :=
  { base with
    teams := [],
    launches := [(0, f { wordLaunch with draw := some draw0, meshTotal := 1, passed := [0] })],
    quotas := [(0, [(0, 64), (1, 512), (2, 512)])] }

/-- Slot 0 of core 0's ring has one mesh group, which is due to start, or has retired. -/
def published (started done : Nat) : State :=
  { onCore (fun c => { c with ring := [(0, ⟨true, 0, 0, 0, 1, 0, started, done⟩)] }) (drawing) with nextUid := 7 }

/-- The mesh team of number 0 has finished, with one triangle. -/
def meshed : State :=
  let s := drawing fun k => { k with passed := [] }
  let v := fun (x y : Word) => [x, y, 0x3F000000, 0x3F800000, 0, 0, 0, 0]
  let g := { Group.absent with verts := [(0, v 0 0), (1, v 0x3F800000 0), (2, v 0 0x3F800000)], prims := [(4, 0x020100)] }
  s.setTeam 2 { Team.absent with stage := .mesh, groups := [(0, g)] }

/-- One sample of a tile is held. -/
def buf0 : TileBuf := ⟨0, pass0, 0, 0, [(4 * (32 * 1 + 2) + 3, [1, 2, 3, 4])], [(4 * (32 * 1 + 2) + 3, 9)]⟩
def tiled (bs : List TileBuf) : State := (drawing fun k => { k with lr := { k.lr with passend := true } }).setPair 0
  { CorePair.start with tiles := bs }

theorem witness_StagesOfADraw :
    (((published 0 0).core 0).slotOf 0 = ⟨true, 0, 0, 0, 1, 0, 0, 0⟩ ∧ ((published 0 0).launch 0).draw = some draw0 ∧
      ((published 0 0).launch 0).lr.escrow = false ∧ (published 0 0).admitsNew ((published 0 0).launch 0) = true ∧
      (published 0 0).nextSlotOf 0 = some 0 ∧ (published 0 0).unitBad 0 draw0.mesh.coefAddr 8192 = none ∧
      (((published 0 0).fits 0 draw0.mesh .mesh 0 [[0]] ((published 0 0).image 0 draw0.mesh)).map List.length) = some 1 ∧
      (((published 1 1).core 0).slotOf 0).done = 1 ∧
      (∀ t ∈ (published 1 1).teams, ∀ g ∈ t.2.groups, ∀ x ∈ g.2.threads, x.2.park = .run)) ∧
    ((meshed.launch 0).draw = some draw0 ∧ ((meshed.meshDone? 0).map (fun t => t.teamid)) = some 0) ∧
    areaOf (prim0 []).v0 (prim0 []).v1 (prim0 []).v2 ≠ 0 ∧
    (∀ q ∈ [[(0, 0, [15, 15, 15, 15])], []], let s := drawing fun k => { k with prims := [prim0 [⟨0, 0, 1, q⟩]] }
      s.launches = [(0, s.launch 0)] ∧ s.admitsNew (s.launch 0) = true ∧ (s.launch 0).draw = some draw0 ∧
      s.nextTile? 0 0 pass0 (s.launch 0).prims [] = some (prim0 [⟨0, 0, 1, q⟩], 0, 0) ∧
      s.tileWork (s.launch 0) draw0 (prim0 [⟨0, 0, 1, q⟩]) 0 0 = q ∧ draw0.pixel.spans = false ∧
      s.unitBad 0 draw0.pixelDesc.coefAddr 8192 = none ∧ s.targetBad 0 draw0.pass 0 0 = none ∧
      ((s.fits 0 draw0.pixelDesc .pixel 0 [[0]] (s.image 0 draw0.pixelDesc)).map List.length) = some 1) ∧
    ((tiled [buf0]).passOf 0 = some (0, pass0) ∧ (tiled []).targetBad 0 pass0 0 0 = none ∧ ((tiled [buf0]).pair 0).tiles = [buf0] ∧ ((tiled []).pair 0).tiles = [] ∧
      pairOfTile pass0 0 0 = 0 ∧
      (∃ p ∈ ((drawing fun k => { k with prims := [prim0 []], lr := { k.lr with passend := true } }).launch 0).prims,
        p.hasWork 0 0 = true) ∧ ∀ p ∈ ((tiled []).launch 0).prims, p.hasWork 0 0 = false) ∧
    present (.hbm (0x14 * 4096 + 0x1ABC % 4096)) 1 ∧
    (walkFrom { base with hbm := tables } [] 0 0x1ABC 4 0x10000).1 = .ok ⟨0, 1, 0x14, true, true, false⟩ ∧
    Canonical { base with hbm := tables } ∧
    (((tiled [buf0]).launch 0).flushed = false ∧ ((tiled [buf0]).launch 0).complete = false ∧ (tiled [buf0]).workOver 0 = true ∧
      (published 0 0).workOver 0 = false) := by
  refine ⟨⟨?_, ?_, ?_, ?_, ?_, ?_, ?_, ?_, fun t ht => ?_⟩, ?_, ?_, ?_, ?_, ?_, ?_, canonical_of _ ?_ ?_, ?_⟩
  case refine_9 => exact absurd ht (by simp [published, drawing, onCore, State.setCore])
  all_goals first | decide +kernel | (unfold present; decide +kernel)

theorem test_setup_index : ((go (exec (.primitiveSetup 0) meshed)).launch 0).prims.map (fun p => (p.index, p.v1.x)) = [(4, 16384)] := by
  decide +kernel

theorem test_slot_frees : ((go (exec (.taskSlotFree 0 0) (published 1 1))).core 0).slotOf 0 = .free := by decide +kernel

/-! ## Queues and launches -/

/-- A launch record of one team of one group, for the descriptor at 0x2800; and a descriptor (Tables 3-4 and 22-3). -/
def recNum : Nat := 0x2800 + 2 ^ (8 * 0x30) + 2 ^ (8 * 0x34)
def descNum : Nat := 0x4353444B + 2 ^ 32 + 2 ^ (8 * 0x10) * 16 + 2 ^ (8 * 0x12) * 8

/-- Context 0's page tables map the first 1 GiB to itself: one entry of level 4, and one leaf of level 3. -/
def identity : Memory := Memory.write (Memory.write [] 0 8 0x1001) 0x1000 8 0x17

/-- A state with those page tables, whose code begins with a line that marks slot 0. -/
abbrev Identity (s : State) : Prop :=
  (s.ctx 0).ptroot.toNat = 0 ∧ Memory.read s.hbm 0 8 = 0x1001 ∧ Memory.read s.hbm 0x1000 8 = 0x17 ∧
    (s.ctx 0).codebase.toNat = 0x3000 ∧ lineBtm (Line.word (BitVec.ofNat 512 (Memory.read s.hbm 0x3000 64))) (slotOf 0) = true ∧
    s.hbmBad = []

theorem sound_unit (s : State) (h : s.hbmBad = []) (ctx va n : Nat) : s.unitBad ctx va n = none := by simp [State.unitBad, h]

theorem hbm_low (s : State) (a n : Nat) (h : a + n ≤ 2 ^ 39) : s.hbmRead a n = s.hbm.read a n := if_pos h

theorem walk_identity (s : State) (h : Identity s) (va : Nat) (hv : va < 2 ^ 30) :
    (walkFrom s [] 0 va 4 0).1 = .ok ⟨0, va / 4096, va / 4096, true, true, false⟩ := by
  obtain ⟨-, h0, h1, -⟩ := h
  have e1 : va / 2 ^ 39 % 2 ^ 18 = 0 := by omega
  have e2 : va / 2 ^ 30 % 512 = 0 := by omega
  have e3 : va / 4096 % 2 ^ 18 = va / 4096 := by omega
  have a1 : nbit 0x1001 0 = true := by decide
  have a2 : pteBad 4 0x1001 = false := by decide
  have a3 : nbit 0x1001 4 = false := by decide
  have a4 : ptePfn 0x1001 = 0x1000 := by decide
  have b1 : nbit 0x17 0 = true := by decide
  have b2 : pteBad 3 0x17 = false := by decide
  have b3 : nbit 0x17 4 = true := by decide
  have b4 : ptePfn 0x17 = 0 := by decide
  simp only [walkFrom, hbm_low s 0 8 (by decide), hbm_low s 0x1000 8 (by decide), List.find?_nil, Nat.reduceMul, Nat.reduceAdd, e1, e2, if_true, Nat.mul_zero, Nat.add_zero, Nat.zero_add,
    h0, a1, a2, a3, a4, Bool.not_true, Bool.false_eq_true, if_false, Nat.reduceEqDiff, h1, b1, b2, b3, b4, e3, Nat.zero_div]
  simp [nbit]

theorem peek_identity (s : State) (h : Identity s) (va : Nat) (hv : va < 2 ^ 30) :
    s.peekByte 0 va = some (s.hbm.byte va) := by
  have e : va / 4096 * 4096 + va % 4096 = va := by omega
  simp only [State.peekByte, h.1, show ¬ va ≥ 2 ^ 57 by omega, if_false, walk_identity s h va hv, if_true, e,
    hbm_low s va 1 (by omega)]
  simp [Memory.read]

theorem bytes_read (m : Memory) (n a : Nat) : ofBytes ((List.range n).map (fun i => m.byte (a + i))) = Memory.read m a n := by
  induction n generalizing a with
  | zero => rfl
  | succ n ih =>
    rw [List.range_succ_eq_map, List.map_cons, ofBytes, Memory.read, List.map_map, ← ih (a + 1)]
    simp [Function.comp_def, Nat.add_assoc, Nat.add_comm 1]

theorem unit_identity (s : State) (h : Identity s) (va n : Nat) (hv : va + n ≤ 2 ^ 30) :
    s.unitRead 0 va n = Memory.read s.hbm va n := by
  rw [← bytes_read, State.unitRead]
  congr 1
  refine List.map_congr_left fun i hi => ?_
  have := List.mem_range.mp hi
  rw [peek_identity s h _ (by omega)]; rfl

theorem front_identity (s : State) (h : Identity s) (deny : Option Nat) (va n : Nat) (hv : va + n ≤ 2 ^ 30) (hp : pagesIn va n = [va])
    (hn : va < 2 ^ 30) : s.frontRead 0 deny va n = .ok (Memory.read s.hbm va n) := by
  simp only [State.frontRead, show ¬ va + n > 2 ^ 57 by omega, if_false, hp, List.foldl_cons, List.foldl_nil, h.1,
    walk_identity s h va hn, if_true, unit_identity s h va n hv,
    sound_unit s h.2.2.2.2.2]

theorem marked_identity (s : State) (h : Identity s) : s.marked 0 0 = true := by
  simp only [State.marked, h.2.2.2.1, show (0 : Word).toNat / 64 = 0 by decide, Nat.mul_zero, Nat.add_zero,
    front_identity s h none 0x3000 64 (by decide) (by decide) (by decide), h.2.2.2.2.1]

theorem desc_identity (s : State) (h : Identity s) (a : Nat) (ha : a + 256 ≤ 2 ^ 30) (hp : pagesIn a 256 = [a])
    (hk : KDesc.sound (Memory.read s.hbm a 256) = true) (he : (KDesc.ofBytes a (Memory.read s.hbm a 256)).entry = 0)
    (hh : (KDesc.ofBytes a (Memory.read s.hbm a 256)).handler = 0) :
    s.loadedDesc 0 a = some (KDesc.ofBytes a (Memory.read s.hbm a 256)) := by
  have := marked_identity s h
  simp_all [State.loadedDesc, front_identity s h none a 256 ha hp (by omega)]

theorem desc_sound (s : State) (h : Identity s) (a : Nat) (ha : a + 256 ≤ 2 ^ 30) (hp : pagesIn a 256 = [a])
    (hk : KDesc.sound (Memory.read s.hbm a 256) = true) (he : (KDesc.ofBytes a (Memory.read s.hbm a 256)).entry = 0)
    (hh : (KDesc.ofBytes a (Memory.read s.hbm a 256)).handler = 0) : s.descBad 0 a = none := by
  have e := front_identity s h none 0x3000 64 (by decide) (by decide) (by decide)
  simp [State.descBad, front_identity s h none a 256 ha hp (by omega), hk, he, hh, h.2.2.2.1, e]

theorem check_identity (s : State) (h : Identity s) (x : Nat) (child : Bool) (deny : Option Nat) (p : Nat)
    (hd : (LaunchRec.ofBytes x).draw = false) (ha : (LaunchRec.ofBytes x).kdesc + 256 ≤ 2 ^ 30)
    (hp : pagesIn (LaunchRec.ofBytes x).kdesc 256 = [(LaunchRec.ofBytes x).kdesc])
    (hk : KDesc.sound (Memory.read s.hbm (LaunchRec.ofBytes x).kdesc 256) = true)
    (he : (KDesc.ofBytes (LaunchRec.ofBytes x).kdesc (Memory.read s.hbm (LaunchRec.ofBytes x).kdesc 256)).entry = 0)
    (hh : (KDesc.ofBytes (LaunchRec.ofBytes x).kdesc (Memory.read s.hbm (LaunchRec.ofBytes x).kdesc 256)).handler = 0)
    (hj : judge (LaunchRec.ofBytes x) [some (KDesc.ofBytes (LaunchRec.ofBytes x).kdesc (Memory.read s.hbm (LaunchRec.ofBytes x).kdesc 256))]
      ((LaunchRec.ofBytes x).sound x p && KDesc.shapeOk (KDesc.ofBytes (LaunchRec.ofBytes x).kdesc
        (Memory.read s.hbm (LaunchRec.ofBytes x).kdesc 256)) (LaunchRec.ofBytes x).teamsz) child = none) :
    s.checkLaunch 0 deny ⟨x, none, none⟩ child p = .ok ⟨LaunchRec.ofBytes x, KDesc.ofBytes (LaunchRec.ofBytes x).kdesc
      (Memory.read s.hbm (LaunchRec.ofBytes x).kdesc 256), none⟩ ⟨x, none, none⟩ := by
  simp only [State.checkLaunch, hd, Bool.false_eq_true, if_false, desc_identity s h _ ha hp hk he hh,
    desc_sound s h _ ha hp hk he hh, hj]

/-- There, a packet at 0x2000, a record at 0x2400 and a descriptor at 0x2800. -/
def packeted (packet rec' desc : Nat) (s : State := base) : State :=
  { s with
    ctxs := [(0, { Ctx.zero with codebase := 0x3000 })],
    hbm := Memory.write (Memory.write (Memory.write (Memory.write identity 0x2000 16 packet) 0x2400 58 rec') 0x2800 20 desc)
      0x3000 64 (Line.make [0, 0] 3 3 0).toNat }

/-- Queue 5 with that packet at QRD. -/
def queued (packet : Nat) (rec' : Nat := recNum) (desc : Nat := descNum) (f : Queue → Queue := id) : State :=
  (packeted packet rec' desc).setQueue 5
    (f { Queue.start with base := 0x2000, en := true, wr := 1, ctrBase := 0x2C00, errBase := 0x2E00 })

/-- A LAUNCH packet of that record. -/
def launchNum : Nat := 1 + 2 ^ 64 * 0x2400

/-- Lane 0 with V0 = 0x2400, in deterministic mode or not. -/
def launching (det : Bool) (rec' : Nat := recNum) : State :=
  packeted 0 rec' descNum (onLaunch (fun x => { x with lr := { x.lr with det := det } }) (regs [(0, 0x2400)]))

theorem parsing_at (p : Nat) (hp : p ∈ [0, launchNum, 2 + 2 ^ 8 + 2 ^ 32 * 3 + 2 ^ 52 * 7, 3 + 2 ^ 32 * 7 + 2 ^ 64 * 9]) :
    let k := (queued p).queue 5
    k.en = true ∧ k.pkt = none ∧ k.reads = none ∧ k.halt = false ∧ k.rd.toNat % k.size.toNat ≠ k.wr.toNat % k.size.toNat ∧ (queued p).mgmt.boot = 1 ∧
      (queued p).dbg.frozen = false ∧ (queued p).mgmt.pwrReq.toNat < 2 ∧ k.wait = none ∧ k.hold = [] ∧ Identity (queued p) ∧
      Memory.read (queued p).hbm 0x2000 64 = p := by
  revert p; decide +kernel

/-- That record with SERIAL, and a state whose last launch of queue 5 has not completed. -/
def serialNum : Nat := recNum + 2 ^ 427
def serialised : State :=
  let s := queued launchNum serialNum
  s.setLaunch 0 { s.launch 0 with queue := 5 }

/-- What has been read of a launch with this record. -/
def got (x : Nat) : Reads := ⟨x, none, none⟩

/-- The state after a child's record has been read. -/
def recordRead (det : Bool) : State × Got Nat :=
  let s := ((launching det).setReads lane0 none).releaseAction lane0 .dev
  s.readVa lane0 s.nextAcc false .load 0x2400 64

/-- It, with nothing kept. -/
def recorded1 (det : Bool) : State := (recordRead det).1.setReads lane0 none

theorem launching_at (b : Bool) : Executes (launching b) lane0 (.launch hd 2 0) ∧ Still (launching b) lane0 ∧
    (launching b).park lane0 = .run ∧
    (launching b).tiles = [] ∧ (recordRead b).2 = .ok recNum ∧ (recordRead b).1.park lane0 = .run ∧
    (recordRead b).1.launchOf lane0 = (launching b).launchOf lane0 ∧
    { (recordRead b).1.team 0 with sig := 0 } =
      { (((launching b).setReads lane0 none).releaseAction lane0 .dev).team 0 with sig := 0 } ∧
    (recordRead b).1.pc lane0 = (launching b).pc lane0 ∧ NoMeeting (recordRead b).1 lane0 ∧
    (recordRead b).1.accsOf lane0 = [] ∧ ((recordRead b).1.team 0).ckpt = none ∧ (recordRead b).1.pendingKids < 1024 ∧
    (recordRead b).1.nextLaunch ≠ ((recordRead b).1.team 0).launch ∧ (recordRead b).1.hbmBad = [] := by
  revert b; decide +kernel

theorem checks_at : Identity (queued launchNum) ∧ Memory.read (queued launchNum).hbm 0x2400 64 = recNum ∧
    (queued launchNum).checkLaunch 0 none (got (recNum + 2 ^ 31)) false 0 = .refuse 1 ∧
    (queued launchNum).checkLaunch 0 none (got (2 ^ 430 + 2 ^ 31)) false 0 = .missing (2 ^ 31) (got (2 ^ 430 + 2 ^ 31)) ∧
    (queued launchNum).frontRead 0 none (2 ^ 31) 64 = .missing (2 ^ 31) := by decide +kernel

theorem accepted_at (s : State) (x : Nat) (child : Bool) (h : Identity s)
    (hr : KDesc.sound (Memory.read s.hbm 0x2800 256) = true) (hx : Memory.read s.hbm 0x2800 256 = descNum)
    (he : x = recNum ∨ x = serialNum ∧ child = false) :
    s.checkLaunch 0 none (got x) child 0 = .ok ⟨LaunchRec.ofBytes x, KDesc.ofBytes 0x2800 descNum, none⟩ (got x) := by
  have e : (LaunchRec.ofBytes x).kdesc = 0x2800 := by rcases he with h | ⟨h, -⟩ <;> (rw [h]; decide +kernel)
  have hd : (LaunchRec.ofBytes x).draw = false := by rcases he with h | ⟨h, -⟩ <;> (rw [h]; decide +kernel)
  rw [got, check_identity s h x child none 0 hd (by omega) (by rw [e]; decide +kernel) (by rw [e]; exact hr)
    (by rw [e, hx]; decide +kernel) (by rw [e, hx]; decide +kernel)
    (by rw [e, hx]
        rcases he with h | ⟨h, hc⟩
        · rw [h]; cases child <;> decide +kernel
        · rw [h, hc]; decide +kernel), e, hx]

theorem descriptors_at : (Memory.read (queued launchNum).hbm 0x2800 256 = descNum ∧ KDesc.sound descNum = true) ∧
    (Memory.read serialised.hbm 0x2800 256 = descNum ∧ Identity serialised) ∧
    ∀ b, Memory.read (recorded1 b).hbm 0x2800 256 = descNum ∧ Identity (recorded1 b) := by decide +kernel

theorem sound_stamp (s : State) (h : s.hbmBad = []) (ctx : Nat) (k : Kid) : s.stampBad ctx k = none := by
  simp [State.stampBad, sound_unit s h]

/-- The packet at QRD holds a poisoned word. -/
def poisonedPacket : State := { queued launchNum with hbmBad := [0x400] }

theorem witness_QueuesParseAndLaunch :
    (∀ p ∈ [0, launchNum, 2 + 2 ^ 8 + 2 ^ 32 * 3 + 2 ^ 52 * 7, 3 + 2 ^ 32 * 7 + 2 ^ 64 * 9],
      (queued p).frontRead 0 none 0x2000 64 = .ok p) ∧
    (queued launchNum).frontRead 0 none 0x2400 64 = .ok recNum ∧
    (∃ kid, (queued launchNum).checkLaunch 0 none (got recNum) false 0 = .ok kid (got recNum) ∧
      (queued launchNum).stampBad 0 kid = none) ∧
    packetBad (2 + 2 ^ 8 + 2 ^ 32 * 3 + 2 ^ 52 * 7) = false ∧
    bitf recNum 424 8 / 8 % 2 = 0 ∧ (queued launchNum).lastDone 5 = true ∧ bitf recNum 448 16 ≤ 4095 ∧
    ((∃ kid, serialised.checkLaunch 0 none (got serialNum) false 0 = .ok kid (got serialNum)) ∧
      bitf serialNum 424 8 / 8 % 2 = 1 ∧ serialised.lastDone 5 = false) ∧
    (queued 0 (f := fun k => { k with hold := [(0, 1)] })).unitRead 0 0x2C00 4 = 0 ∧
    (∀ b, Executes (launching b) lane0 (.launch hd 2 0) ∧ (recordRead b).2 = .ok recNum ∧
      ∃ kid, (recorded1 b).checkLaunch 0 none (got recNum) true 0 = .ok kid (got recNum) ∧
        (recordRead b).1.stampBad 0 kid = none) ∧
    (poisonedPacket.frontRead 0 none 0x2000 64 = .poison 0x2000 ∧ (poisonedPacket.queue 5).wait = none ∧
      (poisonedPacket.queue 5).hold = [] ∧ (poisonedPacket.queue 5).pkt = none ∧ (poisonedPacket.queue 5).en = true) := by
  have hd := descriptors_at
  refine ⟨fun p hp => ?_, ?_, ⟨_, accepted_at _ _ false checks_at.1 (by rw [hd.1.1]; exact hd.1.2) hd.1.1 (.inl rfl), sound_stamp _ checks_at.1.2.2.2.2.2 _ _⟩,
    by decide +kernel, by decide +kernel, by decide +kernel, by decide +kernel,
    ⟨⟨_, accepted_at _ _ false hd.2.1.2 (by rw [hd.2.1.1]; exact hd.1.2) hd.2.1.1 (.inr ⟨rfl, rfl⟩)⟩, by decide +kernel,
      by decide +kernel⟩,
    by decide +kernel, fun b => ⟨(launching_at b).1, (launching_at b).2.2.2.2.1,
      _, accepted_at _ _ true (hd.2.2 b).2 (by rw [(hd.2.2 b).1]; exact hd.1.2) (hd.2.2 b).1 (.inl rfl),
        sound_stamp _ (launching_at b).2.2.2.2.2.2.2.2.2.2.2.2.2.2 _ _⟩, by decide +kernel⟩
  · obtain ⟨-, -, -, -, -, -, -, -, -, -, hi, hr⟩ := parsing_at p hp
    rw [front_identity _ hi none 0x2000 64 (by decide) (by decide) (by decide), hr]
  · rw [front_identity _ checks_at.1 none 0x2400 64 (by decide) (by decide) (by decide), checks_at.2.1]

theorem test_launch_align : ((after (.launch hd 2 0) (regs [(0, 32)])).trapOf lane0).cause = 9 ∧
    ((go (exec (.queueEnable 5) base)).queue 5).en = true := by decide +kernel

/-! ## Admission, completion and pre-emption -/

/-- A launch of one compute team is to be admitted, and class 0 has room; nothing is resident. -/
def admitting (f : Launch → Launch := id) : State :=
  { base with
    teams := [], launches := [(0, f { wordLaunch with next := 0 })], nextUid := 7,
    quotas := [(0, [(0, 64), (1, 512), (2, 512)])] }

/-- Team 2 of that launch has been saved. -/
def savedTeam : State :=
  (admitting fun k => { k with next := 1 }).setTeam 2 { (base.team 0) with stat := .saved }

/-- Its image is of another version, which is refused. -/
def refused : State := savedTeam.setTeam 2 { savedTeam.team 2 with image := some ⟨2, 16, 8, 0, false⟩ }

/-- A word of the saved scratchpad of the halting team is poisoned. -/
def poisonedImage : State := onTeam fun t => { t with stat := .halting, bad := [(false, 3)] }

/-- A launch that ended in error, whose child has not completed. -/
def erred : State :=
  let s := admitting fun k => { k with ended := true }
  s.setLaunch 1 { wordLaunch with parent := some 0 }

/-- The team of `base` is halting, with an access on its way or not. -/
def halting (acc : Bool) : State :=
  onTeam (fun t => { t with stat := .halting }) (if acc then withAcc storeSp else base)

theorem witness_AdmissionCompletionAndPreemption :
    ((admitting).launches = [(0, (admitting).launch 0)] ∧ (admitting).teams = [] ∧ (admitting).admits ((admitting).launch 0) = true ∧
      ((admitting).launch 0).redo = [] ∧ ((admitting).launch 0).next < ((admitting).launch 0).lr.grid ∧
      ((admitting).teamFits 0 5).isSome = true ∧ ((admitting).unitBad 0 wordKernel.coefAddr 8192) = none) ∧
    (base.refusedImage = none ∧ base.saved? 5 = [] ∧ base.ready? 5 = [] ∧ ((admitting).ready? 5).length = 1) ∧ ((admitting).choose [(0, []), (1, [])]).isSome = true ∧
    (refused.refusedImage.map (fun e => e.1)) = some 2 ∧
    (savedTeam.refusedImage = none ∧ (savedTeam.saved? 5).map (fun e => e.1) = [2] ∧
      ∀ g ∈ (savedTeam.team 2).groups, ∀ x ∈ g.2.threads, x.2.park = .run) ∧
    (((admitting).launch 0).complete = false ∧ (admitting).workOver 0 = false ∧ ((admitting).launch 0).ended = false) ∧
    ((erred.launch 0).complete = false ∧ (erred.launch 0).ended = true ∧ erred.kidsOver 0 = false ∧
      ∀ x ∈ erred.teams, x.2.launch = 0 → erred.released? x.1 = true) ∧
    ((drawing).workOver 0 = true ∧ (drawing).kidsOver 0 = true ∧ ((drawing).launch 0).complete = false ∧
      ((drawing).launch 0).lr.passend = false ∧ ∀ c ∈ (drawing).cores, ∀ r ∈ c.2.ring, ¬ (r.2.busy = true ∧ r.2.launch = 0)) ∧
    ((akeys base.teams).Nodup ∧ (base.team 0).stat = .running ∧ base.released? 0 = false) ∧
    ((poisonedImage.team 0).stat = .halting ∧ poisonedImage.metAll 0 = true ∧ poisonedImage.imageBad 0 = some (.scr 0 false 12)) ∧
    (erred.hbmBad = [] ∧ (drawing).hbmBad = []) ∧
    ∀ b, ((halting b).team 0).stat = .halting ∧ (halting b).metAll 0 = !b ∧ (halting b).imageBad 0 = none := by decide +kernel

/-- An image's SCRATCH has the limit of Table 3-4, which depends on SPANS (R274). -/
theorem test_image_scratch : (⟨1, 16, 8, 393216, false⟩ : ImageHead).refused = false ∧
    (⟨1, 16, 8, 393217, false⟩ : ImageHead).refused = true ∧ (⟨1, 16, 8, 786432, true⟩ : ImageHead).refused = false := by decide

theorem test_admission : ((go (exec (.teamAdmission 5) (admitting))).team 7).core = 5 ∧
    ((go (exec (.teamAdmission 5) savedTeam)).team 2).stat = .running := by decide +kernel

theorem test_preempt : ((go (exec (.preemptSet 0) base)).team 0).stat = .halting ∧
    ((go (exec (.launchCompletion 0) (drawing))).launch 0).complete = true := by decide +kernel

/-! ## Deterministic commit, replay and recovery -/

/-- A deterministic launch whose team 0 has ended with these writes held; team 3 of the launch is speculative too. -/
def committing (hs : List Held) (ended : Bool := true) : State :=
  let s := onTeam (fun t => { t with held := hs }) (onLaunch fun k =>
    { k with lr := { k.lr with det := true, grid := 2 }, next := 2, keys := [4, 9] })
  let s := s.setTeam 3 { s.team 0 with teamid := 1, held := [], sig := 1 }
  if ended then onGrp (fun g => { g with threads := g.threads.map (fun e => (e.1, { e.2 with exited := true })) }) s else s

/-- A write of 7 to word 0 of HBM; an addition there that returned 5. -/
def heldWrite : Held := ⟨.hbm 0, 4, .write, 7, none, 0, true⟩
def heldAdd : Held := ⟨.hbm 0, 4, .upd .add, 7, some 5, 0, false⟩

/-- Writes to 1,024 lines. -/
def manyWrites : List Held := (List.range 1024).map (fun k => ⟨.hbm (64 * k), 4, .write, 1, none, k, true⟩)

theorem foldl_fresh (l acc : List Nat) (h : (acc ++ l).Nodup) :
    l.foldl (fun ls x => if ls.contains x then ls else ls ++ [x]) acc = acc ++ l := by
  induction l generalizing acc with
  | nil => simp
  | cons x l ih =>
    have hx : x ∉ acc := by
      intro hm
      exact (List.nodup_append.mp h).2.2 x hm x (by simp) rfl
    rw [List.foldl_cons, if_neg (by simpa using hx), ih _ (by simpa using h)]; simp

theorem lines_of_many : (heldLines manyWrites).length = 1024 := by
  have e : (manyWrites.filterMap (fun h => h.loc.lineNo)) = List.range 1024 := by
    simp [manyWrites, List.filterMap_map, Loc.lineNo]
  rw [heldLines, e, foldl_fresh _ _ (by simpa using List.nodup_range)]; simp

theorem check_writes (hs : List Held) (h : ∀ x ∈ hs, x.ret = none) (s : State) : s.commitCheck hs = true := by
  induction hs generalizing s with
  | nil => rfl
  | cons x t ih =>
    simp only [State.commitCheck, h x (by simp), Bool.true_and]
    exact ih (fun y hy => h y (List.mem_cons_of_mem _ hy)) _

theorem poison_writes (hs : List Held) (h : ∀ x ∈ hs, x.op = .write) (s : State) : s.heldPoison hs = none := by
  simp only [State.heldPoison, List.find?_eq_none]
  intro x hx
  simp [h x hx]

/-- What a lane saved for its check: 1 in V0 and 2 in V1. -/
def savedLane : Thread := { base.thr 0 0 1 with regs := [(0, 1), (1, 2)] }

/-- An entry of core 0's replay queue 2 for an addition of V0 and V1, whose lane 1 is next, with the result that was written. -/
def checking (x : Word) : State :=
  onLaunch (fun k => { k with lr := { k.lr with idem := true } }) (onCore fun c => { c with
    rq := [(2, [⟨0, 0, 12, .iadd hw 2 0 1 .wrap false, [(1, savedLane, 0, [x], .zero), (2, savedLane, 0, [3], .zero)], [1, 2]⟩])] })

/-- Team 0, of the mesh stage, has finished; it has read what its draw's task team has since written. -/
def staleMesh : State := onTeam (fun t => { t with stage := .mesh, stale := true }) (committing [heldWrite])

/-- The team has been killed, with a checkpoint or not, in an idempotent launch with room on core 5. -/
def killed (ck : Bool) : State :=
  let c : Ckpt := ⟨true, (base.team 0).groups, [], [], 0, [], [], none, none, [], [], 0, 0⟩
  { onTeam (fun t => { t with stat := .killed 2 0x41 0 0 0 0, ckpt := if ck then some c else none })
      (onLaunch fun k => { k with lr := { k.lr with idem := true } }) with
    quotas := [(0, [(0, 64), (1, 512), (2, 512)])] }

/-- It, killed while its queue is pre-empted. -/
def killedPreempted : State := let s := killed false; s.setQueue 0 { s.queue 0 with preempt := true }

/-- Team 0, of the mesh stage, has been aborted; its slot is in core 0's ring. -/
def aborted : State :=
  onTeam (fun t => { t with stage := .mesh, stat := .aborted })
    (onCore fun c => { c with ring := [(0, ⟨true, 0, 0, 0, 1, 0, 1, 0⟩)] })

theorem witness_CommitReplayAndRecovery :
    (∀ hs ∈ [[heldWrite], [heldAdd]], let s := committing hs
      let s0 := s.flushHeld 0 hs
      (s.launch 0).lr.det = true ∧ (s.launch 0).ended = false ∧ (s.launch 0).complete = false ∧
        (s.launch 0).nextCommit = some 0 ∧ (s.team 0).ofGrid = true ∧ s.mayCommit 0 = true ∧ s.finishedTeam 0 = true ∧
        (s.launch 0).hasCommitted (s.team 0) = false ∧ (∀ v ∈ s.teams, v.1 ≠ 0 → s.finishedTeam v.1 = true → s.mayCommit v.1 = false) ∧
        s0.heldPoison hs = none ∧
        s0.commitCheck hs = decide (hs = [heldWrite]) ∧ (s.team 0).kids = [] ∧ (akeys s.teams).Nodup ∧
        s.speculative 3 = true ∧ (s.launch 0).hasCommitted (s.team 3) = false ∧ s.dead 3 = false ∧ heldWrite.loc.sigBit.isSome = true) ∧
    ((committing [heldWrite]).launch 0).meshTotal ≤ ((committing [heldWrite]).launch 0).passed.length ∧
    (committing [heldWrite]).pixelWork 0 = [] ∧
    (∀ v ∈ (committing [heldWrite] false).teams, (committing [heldWrite] false).finishedTeam v.1 = false) ∧ present (.hbm 0) 4 ∧ Canonical ((committing [heldWrite]).flushHeld 0 [heldWrite]) ∧
    (let s := committing manyWrites false
     (s.team 0).stat = .running ∧ s.speculative 0 = true ∧ (s.launch 0).hasCommitted (s.team 0) = false ∧ s.mayCommit 0 = true ∧
      (heldLines manyWrites).length ≥ 1024 ∧ ((s.flushHeld 0 manyWrites).heldPoison manyWrites = none) ∧
      (s.flushHeld 0 manyWrites).commitCheck manyWrites = true ∧ (s.team 0).kids = []) ∧
    (∀ x ∈ [3, 4], let s := checking (BitVec.ofNat 32 x)
      (s.team 0).stat = .running ∧
        (s.team 0).recov < 3 ∧ s.speculative 0 = false ∧ (s.team 0).ckpt = none ∧ (s.launch (s.team 0).launch).lr.idem = true) ∧
    (((killed true).team 0).ckpt.isSome = true ∧ (killed true).recovering 0 = true ∧ (killed true).preempted 0 = false ∧
      ∀ g ∈ (base.team 0).groups, (∀ x ∈ g.2.threads, x.2.park = .run) ∧ (akeys g.2.threads).Nodup) ∧
    ((killed false).recovering 0 = true ∧ ((killed false).team 0).ckpt = none ∧ (killed false).mayStand ((killed false).team 0) 5 = true ∧ (killed false).preempted 0 = false ∧
      (let off := (killed false).removeTeam 0
       off.fits 0 wordKernel .compute 5 [[5]] (off.image 0 wordKernel)).isSome = true) ∧
    ((aborted.team 0).stat = .aborted ∧ (aborted.launch 0).ended = false ∧ aborted.mayStand (aborted.team 0) 0 = true ∧
      aborted.preempted 0 = false ∧ aborted.hasSaved 0 = false) ∧
    ((killed false).hasSaved 0 = false ∧ (killedPreempted.preempted 0 = true ∧ (killedPreempted.team 0).stat ≠ .aborted ∧
      killedPreempted.recovering 0 = true ∧ (killedPreempted.team 0).ckpt = none)) ∧
    ((staleMesh.launch 0).lr.det = true ∧ (staleMesh.team 0).stage = .mesh ∧ (staleMesh.team 0).stale = true ∧
      (staleMesh.launch 0).hasCommitted (staleMesh.team 0) = false ∧ staleMesh.finishedTeam 0 = true ∧ staleMesh.mayCommit 0 = true ∧
      ∀ v ∈ staleMesh.teams, v.1 ≠ 0 → staleMesh.finishedTeam v.1 = false) ∧
    ((replayOf (.iadd hw 2 0 1 .wrap false)).isSome = true ∧
      (checking 3).laneResult 0 0 1 savedLane 0 12 (.iadd hw 2 0 1 .wrap false) = ([3], .zero) ∧
      (checking 4).laneResult 0 0 1 savedLane 0 12 (.iadd hw 2 0 1 .wrap false) = ([3], .zero)) ∧
    ∀ x, ∃ e, (aget [] ((checking x).core 0).rq 2)[0]? = some e ∧ e.unchecked = [1, 2] ∧
      e.lanes.find? (fun y => y.1 == 1) = some (1, savedLane, 0, [x], .zero) := by
  have hw : ∀ x ∈ manyWrites, x.op = .write ∧ x.ret = none := by
    intro x hx
    simp only [manyWrites, List.mem_map] at hx
    obtain ⟨k, -, rfl⟩ := hx
    exact ⟨rfl, rfl⟩
  refine ⟨?_, ?_, ?_, ?_, ?_, canonical_of _ ?_ ?_, ⟨rfl, rfl, rfl, by decide +kernel, by rw [lines_of_many],
    poison_writes _ (fun x hx => (hw x hx).1) _, check_writes _ (fun x hx => (hw x hx).2) _, rfl⟩, ?_, ?_, ?_, ?_, ?_, ?_, ?_, fun x => ⟨_, rfl, rfl, rfl⟩⟩
  all_goals first | decide +kernel | (unfold present; decide +kernel)

theorem test_commit_writes : (go (exec (.detCommit 0) (committing [heldWrite]))).hbm = [(0, 7)] ∧
    ((go (exec (.detCommit 0) (committing [heldAdd]))).launch 0).committed = [] := by decide +kernel

theorem test_replay_kills : ((go (exec (.replayCheck 0 2 0) (checking 4))).team 0).stat = .killed 2 0x41 12 1 0 0 ∧
    ((go (exec (.replayCheck 0 2 0) (checking 3))).core 0).rq.map (fun e => e.2.map (fun x => x.unchecked)) = [[[2]]] ∧
    ((go (exec (.escrowRollback 0) (killed true))).team 0).stat = .running := by decide +kernel

/-! ## Management, power, reset and identity -/

/-- Both dies run from reset with P2 or P3 asked for; `idle` with nothing at work, `busy` with a tile filled. -/
def askedFor (p : Nat) : State := { State.reset with mgmt := { Mgmt.start with boot := 1, pwrReq := BitVec.ofNat _ p } }
def busyTile (p : Nat) : State :=
  { askedFor p with teams := base.teams, launches := base.launches }

/-- P3 is asked for in P2, with a received chunk still to be applied. -/
def pendingChunk : State :=
  { askedFor 3 with
    mgmt := { Mgmt.start with boot := 1, pwrReq := 3, pwrCur := 2 },
    ports := [(0, { Port.start with pending := [(⟨9, none, []⟩, 0, 0)] })] }

/-- An image with a wrong magic; a firmware in use. -/
def badImage : FwImage := ⟨0, [], [], [], 0, true⟩
def booted : State := { base with dbg := { base.dbg with firmware := some badImage } }

theorem idle_asked (p : Nat) : let s := askedFor p
    ¬ ((∃ q ∈ s.queues, q.2.pkt ≠ none) ∨ (∃ t ∈ s.teams, s.leases t.1 = true) ∨ s.tiles ≠ [] ∨ (∃ p ∈ s.ports, p.2.unacked ≠ [] ∨ p.2.pending ≠ []) ∨
      ∃ c ∈ s.cores, c.2.rays ≠ [] ∨ ∃ e ∈ c.2.slots, ∀ st, e.2.stat ≠ .finished st) := by
  simp [askedFor, State.reset]

theorem witness_HostRegistersPowerAndReset :
    (∀ p ∈ [2, 3], (askedFor p).mgmt.pwrCur.toNat < (askedFor p).mgmt.pwrReq.toNat ∧ 2 ≤ (askedFor p).mgmt.pwrReq.toNat ∧
      (∃ t ∈ (busyTile p).teams, (busyTile p).leases t.1 = true) ∧
      (askedFor p).mgmt.pwrReq = (BitVec.ofNat _ p)) ∧
    (let s := askedFor 2
     ¬ ((∃ q ∈ s.queues, q.2.pkt ≠ none) ∨ (∃ t ∈ s.teams, s.leases t.1 = true) ∨ s.tiles ≠ [] ∨ (∃ p ∈ s.ports, p.2.unacked ≠ [] ∨ p.2.pending ≠ []) ∨
      ∃ c ∈ s.cores, c.2.rays ≠ [] ∨ ∃ e ∈ c.2.slots, ∀ st, e.2.stat ≠ .finished st)) ∧
    ((∃ p ∈ pendingChunk.ports, p.2.pending ≠ []) ∧ pendingChunk.mgmt.pwrCur = 2 ∧ pendingChunk.mgmt.pwrReq = 3) ∧
    (base.mgmt.pwrCur ≠ 3 ∧ State.reset.mgmt.boot ≠ 1 ∧ State.reset.mgmt.pwrCur ≠ 3) ∧
    (booted.dbg.firmware = some badImage ∧ (List.replicate 32 (0 : Byte)).length = 32 ∧ booted.mgmt.boot = 1 ∧
      booted.dbg.dumped = false) := by
  refine ⟨?_, idle_asked 2, ?_, ?_, ?_⟩ <;> decide +kernel

/-- A chunk received is not yet applied: power stays, and it is removed only once that chunk has gone (R424). -/
theorem test_power_p3_from_p2 : (go (exec .retentionEntry pendingChunk)).mgmt.pwrCur = 2 ∧
    (go (exec .retentionEntry { pendingChunk with ports := [] })).mgmt.pwrCur = 3 := by decide +kernel

/-- A 64-bit write over a register and a hole is refused (R415); ATTEST keeps what is written (log entry 94). -/
theorem test_wide_write_refused : (go (exec (.managementWrite 0x40 true 0) base)).mgmt.refused = true ∧
    (go (exec (.managementWrite 0x1038 true 5) base)).mgmt.attestReg = 5 := by decide +kernel

theorem test_power_cap : (go (exec (.managementWrite 0x18 false 1200) base)).mgmt.pwrCap = 1200 ∧
    (go (exec (.managementWrite 0x18 false 1199) base)).mgmt.refused = true := by decide +kernel

theorem test_queue_size : ((go (exec (.managementWrite 0x100048 false 65536) base)).queue 1).size = 65536 ∧
    ((go (exec (.managementWrite 0x100048 false 65537) base)).queue 1).size = 16 := by decide +kernel

theorem test_power_p2_waits : (go (exec .powerRequestP2 base)).mgmt.pwrCur = 0 ∧
    (go (exec .retentionEntry (busyTile 2))).mgmt.pwrCur = 0 ∧
    (go (exec .retentionEntry (askedFor 2))).mgmt.pwrCur = 2 := by decide +kernel

theorem test_image_refused : (go (exec (.reset badImage) base)).mgmt.boot = 0 ∧
    (go (exec (.reset badImage) base)).teams = [] := by decide +kernel

/-! ## The time line and the network -/

/-- STOPTICK is armed for the present tick. -/
def stopping : State :=
  { base with tick := 5, mgmt := { base.mgmt with stopTick := 5 }, dbg := { base.dbg with stopArmed := true } }

/-- TSCTL enables samples each 2^12 ticks, at a sample tick, with room for n records. -/
def sampling (n : DWord) : State :=
  { base with tick := 4096, mgmt := { base.mgmt with tsCtl := 0xC01, tsBase := 0x10000, tsLen := n } }

/-- Port 0 is up at tick t, with the rest as given. -/
def onPort (t : Nat) (f : Port → Port := fun p => p) (s : State := base) : State :=
  { s with tick := t, ports := [(0, f { Port.start with enable := true, up := true })] }

/-- A chunk of four bytes for vault 0 of the part, which keeps 4 units, and context 0's right to write there. -/
def flit0 : ChunkFlit := ⟨9, none, [(2 ^ 62, [1, 2, 3, 4])]⟩
def openVault (s : State) : State := { s with mgmt := { s.mgmt with vsplit := [(0, 4)] }, ctxs := [(0, { s.ctx 0 with vwrite := 1 })] }

/-- A chunk of core 0's slot 0 sent on port 0 with sequence number 9. -/
def chunkNet : SentChunk := ⟨0, 0, 64, false, [], some (0, 9)⟩
def acking : State := onPort 0 (s := onCore
  (fun c => { c with slots := [(0, { slot0 (copyJob 1 1) 1 [chunkNet] with job := { copyJob 1 1 with f := { copyF with bar := none, arv := false, exp := false } } })] }) baseCtx)

theorem witness_TimeLineAndNetwork :
    (stopping.dbg.stopArmed = true ∧ stopping.mgmt.stopTick.toNat = stopping.tick ∧ stopping.mgmt.boot = 1 ∧
      stopping.dbg.frozen = false ∧ stopping.mgmt.pwrCur.toNat < 3) ∧
    (∀ n ∈ [8191, 8192, 16383, 16384], let s := sampling (BitVec.ofNat 64 n)
      s.mgmt.tsCtl.getLsbD 0 = true ∧ s.mgmt.tsCtl.getLsbD 1 = false ∧ 10 ≤ tsK s.mgmt.tsCtl ∧ tsK s.mgmt.tsCtl ≤ 24 ∧
        s.tick % 2 ^ tsK s.mgmt.tsCtl = 0 ∧ s.dbg.latched ≠ some s.tick ∧ s.dbg.samples = 0 ∧
        s.mgmt.tsLen.toNat = n) ∧
    Canonical (sampling 16384) ∧ 0x10000 + 16384 ≤ hbmSize ∧
    (∀ t ∈ [23999, 24000, 191999, 192000], let p := (onPort t).port 0
      p.enable = true ∧ p.up = true ∧ p.lastBeat = 0 ∧ p.lastRx = 0 ∧ p.down = false ∧
        (akeys (onPort t).cores).Nodup ∧
        ∀ c ∈ (onPort t).cores, (akeys c.2.slots).Nodup) ∧
    (flit0.seq ∈ ((onPort 0 (fun p => { p with rxSeen := [9] })).port 0).rxSeen ∧
      flit0.seq ∉ ((onPort 0).port 0).rxSeen ∧ (∀ x ∈ ((onPort 0).port 0).pending, x.1.seq ≠ flit0.seq)) ∧
    (openVault (onPort 0)).peerSpots (ChunkFlit.portOp flit0) flit0.elems = .ok [Held.of (.vault 0) 4 .write 0x04030201] ∧
    (openVault (onPort 0)).poisoned (.vault 0) 4 = false ∧
    (onPort 0).peerSpots (ChunkFlit.portOp flit0) flit0.elems = .error none ∧
    (∃ c, acking.netChunk 0 9 = some (0, 0, c, chunkNet) ∧ (acking.core 0).slots = [(0, c)] ∧ c.sent = [chunkNet] ∧
      c.stat = .sending ∧ c.next < c.job.chunks ∧ c.job.f.bar = none ∧ c.owned = true) ∧
    (∀ x, (acking.bctx 0 x).park = .run) ∧
    (∀ t ∈ [47999, 48000], ((onPort t (fun p => { p with unacked := [(flit0, 0, 0, 0)] })).port 0).unacked =
      [(flit0, 0, 0, 0)]) := by
  refine ⟨?_, ?_, canonical_of _ ?_ ?_, ?_, ?_, ?_, ?_, ?_, ?_, ⟨_, rfl, rfl, rfl, rfl, ?_, rfl, rfl⟩, ?_, ?_⟩
  case refine_12 =>
    exact fun x => listed_all BCtx.free (acking.core 0).ctxs (fun _ c => c.park = .run) (fun _ => rfl) (by decide +kernel) x
  all_goals decide +kernel

theorem test_clocks_stop : (go (step stopping)).dbg.frozen = true ∧ (go (step stopping)).tick = 5 := by decide +kernel

theorem test_heartbeat : ((go (exec (.heartbeatSend 0) (onPort 24000))).port 0).heartbeats = 1 ∧
    ((go (exec (.heartbeatSend 0) (onPort 23999))).port 0).heartbeats = 0 := by decide +kernel

theorem test_port_down : ((go (exec (.portDown 0) (onPort 192000))).port 0).down = true ∧
    ((go (exec (.portDown 0) (onPort 191999))).port 0).down = false := by decide +kernel

theorem test_chunk_received : (go (exec (.peerChunkReceive 0 flit0) (openVault (onPort 0)))).vault =
    [(0, 1), (1, 2), (2, 3), (3, 4)] := by decide +kernel

/-! ## Words -/

/-- A word from its fields EXT, MOD, C, B, A, D, W and OP, always, without hints (Table 2-2). -/
def word (ext : BitVec 32) (mod : BitVec 5) (c b a d : BitVec 9) (w : BitVec 1) (op : BitVec 8) : BitVec 96 :=
  ext ++ mod ++ c ++ b ++ a ++ d ++ 0#2 ++ 0#4 ++ 0#1 ++ 0#3 ++ 15#4 ++ w ++ op

/-- Does the word decode to the instruction? -/
def reads (w : BitVec 96) (i : Instr) : Bool :=
  match decode w with
  | .ok j => decide (j = i)
  | .error _ => false

/-- A word's bytes, the first lowest. -/
def bytesWord (l : List Nat) : BitVec 96 := BitVec.ofNat 96 (l.foldr (fun b n => b + 256 * n) 0)

theorem test_words_printed :
    (reads (bytesWord [0x0D, 0x1E, 0x80, 0x02, 0x06, 0xFE, 0xFF, 0x1F, 0x00, 0x10, 0x00, 0x00]) (.vote hd 5 6 1 .ballot) &&
     reads (bytesWord [0xC4, 0x1E, 0x80, 0xFF, 0xFF, 0xFF, 0xFF, 0x4F, 0x0A, 0x10, 0x00, 0x00])
       (.mma hd 1 .e4m3 false false true 1 false) &&
     reads (bytesWord [0xC8, 0x1E, 0x80, 0xFF, 0x08, 0x12, 0xFC, 0x0F, 0x01, 0x20, 0x19, 0x00])
       (.mdrst hd 8 9 2 .fadd .team true .sp true) &&
     reads (bytesWord [0xF0, 0x1E, 0x80, 0xFF, 0x03, 0xFE, 0xFF, 0x07, 0x21, 0x00, 0x00, 0x00]) (.trap hd 3 0x21) &&
     reads (bytesWord [0xF1, 0x1E, 0x80, 0xFF, 0xFF, 0xFF, 0xFF, 0x17, 0x00, 0x00, 0x00, 0x00]) (.trapretSupply hd)) = true := by
  decide +kernel

/-- The hints and the condition: KEEP 2, LA 5, YLD, GAP 3, ne. -/
theorem test_words_hints : reads (0#32 ++ 0#5 ++ 511#9 ++ 511#9 ++ 2#9 ++ 1#9 ++ 2#2 ++ 5#4 ++ 1#1 ++ 3#3 ++ 1#4 ++ 1#1 ++ 0x2D#8)
    (.mov ⟨.ne, true, 3, true, 5, 2⟩ 1 2 false) = true := by decide +kernel

theorem test_words_0 :
    (reads (word 0 0 511 511 511 511 0 0x00) (.nop hd) &&
     reads (word 5 0 511 511 511 511 0 0x01) (.bra hd 5) &&
     reads (word 0 0 511 511 7 511 0 0x02) (.brx hd 7) &&
     reads (word 0x00FFFFFF 0 511 511 511 3 0 0x03) (.call hd 3 (.disp 0xFFFFFF)) &&
     reads (word 0 1 511 511 4 3 0 0x03) (.call hd 3 (.reg 4)) &&
     reads (word 0 0 511 511 3 511 0 0x04) (.ret hd 3) &&
     reads (word 0 0 511 511 511 511 0 0x05) (.exit hd) &&
     reads (word 6 0 511 511 511 9 0 0x06) (.meetset hd 9 6) &&
     reads (word 0 0 511 511 511 511 0 0x07) (.meetrst hd none) &&
     reads (word 0 1 511 511 9 511 0 0x07) (.meetrst hd (some 9)) &&
     reads (word 1 0 511 511 511 511 0 0x08) (.mjoin hd 1) &&
     reads (word 11 0 511 511 511 511 0 0x09) (.mleave hd 11) &&
     reads (word 0 0 511 511 511 511 0 0x0A) (.mwait hd 0) &&
     reads (word 3 2 511 511 4 511 0 0x0B) (.mset hd 4 3 .andn) &&
     reads (word 0 1 511 511 511 4 0 0x0C) (.mget hd 4 0 .cnt) &&
     reads (word 0 0 511 511 4 511 0 0x0E) (.sleept hd 4) &&
     reads (word 15 0 511 511 4 511 0 0x0F) (.sleepp hd 4 15) &&
     reads (word 2 0 511 511 5 4 0 0x10) (.fork hd 4 5 2) &&
     reads (word 0 0 511 511 5 511 0 0x11) (.rdv hd 5)) = true := by decide +kernel

theorem test_words_1 :
    (reads (word 0x10000 1 511 4 2 0 1 0x20) (.iadd hw 0 2 4 .ci true) &&
     reads (word 0 3 511 4 2 0 0 0x21) (.isub hd 0 2 4 .satu false) &&
     reads (word 0 1 511 4 2 0 0 0x22) (.imul hd 0 2 4 true) &&
     reads (word 0 2 511 4 2 0 0 0x23) (.imulh hd 0 2 4 .sn32) &&
     reads (word 0 1 6 4 2 0 0 0x24) (.imad hd 0 2 4 6 .ws) &&
     reads (word 0x30000 1 511 4 2 0 0 0x25) (.iminmax hd 0 2 4 .max .n64) &&
     reads (word 0x69 0 6 4 2 0 0 0x26) (.bool hd 0 2 4 6 6 9) &&
     reads (word 0 5 6 4 2 0 0 0x27) (.shf hd 0 2 4 6 .fshl) &&
     reads (word 0 2 511 4 2 0 0 0x27) (.shf hd 0 2 4 vz .sar) &&
     reads (word 0 1 511 4 2 0 0 0x28) (.bfx hd 0 2 4 true) &&
     reads (word 0 0 6 4 2 0 0 0x29) (.bfi hd 0 2 4 6) &&
     reads (word 0 3 511 511 2 0 0 0x2A) (.bitc hd 0 2 .brev) &&
     reads (word 0 1 511 4 2 511 1 0x2B) (.icmp hw 2 4 true) &&
     reads (word 8 0 511 4 2 0 0 0x2C) (.sel hd 0 2 4 false .hi) &&
     reads (word 0 1 511 511 2 0 0 0x2D) (.mov hd 0 2 true) &&
     reads (word 0x80000001 1 511 511 511 0 0 0x2E) (.movi hd 0 0x80000001 true) &&
     reads (word 7 1 511 4 2 0 0 0x2F) (.lea hd 0 2 4 true 7) &&
     reads (word 0x053 0 511 511 511 0 0 0x30) (.srd hd 0 0x053) &&
     reads (word 0x052 0 511 511 2 511 0 0x31) (.swr hd 2 0x052) &&
     reads (word 0x1000 3 6 4 2 0 0 0x32) (.shfl hd 0 2 4 6 1 .xor) &&
     reads (word 0x2000 0 511 4 2 0 0 0x33) (.vcomp hd 0 2 4 2) &&
     reads (word 0xB000 0 511 4 2 0 0 0x34) (.vexp hd 0 2 4 11) &&
     reads (word 0x11000 4 511 511 2 0 0 0x35) (.iscan hd 0 2 1 .umax true) &&
     reads (word 0x1000 7 511 511 2 0 0 0x36) (.ired hd 0 2 1 .xor) &&
     reads (word 0 0 6 4 2 0 0 0x37) (.bysel hd 0 2 4 6)) = true := by decide +kernel

theorem test_words_2 :
    (reads (word 0x90000 0 511 4 2 0 0 0x40) (.fadd hd 0 2 4 true .rz) &&
     reads (word 0x20000 0 511 4 2 0 0 0x41) (.fmul hd 0 2 4 false .rp) &&
     reads (word 0x30000 0 6 4 2 0 0 0x42) (.ffma hd 0 2 4 6 false .rm) &&
     reads (word 0x20000 0 511 4 2 0 0 0x43) (.fminmax hd 0 2 4 .minn) &&
     reads (word 0 0 511 4 2 511 1 0x44) (.fcmp hw 2 4) &&
     reads (word 0x3FF 0 511 511 2 0 0 0x45) (.fclass hd 0 2 0x3FF) &&
     reads (word 0x40000 0 511 511 2 0 0 0x46) (.frnd hd 0 2 .rna) &&
     reads (word 0 0 511 4 2 0 0 0x47) (.fscale hd 0 2 4 .rn) &&
     reads (word 0x80000 0 511 4 2 0 0 0x48) (.dadd hd 0 2 4 true .rn) &&
     reads (word 0 0 511 4 2 0 0 0x49) (.dmul hd 0 2 4 false .rn) &&
     reads (word 0x10000 0 6 4 2 0 0 0x4A) (.dfma hd 0 2 4 6 false .rz) &&
     reads (word 0 0 511 4 2 511 1 0x4B) (.dcmp hw 2 4) &&
     reads (word 0 1 511 4 2 0 0 0x4C) (.hadd2 hd 0 2 4 .bf16 false .rn) &&
     reads (word 0x80000 0 511 4 2 0 0 0x4D) (.hmul2 hd 0 2 4 .f16 true .rn) &&
     reads (word 0 1 6 4 2 0 0 0x4E) (.hfma2 hd 0 2 4 6 .bf16 false .rn) &&
     reads (word 7 0 511 511 2 0 0 0x4F) (.sfn hd 0 2 7) &&
     reads (word 2 0 511 511 4 0 0 0x50) (.aconj hd 0 4 2) &&
     reads (word 0x10003 0 511 511 4 0 0 0x51) (.anorm hd 0 4 3 .rz) &&
     reads (word 0x200002 0 511 8 4 0 0 0x52) (.amul hd 0 4 8 2 true false .rn) &&
     reads (word 0x1003 0 511 511 2 0 0 0x53) (.fred hd 0 2 1 .add 3) &&
     reads (word 0x11000 1 511 511 2 0 0 0x54) (.fscan hd 0 2 1 .min 0 true)) = true := by decide +kernel

theorem test_words_3 :
    (reads (word 0x60D0000 0 511 511 2 0 0 0x60) (.cvt hd 0 2 .s32 .f32 true .sr) &&
     reads (word 0 1 511 4 2 0 0 0x61) (.cvth2 hd 0 2 4 .bf16 false .rn) &&
     reads (word 0x100000 3 511 4 8 0 0 0x62) (.cvtq8 hd 0 8 4 .s8 true false .rn) &&
     reads (word 0x80000 0 511 511 8 0 0 0x63) (.cvtq4 hd 0 8 vz false true .rn) &&
     reads (word 0x3F 5 511 511 2 0 0 0x64) (.cvtw hd 0 2 .f64s 63 false .rn) &&
     reads (word 0x100000 4 511 4 2 8 0 0x65) (.unpq hd 8 2 4 .e2m1 true false .rn) &&
     reads (word 0x1000 2 511 511 2 0 0 0x66) (.bscale hd 0 2 1 .e2m1) &&
     reads (word 0 0 511 511 2 511 0 0x67) (.srseed hd 2) &&
     reads (word 0x6080000 0 511 511 2 0 0 0x68) (.i2i hd 0 2 .s8 .s64 true)) = true := by decide +kernel

theorem test_words_4 :
    (reads (word 62 0 511 511 511 3 0 0x80) (.draw hd 3 62) &&
     reads (word 1 0 511 511 511 3 0 0x81) (.drawb hd 3 1) &&
     reads (word 2 0 511 4 511 3 0 0x82) (.drawi hd 3 4 2) &&
     reads (word 3 0 511 511 511 3 0 0x83) (.drawn hd 3 3) &&
     reads (word 4 0 511 511 511 3 0 0x84) (.drawt hd 3 4) &&
     reads (word 0 0 511 511 511 511 0 0x85) (.csetup hd .off) &&
     reads (word 0 2 511 511 4 511 0 0x85) (.csetup hd (.replay 4)) &&
     reads (word 3 0 511 6 4 511 0 0x86) (.cmut hd 4 6 3) &&
     reads (word 0 0 511 511 511 511 0 0x87) (.cmutclr hd) &&
     reads (word 3 0 511 511 4 511 0 0x88) (.cresult hd 4 3) &&
     reads (word 9 0 511 511 511 511 0 0x89) (.crestart hd 9) &&
     reads (word 2 0 511 5 4 3 1 0x8A) (.caccept hw 3 4 5 2) &&
     reads (word 1 0 511 511 4 3 1 0x8B) (.ccmp hw 3 4 1) &&
     reads (word 5 0 511 511 4 3 0 0x8C) (.cpeek hd 3 4 5) &&
     reads (word 0 0 511 511 4 511 0 0x8D) (.cseed hd 4)) = true := by decide +kernel

theorem test_words_5 :
    (reads (word 0xFFFFF218 1 511 511 10 9 0 0xA0) (.ld hd 9 10 ⟨0xFFFFF, .sp, .b, .acq, .dev, .normal⟩ true) &&
     reads (word 0x00014C1 0 511 10 9 511 0 0xA1) (.st hd 9 10 ⟨1, .psp, .d, .plain, .grp, .ef⟩) &&
     reads (word 0x742 0 511 511 10 8 0 0xA2) (.ldv hd 8 10 ⟨0, .vlt, .x4, .plain, .grp, .nl1⟩) &&
     reads (word 0xB24 0 511 8 10 511 0 0xA3) (.stv hd 10 8 ⟨0, .priv, .x2, .rel, .team, .normal⟩) &&
     !reads (word 0x850 0 511 511 10 9 0 0xA4) (.ldk hd 9 10 ⟨0, .karg, .h, .acq, .grp, .normal⟩ false) &&
     reads (word 0x840 1 511 511 10 9 0 0xA4) (.ldk hd 9 10 ⟨0, .karg, .h, .plain, .grp, .normal⟩ true) &&
     reads (word 0x000BC 13 511 11 10 9 0 0xA5) (.atom hd 9 10 11 ⟨0, .glob, .w, .ar, .sys, .normal⟩ .incw) &&
     reads (word 0x000C0 12 511 12 10 511 0 0xA6) (.red hd 10 12 ⟨0, .glob, .d, .plain, .grp, .normal⟩ .fxadd) &&
     reads (word 0x00C80 0 12 11 10 9 1 0xA7) (.cas hw 9 10 11 12 ⟨0, .hnc, .w, .plain, .grp, .normal⟩) &&
     reads (word 0x0000C 3 511 511 511 511 0 0xA8) (.fence hd .sc .sys) &&
     reads (word 0x02008 0 511 11 10 511 0 0xA9) (.icinv hd 10 11 2 .dev) &&
     reads (word 0x00A00 1 511 11 10 511 0 0xAA) (.cctl hd 10 11 true ⟨0, .priv, .b, .plain, .grp, .normal⟩) &&
     reads (word 0x00600 1 511 511 10 511 0 0xAB) (.pref hd 10 .vc ⟨0, .vlt, .b, .plain, .grp, .normal⟩)) = true := by
  decide +kernel

theorem test_words_6 :
    (reads (word 0x11003 0 511 511 4 511 0 0xC0) (.malg hd 4 1 true 3) &&
     reads (word 0x1002 11 6 5 4 511 0 0xC1) (.mwld hd 4 5 6 1 .e2m1 2) &&
     reads (word 0x1000 6 511 5 4 511 0 0xC1) (.mwld hd 4 5 vz 1 .f32 0) &&
     reads (word 0x1000 0 511 511 4 511 0 0xC2) (.mgath hd 4 1) &&
     reads (word 0x1000 0 511 511 4 511 0 0xC3) (.mscale hd 4 1) &&
     reads (word 0x1035 14 511 511 511 511 0 0xC4) (.mma hd 1 .s8 true true false 2 true) &&
     reads (word 0x1001 1 511 511 511 511 0 0xC5) (.mzero hd 1 .s32 true) &&
     reads (word 0x1000 0 511 511 32 511 0 0xC6) (.mldacc hd 32 1 .f32 false) &&
     reads (word 0x1001 0 511 511 511 32 0 0xC7) (.mdrain hd 32 1 true) &&
     reads (word 0x31000 6 511 5 4 511 0 0xC8) (.mdrst hd 4 5 1 .max .grp false .vlt false) &&
     reads (word 0x1000 1 511 511 511 4 1 0xC9) (.mstat hw 4 1 true)) = true := by decide +kernel

theorem test_words_7 :
    (reads (word 0x003B0571 0 511 6 4 3 0 0xE0) (.copy hd 3 4 6 ⟨false, true, .max, .f32, .dev, true, false, true, true, some 1⟩) &&
     reads (word 0 0 511 511 4 3 0 0xE1) (.cwait hd 3 4) &&
     reads (word 2 0 511 511 4 511 0 0xE2) (.binit hd 4 2) &&
     reads (word 0x1002 2 511 511 4 3 0 0xE3) (.barv hd 3 4 1 .expect 2) &&
     reads (word 3 0 511 511 4 3 1 0xE4) (.bwait hw 3 4 3) &&
     reads (word 4 1 511 511 511 2 0 0xE5) (.btest hd 2 true 4) &&
     reads (word 5 0 511 511 4 511 0 0xE6) (.bexpt hd 4 5) &&
     reads (word 0 0 511 511 511 511 0 0xE7) (.discard hd) &&
     reads (word 0 1 7 6 4 8 0 0xE8) (.samp hd 8 4 6 7 .bil) &&
     reads (word 0 0 511 511 4 511 0 0xE9) (.sampinv hd (some 4) false) &&
     reads (word 1 1 511 511 511 511 0 0xE9) (.sampinv hd none true) &&
     reads (word 0 0 511 16 8 3 0 0xEA) (.tbox hd 3 8 16) &&
     reads (word 0 2 511 16 8 3 0 0xEB) (.ttri hd 3 8 16 .cullf) &&
     reads (word 0x1002 1 6 5 4 511 0 0xEC) (.spush hd 4 5 6 1 true 2) &&
     reads (word 0x1000 0 6 5 511 4 0 0xED) (.spop hd 4 5 6 1) &&
     reads (word 0 1 22 16 8 2 0 0xEE) (.shray hd 2 8 16 22 true) &&
     reads (word 0 0 6 5 4 3 0 0xEF) (.emitPayload hd 3 4 5 6) &&
     reads (word 0 1 6 5 4 511 0 0xEF) (.emitVertex hd 4 5 6) &&
     reads (word 0 2 511 5 4 511 0 0xEF) (.emitPrim hd 4 5) &&
     reads (word 0 3 511 511 4 511 0 0xEF) (.emitColour hd 4) &&
     reads (word 0 0 511 511 511 511 0 0xF1) (.trapretRetry hd) &&
     reads (word 0 1 511 511 511 511 0 0xF1) (.trapretSkip hd) &&
     reads (word 0 3 511 511 511 511 0 0xF1) (.trapretAccept hd) &&
     reads (word 0 0 511 511 4 3 0 0xF2) (.launch hd 3 4) &&
     reads (word 0 0 511 5 4 511 0 0xF3) (.tlbinv hd (some (4, 5))) &&
     reads (word 0 1 511 511 511 511 0 0xF3) (.tlbinv hd none) &&
     reads (word 0xABC 0 511 511 511 511 0 0xF4) (.bkpt hd 0xABC)) = true := by decide +kernel

/-- Why a word is refused. -/
def refusedAs (w : BitVec 96) : Option DecodeErr :=
  match decode w with
  | .ok _ => none
  | .error e => some e

/-- Words that are no instruction, one for each cause of Table 2-8. -/
theorem test_words_refused :
    refusedAs (word 0 0 511 511 511 511 0 0x12) = some .unassignedOp ∧
    refusedAs (word 0 4 511 4 2 0 0 0x20) = some .modValue ∧ refusedAs (word 0x60000 0 511 4 2 0 0 0x40) = some .extValue ∧
    refusedAs (word 0x01000000 0 511 511 511 511 0 0x01) = some .reservedField ∧
    refusedAs (word 0 0 3 4 2 0 0 0x20) = some .unusedRegister ∧ refusedAs (word 0 0 511 4 2 511 0 0x2B) = some .wValue ∧
    refusedAs (word 0xC000 0 511 511 2 0 0 0x36) = some .maskNumber ∧
    refusedAs (0x1000#32 ++ 0#5 ++ 511#9 ++ 511#9 ++ 2#9 ++ 0#9 ++ 0#2 ++ 0#4 ++ 0#1 ++ 0#3 ++ 0#4 ++ 0#1 ++ 0x36#8) =
      some .collectiveCond := by decide +kernel

theorem witness_EncodedInstructionsDecodeToThemselves :
    (Instr.encoded (.iadd hw 1 2 3 .wrap false) = true ∧ Instr.wf (.iadd hw 1 2 3 .wrap false) = true) ∧
      Instr.encoded .stoptick = false := by decide

theorem witness_AcceptedWordsAreEncodings : decode (word 0 0 511 3 2 1 1 0x20) = .ok (.iadd hw 1 2 3 .wrap false) := rfl

/-! ## Ill-formed terms, one for each check of WellFormed -/

/-- Plain fields of a memory form. -/
def mf0 : MemF := ⟨0, .glob, .w, .plain, .grp, .normal⟩

/-- Command fields that are legal. -/
def cf0 : CopyF := ⟨false, false, .plain, .b, .grp, false, false, false, false, none⟩

/-- W where a form refuses it, or W missing where it must stand; a mask out of range; a collective under a condition. -/
theorem test_wf_w_and_masks :
    Instr.wf (.nop hw) = false ∧ Instr.wf (.icmp hd 1 2 false) = false ∧ Instr.wf (.sel hw 1 2 3 false .eq) = false ∧
    Instr.wf (.fcmp hd 1 2) = false ∧ Instr.wf (.dcmp hd 2 4) = false ∧ Instr.wf (.caccept hd 1 2 3 0) = false ∧
    Instr.wf (.mjoin hd 0) = false ∧ Instr.wf (.mset hd 1 12 .ld) = false ∧ Instr.wf (.mwait hd 12) = false ∧
    Instr.wf (.mget hd 1 13 .bits) = false ∧ Instr.wf (.vote hf 1 2 1 .all) = false ∧ Instr.wf (.ired hd 1 2 15 .add) = false ∧
    Instr.wf (.malg hf 2 1 true 0) = false ∧ Instr.wf (.mma hw 1 .f32 false false false 0 false) = false ∧
    Instr.wf (.btest hw 2 true 0) = false ∧ Instr.wf (.spush hd 1 2 3 12 false 0) = false := by decide

/-- An unused register or site, a rounding mode, a ductus, a scope without its release, an update of a wrong size. -/
theorem test_wf_operands :
    Instr.wf (.shf hd 1 2 3 4 .shl) = false ∧ Instr.wf (.cvtq8 hd 1 4 5 .e4m3 false false .rn) = false ∧
    Instr.wf (.unpq hd 4 1 vz .f16 false false .sr) = false ∧ Instr.wf (.mwld hd 1 2 3 1 .f32 0) = false ∧
    Instr.wf (.fadd hd 1 2 3 false .sr) = false ∧ Instr.wf (.hadd2 hd 1 2 3 .f16 false .sr) = false ∧
    Instr.wf (.amul hd 4 8 12 0 false false .sr) = false ∧ Instr.wf (.fred hd 1 2 1 .min 1) = false ∧
    Instr.wf (.draw hd 1 63) = false ∧ Instr.wf (.cpeek hd 1 2 63) = false ∧
    Instr.wf (.mdrst hd 1 2 1 .st .grp true .sp false) = false ∧ Instr.wf (.mdrst hd 1 2 1 .st .dev false .sp false) = false ∧
    Instr.wf (.atom hd 1 2 3 { mf0 with size := .d } .fadd) = false ∧ Instr.wf (.atom hd 1 2 4 mf0 .fxadd) = false := by decide

/-- Fields of the memory forms. -/
theorem test_wf_memory :
    Instr.wf (.ld hd 1 2 { mf0 with scope := .dev } false) = false ∧ Instr.wf (.ld hd 1 2 { mf0 with space := .karg } false) = false ∧
    Instr.wf (.ld hd 1 2 { mf0 with size := .x2 } false) = false ∧ Instr.wf (.ld hd 1 2 { mf0 with ord := .rel } false) = false ∧
    Instr.wf (.ld hd 1 2 mf0 true) = false ∧ Instr.wf (.st hd 1 2 { mf0 with ord := .acq }) = false ∧
    Instr.wf (.ldv hd 4 2 mf0) = false ∧ Instr.wf (.stv hd 2 4 mf0) = false ∧ Instr.wf (.ldk hd 1 2 mf0 false) = false ∧
    Instr.wf (.atom hd 1 2 3 { mf0 with hint := .ef } .add) = false ∧ Instr.wf (.red hd 2 3 mf0 .exch) = false ∧
    Instr.wf (.red hd 2 3 { mf0 with ord := .ar } .add) = false ∧ Instr.wf (.cas hd 1 2 3 4 { mf0 with size := .b }) = false ∧
    Instr.wf (.cctl hd 1 2 false { mf0 with size := .b, space := .sp }) = false ∧
    Instr.wf (.pref hd 1 .l1 { mf0 with size := .b, space := .sp }) = false := by decide

/-- Command fields of COPY. -/
theorem test_wf_copy :
    Instr.wf (.copy hd 1 2 4 { cf0 with arv := true }) = false ∧ Instr.wf (.copy hd 1 2 4 { cf0 with rel := true }) = false ∧
    Instr.wf (.copy hd 1 2 4 { cf0 with scope := .dev }) = false ∧ Instr.wf (.copy hd 1 2 4 { cf0 with rop := .add }) = false ∧
    Instr.wf (.copy hd 1 2 4 { cf0 with rop := .max, ety := .bf16 }) = false ∧ Instr.wf (.copy hd 1 2 4 cf0) = true := by decide

/-! ## The step -/

/-- The machine with a word where the next step fetches it; and the same with an empty slot there. -/
def placed (w : BitVec 96) : State := State.reset.withFetchWord 96 w.toNat
def placedEmpty : State :=
  let s := State.reset.withFetchWord 96 0
  s.setCore 0 { s.core 0 with icache := [(lineKey 0 0, 0)] }

/-- The state in which the turn's choice is made. -/
abbrev turnAt (s : State) : State := { s.markEligible with turns := [] }

/-- The conditions on a group's issue, for the listed lanes. -/
abbrev IssuesAll (s : State) : Prop :=
  (s.stopDue && s.clocked) = false ∧ s.turns = [.issue 0 0 0] ∧ s.clocked = true ∧ (turnAt s).chosen 0 0 0 = true ∧
    (let s1 := (turnAt s).clearYields ((turnAt s).grp 0 0).core ((turnAt s).grp 0 0).part 0
     s1.cohortOf 0 0 (s1.readyLanes 0 0) = List.range 16 ∧ (s1.grp 0 0).unkeyed = false) ∧
    ∀ l ∈ List.range 16, Still (turnAt s) (.thread 0 0 l) ∧ ((turnAt s).trapOf (.thread 0 0 l)).pend = [] ∧
      ((turnAt s).thr 0 0 l).boot = false ∧ (turnAt s).pc (.thread 0 0 l) = 0 ∧ (s.sampleDue && s.clocked) = false

/-- Core 0's bursar has the turn, its context 0 ready at an instruction. -/
def bursarTurn : State :=
  { baseCtx with turns := [.bursar 0] }

/-- The clocks have stopped. -/
def stopped : State := { base with dbg := { base.dbg with frozen := true } }

/-- The clocked machine with a device step, or a count of cycles, next. -/
def turning (t : Turn) : State := { base with turns := [t] }

theorem witness_StepRunsTheDecodedInstruction :
    (∀ k < 3, IssuesAll (if k = 0 then placed (word 0 0 511 3 2 1 1 0x20) else if k = 1 then placed 0 else placedEmpty)) ∧
    (let w := word 0 0 511 3 2 1 1 0x20
     let line := wordLine 96 w.toNat
     afind ((placed w).core 0).icache (lineKey 0 0) = some line ∧ (placed w).ctxNo 0 = 0 ∧ lineReserved line.word = false ∧ line.sound = true ∧
       lineValid line.word 0 = true ∧ reads (line.slot 0) (.iadd hw 1 2 3 .wrap false) = true ∧
       refusedAs ((wordLine 96 0).slot 0) = some .unusedRegister ∧ lineValid (Line.word 0) 0 = false) ∧
    (bursarTurn.clocked = true ∧ (turnAt bursarTurn).nextCtx 0 = some 0 ∧ Still (turnAt bursarTurn) ctx0 ∧
      ((turnAt bursarTurn).trapOf ctx0).pend = [] ∧
      (afind ((turnAt bursarTurn).core 0).icache (lineKey ((turnAt bursarTurn).ctxNo ((turnAt bursarTurn).uidOf ctx0)) 0)) =
        some (wordLine 96 0) ∧ (wordLine 96 0).sound = true ∧
      (turnAt bursarTurn).pc ctx0 = 0) ∧
    (((placed 0).team 0).held = [] ∧ (bursarTurn.team 0).held = [] ∧ (stopping.stopDue && stopping.clocked) = true ∧
      ((sampling 16384).stopDue && (sampling 16384).clocked) = false ∧ (sampling 16384).clocked = true ∧
      (Config.lifeCycle.val ≠ 3 → (sampling 16384).sampling = true ∧ (sampling 16384).sampleDue = true) ∧
      stopped.hostMay (.reset badImage) = true ∧
      stopped.clocked = false ∧ base.sampling = false) ∧
    ((turning (.event (.portDownClear 0))).clocked = true ∧ deviceStep (.portDownClear 0) = true ∧
      (turning (.pass 5)).dbg.stopArmed = false ∧ (turning (.pass 5)).stopDue = false ∧
      (turning (.hostStore (.hbm 64) 8 5)).stopDue = false) := by
  have h : Config.lifeCycle.val ≠ 3 → (sampling 16384).sampling = true ∧ (sampling 16384).sampleDue = true := by
    intro h
    have e : seriesOpen = true := by simpa [seriesOpen] using h
    have e2 : (sampling 16384).sampling = true := by simp only [State.sampling, e]; decide +kernel
    exact ⟨e2, by simp only [State.sampleDue, e2]; decide +kernel⟩
  refine ⟨?_, ?_, ?_, ⟨?_, ?_, ?_, ?_, ?_, h, ?_⟩, ?_⟩ <;> decide +kernel

theorem witness_EveryInstructionHasAnEffect : partsOk (.nop hd) = true ∧ partsOk (.portDownClear 12) = false := by decide

theorem witness_StepsKeepMemoryCanonical : Canonical (placed (word 7 0 511 511 511 0 0 0x2E)) ∧
    (match step (placed (word 7 0 511 511 511 0 0 0x2E)) with
     | .next _ => true
     | _ => false) = true := by
  refine ⟨canonical_of _ ?_ ?_, ?_⟩ <;> decide +kernel

theorem test_step_movi : let t := go (step (placed (word 7 0 511 511 511 0 0 0x2E)))
    t.reg lane0 0 = 7 ∧ t.pc lane0 = 12 ∧ t.tick = 1 := by decide +kernel

theorem test_step_no_instruction : let t := go (step (placed 0))
    (t.team 0).stat = .running ∧ (t.trapOf lane0).lvl = 1 ∧ (t.trapOf lane0).cause = 1 := by decide +kernel

/-- While the clocks are stopped memory is frozen (R407). -/
theorem test_host_store_stopped : (go (step { stopped with turns := [.hostStore (.hbm 64) 8 5] })).hbm = [] := by decide +kernel

theorem test_host_store : (go (step (turning (.hostStore (.hbm 64) 8 5)))).hbm = [(64, 5)] := by decide +kernel

/-- A dirty line of core 0's L1 whose replacement writes its bytes back (R172). -/
theorem test_evict_writes_back : let t := go (step { onCore (fun c => { c with l1 := [⟨1, 0x0705, 2, 0, 0, []⟩] }) with turns := [.evict (.line 0 1)] })
    t.hbm = [(65, 7)] ∧ (t.core 0).l1 = [] := by decide +kernel

end Sys2Proof.Tests
end

