-- ==== Sys2Proof/Proofs/HostRegisters.lean ====
section
/-! SUPPORT. What the host's side does (R378, R407, R410 to R415, R422 to R424): where each register lies, what a write of it
does, the power states, reset, tokens and reports; and with them the statement about the host's registers, power and reset. -/

namespace Sys2Proof.Machine

/-! ## The host's steps, each its own meaning -/

theorem exec_managementWrite (off : Nat) (wide : Bool) (v : DWord) (s : State) :
    exec (.managementWrite off wide v) s = execManagementWrite off wide v s := rfl
theorem exec_queueDoorbell (q : Nat) (wr : Word) (s : State) :
    exec (.queueDoorbell q wr) s = execQueueDoorbell q wr s := rfl
theorem exec_retentionEntry (s : State) : exec .retentionEntry s = execRetentionEntry s := rfl
theorem exec_reset (f : FwImage) (s : State) : exec (.reset f) s = execReset f s := rfl
theorem exec_firmwareImage (f : FwImage) (s : State) : exec (.firmwareImage f) s = execFirmwareImage f s := rfl
theorem exec_tokenSubmit (t : List Byte) (s : State) : exec (.tokenSubmit t) s = execTokenSubmit t s := rfl
theorem exec_attest (nonce : List Byte) (s : State) : exec (.attest nonce) s = execAttest nonce s := rfl

/-- A request for P0 or P1 wakes the device, one for P2 or P3 drains it (R424). -/
theorem exec_powerRequest_wake (p : BitVec 2) (h : p = 0 ∨ p = 1) (s : State) :
    exec (if p = 0 then .powerRequestP0 else .powerRequestP1) s = .next (s.wake p) := by
  obtain rfl | rfl := h <;> rfl
theorem exec_powerRequest_drain (p : BitVec 2) (h : p = 2 ∨ p = 3) (s : State) :
    exec (if p = 2 then .powerRequestP2 else .powerRequestP3) s = .next (s.drain p) := by
  obtain rfl | rfl := h <;> rfl

/-! ## Where the registers lie (Table 22-1, Table 24-1) -/

/-- The first page of the register space holds no 64-bit register. -/
theorem reg64_low {off : Nat} (h : off < 0x1000) : reg64 off = false := by
  simp [reg64]; omega

theorem reg32_vsplit {v : Nat} (hv : v < 48) : reg32 (0x40 + 8 * v) = some true := by
  have h : 0x40 + 8 * v < 0x340 + 96 ∧ (0x40 + 8 * v) % 8 = 0 := by omega
  have hne : 0x40 + 8 * v ≠ 0 ∧ 0x40 + 8 * v ≠ 8 := by omega
  simp [reg32, h, hne]

/-- Where register r of queue q lies. -/
def queueReg (q r : Nat) : Nat := 0x100000 + 64 * q + r

/-- The 8 bytes that hold a register of a queue begin with a register of that queue. -/
theorem queueReg_word (q r : Nat) : queueReg q r / 8 * 8 = queueReg q (r / 8 * 8) := by simp only [queueReg]; omega

/-- The queues' registers lie above those of the device. -/
theorem queueReg_above (q r : Nat) : 0x100000 ≤ queueReg q r := by simp only [queueReg]; omega

section QueueReg
variable (q : Nat) {r : Nat} (hr : r < 64)
include hr

theorem queueReg_queue : (queueReg q r - 0x100000) / 64 = q := by simp only [queueReg]; omega
theorem queueReg_register : (queueReg q r - 0x100000) % 64 = r := by simp only [queueReg]; omega
theorem queueReg_mod : queueReg q r % 64 = r := by simp only [queueReg]; omega

theorem reg64_queueReg (hq : q < 64) :
    reg64 (queueReg q r) = decide (r = 0 ∨ r = 0x20 ∨ r = 0x28 ∨ r = 0x30) := by
  have hm := queueReg_register q hr
  grind [reg64, queueReg]

theorem reg32_queueReg (hq : q < 64) :
    reg32 (queueReg q r) =
      if r = 0x10 then some false
      else if r = 0x08 ∨ r = 0x0C ∨ r = 0x14 ∨ r = 0x18 ∨ r = 0x38 then some true else none := by
  have hb := queueReg_above q r
  have hi : queueReg q r < 0x100000 + 64 * 64 := by simp only [queueReg]; omega
  simp only [reg32, queueReg_register q hr]
  iterate 4 rw [if_neg (by simp; omega)]
  rw [if_pos (by simp; omega)]
  simp [or_assoc]

end QueueReg

theorem reg64_quota {c i : Nat} (hc : c < 16) (hi : i < 8) : reg64 (0x40000 + 64 * c + 8 * i) = true := by
  grind [reg64]

theorem reg64_ctx {x : Nat} (hx : x < 57344) : reg64 (0x200000 + 64 * x) = true := by
  grind [reg64]

/-! ## What a write does (R415; log entry 94) -/

theorem managementWrite_misaligned32 (s : State) {off : Nat} (v : DWord) (h : off % 4 ≠ 0) :
    exec (.managementWrite off false v) s = .next s.refusal := by
  simp [exec_managementWrite, execManagementWrite, h]

theorem managementWrite_misaligned64 (s : State) {off : Nat} (v : DWord) (h : off % 8 ≠ 0) :
    exec (.managementWrite off true v) s = .next s.refusal := by
  simp [exec_managementWrite, execManagementWrite, h]

theorem managementWrite_readOnly (s : State) {off : Nat} (v : DWord) (h64 : reg64 (off / 8 * 8) = false)
    (h32 : reg32 off = some false) : exec (.managementWrite off false v) s = .next s.refusal := by
  simp [exec_managementWrite, execManagementWrite, h64, h32]

/-- A write of a 32-bit register that can be written is what write32 makes of it, or refused. -/
theorem managementWrite_reg32 (s : State) {off x : Nat} (ha : off % 4 = 0) (h64 : reg64 (off / 8 * 8) = false)
    (h32 : reg32 off = some true) (hx : x < 2 ^ 32) :
    exec (.managementWrite off false (BitVec.ofNat 64 x)) s = .next ((s.write32 off x).getD s.refusal) := by
  have hv : (BitVec.ofNat 64 x).toNat % 2 ^ 32 = x := by simp; omega
  simp only [exec_managementWrite, execManagementWrite, State.store32, ha, h64, h32, hv]
  cases s.write32 off x <;> rfl

/-- A write of a 64-bit register is what write64 makes of it, or refused. -/
theorem managementWrite_reg64 (s : State) {off : Nat} (v : DWord) (h64 : reg64 off = true) :
    exec (.managementWrite off true v) s = .next ((s.write64 off v).getD s.refusal) := by
  have ha : off % 8 = 0 := by simp [reg64] at h64; omega
  simp only [exec_managementWrite, execManagementWrite, ha, h64]
  cases s.write64 off v <;> rfl

/-- A 64-bit access to a read-only register and the register above it writes the latter. -/
theorem managementWrite_upper (s : State) {off x y : Nat} (ha : off % 8 = 0) (h64 : reg64 off = false)
    (hlo : reg32 off = some false) (hhi : reg32 (off + 4) = some true) (hx : x < 2 ^ 32) (hy : y < 2 ^ 32) :
    exec (.managementWrite off true (BitVec.ofNat 64 (x + 2 ^ 32 * y))) s =
      .next ((s.write32 (off + 4) y).getD s.refusal) := by
  have hv : (BitVec.ofNat 64 (x + 2 ^ 32 * y)).toNat / 2 ^ 32 = y := by simp; omega
  simp only [exec_managementWrite, execManagementWrite, State.store32, ha, h64, hlo, hhi, hv]
  cases s.write32 (off + 4) y <;> rfl

/-- A 64-bit access over a 32-bit register and a hole is refused. -/
theorem managementWrite_overHole (s : State) {off : Nat} (v : DWord) (ha : off % 8 = 0) (h64 : reg64 off = false)
    (hlo : reg32 off = some true) (hhi : reg32 (off + 4) = none) :
    exec (.managementWrite off true v) s = .next s.refusal := by
  simp [exec_managementWrite, execManagementWrite, ha, h64, hlo, hhi]

/-- A value within its limits is kept, any other refused. -/
theorem next_kept (c : Prop) [Decidable c] (t r : State) :
    (.next ((if c then some t else none).getD r) : Out) = if c then .next t else .next r := by
  split <;> rfl

/-! ## The registers one by one -/

theorem State.write32_pwrCap (s : State) (x : Nat) : s.write32 0x18 x =
    if 1200 ≤ x ∧ x ≤ 2400 then some { s with mgmt := { s.mgmt with pwrCap := BitVec.ofNat 32 x } } else none := by
  simp [State.write32]

theorem State.write32_pkgid (s : State) (x : Nat) : s.write32 0x20 x =
    if x < 8192 then some { s with mgmt := { s.mgmt with pkgid := BitVec.ofNat 32 x } } else none := by
  simp [State.write32]

theorem State.write32_vsplit (s : State) (x : Nat) {v : Nat} (hv : v < 48) : s.write32 (0x40 + 8 * v) x =
    if x ≤ 16 ∧ s.anyResident = false then
      some { s with mgmt := { s.mgmt with vsplit := aput s.mgmt.vsplit v x } } else none := by
  have h : 0x40 + 8 * v ≠ 0x10 ∧ 0x40 + 8 * v ≠ 0x18 ∧ 0x40 + 8 * v ≠ 0x20 ∧ 0x40 + 8 * v ≠ 0x28 ∧
    0x40 + 8 * v < 0x1C0 := by omega
  simp [State.write32, h]

/-- A queue's 32-bit register, by its place in the queue's registers. -/
theorem State.write32_queueReg (s : State) (q v : Nat) {r : Nat} (hr : r < 64) :
    s.write32 (queueReg q r) v =
      if r = 0x08 then
        if ringSize v = true then some (s.onQueue q (fun k => Queue.wrapped { k with size := BitVec.ofNat 32 v })) else none
      else if r = 0x0C then if v < 4 then some (s.onQueue q (fun k => { k with prio := BitVec.ofNat 32 v })) else none
      else if r = 0x14 then some (s.onQueue q (fun k => { k with wr := BitVec.ofNat 32 v }))
      else if r = 0x18 then if v < 16 then some (s.writeQctl q v) else none
      else if r = 0x38 then some (s.onQueue q (fun k => { k with ctx := BitVec.ofNat 32 v }))
      else none := by
  have hb := queueReg_above q r
  have hm := queueReg_mod q hr
  unfold State.write32
  iterate 8 rw [if_neg (by omega)]
  rw [queueReg_queue q hr, hm]
  -- what is left is write32's own match on the place, one goal for each register
  split <;> simp_all

/-- A queue with its 64-bit register r, an address, at v. -/
def Queue.setAddr (k : Queue) (r : Nat) (v : DWord) : Queue :=
  if r = 0 then { k with base := v } else if r = 0x20 then { k with ctrBase := v }
  else if r = 0x28 then { k with errBase := v } else { k with saveBase := v }

/-- A queue's 64-bit registers hold addresses of 64-byte lines, but for QSAVEBASE. -/
theorem State.write64_queueReg (s : State) {q r : Nat} (hq : q < 64)
    (hr : r = 0 ∨ r = 0x20 ∨ r = 0x28 ∨ r = 0x30) (v : DWord) : s.write64 (queueReg q r) v =
      if r = 0x30 ∨ v.toNat % 64 = 0 then some (s.setQueue q ((s.queue q).setAddr r v)) else none := by
  have hb := queueReg_above q r
  have hi : queueReg q r < 0x200000 := by simp only [queueReg]; omega
  unfold State.write64
  rw [if_neg (by omega), if_neg (by omega), if_pos hi, queueReg_queue q (by omega), queueReg_mod q (by omega)]
  obtain rfl | rfl | rfl | rfl := hr <;> simp [Queue.setAddr, State.onQueue]

/-- A register of a quota class: only the first three take a value (log entry 46). -/
theorem State.write64_quota (s : State) {c i : Nat} (hc : c < 16) (hi : i < 8) (v : DWord) :
    s.write64 (0x40000 + 64 * c + 8 * i) v =
      if i < 3 ∨ v = 0 then some { s with quotas := aput s.quotas c (aput (aget [] s.quotas c) i v) } else none := by
  have hcls : (0x40000 + 64 * c + 8 * i - 0x40000) / 64 = c := by omega
  have hidx : (0x40000 + 64 * c + 8 * i) / 8 % 8 = i := by omega
  unfold State.write64
  rw [if_neg (by omega), if_pos (by omega), hcls, hidx]
  simp

/-- PTROOT of a context: aligned, and only while no kernel is resident in it. -/
theorem State.write64_ptroot (s : State) (x : Nat) (v : DWord) :
    s.write64 (0x200000 + 64 * x) v =
      if s.residentIn x = false ∧ v.toNat % 2 ^ 21 = 0 then
        some { s with ctxs := aput s.ctxs x { s.ctx x with ptroot := v } } else none := by
  have hctx : (0x200000 + 64 * x - 0x200000) / 64 = x := by omega
  have hidx : (0x200000 + 64 * x) / 8 % 8 = 0 := by omega
  unfold State.write64
  rw [if_neg (by omega), if_neg (by omega), if_neg (by omega), hctx, hidx]
  cases hr : s.residentIn x <;> simp [State.writeCtx, hr]

/-- The sizes of a ring are the powers of two from 16 to 65,536. -/
theorem ringSize_iff (x : Nat) : ringSize x = true ↔ x ∈ (List.range 13).map (fun i => 2 ^ (i + 4)) := by
  rw [ringSize, List.any_eq_true, List.mem_map]
  simp only [beq_iff_eq, eq_comm (a := x)]

theorem queueDoorbell_present (s : State) {q : Nat} (hq : q < 64) (wr : Word) :
    exec (.queueDoorbell q wr) s = .next (s.setQueue q { s.queue q with wr := wr }) := by
  rw [exec_queueDoorbell, execQueueDoorbell, if_neg (by omega)]

/-! ## Writes of the queues' registers (Table 22-1) -/

section QueueWrites
variable (s : State) {q : Nat} (hq : q < 64)
include hq

/-- A 32-bit write of a queue's register that can be written reaches write32. -/
theorem managementWrite_queueReg32 {r x : Nat} (hr : r = 0x08 ∨ r = 0x0C ∨ r = 0x14 ∨ r = 0x18 ∨ r = 0x38)
    (hx : x < 2 ^ 32) : exec (.managementWrite (queueReg q r) false (BitVec.ofNat 64 x)) s =
      .next ((s.write32 (queueReg q r) x).getD s.refusal) := by
  have ha : queueReg q r % 4 = 0 := by simp only [queueReg]; omega
  apply managementWrite_reg32 s ha _ _ hx
  · rw [queueReg_word, reg64_queueReg q (by omega) hq]; simp; omega
  · rw [reg32_queueReg q (by omega) hq, if_neg (by omega), if_pos hr]

theorem managementWrite_queueReg64 {r : Nat} (hr : r = 0 ∨ r = 0x20 ∨ r = 0x28 ∨ r = 0x30) (v : DWord) :
    exec (.managementWrite (queueReg q r) true v) s =
      if r = 0x30 ∨ v.toNat % 64 = 0 then .next (s.setQueue q ((s.queue q).setAddr r v)) else .next s.refusal := by
  have h64 : reg64 (queueReg q r) = true := by rw [reg64_queueReg q (by omega) hq]; simpa using hr
  rw [managementWrite_reg64 s v h64, State.write64_queueReg s hq hr]
  exact next_kept _ _ _

/-- QBASE, QCTRBASE and QERRBASE keep an aligned address. -/
theorem managementWrite_queueAddr {r : Nat} (hr : r = 0 ∨ r = 0x20 ∨ r = 0x28) (v : DWord) :
    exec (.managementWrite (queueReg q r) true v) s =
      if v.toNat % 64 = 0 then .next (s.setQueue q ((s.queue q).setAddr r v)) else .next s.refusal := by
  have hne : r ≠ 0x30 := by omega
  simp only [managementWrite_queueReg64 s hq (r := r) (by omega) v, hne, false_or]

/-- QSAVEBASE keeps any value. -/
theorem managementWrite_queueSave (v : DWord) : exec (.managementWrite (queueReg q 0x30) true v) s =
    .next (s.setQueue q { s.queue q with saveBase := v }) :=
  (managementWrite_queueReg64 s hq (by omega) v).trans (if_pos (.inl rfl))

/-- QRD is read-only. -/
theorem managementWrite_queueRd (v : DWord) : exec (.managementWrite (queueReg q 0x10) false v) s = .next s.refusal := by
  apply managementWrite_readOnly
  · rw [queueReg_word, reg64_queueReg q (by omega) hq]; simp
  · rw [reg32_queueReg q (by omega) hq]; simp

/-- A new QSIZE takes QRD modulo itself (R378). -/
theorem managementWrite_queueSize {x : Nat} (hx : x < 2 ^ 32) :
    exec (.managementWrite (queueReg q 0x08) false (BitVec.ofNat 64 x)) s =
      if x ∈ (List.range 13).map (fun i => 2 ^ (i + 4)) then
        .next (s.setQueue q { s.queue q with
          size := BitVec.ofNat 32 x, rd := BitVec.ofNat 32 ((s.queue q).rd.toNat % x) })
      else .next s.refusal := by
  rw [managementWrite_queueReg32 s hq (by simp) hx, State.write32_queueReg s q x (by omega)]
  have hv : (BitVec.ofNat 32 x).toNat = x := by simp; omega
  simp only [if_true, next_kept, State.onQueue, Queue.wrapped, hv, ringSize_iff]

theorem managementWrite_queuePrio {x : Nat} (hx : x < 2 ^ 32) :
    exec (.managementWrite (queueReg q 0x0C) false (BitVec.ofNat 64 x)) s =
      if x < 4 then .next (s.setQueue q { s.queue q with prio := BitVec.ofNat 32 x }) else .next s.refusal := by
  rw [managementWrite_queueReg32 s hq (by simp) hx, State.write32_queueReg s q x (by omega)]
  exact next_kept _ _ _

/-- A write of QWR is a doorbell (R378). -/
theorem managementWrite_queueWr {x : Nat} (hx : x < 2 ^ 32) :
    exec (.managementWrite (queueReg q 0x14) false (BitVec.ofNat 64 x)) s =
      exec (.queueDoorbell q (BitVec.ofNat 32 x)) s := by
  rw [managementWrite_queueReg32 s hq (by simp) hx, State.write32_queueReg s q x (by omega), queueDoorbell_present s hq]
  rfl

/-- So is a 64-bit write of QRD and QWR: QRD is not written. -/
theorem managementWrite_queueRdWr {x y : Nat} (hx : x < 2 ^ 32) (hy : y < 2 ^ 32) :
    exec (.managementWrite (queueReg q 0x10) true (BitVec.ofNat 64 (x + 2 ^ 32 * y))) s =
      exec (.queueDoorbell q (BitVec.ofNat 32 y)) s := by
  have hup : queueReg q 0x10 + 4 = queueReg q 0x14 := rfl
  rw [managementWrite_upper s _ _ _ _ hx hy]
  · rw [hup, State.write32_queueReg s q y (by omega), queueDoorbell_present s hq]
    rfl
  · simp only [queueReg]; omega
  · rw [reg64_queueReg q (by omega) hq]; simp
  · rw [reg32_queueReg q (by omega) hq]; simp
  · rw [hup, reg32_queueReg q (by omega) hq]; simp

theorem managementWrite_qctl {x : Nat} (hx : x < 2 ^ 32) :
    exec (.managementWrite (queueReg q 0x18) false (BitVec.ofNat 64 x)) s =
      if x < 16 then .next (s.writeQctl q x) else .next s.refusal := by
  rw [managementWrite_queueReg32 s hq (by simp) hx, State.write32_queueReg s q x (by omega)]
  exact next_kept _ _ _

end QueueWrites

/-- The bits of QCTL. -/
theorem nbit_qctl (en priv keep : Bool) : let v := b2n en + 2 * b2n priv + 4 * b2n keep
    v < 16 ∧ nbit v 0 = en ∧ nbit v 1 = priv ∧ nbit v 2 = keep ∧ nbit v 3 = false := by
  cases en <;> cases priv <;> cases keep <;> decide

/-- What a write of QCTL without PREEMPT leaves in the queue. -/
theorem State.queue_writeQctl (s : State) (q : Nat) (en priv keep : Bool) :
    (s.writeQctl q (b2n en + 2 * b2n priv + 4 * b2n keep)).queue q =
      let k := if en = true then (s.queue q).enable else (s.queue q).disable
      { k with priv := priv, halt := k.halt && keep, preempt := false } := by
  obtain ⟨-, h0, h1, h2, h3⟩ := nbit_qctl en priv keep
  simp [State.writeQctl, State.onQueue, h0, h1, h2, h3]

/-- A write of QCTL without PREEMPT: EN and PRIV are set, HALT can only be cleared (log entry 55), and the launch count
restarts when EN rises (R378). -/
theorem managementWrite_qctl_bits (s : State) {q : Nat} (hq : q < 64) (en priv keep : Bool) : ∃ t : State,
    exec (.managementWrite (queueReg q 0x18) false (BitVec.ofNat 64 (b2n en + 2 * b2n priv + 4 * b2n keep))) s = .next t ∧
      (t.queue q).en = en ∧ (t.queue q).priv = priv ∧ (t.queue q).halt = ((s.queue q).halt && keep) ∧
      (t.queue q).preempt = false ∧ (t.queue q).rd = (s.queue q).rd ∧
      (t.queue q).count = if en = true ∧ (s.queue q).en = false then 0 else (s.queue q).count := by
  obtain ⟨hv, -⟩ := nbit_qctl en priv keep
  refine ⟨_, (managementWrite_qctl s hq (by omega)).trans (if_pos hv), ?_⟩
  rw [State.queue_writeQctl]
  cases en
  · simp [Queue.disable]
  · cases hk : (s.queue q).en <;> simp [Queue.enable, hk]

/-! ## Power (R424) -/

/-- Waking outside P3 reaches the state asked for; leaving P2 brings the enabled ports up again. -/
theorem State.wake_powered (s : State) (p : BitVec 2) (h : s.mgmt.pwrCur ≠ 3) :
    (s.wake p).mgmt = { s.mgmt with pwrReq := p, pwrCur := p } ∧ (s.wake p).teams = s.teams ∧
      (s.mgmt.pwrCur = 2 → ∀ e ∈ (s.wake p).ports, e.2.up = e.2.enable) := by
  by_cases h2 : s.mgmt.pwrCur = 2
  · simp only [State.wake, if_neg h, if_pos h2, List.forall_mem_map]
    exact ⟨trivial, trivial, fun _ _ _ => trivial⟩
  · simp only [State.wake, if_neg h, if_neg h2]
    exact ⟨trivial, trivial, fun h' => absurd h' h2⟩

/-- A request for P2 or P3 outside P3 abandons every FENCE packet that holds its parser. -/
theorem State.drain_powered (s : State) (p : BitVec 2) (h : s.mgmt.pwrCur ≠ 3) :
    (s.drain p).mgmt = { s.mgmt with pwrReq := p } ∧ (s.drain p).teams = s.teams ∧
      ∀ e ∈ (s.drain p).queues, e.2.hold = [] := by
  simp only [State.drain, if_neg h, List.forall_mem_map]
  exact ⟨trivial, trivial, fun _ _ => trivial⟩

/-- While P2 or P3 is asked for, a queue at a packet boundary does not parse. -/
theorem State.parses_drained (s : State) {q : Nat} (hp : 2 ≤ s.mgmt.pwrReq.toNat) (hk : (s.queue q).pkt = none) :
    s.parses q = false := by
  simp only [State.parses, hk, Option.isSome_none, decide_eq_false (Nat.not_lt.mpr hp), Bool.and_false, Bool.or_false,
    Bool.false_and]

/-- Something keeps power from being removed: a packet under way, a resident team, a tile, a chunk unacknowledged or not yet
applied, a shadow-ray contribution or a copy. -/
def State.Busy (s : State) : Prop :=
  (∃ q ∈ s.queues, q.2.pkt ≠ none) ∨ (∃ t ∈ s.teams, s.leases t.1 = true) ∨ s.tiles ≠ [] ∨
    (∃ p ∈ s.ports, p.2.unacked ≠ [] ∨ p.2.pending ≠ []) ∨
    ∃ c ∈ s.cores, c.2.rays ≠ [] ∨ ∃ e ∈ c.2.slots, ∀ st, e.2.stat ≠ .finished st

/-- The device is drained when nothing keeps it busy: the two list the same kinds of work, and a copy's slot is done with
in the one status that is finished. -/
theorem State.drained_iff (s : State) : s.drained = true ↔ ¬ s.Busy := by
  simp only [State.drained, State.Busy, Bool.and_eq_true, List.all_eq_true, Option.isNone_iff_eq_none,
    Bool.not_eq_true', List.isEmpty_iff, not_or, not_exists, not_and, ne_eq, Decidable.not_not, Bool.not_eq_true,
    Prod.forall]
  grind

section Retention
variable (s : State) (hlt : s.mgmt.pwrCur.toNat < s.mgmt.pwrReq.toNat) (hreq : 2 ≤ s.mgmt.pwrReq.toNat)

/-- While anything is at work power stays as it is. -/
theorem retentionEntry_busy (h : s.Busy) : exec .retentionEntry s = .next s := by
  have hd : s.drained = false := by simpa [h] using s.drained_iff
  simp [exec_retentionEntry, execRetentionEntry, hd]

include hlt hreq

/-- A drained device that is asked for P3 loses its power. -/
theorem retentionEntry_off (h : ¬ s.Busy) (h3 : s.mgmt.pwrReq = 3) : exec .retentionEntry s = .next s.off := by
  rw [exec_retentionEntry, execRetentionEntry, if_neg (by simp [s.drained_iff.mpr h]; omega), if_pos h3]

/-- A drained device that is asked for P2 disables its ports and reaches it. -/
theorem retentionEntry_retained (h : ¬ s.Busy) (h2 : s.mgmt.pwrReq = 2) : exec .retentionEntry s =
    .next { s with ports := s.ports.map (fun e => (e.1, { e.2 with up := false })), mgmt := { s.mgmt with pwrCur := 2 } } := by
  have h3 : s.mgmt.pwrReq ≠ 3 := by rw [h2]; decide
  rw [exec_retentionEntry, execRetentionEntry, if_neg (by simp [s.drained_iff.mpr h]; omega), if_neg h3]

end Retention

/-! ## Reset, tokens, reports and the dump (R410 to R412, R422, R423) -/

/-- The boot code names the first check that fails (Table 24-2). -/
theorem bootCode_eq (f : FwImage) : FwImage.bootCode f =
    if f.magic ≠ 0x31574658 then 0 else if Config.sha512 f.body ≠ f.digest then 2
    else if Config.ecdsaValid 0 f.digest f.sig = false then 3 else if f.version < Config.minVersion then 4
    else if f.trains = false then 5 else 1 := by
  simp only [FwImage.bootCode, bne_iff_ne, Bool.not_eq_true']

/-- In reset hold an image is checked; running firmware takes none (R422). -/
theorem firmwareImage_held (s : State) (f : FwImage) (hb : s.mgmt.boot ≠ 1) (hp : s.mgmt.pwrCur ≠ 3) :
    exec (.firmwareImage f) s = .next (s.boot f) := by
  rw [exec_firmwareImage, execFirmwareImage, if_neg (by simpa using ⟨hb, hp⟩)]

theorem firmwareImage_running (s : State) (f : FwImage) (hb : s.mgmt.boot = 1) :
    exec (.firmwareImage f) s = .next s := by
  simp [exec_firmwareImage, execFirmwareImage, hb]

/-- The four checks of R412. -/
theorem State.tokenOk_eq (s : State) (t : List Byte) : s.tokenOk t =
    decide (t.length = 0xF4 ∧ t.take 4 = [0x48, 0x4D, 0x4B, 0x31] ∧ (t.drop 4).take 2 = [1, 0] ∧
      (t.drop 0x10).take 64 = Config.deviceId ∧ (t.drop 0x50).take 32 = Config.challenge s.dbg.challenges ∧
      Config.ecdsaValid 1 (Config.sha512 (t.take 0x70)) (t.drop 0x70) = true) := by
  rw [Bool.eq_iff_iff, decide_eq_true_iff]
  simp [State.tokenOk, and_assoc]

/-- A token is refused for good after three refusals or at the end of the part's life; a good one opens its features and
makes a new challenge (R411, R412). -/
theorem tokenSubmit_eq (s : State) (tok : List Byte) : exec (.tokenSubmit tok) s = .next (
    if Config.lifeCycle.val = 3 ∨ 3 ≤ s.dbg.refusedTokens then s
    else if s.tokenOk tok = true then { s with dbg := { s.dbg with
      features := s.dbg.features ||| BitVec.ofNat 3 (ofBytes ((tok.drop 8).take 4)),
      challenges := s.dbg.challenges + 1 } }
    else { s with dbg := { s.dbg with refusedTokens := s.dbg.refusedTokens + 1 } }) := by
  simp only [exec_tokenSubmit, execTokenSubmit, Bool.or_eq_true, decide_eq_true_eq, ge_iff_le]
  split_ifs <;> rfl

/-- A report answers a nonce of 32 bytes with the running firmware's measurement (R423). -/
theorem attest_reports (s : State) {f : FwImage} {nonce : List Byte} (hf : s.dbg.firmware = some f)
    (hn : nonce.length = 32) (hb : s.mgmt.boot = 1) : ∃ (t : State) (r : Report),
      exec (.attest nonce) s = .next t ∧ t.mgmt.attest = some r ∧ r.nonce = nonce ∧
        r.firmware = Config.sha512 f.body ∧ r.tick = s.tick % 2 ^ 64 ∧ r.version = f.version := by
  simp only [exec_attest, execAttest, hf]
  rw [if_neg (by simp [hn, hb])]
  exact ⟨_, _, rfl, rfl, rfl, rfl, rfl, rfl⟩

/-- The first dump of running firmware stops the clocks (R410). -/
theorem State.fatalDump_dbg (s : State) (hd : s.dbg.dumped = false) (hb : s.mgmt.boot = 1) : s.fatalDump.dbg =
    { s.dbg with frozen := true, dumped := true, stopArmed := false, portsWereOff := false } := by
  rw [State.fatalDump, if_neg (by simp [hd, hb])]

/-- After a dump no release lets the clocks go on (R407, R410). -/
theorem clockRelease_dumped (s : State) (h : s.dbg.dumped = true) : exec .clockRelease s = .next s := by
  show execClockRelease s = _
  simp [execClockRelease, h]

/-! ## Writes of the device's registers (Table 24-1) -/

theorem managementWrite_pwrCap (s : State) {x : Nat} (hx : x < 2 ^ 32) :
    exec (.managementWrite 0x18 false (BitVec.ofNat 64 x)) s = if 1200 ≤ x ∧ x ≤ 2400 then
      .next { s with mgmt := { s.mgmt with pwrCap := BitVec.ofNat 32 x } } else .next s.refusal := by
  rw [managementWrite_reg32 s (by decide) (reg64_low (by decide)) rfl hx, State.write32_pwrCap]
  exact next_kept _ _ _

theorem managementWrite_pkgid (s : State) {x : Nat} (hx : x < 2 ^ 32) :
    exec (.managementWrite 0x20 false (BitVec.ofNat 64 x)) s = if x < 8192 then
      .next { s with mgmt := { s.mgmt with pkgid := BitVec.ofNat 32 x } } else .next s.refusal := by
  rw [managementWrite_reg32 s (by decide) (reg64_low (by decide)) rfl hx, State.write32_pkgid]
  exact next_kept _ _ _

theorem managementWrite_vsplit (s : State) {x v : Nat} (hx : x < 2 ^ 32) (hv : v < 48) :
    exec (.managementWrite (0x40 + 8 * v) false (BitVec.ofNat 64 x)) s = if x ≤ 16 ∧ s.anyResident = false then
      .next { s with mgmt := { s.mgmt with vsplit := aput s.mgmt.vsplit v x } } else .next s.refusal := by
  rw [managementWrite_reg32 s (by omega) (reg64_low (by omega)) (reg32_vsplit hv) hx, State.write32_vsplit s x hv]
  exact next_kept _ _ _

/-- The read-only registers: IDENT, BOOTSTAT and each QRD. -/
theorem managementWrite_readOnlyRegs (s : State) {off : Nat} (v : DWord)
    (h : off = 0 ∨ off = 8 ∨ ∃ q < 64, off = 0x100010 + 64 * q) :
    exec (.managementWrite off false v) s = .next s.refusal := by
  obtain rfl | rfl | ⟨q, hq, rfl⟩ := h
  · exact managementWrite_readOnly s v rfl rfl
  · exact managementWrite_readOnly s v rfl rfl
  · have hoff : 0x100010 + 64 * q = queueReg q 0x10 := by simp only [queueReg]; omega
    rw [hoff, managementWrite_queueRd s hq]

/-- IDENT's low half, named by a variable: omega counts a literal of this size down in a sum. -/
theorem ident_eq : ∃ low, low = 0x7300 ∧ ident = BitVec.ofNat 32 (Config.stepping.toNat * 2 ^ 16 + low) := ⟨_, rfl, rfl⟩

/-- IDENT names the family and the variant, whatever the stepping (R1). -/
theorem State.read32_ident (s : State) : ∃ x, s.read32 0 = some x ∧ x % 2 ^ 16 = 0x7300 := by
  obtain ⟨low, hlow, hident⟩ := ident_eq
  refine ⟨ident.toNat, rfl, ?_⟩
  rw [hident, BitVec.toNat_ofNat]
  omega

theorem managementWrite_ptroot (s : State) {x : Nat} (hx : x < 57344) (v : DWord) :
    exec (.managementWrite (0x200000 + 64 * x) true v) s = if s.residentIn x = false ∧ v.toNat % 2 ^ 21 = 0 then
      .next { s with ctxs := aput s.ctxs x { s.ctx x with ptroot := v } } else .next s.refusal := by
  rw [managementWrite_reg64 s v (reg64_ctx hx), State.write64_ptroot]
  exact next_kept _ _ _

theorem managementWrite_quota (s : State) {c i : Nat} (hc : c < 16) (hi : i < 8) (v : DWord) :
    exec (.managementWrite (0x40000 + 64 * c + 8 * i) true v) s = if i < 3 ∨ v = 0 then
      .next { s with quotas := aput s.quotas c (aput (aget [] s.quotas c) i v) } else .next s.refusal := by
  rw [managementWrite_reg64 s v (reg64_quota hc hi), State.write64_quota s hc hi]
  exact next_kept _ _ _

/-! ## The statement -/

/-- Settles O52: each part is the lemma of its register, power state or step. -/
theorem hostRegistersPowerAndReset : Obligations.HostRegistersPowerAndReset := by
  intro s
  refine ⟨fun _ v h => managementWrite_misaligned32 s v h, fun _ v h => managementWrite_misaligned64 s v h,
    fun _ v h => managementWrite_readOnlyRegs s v h, s.read32_ident, rfl, fun _ hx => managementWrite_pwrCap s hx,
    fun _ hx => managementWrite_pkgid s hx, fun _ _ hx hv => managementWrite_vsplit s hx hv,
    fun v => managementWrite_reg64 s v rfl, fun v => managementWrite_reg64 s v rfl,
    fun v => managementWrite_overHole s v rfl rfl rfl rfl, fun q hq => ?queue,
    fun _ v hx => managementWrite_ptroot s hx v, fun c i v hc hi h3 hv => ?quotaRefused, fun c i v hc hi hv => ?quotaKept,
    fun hp => ⟨fun p h => ?wake, fun p h => ?drain⟩,
    fun hlt hreq => ⟨retentionEntry_busy s, fun hb h2 => ?retained, fun hb h3 => ?off⟩,
    fun f => ⟨?reset, fun hb hp => ?image, firmwareImage_running s f⟩, fun tok => ?token,
    fun _ _ hf hn hb => attest_reports s hf hn hb, fun hd hb => ?dump⟩
  case queue =>
    exact ⟨managementWrite_queueAddr s hq (.inl rfl), managementWrite_queueAddr s hq (.inr (.inl rfl)),
      managementWrite_queueAddr s hq (.inr (.inr rfl)), managementWrite_queueSave s hq,
      fun _ hx => managementWrite_queueSize s hq hx, fun _ hx => managementWrite_queuePrio s hq hx,
      fun _ hx => managementWrite_queueWr s hq hx, fun _ _ hx hy => managementWrite_queueRdWr s hq hx hy,
      fun _ h16 hx => (managementWrite_qctl s hq hx).trans (if_neg (by omega)), managementWrite_qctl_bits s hq⟩
  case quotaRefused => exact (managementWrite_quota s hc hi v).trans (if_neg (not_or.mpr ⟨by omega, hv⟩))
  case quotaKept =>
    refine ⟨_, (managementWrite_quota s hc hi v).trans (if_pos hv), fun j => ?_⟩
    rw [aget_aput_self, aget_aput]
  case wake => exact ⟨_, exec_powerRequest_wake p h s, s.wake_powered p hp⟩
  case drain =>
    obtain ⟨hm, ht, hhold⟩ := s.drain_powered p hp
    have hreq : 2 ≤ (s.drain p).mgmt.pwrReq.toNat := by
      rw [hm]
      obtain rfl | rfl := h <;> simp
    exact ⟨_, exec_powerRequest_drain p h s, hm, ht, hhold, fun _ hk => State.parses_drained _ hreq hk⟩
  case retained =>
    exact ⟨_, retentionEntry_retained s hlt hreq hb h2, rfl, List.forall_mem_map.mpr fun _ _ => rfl, rfl, rfl, rfl⟩
  case off => exact ⟨_, retentionEntry_off s hlt hreq hb h3, rfl, rfl, rfl, rfl, rfl⟩
  case reset =>
    rw [← bootCode_eq]
    exact ⟨_, exec_reset f s, rfl, rfl, rfl, rfl, rfl, rfl, rfl, rfl, rfl, rfl, rfl, rfl, rfl, rfl⟩
  case image =>
    rw [← bootCode_eq]
    exact ⟨_, firmwareImage_held s f hb hp, rfl⟩
  case token => rw [tokenSubmit_eq, State.tokenOk_eq]
  case dump =>
    have hdbg := s.fatalDump_dbg hd hb
    exact ⟨_, rfl, by rw [hdbg], by rw [hdbg], clockRelease_dumped _ (by rw [hdbg])⟩

end Sys2Proof.Machine
end

section
/-! SUPPORT. Sleepers (R92, R93, R256): what a trap that enters the handler leaves, and with it the statement about
SLEEPT, SLEEPP and their wake. -/

namespace Sys2Proof.Machine

open Sys2Proof.Safety

/-! ## Writes of a group touch neither the rest of its team nor memory -/

/-- Writing a group leaves every team as it was but for its groups. -/
theorem State.team_setGrp (s : State) (u g v : Nat) (x : Group) :
    (s.setGrp u g x).team v = { s.team v with groups := ((s.setGrp u g x).team v).groups } := by
  by_cases h : v = u
  · subst h
    simp [State.setGrp, Team.setGrp]
  · simp [State.setGrp, State.team_setTeam_ne _ _ h]

theorem State.desc_setGrp (s : State) (u g v : Nat) (x : Group) : ((s.setGrp u g x).team v).desc = (s.team v).desc := by
  rw [s.team_setGrp u g v x]

/-- Writing a group changes no byte of memory. -/
theorem sameMemory_setGrp (s : State) (u g : Nat) (x : Group) : SameMemory s (s.setGrp u g x) := by
  intro l
  cases l with
  | scr v sd o =>
    change (((s.setGrp u g x).team v).half sd).read o 1 = ((s.team v).half sd).read o 1
    rw [s.team_setGrp u g v x]
    rfl
  | hbm a => rfl
  | vault a => rfl
  | host a c => rfl

theorem sameMemory_trans {r s t : State} (h : SameMemory r s) (h' : SameMemory s t) : SameMemory r t :=
  fun l => (h' l).trans (h l)

/-! ## Meetings (R79) -/

/-- An entry of a table whose values alone were mapped. -/
theorem afind_map {α : Type} (f : Nat × α → Nat × α) (hf : ∀ e, (f e).1 = e.1) (t : List (Nat × α)) (k : Nat) :
    afind (t.map f) k = (afind t k).map (fun v => (f (k, v)).2) := by
  induction t with
  | nil => rfl
  | cons e t ih =>
    obtain ⟨j, w⟩ := e
    have hj : f (j, w) = (j, (f (j, w)).2) := Prod.ext (hf _) rfl
    rw [List.map_cons, hj]
    by_cases h : j = k
    · subst h; simp [afind]
    · simp [afind, h, ih]

/-- The table entry of a thread, once it runs again if its meeting's members are all parked there. -/
def Group.meetingEntry (k : Group) (e : Nat × Thread) : Nat × Thread :=
  if !e.2.exited && e.2.park == .meeting && k.met e.2.meet then (e.1, { e.2 with park := .run }) else e

theorem Group.meetings_threads (k : Group) : k.meetings.threads = k.threads.map k.meetingEntry := rfl

/-- An entry keeps its lane, and its thread but for the park. -/
theorem Group.meetingEntry_eq (k : Group) (e : Nat × Thread) :
    ∃ p, k.meetingEntry e = (e.1, { e.2 with park := p }) := by
  unfold Group.meetingEntry
  split
  · exact ⟨_, rfl⟩
  · exact ⟨e.2.park, rfl⟩

/-- Evaluating the meetings of a group changes nothing of a thread but its park. -/
theorem State.thr_meetings (s : State) (u g l : Nat) :
    ∃ p, (s.meetings u g).thr u g l = { s.thr u g l with park := p } := by
  have hkey (e : Nat × Thread) : ((s.grp u g).meetingEntry e).1 = e.1 := by
    obtain ⟨p, hp⟩ := (s.grp u g).meetingEntry_eq e
    rw [hp]
  simp only [State.meetings, State.thr, State.grp_setGrp, Group.thr, Group.meetings_threads, aget, afind_map _ hkey]
  cases afind (s.grp u g).threads l with
  | none => exact ⟨_, rfl⟩
  | some x =>
    obtain ⟨p, hp⟩ := (s.grp u g).meetingEntry_eq (l, x)
    exact ⟨p, congrArg Prod.snd hp⟩

/-! ## A trap that enters the handler (R256) -/

section Enter
variable {s : State} {u g l : Nat} (hs : Still s (.thread u g l))
include hs

/-- What entering the handler makes of the thread: its trap state and PC, and its park where the handler's address is its
meeting address. -/
theorem State.enterHandler_thr (cause : Nat) (tpc : Word) (val addr : DWord) (resume : Word) (saved : Option Access) :
    ∃ p, (s.enterHandler (.thread u g l) cause tpc val addr resume saved).thr u g l = { s.thr u g l with
        pc := (s.team u).desc.handler, park := p,
        trap := { (s.thr u g l).trap with
          lvl := true, cause := cause, pc := tpc, val := val, addr := addr, resume := resume, saved := saved } } ∧
      ((s.thr u g l).meet ≠ (s.team u).desc.handler → p = .run) := by
  by_cases h : (s.thr u g l).meet = (s.team u).desc.handler
  · simp only [State.enterHandler, State.closeWindows_still hs, State.pendDue_still hs, State.setTrap, State.setPc,
      State.setPark, State.trapOf, State.descOf, State.uidOf, State.thr_setThr, h, if_true]
    obtain ⟨p, hp⟩ := State.thr_meetings _ u g l
    exact ⟨p, by rw [hp, State.thr_setThr], fun hn => absurd rfl hn⟩
  · exact ⟨.run, State.enterHandler_thread cause tpc val addr resume saved hs h, fun _ => rfl⟩

/-- Entering the handler changes no byte of memory. -/
theorem State.enterHandler_memory (cause : Nat) (tpc : Word) (val addr : DWord) (resume : Word) (saved : Option Access) :
    SameMemory s (s.enterHandler (.thread u g l) cause tpc val addr resume saved) := by
  have hwrites (x : TrapState) (p : Word) (k : Park) :
      SameMemory s (((s.setTrap (.thread u g l) x).setPc (.thread u g l) p).setPark (.thread u g l) k) :=
    sameMemory_trans (sameMemory_trans (sameMemory_setGrp _ _ _ _) (sameMemory_setGrp _ _ _ _))
      (sameMemory_setGrp _ _ _ _)
  simp only [State.enterHandler, State.closeWindows_still hs, State.pendDue_still hs]
  split
  · exact sameMemory_trans (sameMemory_trans (hwrites _ _ _) (sameMemory_setGrp _ _ _ _)) (sameMemory_setGrp _ _ _ _)
  · exact hwrites _ _ _

end Enter

/-- A trap raised where the handler may be entered enters it. -/
theorem State.raiseTrap_enters {s : State} {ag : Agent} (cause : Nat) (val addr : DWord) (h : MayEnter s ag) :
    Entered s (s.raiseTrap ag cause val addr) ag cause val addr (s.trapOf ag).dst := by
  obtain ⟨hthread, hlvl, hhandler, hs⟩ := h
  cases ag with
  | ctx k c => cases hthread
  | thread u g l =>
    obtain ⟨p, henter, hrun⟩ :=
      State.enterHandler_thr hs cause (s.pc (.thread u g l)) val addr (s.pc (.thread u g l)) none
    rw [State.raiseTrap_still cause val addr hs, State.takeTrap_enters _ _ _ _ _ _ hlvl hhandler]
    exact {
      pc := congrArg Thread.pc henter
      saved := congrArg Thread.trap henter
      regs := fun q => by simp only [State.reg, henter]
      codes := by simp only [State.cc, henter]
      runs := by
        rintro _ _ _ ⟨⟩ hmeet
        exact (congrArg Thread.park henter).trans (hrun hmeet)
      memory := State.enterHandler_memory hs _ _ _ _ _ _ }

/-! ### What writing an agent's trap state leaves -/

section SetTrap
variable (s : State) (ag : Agent) (x : TrapState)

@[simp] theorem State.pc_setTrap : (s.setTrap ag x).pc ag = s.pc ag := by
  cases ag <;> simp [State.setTrap, State.pc]

@[simp] theorem State.cc_setTrap : (s.setTrap ag x).cc ag = s.cc ag := by
  cases ag <;> simp [State.setTrap, State.cc]

@[simp] theorem State.reg_setTrap (r : Reg) : (s.setTrap ag x).reg ag r = s.reg ag r := by
  cases ag <;> simp [State.setTrap, State.reg, State.setBctx]

@[simp] theorem State.descOf_setTrap : (s.setTrap ag x).descOf ag = s.descOf ag := by
  cases ag with
  | thread u g l => exact s.desc_setGrp u g u _
  | ctx k c => simp [State.setTrap, State.descOf, State.uidOf, State.team]

theorem sameMemory_setTrap : SameMemory s (s.setTrap ag x) := by
  cases ag with
  | thread u g l => exact sameMemory_setGrp _ _ _ _
  | ctx k c => exact fun l => by cases l <;> rfl

end SetTrap

/-- A trap at issue of an instruction enters the handler where it may, and records the instruction's destination (R258). -/
theorem State.raise_enters {s : State} {ag : Agent} (i : Instr) (t : Trap) (h : MayEnter s ag) :
    Entered s (s.raise ag i t) ag t.cause t.val t.addr (s.dstOf ag i) := by
  obtain ⟨hthread, hlvl, hhandler, hs⟩ := h
  have hmay : MayEnter (s.setTrap ag { s.trapOf ag with dst := s.dstOf ag i }) ag :=
    ⟨hthread, by simpa using hlvl, by simpa using hhandler, by simpa [Still, State.accsOf] using hs⟩
  obtain ⟨hpc, hsaved, hregs, hcodes, hruns, hmemory⟩ := State.raiseTrap_enters t.cause t.val t.addr hmay
  rw [State.raise, State.raiseAs]
  exact {
    pc := by simpa using hpc
    saved := by simpa using hsaved
    regs := fun q => (hregs q).trans (s.reg_setTrap ag _ q)
    codes := hcodes.trans (s.cc_setTrap ag _)
    runs := by
      rintro u g l rfl hmeet
      refine hruns u g l rfl ?_
      rw [State.descOf_setTrap]
      simpa [State.setTrap] using hmeet
    memory := sameMemory_trans (sameMemory_setTrap _ _ _) hmemory }

/-! ## SLEEPT, SLEEPP and their wake (R92, R93) -/

section Sleep
variable {s : State} {ag : Agent}

/-- SLEEPT of a tick that has come steps on, and of another parks. -/
theorem sleept_executes {h : Hdr} {a : Reg} (hdet : s.det ag = false) (hex : Executes s ag (.sleept h a)) :
    exec (.sleept h a) s = .next (if (s.reg64 ag a).toNat ≤ s.now then s.advance ag
      else s.parkOn ag (.sleept (s.reg64 ag a).toNat)) := by
  refine (perLane_executes _ hex).trans (congrArg _ ?_)
  simp only [hdet, Bool.false_eq_true, if_false, ge_iff_le]
  split <;> rfl

/-- A sleep on a promise ends when the phase has moved on. -/
theorem State.sleepEnd_moved {b : Nat} {p : Bool} (h : (s.bar (s.uidOf ag) b).phase ≠ p) :
    s.sleepEnd ag b p = .done (s.acquireAction ag .team) := by
  simp [State.sleepEnd, h]

/-- Outside deterministic mode it traps when the phase has not. -/
theorem State.sleepEnd_missed {b : Nat} {p : Bool} (hdet : s.det ag = false) (h : (s.bar (s.uidOf ag) b).phase = p) :
    s.sleepEnd ag b p = .trap s ⟨0x10, BitVec.ofNat 64 ((s.bar (s.uidOf ag) b).prom % 2 ^ 32), 0⟩ := by
  simp [State.sleepEnd, h, hdet]

section Promise
variable {h : Hdr} {a : Reg} {bar : BarNo} (hex : Executes s ag (.sleepp h a bar))
include hex

/-- A sleep on a promise that need not wait ends at once. -/
theorem sleepp_ends (hend : (s.bar (s.uidOf ag) bar.toNat).phase ≠ (s.reg ag a).getLsbD 0 ∨
    (s.bar (s.uidOf ag) bar.toNat).prom ≤ s.now) :
    exec (.sleepp h a bar) s =
      .next ((s.sleepEnd ag bar.toNat ((s.reg ag a).getLsbD 0)).run (.sleepp h a bar) ag) := by
  refine (perLane_executes _ hex).trans (congrArg _ (congrArg (LaneOut.run (.sleepp h a bar) ag) (if_pos ?_)))
  simpa using hend

/-- Otherwise it parks. -/
theorem sleepp_waits (hphase : (s.bar (s.uidOf ag) bar.toNat).phase = (s.reg ag a).getLsbD 0)
    (hprom : s.now < (s.bar (s.uidOf ag) bar.toNat).prom) :
    exec (.sleepp h a bar) s = .next (s.parkOn ag (.sleepp bar.toNat ((s.reg ag a).getLsbD 0))) := by
  refine (perLane_executes _ hex).trans (congrArg _ (congrArg (LaneOut.run (.sleepp h a bar) ag) (if_neg ?_)))
  simpa [hphase] using hprom

end Promise

section Wake
variable (hl : s.live ag = true)
include hl

/-- The wake of a sleeper on a tick that has come. -/
theorem sleepWake_tick {n : Nat} (hp : s.park ag = .sleept n) (hn : n ≤ s.now) :
    exec (.sleepWake ag) s = .next (s.advance ag) := by
  change execSleepWake ag s = _
  simp [execSleepWake, hl, hp, hn, State.release]

/-- The wake of a sleeper on a promise that has come ends its sleep. -/
theorem sleepWake_promise {b : Nat} {p : Bool} (hp : s.park ag = .sleepp b p)
    (hn : (s.bar (s.uidOf ag) b).prom ≤ s.now) :
    exec (.sleepWake ag) s = .next ((s.sleepEnd ag b p).run (.sleepp ⟨.al, false, 0, false, 0, 0⟩ vz 0) ag) := by
  change execSleepWake ag s = _
  simp [execSleepWake, hl, hp, hn]

end Wake
end Sleep

/-- Settles O16: each clause is what SLEEPT, the end of SLEEPP's sleep, or the wake does. -/
theorem sleepersWakeAtTheirTick : Obligations.SleepersWakeAtTheirTick := by
  intro s ag h a bar hdet v x p tick
  refine ⟨fun hex => ?sleept, fun hex => ?sleepp, fun hl => ⟨fun n hp hn => sleepWake_tick hl hp hn, ?moved, ?missed⟩⟩
  case sleept =>
    rw [sleept_executes hdet hex]
    exact ⟨fun hv => congrArg _ (if_pos hv), fun hv => congrArg _ (if_neg (Nat.not_le.mpr hv))⟩
  case sleepp =>
    refine ⟨fun hx => ?_, fun hx ht => sleepp_waits hex hx ht, fun hx ht => ?_⟩
    · rw [sleepp_ends hex (.inl hx), State.sleepEnd_moved hx]; rfl
    · rw [sleepp_ends hex (.inr ht), State.sleepEnd_missed hdet hx]; rfl
  case moved =>
    intro hp hn
    rw [sleepWake_promise hl hp hn, State.sleepEnd_moved (Bool.not_ne_self x.phase).symm]
    rfl
  case missed =>
    intro hp hn henter
    rw [sleepWake_promise hl hp hn, State.sleepEnd_missed hdet rfl]
    exact ⟨_, _, rfl, State.raise_enters _ _ henter⟩

end Sys2Proof.Machine
end

section
/-! SUPPORT. The answers of exec: every frame of an instruction and every device step ends in a next state, but for the
one stop, a device step that names a part the package does not have (R13, R14, R378); and with them the statement that
says so. -/

namespace Sys2Proof.Machine

open Sys2Proof.Safety

/-! ## Answering a next state -/

/-- The outcome is a next state. -/
def Answers (o : Out) : Prop := ∃ t, o = .next t

/-- The outcome is a next state when the parts named are there, and the stop when they are not. -/
def AnswersIf (ok : Bool) (o : Out) : Prop := (ok = true → Answers o) ∧ (ok = false → o = .fault .absentPart)

theorem answers_next (s : State) : Answers (.next s) := ⟨s, rfl⟩

theorem answers_ite {c : Prop} [Decidable c] {a b : Out} (ha : Answers a) (hb : Answers b) :
    Answers (if c then a else b) := by
  split
  · exact ha
  · exact hb

theorem Answers.always {o : Out} (h : Answers o) : AnswersIf true o := ⟨fun _ => h, fun hf => by cases hf⟩

/-- A step that checks one part's number first. -/
theorem Answers.part {n b : Nat} {o : Out} (h : Answers o) :
    AnswersIf (decide (n < b)) (if n ≥ b then .fault .absentPart else o) := by
  by_cases hn : n < b
  · rw [if_neg (Nat.not_le.mpr hn), decide_eq_true hn]; exact h.always
  · rw [if_pos (Nat.le_of_not_lt hn), decide_eq_false hn]; exact ⟨fun hf => (by cases hf), fun _ => rfl⟩

/-- A step that checks the numbers of a part and of a part of it first. -/
theorem Answers.parts {n b m c : Nat} {o : Out} (h : Answers o) :
    AnswersIf (decide (n < b) && decide (m < c)) (if n ≥ b || m ≥ c then .fault .absentPart else o) := by
  by_cases hok : n < b ∧ m < c
  · rw [if_neg (by simpa using hok), show (decide (n < b) && decide (m < c)) = true by simpa using hok]
    exact h.always
  · have habsent : n ≥ b ∨ m ≥ c := by omega
    rw [if_pos (by simpa using habsent), show (decide (n < b) && decide (m < c)) = false by simpa using hok]
    exact ⟨fun hf => (by cases hf), fun _ => rfl⟩

/-! ## The frames of the encoded forms -/

theorem answers_perLane (i : Instr) (f : Agent → State → LaneOut) (s : State) : Answers (perLane i f s) := answers_next _
theorem answers_simple (i : Instr) (f : Agent → State → State) (s : State) : Answers (simple i f s) := answers_perLane ..
theorem answers_signAll (i : Instr) (m : MaskNo) (s : State) : Answers (signAll i m s) := answers_next _
theorem answers_meetForm (i : Instr) (w : Agent → State → State) (s : State) : Answers (meetForm i w s) := answers_next _

theorem answers_maskForm (i : Instr) (m : MaskNo) (f : State → List Agent → Nat → Nat) (s : State) :
    Answers (maskForm i m f s) := by
  unfold maskForm
  split
  split
  · exact answers_next _
  · exact answers_next _

theorem execMjoin_answers (h : Hdr) (m : MaskNo) (s : State) : Answers (execMjoin h m s) := answers_maskForm ..
theorem execMleave_answers (h : Hdr) (m : MaskNo) (s : State) : Answers (execMleave h m s) := answers_maskForm ..
theorem execMset_answers (h : Hdr) (a : Reg) (m : MaskNo) (op : MsetOp) (s : State) : Answers (execMset h a m op s) :=
  answers_maskForm ..

theorem execSrseed_answers (h : Hdr) (a : Reg) (s : State) : Answers (execSrseed h a s) := by
  unfold execSrseed
  split
  split <;> exact answers_next _

theorem execSwr_answers (h : Hdr) (a : Reg) (n : BitVec 12) (s : State) : Answers (execSwr h a n s) :=
  answers_ite (answers_meetForm ..) (answers_simple ..)

/-! ## Device steps of accesses, agents, launches and the management path -/

theorem execFetchLine_answers (ag : Agent) (s : State) : Answers (execFetchLine ag s) := by
  refine answers_ite (answers_next _) ?_
  split <;> exact answers_next _

theorem execLateTrapDelivery_answers (ag : Agent) (s : State) : Answers (execLateTrapDelivery ag s) := by
  refine answers_ite (answers_next _) ?_
  split
  · exact answers_next _
  · split <;> exact answers_next _

theorem execPageWalk_answers (id : Nat) (s : State) : Answers (execPageWalk id s) := by
  unfold execPageWalk
  split
  · exact answers_next _
  · refine answers_ite (answers_next _) ?_
    split <;> exact answers_next _

theorem execPortUpdate_answers (id : Nat) (half : Bool) (s : State) : Answers (execPortUpdate id half s) := by
  unfold execPortUpdate
  split
  · split <;> exact answers_next _
  · exact answers_ite (answers_next _) (answers_ite (answers_next _) (answers_ite (answers_next _) (answers_next _)))

theorem execLongLatencyResult_answers (id : Nat) (s : State) : Answers (execLongLatencyResult id s) := by
  unfold execLongLatencyResult
  split
  · exact answers_next _
  · exact answers_ite (answers_next _) (answers_next _)

theorem execSleepWake_answers (ag : Agent) (s : State) : Answers (execSleepWake ag s) := by
  refine answers_ite (answers_next _) ?_
  split <;> exact answers_next _

theorem execMdrstTileApply_answers (id : Nat) (s : State) : Answers (execMdrstTileApply id s) := by
  unfold execMdrstTileApply
  split
  · exact answers_next _
  · split
    split
    · exact answers_next _
    · refine answers_ite ?_ (answers_next _)
      split <;> exact answers_next _

theorem execPrimitiveSetup_answers (l : Nat) (s : State) : Answers (execPrimitiveSetup l s) := by
  simp only [execPrimitiveSetup]
  split
  · exact answers_ite (answers_next _) (answers_next _)
  · exact answers_next _

theorem execPassEndWrite_answers (l : Nat) (s : State) : Answers (execPassEndWrite l s) := by
  simp only [execPassEndWrite]
  split
  · exact answers_next _
  · exact answers_ite (answers_next _) (answers_next _)

theorem execDetCommit_answers (l : Nat) (s : State) : Answers (execDetCommit l s) := by
  refine answers_ite (answers_next _) ?_
  split
  · exact answers_next _
  · refine answers_ite (answers_next _) ?_
    split <;> exact answers_next _

theorem execDetBufferFull_answers (u : Nat) (s : State) : Answers (execDetBufferFull u s) := by
  refine answers_ite (answers_ite (answers_next _) ?_) (answers_next _)
  split <;> exact answers_next _

theorem execImageSeal_answers (u : Nat) (s : State) : Answers (execImageSeal u s) := by
  refine answers_ite ?_ (answers_next _)
  split <;> exact answers_next _

theorem execEscrowRollback_answers (u : Nat) (s : State) : Answers (execEscrowRollback u s) := by
  unfold execEscrowRollback
  split
  · exact answers_ite (answers_next _) (answers_next _)
  · exact answers_next _

theorem execAttest_answers (nonce : List Byte) (s : State) : Answers (execAttest nonce s) := by
  unfold execAttest
  split
  · exact answers_ite (answers_next _) (answers_next _)
  · exact answers_next _

theorem execManagementWrite_answers (off : Nat) (wide : Bool) (v : DWord) (s : State) :
    Answers (execManagementWrite off wide v s) := by
  refine answers_ite (answers_ite (answers_next _) (answers_ite ?wide ?pair)) (answers_ite (answers_next _) ?narrow)
  case wide => split <;> exact answers_next _
  case pair => split <;> exact answers_next _
  case narrow => split <;> exact answers_next _

/-! ## Device steps of a core, a pair, a sampler, a die, a queue or a port -/

theorem execCopyChunkSend_answersIf (core n : Nat) (s : State) :
    AnswersIf (decide (core < 192) && decide (n < 16)) (execCopyChunkSend core n s) := by
  refine Answers.parts ?_
  split
  · exact answers_next _
  · refine answers_ite (answers_next _) (answers_ite (answers_next _) (answers_ite (answers_next _) ?_))
    dsimp only
    split
    · exact answers_next _
    · exact answers_ite (answers_next _) (answers_next _)
    · exact answers_next _

theorem execCopyChunkAck_answersIf (core n chunk : Nat) (s : State) :
    AnswersIf (decide (core < 192) && decide (n < 16)) (execCopyChunkAck core n chunk s) := by
  refine Answers.parts ?_
  split
  · exact answers_next _
  · split <;> exact answers_next _

theorem execTeamAdmission_answersIf (core : Nat) (s : State) :
    AnswersIf (decide (core < 192)) (execTeamAdmission core s) := by
  refine Answers.part ?_
  split
  · exact answers_next _
  · exact answers_next _
  · split <;> exact answers_next _

theorem execTeamRelaunch_answersIf (u core : Nat) (s : State) :
    AnswersIf (decide (core < 192)) (execTeamRelaunch u core s) := by
  refine Answers.part (answers_ite (answers_next _) ?_)
  dsimp only
  split <;> exact answers_next _

theorem execWalkerRay_answersIf (core : Nat) (s : State) : AnswersIf (decide (core < 192)) (execWalkerRay core s) := by
  refine Answers.part ?_
  dsimp only
  split
  · exact answers_next _
  · exact answers_next _
  · exact answers_next _
  · split <;> exact answers_next _

theorem execMeshGroupStart_answersIf (core slot : Nat) (s : State) :
    AnswersIf (decide (core < 192) && decide (slot < 4)) (execMeshGroupStart core slot s) := by
  refine Answers.parts ?_
  dsimp only
  split
  · exact answers_next _
  · refine answers_ite (answers_next _) ?_
    split <;> exact answers_next _

theorem execReplayCheck_answersIf (core port n : Nat) (s : State) :
    AnswersIf (decide (core < 192) && decide (port < 8)) (execReplayCheck core port n s) := by
  refine Answers.parts ?_
  dsimp only
  split
  · exact answers_next _
  · split
    · exact answers_next _
    · exact answers_ite (answers_next _) (answers_next _)

theorem execPixelGroupStart_answersIf (pair : Nat) (s : State) :
    AnswersIf (decide (pair < 96)) (execPixelGroupStart pair s) := by
  refine Answers.part ?_
  dsimp only
  split <;> exact answers_next _

theorem execTileFlush_answersIf (pair l tx ty : Nat) (s : State) :
    AnswersIf (decide (pair < 96)) (execTileFlush pair l tx ty s) := by
  refine Answers.part ?_
  split
  · exact answers_next _
  · dsimp only
    split <;> exact answers_next _

theorem execTileReload_answersIf (pair l tx ty : Nat) (s : State) :
    AnswersIf (decide (pair < 96)) (execTileReload pair l tx ty s) := by
  refine Answers.part ?_
  split
  · exact answers_next _
  · exact answers_ite (answers_next _) (answers_next _)

theorem execWeightCacheFill_answersIf (smp : Nat) (table : DWord) (gen : BitVec 16) (s : State) :
    AnswersIf (decide (smp < 96)) (execWeightCacheFill smp table gen s) := by
  refine Answers.part ?_
  split
  · exact answers_next _
  · refine answers_ite (answers_next _) ?_
    dsimp only
    split <;> exact answers_next _

theorem execFaultAnswerMap_answersIf (dn n : Nat) (s : State) :
    AnswersIf (decide (dn < 2)) (execFaultAnswerMap dn n s) := by
  refine Answers.part ?_
  split <;> exact answers_next _

theorem execFaultAnswerRefuse_answersIf (dn n : Nat) (s : State) :
    AnswersIf (decide (dn < 2)) (execFaultAnswerRefuse dn n s) := by
  refine Answers.part ?_
  split <;> exact answers_next _

theorem execFencePacketRelease_answersIf (q : Nat) (s : State) :
    AnswersIf (decide (q < 64)) (execFencePacketRelease q s) := by
  refine Answers.part (answers_ite (answers_next _) ?_)
  dsimp only
  split <;> exact answers_next _

theorem execSignalApply_answersIf (q : Nat) (s : State) : AnswersIf (decide (q < 64)) (execSignalApply q s) := by
  refine Answers.part ?_
  dsimp only
  split
  · exact answers_next _
  · exact answers_ite (answers_next _) (answers_next _)

theorem execPeerAckReceive_answersIf (n seq : Nat) (prot : Bool) (s : State) :
    AnswersIf (decide (n < 12)) (execPeerAckReceive n seq prot s) := by
  refine Answers.part (answers_ite (answers_next _) ?_)
  dsimp only
  split
  · exact answers_next _
  · exact answers_ite (answers_next _) (answers_next _)

theorem execPeerChunkReceive_answersIf (n : Nat) (f : ChunkFlit) (s : State) :
    AnswersIf (decide (n < 12)) (execPeerChunkReceive n f s) :=
  Answers.part (answers_ite (answers_next _)
    (answers_ite (answers_next _) (answers_ite (answers_next _) (answers_next _))))

/-! ## The statement -/

/-- What exec answers for each instruction and device step. -/
theorem exec_answersIf (i : Instr) (s : State) : AnswersIf (partsOk i) (exec i s) := by
  cases i with
  | nop | mget | iadd | isub | imul | imulh | imad | iminmax | bool | shf | bfx | bfi | bitc | icmp | sel | mov |
    movi | lea | bysel | fadd | fmul | ffma | fminmax | fcmp | fclass | frnd | fscale | dadd | dmul | dfma | dcmp |
    hadd2 | hmul2 | hfma2 | sfn | aconj | anorm | amul | cvt | cvth2 | cvtq8 | cvtq4 | cvtw | unpq | i2i | cmutclr |
    cseed | pref | emitColour | bra | brx | call | ret | exit | sleept | sleepp | rdv | srd | draw | drawb | drawi |
    drawn | drawt | csetup | cmut | cresult | crestart | caccept | ccmp | cpeek | ld | st | ldv | stv | ldk | atom |
    red | cas | fence | icinv | cctl | copy | cwait | binit | bwait | btest | bexpt | discard | samp | sampinv |
    tbox | ttri | emitVertex | emitPrim | trap | trapretRetry | trapretSkip | trapretSupply | trapretAccept | launch |
    tlbinv | bkpt => exact (answers_perLane _ _ _).always
  | vote | shfl | vcomp | vexp | iscan | ired | fred | fscan | bscale | malg | mwld | mgath | mscale | mma | mzero |
    mldacc | mdrain | mdrst | mstat | barv | spush | spop => exact (answers_signAll _ _ _).always
  | meetset | meetrst => exact (answers_meetForm _ _ _).always
  | mjoin => exact (execMjoin_answers ..).always
  | mleave => exact (execMleave_answers ..).always
  | mset => exact (execMset_answers ..).always
  | mwait | fork | shray | emitPayload | emptySlot | powerRequestP0 | powerRequestP1 | powerRequestP2 |
    powerRequestP3 | fatalDump | reset => exact (answers_next _).always
  | collectiveBody | bkptResumption | stoptick | clockRelease | firmwareImage | icinvAcknowledgement |
    tlbinvAcknowledgement | sampinvAcknowledgement => exact (answers_ite (answers_next _) (answers_next _)).always
  | launchCompletion | retentionEntry | tokenSubmit =>
    exact (answers_ite (answers_next _) (answers_ite (answers_next _) (answers_next _))).always
  | bursarExit | arrayRelease | queueDoorbell | queueEnable | queueDisable | haltClear | preemptSet | preemptClear |
    portDownClear => exact (answers_next _).part
  | launchPacket | fencePacket | signalPacket | timeSeriesSample | heartbeatReceive | heartbeatSend |
    chunkRetransmit | portDown => exact (answers_ite (answers_next _) (answers_next _)).part
  | taskSlotFree | monitorRead | monitorClear | monitorSelect =>
    exact (answers_ite (answers_next _) (answers_next _)).parts
  | swr => exact (execSwr_answers ..).always
  | srseed => exact (execSrseed_answers ..).always
  | fetchLine => exact (execFetchLine_answers ..).always
  | longLatencyResult => exact (execLongLatencyResult_answers ..).always
  | lateTrapDelivery => exact (execLateTrapDelivery_answers ..).always
  | pageWalk => exact (execPageWalk_answers ..).always
  | portUpdate => exact (execPortUpdate_answers ..).always
  | sleepWake => exact (execSleepWake_answers ..).always
  | copyChunkSend => exact execCopyChunkSend_answersIf ..
  | copyChunkAck => exact execCopyChunkAck_answersIf ..
  | mdrstTileApply => exact (execMdrstTileApply_answers ..).always
  | weightCacheFill => exact execWeightCacheFill_answersIf ..
  | walkerRay => exact execWalkerRay_answersIf ..
  | meshGroupStart => exact execMeshGroupStart_answersIf ..
  | primitiveSetup => exact (execPrimitiveSetup_answers ..).always
  | pixelGroupStart => exact execPixelGroupStart_answersIf ..
  | tileFlush => exact execTileFlush_answersIf ..
  | tileReload => exact execTileReload_answersIf ..
  | passEndWrite => exact (execPassEndWrite_answers ..).always
  | replayCheck => exact execReplayCheck_answersIf ..
  | escrowRollback => exact (execEscrowRollback_answers ..).always
  | teamRelaunch => exact execTeamRelaunch_answersIf ..
  | fencePacketRelease => exact execFencePacketRelease_answersIf ..
  | signalApply => exact execSignalApply_answersIf ..
  | imageSeal => exact (execImageSeal_answers ..).always
  | teamAdmission => exact execTeamAdmission_answersIf ..
  | detCommit => exact (execDetCommit_answers ..).always
  | detBufferFull => exact (execDetBufferFull_answers ..).always
  | faultAnswerMap => exact execFaultAnswerMap_answersIf ..
  | faultAnswerRefuse => exact execFaultAnswerRefuse_answersIf ..
  | managementWrite => exact (execManagementWrite_answers ..).always
  | attest => exact (execAttest_answers ..).always
  | peerChunkReceive => exact execPeerChunkReceive_answersIf ..
  | peerAckReceive => exact execPeerAckReceive_answersIf ..

/-- Settles O58: exec answers a next state where the parts named are there, and the stop where they are not. -/
theorem everyInstructionHasAnEffect : Obligations.EveryInstructionHasAnEffect := exec_answersIf

end Sys2Proof.Machine
end

section
/-! SUPPORT. Traps at issue (R51, R256, R262) and double faults (R59, R228, R259): an encoding trap ends its instruction
before any effect, recovery leaves the killed team its first fault, and no context that has ended acts again; and with them
the statement about the handler. -/

namespace Sys2Proof.Machine

open Sys2Proof.Safety

/-! ## An encoding trap comes before the effect (R51) -/

section Encoding
variable {s : State} {ag : Agent} {i : Instr} {t : Trap} (ht : Traps s ag i t)
include ht

/-- The cohort of one agent that traps executes nobody. -/
theorem cohort_traps : cohort i s = (s.raise ag i t, []) := by
  obtain ⟨hcur, hlive, htrap⟩ := ht
  simp [cohort, hcur, hlive, htrap]

theorem maskForm_traps (m : MaskNo) (f : State → List Agent → Nat → Nat) :
    maskForm i m f s = .next (s.raise ag i t) := by
  simp only [maskForm, cohort_traps ht]

theorem meetForm_traps (w : Agent → State → State) : meetForm i w s = .next (s.raise ag i t) := by
  obtain ⟨hcur, hlive, htrap⟩ := ht
  simp [meetForm, hcur, State.executes, laneStep, hlive, htrap]

end Encoding

/-- A stall of no lane changes nothing. -/
theorem stallRun_nil (i : Instr) (n : Nat) (serve : Agent → State → Option State) (s : State) :
    stallRun i n serve [] s = s := rfl

/-- A form whose lanes act one by one raises its encoding trap, and does nothing else. -/
theorem exec_traps {s : State} {ag : Agent} {i : Instr} {t : Trap} (hi : laneForm i = true) (ht : Traps s ag i t) :
    exec i s = .next (s.raise ag i t) := by
  cases i with
  | nop | mget | iadd | isub | imul | imulh | imad | iminmax | bool | shf | bfx | bfi | bitc | icmp | sel | mov |
    movi | lea | bysel | fadd | fmul | ffma | fminmax | fcmp | fclass | frnd | fscale | dadd | dmul | dfma | dcmp |
    hadd2 | hmul2 | hfma2 | sfn | aconj | anorm | amul | cvt | cvth2 | cvtq8 | cvtq4 | cvtw | unpq | i2i | cmutclr |
    cseed | pref | emitColour | bra | brx | call | ret | exit | sleept | sleepp | rdv | srd | draw | drawb | drawi |
    drawn | drawt | csetup | cmut | cresult | crestart | caccept | ccmp | cpeek | ld | st | ldv | stv | ldk | atom |
    red | cas | fence | icinv | cctl | copy | cwait | binit | bwait | btest | bexpt | discard | samp | sampinv |
    tbox | ttri | emitVertex | emitPrim | trap | trapretRetry | trapretSkip | trapretSupply | trapretAccept | launch |
    tlbinv | bkpt => exact perLane_traps _ ht
  | meetset | meetrst => exact meetForm_traps ht _
  | mjoin h m =>
    change execMjoin h m s = _
    exact maskForm_traps ht _ _
  | mleave h m =>
    change execMleave h m s = _
    exact maskForm_traps ht _ _
  | mset h a m op =>
    change execMset h a m op s = _
    exact maskForm_traps ht _ _
  | swr h a n =>
    change execSwr h a n s = _
    unfold execSwr
    split
    · exact meetForm_traps ht _
    · exact perLane_traps _ ht
  | srseed h a =>
    change execSrseed h a s = _
    simp only [execSrseed, cohort_traps ht, List.foldl_nil]
  | fork h d a disp =>
    change execFork h d a disp s = _
    simp only [execFork, cohort_traps ht, List.foldl_nil, stallRun_nil]
  | shray h d a b c fx =>
    change execShray h d a b c fx s = _
    simp only [execShray, cohort_traps ht, List.foldl_nil, stallRun_nil]
  | emitPayload h d a b c =>
    change execEmitPayload h d a b c s = _
    simp only [execEmitPayload, cohort_traps ht, List.foldl_nil, stallRun_nil]
  | _ => cases hi

/-! ## TRAP and BKPT (R262) -/

section TrapForms
variable {s : State} {ag : Agent} {h : Hdr} {code : BitVec 12}

theorem trap_executes {a : Reg} (hex : Executes s ag (.trap h a code)) :
    exec (.trap h a code) s = .next (s.raise ag (.trap h a code)
      ⟨0x04, BitVec.ofNat 64 (code.toNat * 2 ^ 32 + (s.reg ag a).toNat), 0⟩) := perLane_executes _ hex

/-- BKPT raises BREAKPOINT where its context is not armed. -/
theorem bkpt_executes (hex : Executes s ag (.bkpt h code))
    (harm : (s.dbg.armed.contains (s.ctxNo (s.uidOf ag)) && s.feature 1) = false) :
    exec (.bkpt h code) s =
      .next (s.raise ag (.bkpt h code) ⟨0x05, BitVec.ofNat 64 code.toNat, 0⟩) := by
  refine (perLane_executes _ hex).trans ?_
  cases ag with
  | thread u g l =>
    rw [show s.uidOf (.thread u g l) = u from rfl] at harm
    simp only [harm, Bool.false_eq_true, if_false]
    rfl
  | ctx k c => rfl

@[simp] theorem State.dstOf_trap (a : Reg) : s.dstOf ag (.trap h a code) = [] := rfl
@[simp] theorem State.dstOf_bkpt : s.dstOf ag (.bkpt h code) = [] := rfl

end TrapForms

/-! ## Steps that touch no fault record -/

/-- What a double fault writes of a team (R259): its status and its first fault. -/
def Team.faults (x : Team) : TeamStat × Option ErrInfo := (x.stat, x.first)

/-- A step leaves every team its status and its first fault, and no context that has ended acts again. -/
structure Calm (s t : State) : Prop where
  faults : ∀ u, (t.team u).faults = (s.team u).faults
  ended : ∀ k c, (s.bctx k c).run = .ended → (t.bctx k c).run = .ended

theorem Calm.refl (s : State) : Calm s s := ⟨fun _ => rfl, fun _ _ h => h⟩

theorem Calm.trans {r s t : State} (h : Calm r s) (h' : Calm s t) : Calm r t :=
  ⟨fun u => (h'.faults u).trans (h.faults u), fun k c hc => h'.ended k c (h.ended k c hc)⟩

theorem Calm.stat {s t : State} (h : Calm s t) (u : Nat) : (t.team u).stat = (s.team u).stat :=
  congrArg Prod.fst (h.faults u)

theorem Calm.first {s t : State} (h : Calm s t) (u : Nat) : (t.team u).first = (s.team u).first :=
  congrArg Prod.snd (h.faults u)

/-- A step that writes neither teams nor cores. -/
theorem Calm.of_parts {s t : State} (ht : t.teams = s.teams := by rfl) (hc : t.cores = s.cores := by rfl) :
    Calm s t :=
  ⟨fun u => by rw [State.team, State.team, ht], fun k c h => by rwa [State.bctx, State.core, hc]⟩

/-- A step that rewrites the teams one by one. -/
theorem Calm.of_map {s t : State} (f : Nat × Team → Nat × Team) (hkey : ∀ e, (f e).1 = e.1)
    (hfaults : ∀ e, (f e).2.faults = e.2.faults) (ht : t.teams = s.teams.map f := by rfl)
    (hc : t.cores = s.cores := by rfl) : Calm s t := by
  refine ⟨fun u => ?_, fun k c h => by rwa [State.bctx, State.core, hc]⟩
  rw [State.team, State.team, ht, aget, aget, afind_map f hkey]
  cases afind s.teams u with
  | none => rfl
  | some x => exact hfaults (u, x)

theorem Calm.ite {c : Prop} [Decidable c] {s t t' : State} (h : Calm s t) (h' : Calm s t') :
    Calm s (if c then t else t') := by
  split
  · exact h
  · exact h'

theorem Calm.foldl {α : Type} {f : State → α → State} (h : ∀ s a, Calm s (f s a)) (s : State) (l : List α) :
    Calm s (l.foldl f s) :=
  List.foldlRecOn l f (Calm.refl s) (fun _ hs a _ => hs.trans (h _ a))

/-- A fold that carries something else besides the state. -/
theorem Calm.foldl_fst {α β : Type} {f : State × β → α → State × β} (h : ∀ p a, Calm p.1 (f p a).1) (p : State × β)
    (l : List α) : Calm p.1 (l.foldl f p).1 :=
  List.foldlRecOn (motive := fun q => Calm p.1 q.1) l f (Calm.refl p.1) (fun _ hs a _ => hs.trans (h _ a))

/-! ### Writes of a team, a core, an agent's trap state -/

theorem calm_setTeam {s : State} {u : Nat} {x : Team} (h : x.faults = (s.team u).faults := by rfl) :
    Calm s (s.setTeam u x) := by
  refine ⟨fun v => ?_, fun _ _ hc => hc⟩
  by_cases hv : v = u
  · subst hv; rw [State.team_setTeam, h]
  · rw [State.team_setTeam_ne _ _ hv]

theorem calm_setCore {s : State} {k : Nat} {x : Core}
    (h : ∀ c, ((s.core k).ctx c).run = .ended → (x.ctx c).run = .ended := by exact fun _ h => h) :
    Calm s (s.setCore k x) := by
  refine ⟨fun _ => rfl, fun j c hc => ?_⟩
  by_cases hj : j = k
  · subst hj; rw [State.bctx, State.core_setCore]; exact h c hc
  · rwa [State.bctx, State.core_setCore_ne _ _ hj]

/-- Ending a context, or leaving its run state, wakes none that has ended. -/
theorem calm_setBctx {s : State} {k c : Nat} {x : BCtx} (h : (s.bctx k c).run = .ended → x.run = .ended) :
    Calm s (s.setBctx k c x) := by
  refine ⟨fun _ => rfl, fun j d hd => ?_⟩
  rw [State.bctx_setBctx_any]
  split
  · next hjd => obtain ⟨rfl, rfl⟩ := hjd; exact h hd
  · exact hd

theorem calm_setTrap (s : State) (ag : Agent) (x : TrapState) : Calm s (s.setTrap ag x) := by
  cases ag with
  | thread u g l => exact calm_setTeam
  | ctx k c => exact calm_setBctx id

/-! ### Memory, its tags and its ports -/

theorem calm_hbmWrite (s : State) (a n x : Nat) : Calm s (s.hbmWrite a n x) :=
  Calm.ite .of_parts (.refl s)

theorem Team.faults_scrWrite (x : Team) (sd : Bool) (o n v : Nat) : (x.scrWrite sd o n v).faults = x.faults := by
  cases sd <;> rfl

theorem calm_rawWrite (s : State) (l : Loc) (n x : Nat) : Calm s (s.rawWrite l n x) := by
  cases l with
  | hbm a => exact calm_hbmWrite s a n x
  | vault a => exact .of_parts
  | scr u sd o => exact calm_setTeam (Team.faults_scrWrite _ sd o n x)
  | host a c => exact .of_parts

theorem calm_clearTag (s : State) (l : Loc) (n : Nat) : Calm s (s.clearTag l n) := by
  cases l with
  | hbm a => exact .of_parts
  | scr u sd o => exact Calm.ite calm_setTeam calm_setTeam
  | vault a => exact .refl s
  | host a c => exact .refl s

theorem calm_mend (s : State) (hs : List Held) : Calm s (s.mend hs) := by
  refine Calm.of_map _ (fun e => ?_) (fun e => ?_) rfl rfl
  · dsimp only; split <;> rfl
  · dsimp only; split <;> rfl

theorem calm_tallyVault (s : State) (l : Loc) (reads writes : Bool) : Calm s (s.tallyVault l reads writes) := by
  cases l with
  | vault x =>
    have hcount (r : State) (m n : Nat) : Calm r (r.tally m n) := .of_parts
    cases reads with
    | true => exact Calm.ite ((hcount _ _ _).trans (hcount _ _ _)) (hcount _ _ _)
    | false => exact Calm.ite (hcount _ _ _) (.refl s)
  | hbm | scr | host => exact .refl s

theorem calm_portUpdate (s : State) (l : Loc) (n : Nat) (op : PortOp) (x : Nat) : Calm s (s.portUpdate l n op x).1 := by
  have htally (r w : Bool) (y : Nat) : Calm s ((s.tallyVault l r w).rawWrite l n y) :=
    (calm_tallyVault s l r w).trans (calm_rawWrite _ l n y)
  cases op with
  | cas e =>
    simp only [State.portUpdate]
    split
    · exact htally _ _ x
    · exact calm_tallyVault s l _ _
  | write | upd | half | badd => exact htally _ _ _

/-! ### L1 (R172) -/

theorem calm_trapRacing (s : State) (es : List (Nat × Nat × Access)) : Calm s (s.trapRacing es) :=
  Calm.foldl (fun s _ => Calm.ite (.refl s) .of_parts) s es

theorem calm_lineNote (s : State) (u pa n : Nat) (write : Bool) : Calm s (s.lineNote u pa n write) :=
  (Calm.refl s).ite .of_parts

theorem calm_writeBack (s : State) (l : L1Line) : Calm s (s.writeBack l) := by
  have hbytes (r : State) (is : List Nat) :
      Calm r (is.foldl (fun s i => s.hbmWrite (64 * l.line + i) 1 (l.byte i)) r) :=
    Calm.foldl (fun s i => calm_hbmWrite s _ _ _) r is
  refine (((calm_trapRacing s _).trans (hbytes _ _)).trans Calm.of_parts).trans (Calm.foldl (fun r k => ?_) _ _)
  exact (calm_lineNote r _ _ _ _).ite (calm_clearTag r _ _)

theorem calm_cleanLine (s : State) (l : L1Line) (drop : Bool) : Calm s (s.cleanLine l drop).1 := by
  unfold State.cleanLine
  split <;> exact calm_writeBack s l

theorem calm_l1Clean (s : State) (core : Nat) (which : L1Line → Bool) (drop : Bool) :
    Calm s (s.l1Clean core which drop) := by
  refine (Calm.foldl_fst (fun p l => ?_) (s, []) (s.core core).l1).trans calm_setCore
  split
  · exact calm_cleanLine p.1 l drop
  · exact .refl p.1

theorem calm_l1DropClean (s : State) (core : Nat) : Calm s (s.l1DropClean core) := calm_setCore

/-! ### Held writes and rays (R391, R398, R399) -/

theorem calm_applyHeld (s : State) (hs : List Held) : Calm s (s.applyHeld hs) := by
  refine Calm.foldl (fun s h => ?_) s hs
  have hport := (calm_portUpdate s h.loc h.n h.op h.data).trans (calm_mend _ (hs.filter (fun g => g.key == h.key)))
  exact hport.ite (hport.trans (calm_clearTag _ _ _))

theorem calm_flushHeld (s : State) (u : Nat) (hs : List Held) : Calm s (s.flushHeld u hs) := by
  refine Calm.foldl (fun s h => ?_) s hs
  split
  · exact Calm.foldl (fun s c => calm_l1Clean s c _ true) s _
  · exact .refl s

theorem calm_icInvalidate (s : State) (core ctx start n : Nat) : Calm s (s.icInvalidate core ctx start n) := calm_setCore

theorem calm_icAgain (s : State) (u : Nat) : Calm s (s.icAgain u) := by
  refine Calm.ite (.refl s) (Calm.trans calm_setTeam (Calm.foldl (fun r i => ?_) _ _))
  exact Calm.foldl (fun r k => calm_icInvalidate r k _ _ _) r _

theorem calm_addRays (s : State) (rs : List Ray) : Calm s (s.addRays rs) :=
  Calm.foldl (fun _ _ => calm_setCore) s rs

/-- An interval committed early. -/
theorem calm_commitEarly (s : State) (u : Nat) : Calm s (s.commitEarly u) := by
  refine Calm.ite ?_ (Calm.ite calm_setTeam (.refl s))
  have hheld : Calm s ((s.commitHeld u (s.team u).held).addRays (s.team u).rays) :=
    (((calm_flushHeld s u _).trans (calm_applyHeld _ _)).trans (calm_icAgain _ u)).trans (calm_addRays _ _)
  exact (hheld.trans calm_setTeam).trans (Calm.foldl calm_l1DropClean _ _)

/-! ### What the device's own units write (R388, R401, R410) -/

theorem calm_unitWrite (s : State) (ctx va n x : Nat) : Calm s (s.unitWrite ctx va n x) := by
  refine Calm.foldl (fun s p => (Calm.refl s).ite ?_) s _
  split
  · exact ((calm_rawWrite _ _ _ _).trans (calm_clearTag _ _ _)).ite (.refl s)
  · exact .refl s

theorem calm_fatalDump (s : State) : Calm s s.fatalDump :=
  (Calm.refl s).ite ((calm_rawWrite s _ _ _).trans .of_parts)

theorem calm_logCheck (s : State) (r : McRec) : Calm s (s.logCheck r) :=
  Calm.ite .of_parts .of_parts

theorem calm_unitAdd (s : State) (ctx va x : Nat) : Calm s (s.unitAdd ctx va x) := by
  unfold State.unitAdd
  split
  · exact (calm_logCheck s _).trans (calm_fatalDump _)
  · exact calm_unitWrite s _ _ _ _

theorem calm_queueError (s : State) (q : Nat) (launchid : Word) (e : ErrInfo) : Calm s (s.queueError q launchid e) :=
  (calm_unitAdd s _ _ _).ite (Calm.trans .of_parts (calm_unitWrite _ _ _ _ _))

/-! ## Stopping a team and ending its launch (R259) -/

/-- Ending a team's contexts wakes none that has ended. -/
theorem BCtx.endIf_ended {uid : Nat} {b : BCtx} (h : b.run = .ended) : (b.endIf uid).run = .ended := by
  unfold BCtx.endIf
  split
  · rfl
  · exact h

theorem calm_stopBursar (s : State) (uid : Nat) : Calm s (s.stopBursar uid) := by
  refine Calm.foldl (fun s k => calm_setCore fun c hc => ?_) s _
  simp only [Core.ctx, aget, afind_map (fun e : Nat × BCtx => (e.1, e.2.endIf uid)) (fun _ => rfl)] at hc ⊢
  cases hfind : afind (s.core k).ctxs c with
  | none => rw [hfind] at hc; cases hc
  | some b => rw [hfind] at hc; exact BCtx.endIf_ended hc

theorem calm_unwait (s : State) (uid : Nat) : Calm s (s.unwait uid) :=
  Calm.foldl (fun _ _ => calm_setCore) s _

/-- Stopping a team is a write of its status after steps that touch no fault record. -/
theorem State.stopTeam_eq (s : State) (uid : Nat) (st : TeamStat) :
    ∃ r, Calm s r ∧ s.stopTeam uid st = r.setTeam uid { r.team uid with stat := st } :=
  ⟨_, ((calm_stopBursar s uid).trans (calm_unwait _ uid)).trans .of_parts, rfl⟩

/-- The status of a team that a fault has killed. -/
def ErrInfo.killed (e : ErrInfo) : TeamStat := .killed e.kind e.cause e.pc e.lane e.val e.addr

/-- A record is that of one of two faults, but for its kind. -/
def ErrInfo.OneOf (x e f : ErrInfo) : Prop := ∃ kind, x = { e with kind := kind } ∨ x = { f with kind := kind }

/-- From s to t, a fault e has killed team u, whose first fault is f, and contexts that had ended have not come back. -/
structure Faulted (s t : State) (u : Nat) (e f : ErrInfo) : Prop where
  first : (t.team u).first = some f
  killed : ∃ x, ErrInfo.OneOf x e f ∧ (t.team u).stat = x.killed
  ended : ∀ k c, (s.bctx k c).run = .ended → (t.bctx k c).run = .ended

section Faulted
variable {s t : State} {u : Nat} {e f : ErrInfo}

theorem Faulted.calm {t' : State} (h : Faulted s t u e f) (hc : Calm t t') : Faulted s t' u e f where
  first := (hc.first u).trans h.first
  killed := by rw [hc.stat]; exact h.killed
  ended k c hk := hc.ended k c (h.ended k c hk)

/-- A fault that comes after a step which touches no fault record. -/
theorem Faulted.after {r : State} (h : Faulted s t u e f) (hc : Calm r s) : Faulted r t u e f :=
  ⟨h.first, h.killed, fun k c hk => h.ended k c (hc.ended k c hk)⟩

/-- A team killed once more, itself or another. -/
theorem Faulted.stopTeam {x : ErrInfo} (h : Faulted s t u e f) (hx : x.OneOf e f) (v : Nat) :
    Faulted s (t.stopTeam v x.killed) u e f := by
  obtain ⟨r, hcalm, hr⟩ := t.stopTeam_eq v x.killed
  have h := h.calm hcalm
  rw [hr]
  by_cases hv : u = v
  · subst hv
    exact ⟨by rw [State.team_setTeam]; exact h.first, ⟨x, hx, by rw [State.team_setTeam]⟩, h.ended⟩
  · exact ⟨by rw [State.team_setTeam_ne _ _ hv]; exact h.first, by rw [State.team_setTeam_ne _ _ hv]; exact h.killed,
      h.ended⟩

/-- The end of a launch for one of the faults. -/
theorem Faulted.launchError {x : ErrInfo} (h : Faulted s t u e f) (hx : x.OneOf e f) (l : Nat) :
    Faulted s (t.launchError l x) u e f := by
  simp only [State.launchError]
  split
  · exact h
  · refine List.foldlRecOn (motive := fun r => Faulted s r u e f) _ _ ?_ fun r hr v _ => hr.stopTeam hx v
    exact h.calm ((calm_queueError t _ _ x).trans .of_parts)

end Faulted

/-- Recovery kills the team and leaves it its first fault, whichever step of R259 it takes. -/
theorem State.recover_faulted (s : State) (u : Nat) (roll idem : Bool) (e : ErrInfo) :
    Faulted s (s.recover u roll idem e) u e ((s.team u).first.getD e) := by
  generalize hf : (s.team u).first.getD e = f
  have he (kind : Nat) : ErrInfo.OneOf { e with kind := kind } e f := ⟨kind, .inl rfl⟩
  have hf' (kind : Nat) : ErrInfo.OneOf { f with kind := kind } e f := ⟨kind, .inr rfl⟩
  have hstop : Faulted s ((s.stopTeam u e.killed).setTeam u
      { (s.stopTeam u e.killed).team u with first := some f }) u e f := by
    obtain ⟨r, hcalm, hr⟩ := s.stopTeam_eq u e.killed
    rw [hr]
    exact ⟨by simp, ⟨e, he e.kind, by simp⟩, hcalm.ended⟩
  simp only [ErrInfo.killed] at hstop
  simp only [State.recover, hf]
  split
  · exact hstop.launchError (he e.kind) _
  split
  · exact hstop.launchError (hf' 4) _
  split
  · exact hstop
  split
  · exact hstop.calm (calm_commitEarly _ u)
  · refine hstop.launchError ?_ _
    split
    · exact he e.kind
    · exact hf' e.kind

/-- A double fault of a running team. -/
theorem State.doubleFault_faulted {s : State} {u : Nat} (cause : Nat) (pc : Word) (lane : Nat) (val addr : DWord)
    (h : (s.team u).stat = .running) :
    Faulted s (s.doubleFault u cause pc lane val addr) u ⟨2, 0, cause, pc, (s.team u).teamid, lane, val, addr⟩
      ((s.team u).first.getD ⟨2, 0, cause, pc, (s.team u).teamid, lane, val, addr⟩) := by
  simp only [State.doubleFault, h]
  exact State.recover_faulted ..

/-! ## A trap where no handler may run (R59, R228, R259) -/

/-- May an agent's trap not enter a handler: it is a context, runs in a handler already, or its kernel has none? -/
abbrev MayNotEnter (s : State) (ag : Agent) : Prop :=
  Agent.bursar ag = true ∨ (s.trapOf ag).lvl = true ∨ (s.descOf ag).handler = 0

/-- The record of a double fault of an agent's team. -/
def doubleFaultOf (s : State) (ag : Agent) (cause : Nat) (tpc : Word) (val addr : DWord) : ErrInfo :=
  ⟨2, 0, cause, tpc, (s.team (s.uidOf ag)).teamid, Agent.lane ag, val, addr⟩

/-- A trap taken there is a double fault of the agent's team, and ends a context. -/
theorem State.takeTrap_faulted {s : State} {ag : Agent} (cause : Nat) (tpc : Word) (val addr : DWord) (resume : Word)
    (saved : Option Access) (hrun : (s.team (s.uidOf ag)).stat = .running) (hno : MayNotEnter s ag) :
    let e := doubleFaultOf s ag cause tpc val addr
    let t := s.takeTrap ag cause tpc val addr resume saved
    Faulted s t (s.uidOf ag) e ((s.team (s.uidOf ag)).first.getD e) ∧
      ∀ k c, ag = .ctx k c → (t.bctx k c).run = .ended := by
  cases ag with
  | thread u g l =>
    have hno : (s.trapOf (.thread u g l)).lvl = true ∨ (s.descOf (.thread u g l)).handler = 0 :=
      hno.resolve_left (by simp [Agent.bursar])
    simp only [State.takeTrap_double _ _ _ _ _ _ hno]
    exact ⟨State.doubleFault_faulted cause tpc l val addr hrun, fun _ _ h => by cases h⟩
  | ctx k c =>
    have hends : Calm s (s.setBctx k c { s.bctx k c with run := .ended }) := calm_setBctx fun _ => rfl
    have hfault := State.doubleFault_faulted cause tpc 0 val addr ((hends.stat (s.bctx k c).uid).trans hrun)
    simp only [State.takeTrap_ctx]
    refine ⟨hfault.after hends, ?_⟩
    rintro _ _ ⟨⟩
    exact hfault.ended k c (by rw [State.bctx_setBctx])

@[simp] theorem State.uidOf_setTrap (s : State) (ag : Agent) (x : TrapState) : (s.setTrap ag x).uidOf ag = s.uidOf ag := by
  cases ag <;> simp [State.setTrap, State.uidOf]

/-- Writing an agent's trap state leaves the number of every team. -/
@[simp] theorem State.teamid_setTrap (s : State) (ag : Agent) (x : TrapState) (u : Nat) :
    ((s.setTrap ag x).team u).teamid = (s.team u).teamid := by
  cases ag with
  | thread v g l =>
    change ((s.setGrp v g _).team u).teamid = _
    rw [s.team_setGrp v g u]
  | ctx k c => rfl

/-- With nothing on its way, an agent takes a trap at issue at once, its instruction's destination recorded. -/
theorem State.raise_still {s : State} {ag : Agent} (i : Instr) (t : Trap) (hs : Still s ag) :
    s.raise ag i t = (s.setTrap ag { s.trapOf ag with dst := s.dstOf ag i }).takeTrap ag t.cause (s.pc ag) t.val t.addr
      (s.pc ag) none := by
  have hstill : Still (s.setTrap ag { s.trapOf ag with dst := s.dstOf ag i }) ag := by
    simpa [Still, State.accsOf] using hs
  rw [State.raise, State.raiseAs, State.raiseTrap_still _ _ _ hstill, State.pc_setTrap]

/-- A trap at issue there is a double fault too. -/
theorem State.raise_faulted {s : State} {ag : Agent} (i : Instr) (t : Trap) (hs : Still s ag)
    (hrun : (s.team (s.uidOf ag)).stat = .running) (hno : MayNotEnter s ag) :
    let e := doubleFaultOf s ag t.cause (s.pc ag) t.val t.addr
    Faulted s (s.raise ag i t) (s.uidOf ag) e ((s.team (s.uidOf ag)).first.getD e) ∧
      ∀ k c, ag = .ctx k c → ((s.raise ag i t).bctx k c).run = .ended := by
  have hcalm := calm_setTrap s ag { s.trapOf ag with dst := s.dstOf ag i }
  have hrun' := (hcalm.stat (s.uidOf ag)).trans hrun
  rw [← State.uidOf_setTrap s ag { s.trapOf ag with dst := s.dstOf ag i }] at hrun'
  obtain ⟨hfault, hctx⟩ := State.takeTrap_faulted t.cause (s.pc ag) t.val t.addr (s.pc ag) none hrun'
    (by simpa [MayNotEnter] using hno)
  simp only [doubleFaultOf, State.uidOf_setTrap, State.teamid_setTrap, hcalm.first] at hfault
  rw [State.raise_still i t hs]
  exact ⟨hfault.after hcalm, hctx⟩

/-- No thread of a killed team may act. -/
theorem Faulted.not_live {s t : State} {u : Nat} {e f : ErrInfo} (h : Faulted s t u e f) (g l : Nat) :
    t.live (.thread u g l) = false := by
  obtain ⟨x, -, hx⟩ := h.killed
  simp [State.live, hx, ErrInfo.killed]

/-- A team without an earlier fault is killed with the record of this one, but for its kind. -/
theorem Faulted.killed_first {s t : State} {u : Nat} {e : ErrInfo} (h : Faulted s t u e e) :
    ∃ kind, (t.team u).stat = .killed kind e.cause e.pc e.lane e.val e.addr := by
  obtain ⟨x, ⟨kind, hx⟩, hstat⟩ := h.killed
  rw [or_self] at hx
  exact ⟨kind, by rw [hstat, hx]; rfl⟩

/-! ## The statement -/

/-- Settles O9: the raised trap enters the handler where it may, and is a double fault where it may not. -/
theorem trapsEnterTheHandlerOrKill : Obligations.TrapsEnterTheHandlerOrKill := by
  refine ⟨fun s ag hmay => ⟨fun i t hi ht => ?encoding, fun h a code hex => ?trap, fun h code hex harm => ?bkpt⟩,
    fun s ag h a code hex hs hrun hno => ?double⟩
  case encoding => exact ⟨_, exec_traps hi ht, State.raise_enters i t hmay⟩
  case trap => exact ⟨_, trap_executes hex, State.raise_enters _ _ hmay⟩
  case bkpt => exact ⟨_, bkpt_executes hex harm, State.raise_enters _ _ hmay⟩
  case double =>
    obtain ⟨hfault, hctx⟩ := State.raise_faulted (.trap h a code)
      ⟨0x04, BitVec.ofNat 64 (code.toNat * 2 ^ 32 + (s.reg ag a).toNat), 0⟩ hs hrun hno
    refine ⟨_, trap_executes hex, hfault.first, fun hnone => ?_, hfault.not_live, hctx⟩
    rw [hnone] at hfault
    exact hfault.killed_first

end Sys2Proof.Machine
end

section
/-! SUPPORT. Lanes of a group (R78 to R81): who of it is there, meets, waits or has signed, what a step of a lane with
nothing on its way leaves, and writes of one lane's thread. -/

namespace Sys2Proof.Machine

open Sys2Proof.Safety

/-! ## Tables that list an entry once -/

theorem afind_some_mem {α : Type} {t : List (Nat × α)} {k : Nat} {v : α} (h : afind t k = some v) : (k, v) ∈ t := by
  induction t with
  | nil => cases h
  | cons e t ih =>
    obtain ⟨j, w⟩ := e
    by_cases hj : j = k
    · simp_all [afind]
    · simp only [afind, if_neg hj] at h
      exact List.mem_cons_of_mem _ (ih h)

theorem afind_of_mem {α : Type} {t : List (Nat × α)} {k : Nat} {v : α} (ht : (akeys t).Nodup) (h : (k, v) ∈ t) :
    afind t k = some v := by
  induction t with
  | nil => cases h
  | cons e t ih =>
    obtain ⟨j, w⟩ := e
    simp only [akeys, List.map_cons, List.nodup_cons] at ht
    obtain h | h := List.mem_cons.mp h
    · simp_all [afind]
    · have hj : j ≠ k := fun e => ht.1 (e ▸ List.mem_map_of_mem (f := Prod.fst) h)
      simp only [afind, if_neg hj]
      exact ih ht.2 h

/-- A write lists its entry where the entry stood, or at the end. -/
theorem akeys_aput {α : Type} (t : List (Nat × α)) (k : Nat) (v : α) :
    akeys (aput t k v) = if k ∈ akeys t then akeys t else akeys t ++ [k] := by
  induction t with
  | nil => simp [akeys, aput]
  | cons e t ih =>
    obtain ⟨j, w⟩ := e
    by_cases hj : j = k
    · simp [akeys, aput, hj]
    · simp only [akeys] at ih ⊢
      rw [aput, if_neg hj, List.map_cons, ih]
      by_cases hk : k ∈ t.map Prod.fst <;> simp [hk, Ne.symm hj]

theorem nodup_akeys_aput {α : Type} {t : List (Nat × α)} (k : Nat) (v : α) (h : (akeys t).Nodup) :
    (akeys (aput t k v)).Nodup := by
  rw [akeys_aput]
  split
  · exact h
  · next hk => exact h.append (List.nodup_singleton k) (by simpa using hk)

/-! ## The lanes of a group -/

section Group
variable (k : Group)

theorem Group.thr_setThr (l j : Nat) (x : Thread) : (k.setThr l x).thr j = if j = l then x else k.thr j := by
  simp only [Group.thr, Group.setThr, aget_aput]

/-- A thread that has not exited is listed. -/
theorem Group.listed {j : Nat} (h : (k.thr j).exited = false) : (j, k.thr j) ∈ k.threads := by
  cases hf : afind k.threads j with
  | none => simp [Group.thr, aget, hf, Thread.absent] at h
  | some t =>
    have : k.thr j = t := by simp [Group.thr, aget, hf]
    exact this ▸ afind_some_mem hf

variable {k}

theorem Group.mem_unexited (hk : (akeys k.threads).Nodup) {j : Nat} :
    j ∈ k.unexited ↔ (k.thr j).exited = false := by
  simp only [Group.unexited, List.mem_map, List.mem_filter]
  constructor
  · rintro ⟨⟨i, t⟩, ⟨hmem, hex⟩, rfl⟩
    have : k.thr i = t := by simp [Group.thr, aget, afind_of_mem hk hmem]
    rw [this]
    simpa using hex
  · exact fun h => ⟨_, ⟨k.listed h, by simp [h]⟩, rfl⟩

theorem Group.nodup_unexited (hk : (akeys k.threads).Nodup) : k.unexited.Nodup :=
  List.Nodup.sublist ((List.filter_sublist (l := k.threads)).map Prod.fst) hk

/-- Mapping threads without moving them: the map is seen through any lane, if it leaves the absent thread. -/
theorem Group.thr_map {f : Nat × Thread → Nat × Thread} (hf : ∀ e, (f e).1 = e.1) (j : Nat)
    (hnone : (f (j, Thread.absent)).2 = Thread.absent) :
    ({ k with threads := k.threads.map f } : Group).thr j = (f (j, k.thr j)).2 := by
  simp only [Group.thr, aget, afind_map f hf]
  cases afind k.threads j with
  | none => exact hnone.symm
  | some t => rfl

/-- The thread that evaluating the meetings leaves in a lane (R79). -/
theorem Group.thr_meetings (j : Nat) : k.meetings.thr j =
    if (k.thr j).exited = false ∧ (k.thr j).park = .meeting ∧ k.met (k.thr j).meet = true then
      { k.thr j with park := .run }
    else k.thr j := by
  refine (Group.thr_map (f := k.meetingEntry) (fun e => ?_) j rfl).trans ?_
  · obtain ⟨p, hp⟩ := k.meetingEntry_eq e
    rw [hp]
  · simp only [Group.meetingEntry]
    split <;> split <;> simp_all

theorem Group.met_iff (x : Word) : k.met x = true ↔
    (∃ j ∈ k.unexited, (k.thr j).meet = x) ∧ ∀ j ∈ k.unexited, (k.thr j).meet = x → (k.thr j).park = .meeting := by
  have hall (j : Nat) : ¬(k.thr j).meet = x ∨ (k.thr j).park = .meeting ↔
      ((k.thr j).meet = x → (k.thr j).park = .meeting) := imp_iff_not_or.symm
  simp [Group.met, List.filter_eq_nil_iff, hall]

/-- A lane is a signer of mask m when its thread is there and has signed on m. -/
theorem Group.mem_signers {m j : Nat} : j ∈ k.signers m ↔
    j < k.width ∧ (k.thr j).exited = false ∧ ∃ due f, (k.thr j).park = .signed m due f := by
  have hsigned : ((k.thr j).signedOn m).isSome = true ↔ ∃ due f, (k.thr j).park = .signed m due f := by
    unfold Thread.signedOn
    split
    · next n due f hp =>
      rw [hp]
      by_cases hn : n = m <;> simp [hn]
    · next hp => simpa using fun due f => hp m due f
  simp [Group.signers, hsigned]

theorem Group.signers_eq_nil {m : Nat} (h : ∀ j due f, (k.thr j).park ≠ .signed m due f) : k.signers m = [] := by
  refine List.eq_nil_iff_forall_not_mem.mpr fun j hj => ?_
  obtain ⟨-, -, due, f, hp⟩ := Group.mem_signers.mp hj
  exact h j due f hp

theorem Group.mem_lanesOf {x j : Nat} : j ∈ k.lanesOf x ↔ j < k.width ∧ nbit x j = true := by
  simp [Group.lanesOf]

end Group

theorem still_of_accs {s t : State} {ag : Agent} (h : t.accs = s.accs) (hs : Still s ag) : Still t ag := by
  rwa [Still, State.accsOf, h]

/-- A thread that executes has not exited. -/
theorem unexited_of_executes {s : State} {u g l : Nat} {i : Instr} (h : Executes s (.thread u g l) i) :
    (s.thr u g l).exited = false := by
  obtain ⟨-, hlive, -⟩ := h
  simp only [State.live, Bool.and_eq_true, Bool.not_eq_true'] at hlive
  exact hlive.2

/-! ## Writes of one lane's thread -/

/-- A group but for its threads. -/
def Group.rest (k : Group) : Group := { k with threads := [] }

/-- From s to t a group changes in its threads alone, which stay listed as they were; memory, and the machine but for its
teams, stay. -/
structure GroupStep (u g : Nat) (s t : State) : Prop where
  group : (t.grp u g).rest = (s.grp u g).rest
  listed : (akeys (s.grp u g).threads).Nodup → (akeys (t.grp u g).threads).Nodup
  rest : { t with teams := [] } = { s with teams := [] }
  memory : SameMemory s t

/-- Of those threads, the one of lane l becomes x, and the others stay. -/
structure LaneStep (u g l : Nat) (x : Thread) (s t : State) : Prop extends GroupStep u g s t where
  own : t.thr u g l = x
  others : ∀ j, j ≠ l → t.thr u g j = s.thr u g j

section LaneStep
variable {u g l : Nat} {x y : Thread} {r s t : State}

theorem GroupStep.refl (s : State) (u g : Nat) : GroupStep u g s s := ⟨rfl, id, rfl, fun _ => rfl⟩

theorem GroupStep.accs (h : GroupStep u g s t) : t.accs = s.accs := by
  have hrest : { t with teams := [] }.accs = { s with teams := [] }.accs := by rw [h.rest]
  exact hrest

theorem GroupStep.dbg (h : GroupStep u g s t) : t.dbg = s.dbg := by
  have hrest : { t with teams := [] }.dbg = { s with teams := [] }.dbg := by rw [h.rest]
  exact hrest

theorem GroupStep.trans (h : GroupStep u g r s) (h' : GroupStep u g s t) : GroupStep u g r t where
  group := h'.group.trans h.group
  listed := h'.listed ∘ h.listed
  rest := h'.rest.trans h.rest
  memory := sameMemory_trans h.memory h'.memory

theorem GroupStep.still (h : GroupStep u g s t) {b : Agent} (hs : Still s b) : Still t b :=
  still_of_accs h.accs hs

theorem GroupStep.mask (h : GroupStep u g s t) (m : Nat) : (t.grp u g).mask m = (s.grp u g).mask m := by
  have hrest : (t.grp u g).rest.mask m = (s.grp u g).rest.mask m := by rw [h.group]
  exact hrest

theorem GroupStep.width (h : GroupStep u g s t) : (t.grp u g).width = (s.grp u g).width := by
  have hrest : (t.grp u g).rest.width = (s.grp u g).rest.width := by rw [h.group]
  exact hrest

theorem GroupStep.stopped (h : GroupStep u g s t) : (t.grp u g).stopped = (s.grp u g).stopped := by
  have hrest : (t.grp u g).rest.stopped = (s.grp u g).rest.stopped := by rw [h.group]
  exact hrest

theorem groupStep_meetings (s : State) (u g : Nat) : GroupStep u g s (s.meetings u g) where
  group := by rw [State.meetings, State.grp_setGrp]; rfl
  listed h := by
    have hkeys : akeys (s.grp u g).meetings.threads = akeys (s.grp u g).threads := by
      rw [Group.meetings_threads, akeys, List.map_map]
      refine List.map_congr_left fun e _ => ?_
      obtain ⟨p, hp⟩ := (s.grp u g).meetingEntry_eq e
      change ((s.grp u g).meetingEntry e).1 = e.1
      rw [hp]
    rw [State.meetings, State.grp_setGrp, hkeys]
    exact h
  rest := rfl
  memory := sameMemory_setGrp _ _ _ _

theorem LaneStep.refl (s : State) (u g l : Nat) : LaneStep u g l (s.thr u g l) s s :=
  ⟨GroupStep.refl s u g, rfl, fun _ _ => rfl⟩

theorem LaneStep.trans (h : LaneStep u g l x r s) (h' : LaneStep u g l y s t) : LaneStep u g l y r t :=
  ⟨h.toGroupStep.trans h'.toGroupStep, h'.own, fun j hj => (h'.others j hj).trans (h.others j hj)⟩

theorem LaneStep.thr (h : LaneStep u g l x s t) (j : Nat) : t.thr u g j = if j = l then x else s.thr u g j := by
  split
  · next hj => rw [hj, h.own]
  · next hj => exact h.others j hj

theorem laneStep_setThr (s : State) (u g l : Nat) (x : Thread) : LaneStep u g l x s (s.setThr u g l x) where
  own := s.thr_setThr u g l x
  others j hj := by simp [State.thr_setThr_any, hj]
  group := by simp [State.setThr, Group.setThr, Group.rest]
  listed h := by simpa [State.setThr, Group.setThr] using nodup_akeys_aput l x h
  rest := rfl
  memory := sameMemory_setGrp _ _ _ _

/-- Steps of distinct lanes, one after the other: each sees its own thread as it was before them all. -/
theorem LaneStep.foldl {α : Type} {f : State → α → State} {lane : α → Nat} {φ : α → Thread → Thread}
    {P : α → Thread → Prop} (es : List α) (hes : (es.map lane).Nodup)
    (hf : ∀ r e, r.accs = s.accs → P e (r.thr u g (lane e)) →
      LaneStep u g (lane e) (φ e (r.thr u g (lane e))) r (f r e))
    (hP : ∀ e ∈ es, P e (s.thr u g (lane e))) :
    GroupStep u g s (es.foldl f s) ∧
      (∀ e ∈ es, (es.foldl f s).thr u g (lane e) = φ e (s.thr u g (lane e))) ∧
      ∀ j, j ∉ es.map lane → (es.foldl f s).thr u g j = s.thr u g j := by
  induction es generalizing s with
  | nil => exact ⟨GroupStep.refl s u g, fun _ h => absurd h List.not_mem_nil, fun _ _ => rfl⟩
  | cons e es ih =>
    simp only [List.map_cons, List.nodup_cons] at hes
    have hstep := hf s e rfl (hP e List.mem_cons_self)
    have hkept : ∀ d ∈ es, (f s e).thr u g (lane d) = s.thr u g (lane d) := fun d hd =>
      hstep.others _ fun heq => hes.1 (heq ▸ List.mem_map_of_mem hd)
    obtain ⟨hrest, hown, hothers⟩ := ih hes.2 (s := f s e) (fun r d hr => hf r d (hr.trans hstep.accs))
      (fun d hd => hkept d hd ▸ hP d (List.mem_cons_of_mem _ hd))
    refine ⟨hstep.toGroupStep.trans hrest, fun d hd => ?_, fun j hj => ?_⟩
    · obtain rfl | hd := List.mem_cons.mp hd
      · exact (hothers _ hes.1).trans hstep.own
      · exact (hown d hd).trans (by rw [hkept d hd])
    · simp only [List.map_cons, List.mem_cons, not_or] at hj
      exact (hothers j hj.2).trans (hstep.others j hj.1)

end LaneStep

section Thread
variable (s : State) (u g l : Nat)

/-- A thread's register, written or left where the name is vz (R38). -/
def Thread.setReg (x : Thread) (r : Reg) (v : Word) : Thread :=
  if r = vz then x else { x with regs := aput x.regs r.toNat v }

theorem laneStep_setPc (p : Word) :
    LaneStep u g l { s.thr u g l with pc := p } s (s.setPc (.thread u g l) p) := laneStep_setThr ..

theorem laneStep_setPark (p : Park) :
    LaneStep u g l { s.thr u g l with park := p } s (s.setPark (.thread u g l) p) := laneStep_setThr ..

theorem laneStep_setCC (c : CC) :
    LaneStep u g l { s.thr u g l with cc := c } s (s.setCC (.thread u g l) c) := laneStep_setThr ..

theorem laneStep_setReg (r : Reg) (v : Word) :
    LaneStep u g l ((s.thr u g l).setReg r v) s (s.setReg (.thread u g l) r v) := by
  unfold State.setReg Thread.setReg
  split
  · exact LaneStep.refl s u g l
  · exact laneStep_setThr ..

variable {s u g l}

/-- A thread that does not come to its meeting address goes on at the next slot. -/
theorem laneStep_advance (h : NoMeeting s (.thread u g l)) :
    LaneStep u g l { s.thr u g l with pc := nextPc (s.thr u g l).pc, park := .run } s (s.advance (.thread u g l)) := by
  rw [State.advance_thread h]
  have hstep := (laneStep_setPc s u g l (nextPc (s.thr u g l).pc)).trans (laneStep_setPark _ u g l .run)
  rwa [(laneStep_setPc s u g l _).own] at hstep

/-- A thread that comes to its meeting address with nothing on its way parks there, and the meetings are evaluated. -/
theorem State.advance_meeting (hs : Still s (.thread u g l)) (hm : (s.thr u g l).meet = nextPc (s.thr u g l).pc) :
    ∃ r, LaneStep u g l { s.thr u g l with pc := nextPc (s.thr u g l).pc, park := .meeting } s r ∧
      s.advance (.thread u g l) = r.meetings u g := by
  have hpc := laneStep_setPc s u g l (nextPc (s.thr u g l).pc)
  have hrun := hpc.trans (laneStep_setPark _ u g l .run)
  have hpark := hrun.trans (laneStep_setPark _ u g l .meeting)
  rw [hrun.own, hpc.own] at hpark
  refine ⟨_, hpark, ?_⟩
  rw [hpc.own] at hrun
  have hat : (((s.setPc (.thread u g l) (nextPc (s.thr u g l).pc)).setPark (.thread u g l) .run).thr u g l).meet =
      (((s.setPc (.thread u g l) (nextPc (s.thr u g l).pc)).setPark (.thread u g l) .run).thr u g l).pc := by
    rw [hrun.own]; exact hm
  rw [← State.parkOn_still .meeting (hrun.still hs)]
  exact if_pos hat

end Thread

end Sys2Proof.Machine
end

section
/-! SUPPORT. Meetings (R78, R79, R88): writes of MEET, and what a group makes of a thread that comes to its meeting
address. -/

namespace Sys2Proof.Machine

open Sys2Proof.Safety

/-! ## Encoding traps see neither registers nor MEET -/

section Encoding
variable {u g l : Nat} {x : Thread} {s : State}

/-- Writing a thread but for its trap state changes none of its encoding traps. -/
theorem State.encodingTrap_setThr (hx : x.trap = (s.thr u g l).trap) (i : Instr) :
    (s.setThr u g l x).encodingTrap (.thread u g l) i = s.encodingTrap (.thread u g l) i := by
  have hdesc : ((s.setThr u g l x).team u).desc = (s.team u).desc := s.desc_setGrp u g u _
  have halg : ((s.setThr u g l x).team u).algDim = (s.team u).algDim := by
    rw [State.setThr, s.team_setGrp u g u]; rfl
  have hstage : ((s.setThr u g l x).team u).stage = (s.team u).stage := by rw [State.setThr, s.team_setGrp u g u]
  have hpriv : (s.setThr u g l x).privOf (.thread u g l) = s.privOf (.thread u g l) := by
    simp only [State.privOf, State.launchOf, State.uidOf]
    rw [State.setThr, s.team_setGrp u g u]; rfl
  have htrap : (s.setThr u g l x).trapOf (.thread u g l) = s.trapOf (.thread u g l) := by
    simp [State.trapOf, hx]
  have hdescOf : (s.setThr u g l x).descOf (.thread u g l) = s.descOf (.thread u g l) := hdesc
  have hillegal : (s.setThr u g l x).illegal (.thread u g l) i = s.illegal (.thread u g l) i := by
    simp only [State.illegal, State.uidOf, hdescOf, hstage, hpriv, htrap]
  have hregs : (s.setThr u g l x).regBad (.thread u g l) i = s.regBad (.thread u g l) i := by
    simp only [State.regBad, State.regLimit, State.uidOf, hdescOf, hdesc, halg]
  simp only [State.encodingTrap, hillegal, hregs]

/-- A thread executes an instruction just the same once some of it has been written that is not its trap state, its codes,
or that it has exited. -/
theorem State.executes_setThr {i : Instr} (hx : x.trap = (s.thr u g l).trap) (hcc : x.cc = (s.thr u g l).cc)
    (hex : x.exited = (s.thr u g l).exited) (h : Executes s (.thread u g l) i) :
    Executes (s.setThr u g l x) (.thread u g l) i := by
  obtain ⟨hcur, hlive, htrap, hcond⟩ := h
  refine ⟨hcur, ?_, (State.encodingTrap_setThr hx i).trans htrap, ?_⟩
  · have hstat : ((s.setThr u g l x).team u).stat = (s.team u).stat := by rw [State.setThr, s.team_setGrp u g u]
    simpa [State.live, hstat, hex] using hlive
  · simpa [State.condOk, State.cc, hcc] using hcond

end Encoding

/-! ## Forms that write MEET (R88) -/

section MeetForm
variable {s : State} {u g l : Nat} {i : Instr}

/-- A form that writes MEET, of one lane: it writes, then the lane steps on and its meeting is evaluated. -/
theorem meetForm_executes {w : Agent → State → State} (h : Executes s (.thread u g l) i)
    (hw : Executes (w (.thread u g l) s) (.thread u g l) i) :
    meetForm i w s = .next ((w (.thread u g l) s).advanceMeet (.thread u g l)) := by
  obtain ⟨hcur, hlive, htrap, hcond⟩ := h
  obtain ⟨hcur', hlive', htrap', hcond'⟩ := hw
  simp [meetForm, hcur, State.executes, hlive, htrap, hcond, hcur', laneStep, hlive', htrap', hcond', LaneOut.run]

/-- Evaluating the meetings changes nothing of a lane but its park. -/
theorem State.thr_meetings_park {r : State} {x : Thread} (hx : r.thr u g l = x) :
    ∃ p, (r.meetings u g).thr u g l = { x with park := p } := by
  rw [← hx]
  exact State.thr_meetings r u g l

/-- The thread that evaluating the meetings leaves in a lane (R79). -/
theorem State.thr_meetings_eq (r : State) (u g j : Nat) : (r.meetings u g).thr u g j =
    if (r.thr u g j).exited = false ∧ (r.thr u g j).park = .meeting ∧ (r.grp u g).met (r.thr u g j).meet = true then
      { r.thr u g j with park := .run }
    else r.thr u g j := by
  rw [State.meetings, State.thr, State.grp_setGrp, Group.thr_meetings]
  rfl

/-- Stepping on with nothing on its way, to the meeting address or not, changes nothing of a lane but its PC and park, and
nothing beyond the threads of its group. -/
theorem State.advance_still (hs : Still s (.thread u g l)) :
    GroupStep u g s (s.advance (.thread u g l)) ∧
      ∃ p, (s.advance (.thread u g l)).thr u g l = { s.thr u g l with pc := nextPc (s.thr u g l).pc, park := p } := by
  by_cases hm : (s.thr u g l).meet = nextPc (s.thr u g l).pc
  · obtain ⟨r, hr, hadv⟩ := State.advance_meeting hs hm
    rw [hadv]
    exact ⟨hr.toGroupStep.trans (groupStep_meetings r u g), State.thr_meetings_park hr.own⟩
  · exact ⟨(laneStep_advance hm).toGroupStep, _, (laneStep_advance hm).own⟩

theorem State.thr_advanceMeet (hs : Still s (.thread u g l)) :
    ∃ p, (s.advanceMeet (.thread u g l)).thr u g l =
      { s.thr u g l with pc := nextPc (s.thr u g l).pc, park := p } := by
  obtain ⟨-, p, hp⟩ := State.advance_still hs
  exact State.thr_meetings_park hp

/-- What such a form leaves of its lane, if its write makes the thread x. -/
theorem meetForm_writes {w : Agent → State → State} {x : Thread} (h : Executes s (.thread u g l) i)
    (hs : Still s (.thread u g l)) (hw : Executes (w (.thread u g l) s) (.thread u g l) i)
    (hx : LaneStep u g l x s (w (.thread u g l) s)) :
    ∃ t p, meetForm i w s = .next t ∧ t.thr u g l = { x with pc := nextPc x.pc, park := p } := by
  obtain ⟨p, hp⟩ := State.thr_advanceMeet (hx.still hs)
  exact ⟨_, p, meetForm_executes h hw, by rw [hp, hx.own]⟩

theorem laneStep_setMeet (s : State) (u g l : Nat) (x : Word) :
    LaneStep u g l { s.thr u g l with meet := x } s (s.setMeet (.thread u g l) x) := laneStep_setThr ..

theorem executes_setMeet (x : Word) (h : Executes s (.thread u g l) i) :
    Executes (s.setMeet (.thread u g l) x) (.thread u g l) i := State.executes_setThr rfl rfl rfl h

theorem executes_setReg (r : Reg) (v : Word) (h : Executes s (.thread u g l) i) :
    Executes (s.setReg (.thread u g l) r v) (.thread u g l) i := by
  unfold State.setReg
  split
  · exact h
  · exact State.executes_setThr rfl rfl rfl h

end MeetForm

/-- The meeting address that MEETRST writes. -/
def meetSource (src : Option Reg) (ag : Agent) (s : State) : Word :=
  match src with
  | none => 0xFFFFFFFF
  | some a => s.reg ag a

theorem exec_swrMeet (h : Hdr) (a : Reg) (s : State) : exec (.swr h a 0x020) s =
    meetForm (.swr h a 0x020) (fun ag s => s.setMeet ag (s.reg ag a)) s := by
  change execSwr h a 0x020 s = _
  rw [execSwr, if_pos (by decide)]

section MeetForms
variable {s : State} {u g l : Nat} {h : Hdr} (hs : Still s (.thread u g l))
include hs

/-- MEETSET gives the old meeting address to D and takes the new one. -/
theorem meetset_executes {d : Reg} {disp : Disp} (hex : Executes s (.thread u g l) (.meetset h d disp)) :
    ∃ t p, exec (.meetset h d disp) s = .next t ∧ t.thr u g l =
      { Thread.setReg { s.thr u g l with meet := BitVec.ofInt 32 (targetPc (s.thr u g l).pc disp) } d (s.thr u g l).meet with
        pc := nextPc (s.thr u g l).pc, park := p } := by
  have hmeet := laneStep_setMeet s u g l (BitVec.ofInt 32 (targetPc (s.thr u g l).pc disp))
  have hstep := hmeet.trans (laneStep_setReg _ u g l d (s.thr u g l).meet)
  obtain ⟨t, p, ht, hp⟩ := meetForm_writes (i := .meetset h d disp)
    (w := fun ag s => (s.setMeet ag (BitVec.ofInt 32 (targetPc (s.pc ag) disp))).setReg ag d
      (match ag with
        | .thread u g l => (s.thr u g l).meet
        | .ctx .. => 0)) hex hs (executes_setReg d _ (executes_setMeet _ hex)) hstep
  refine ⟨t, p, ht, ?_⟩
  rw [hp, hmeet.own]
  unfold Thread.setReg
  split <;> rfl

/-- A form that only writes MEET gives the thread its new meeting address. -/
theorem setMeetForm_executes {i : Instr} (f : Agent → State → Word) (hex : Executes s (.thread u g l) i) :
    ∃ t p, meetForm i (fun ag s => s.setMeet ag (f ag s)) s = .next t ∧ t.thr u g l =
      { s.thr u g l with meet := f (.thread u g l) s, pc := nextPc (s.thr u g l).pc, park := p } :=
  meetForm_writes (w := fun ag s => s.setMeet ag (f ag s)) hex hs (executes_setMeet _ hex) (laneStep_setMeet ..)

end MeetForms

/-! ## Coming to a meeting (R78, R79) -/

section Meeting
variable {s : State} {u g l : Nat} (hs : Still s (.thread u g l)) (htidy : (akeys (s.grp u g).threads).Nodup)
  (hlive : (s.thr u g l).exited = false) (hm : (s.thr u g l).meet = nextPc (s.thr u g l).pc)
include hs htidy hlive hm

/-- What a thread that comes to its meeting address makes of its group: every thread of the meeting goes on if all the
others are parked there, and otherwise it parks. -/
theorem State.advance_meets :
    let t := s.advance (.thread u g l)
    let x := nextPc (s.thr u g l).pc
    t.pc (.thread u g l) = x ∧
      ((∃ j ∈ (s.grp u g).unexited, j ≠ l ∧ (s.thr u g j).meet = x ∧ (s.thr u g j).park ≠ .meeting) →
        t.park (.thread u g l) = .meeting) ∧
      ((∀ j ∈ (s.grp u g).unexited, j ≠ l → (s.thr u g j).meet = x → (s.thr u g j).park = .meeting) →
        ∀ j ∈ (s.grp u g).unexited, (s.thr u g j).meet = x → t.park (.thread u g j) = .run) := by
  obtain ⟨r, hr, hadv⟩ := State.advance_meeting hs hm
  have hthere (j : Nat) : j ∈ (r.grp u g).unexited ↔ j ∈ (s.grp u g).unexited := by
    rw [Group.mem_unexited (hr.listed htidy), Group.mem_unexited htidy]
    change (r.thr u g j).exited = false ↔ _
    rw [hr.thr]
    split
    · next hj => subst hj; rfl
    · rfl
  have hmeet (j : Nat) : (r.thr u g j).meet = (s.thr u g j).meet := by
    rw [hr.thr]
    split
    · next hj => rw [hj]
    · rfl
  have hpark (j : Nat) : (r.thr u g j).park = if j = l then .meeting else (s.thr u g j).park := by
    rw [hr.thr]
    split <;> rfl
  have hl : l ∈ (s.grp u g).unexited := (Group.mem_unexited htidy).mpr hlive
  have hparkOf (j : Nat) : ((r.meetings u g).thr u g j).park =
      if (r.thr u g j).exited = false ∧ (r.thr u g j).park = .meeting ∧ (r.grp u g).met (r.thr u g j).meet = true then .run
      else (r.thr u g j).park := by
    rw [State.thr_meetings_eq]
    split <;> rfl
  rw [hadv]
  simp only [State.park, hparkOf]
  refine ⟨?pc, fun ⟨j, hj, hne, hjm, hjp⟩ => ?parks, fun hall j hj hjm => ?goes⟩
  case pc =>
    obtain ⟨p, hp⟩ := State.thr_meetings_park hr.own
    exact congrArg Thread.pc hp
  case parks =>
    rw [if_neg, hpark, if_pos rfl]
    rintro ⟨-, -, hmet⟩
    have hparked := ((Group.met_iff _).mp hmet).2 j ((hthere j).mpr hj)
      ((hmeet j).trans (hjm.trans (hm.symm.trans (hmeet l).symm)))
    have hkept : (r.thr u g j).park = (s.thr u g j).park := by rw [hpark, if_neg hne]
    exact hjp (hkept.symm.trans hparked)
  case goes =>
    have hparked (i : Nat) (hi : i ∈ (s.grp u g).unexited) (him : (s.thr u g i).meet = nextPc (s.thr u g l).pc) :
        (r.thr u g i).park = .meeting := by
      rw [hpark]
      split
      · rfl
      · next hne => exact hall i hi hne him
    refine if_pos ⟨(Group.mem_unexited (hr.listed htidy)).mp ((hthere j).mpr hj), hparked j hj hjm,
      (Group.met_iff _).mpr ⟨⟨j, (hthere j).mpr hj, rfl⟩, fun i hi him => ?_⟩⟩
    exact hparked i ((hthere i).mp hi) ((hmeet i).symm.trans (him.trans ((hmeet j).trans hjm)))

end Meeting

/-! ## The statement -/

/-- Settles O12: a write of MEET, and a NOP that comes to its thread's meeting address or does not. -/
theorem meetingsAreSetAndReleased : Obligations.MeetingsAreSetAndReleased := by
  refine ⟨fun s u g l h => ?forms, fun s u g l h hex hs htidy => ⟨fun hne => ?passes, fun hm => ?meets⟩⟩
  case forms =>
    intro ag old next hs
    refine ⟨fun d disp hex => ?set, fun src hex => ?reset, fun a hex => ?swr⟩
    case set =>
      obtain ⟨t, p, ht, hp⟩ := meetset_executes hs hex
      refine ⟨t, ht, ?_, ?_, fun hd => ?_, fun r hr => ?_⟩
      · rw [hp]; unfold Thread.setReg; split <;> rfl
      · exact congrArg Thread.pc hp
      · simp [ag, State.reg, hp, Thread.setReg, hd, old]
      · have hne : r.toNat ≠ d.toNat := fun e => hr (BitVec.eq_of_toNat_eq e)
        by_cases hd : d = vz <;> simp [ag, State.reg, hp, Thread.setReg, hd, aget_aput_ne _ _ _ hne]
    case reset =>
      obtain ⟨t, p, ht, hp⟩ := setMeetForm_executes hs (meetSource src) hex
      exact ⟨t, ht, congrArg Thread.pc hp, fun r => by simp only [ag, State.reg, hp],
        by rw [hp]; cases src <;> rfl⟩
    case swr =>
      obtain ⟨t, p, ht, hp⟩ := setMeetForm_executes hs (fun ag s => s.reg ag a) hex
      exact ⟨t, (exec_swrMeet h a s).trans ht, congrArg Thread.pc hp, fun r => by simp only [ag, State.reg, hp], by rw [hp]⟩
  case passes =>
    refine (simple_executes _ hex).trans ?_
    exact congrArg _ (State.advance_thread hne)
  case meets =>
    have hlive := unexited_of_executes hex
    obtain ⟨hpc, hparks, hgoes⟩ := State.advance_meets hs (htidy u g) hlive hm
    exact ⟨_, simple_executes _ hex, hpc, hparks, fun hall =>
      ⟨hgoes hall l ((Group.mem_unexited (htidy u g)).mpr hlive) hm, hgoes hall⟩⟩

end Sys2Proof.Machine
end

section
/-! SUPPORT. Masks (R80, R89, R90): the bits of a mask, writes and reads of one, and the lanes that wait on one. -/

namespace Sys2Proof.Machine

open Sys2Proof.Safety

/-! ## Bits -/

theorem nbit_eq_testBit (x i : Nat) : nbit x i = x.testBit i := by
  rw [nbit, Nat.testBit_eq_decide_div_mod_eq, beq_eq_decide]

/-- Taking from a number the bits that it shares with another clears them. -/
theorem testBit_sub_and (x y j : Nat) : (x - (x &&& y)).testBit j = (x.testBit j && !y.testBit j) := by
  have hbit (x y : Nat) : (x &&& y) % 2 = x % 2 &&& y % 2 := Nat.and_mod_two_pow (n := 1)
  have hle (x y : Nat) : (x &&& y) % 2 ≤ x % 2 := hbit x y ▸ Nat.and_le_left
  induction j generalizing x y with
  | zero =>
    have hwhole : x &&& y ≤ x := Nat.and_le_left
    have hsub : (x - (x &&& y)) % 2 = x % 2 - (x &&& y) % 2 := by have := hle x y; omega
    simp only [Nat.testBit_zero, hsub, hbit]
    obtain hx | hx := Nat.mod_two_eq_zero_or_one x <;> obtain hy | hy := Nat.mod_two_eq_zero_or_one y <;>
      simp [hx, hy]
  | succ j ih =>
    have hhalf : (x &&& y) / 2 = x / 2 &&& y / 2 := Nat.and_div_two
    have hsub : (x - (x &&& y)) / 2 = x / 2 - (x / 2 &&& y / 2) := by have := hle x y; omega
    simp only [Nat.testBit_succ, hsub, ih]

theorem nbit_sub_and (x y j : Nat) : nbit (x - (x &&& y)) j = (nbit x j && !nbit y j) := by
  simp only [nbit_eq_testBit, testBit_sub_and]

theorem nbit_or (x y j : Nat) : nbit (x ||| y) j = (nbit x j || nbit y j) := by
  simp only [nbit_eq_testBit, Nat.testBit_or]

theorem nbit_and (x y j : Nat) : nbit (x &&& y) j = (nbit x j && nbit y j) := by
  simp only [nbit_eq_testBit, Nat.testBit_and]

theorem nbit_mod_two_pow (x n j : Nat) : nbit (x % 2 ^ n) j = (decide (j < n) && nbit x j) := by
  simp only [nbit_eq_testBit, Nat.testBit_mod_two_pow]

theorem nbit_two_pow (n j : Nat) : nbit (2 ^ n) j = decide (j = n) := by
  simp only [nbit_eq_testBit, Nat.testBit_two_pow, eq_comm]

/-- The number of one bits counts the places of one bits. -/
theorem popcount_eq_length (n x : Nat) : popcount n x = ((List.range n).filter (fun j => nbit x j)).length := by
  induction n generalizing x with
  | zero => rfl
  | succ n ih =>
    have hhalf (j : Nat) : nbit x (j + 1) = nbit (x / 2) j := by
      simp only [nbit_eq_testBit, Nat.testBit_succ]
    have hlow : ((if nbit x 0 = true then 1 else 0 : Nat)) = x % 2 := by
      obtain h | h := Nat.mod_two_eq_zero_or_one x <;> simp [nbit, h]
    rw [popcount, ih, List.range_succ_eq_map, List.filter_cons, List.filter_map, ← hlow]
    have hshift : (fun j => nbit x j) ∘ Nat.succ = fun j => nbit (x / 2) j := funext hhalf
    rw [hshift]
    split <;> simp [Nat.add_comm]

/-- Of the numbers below n, those below m: the numbers below both. -/
theorem filter_range_lt (n m : Nat) (p : Nat → Bool) :
    (List.range n).filter (fun j => decide (j < m) && p j) = (List.range (min n m)).filter p := by
  induction n with
  | zero => simp
  | succ n ih =>
    rw [List.range_succ, List.filter_append, ih]
    by_cases h : n < m
    · rw [show min (n + 1) m = min n m + 1 by omega, List.range_succ, List.filter_append, show min n m = n by omega]
      simp [List.filter_cons, h]
    · rw [show min (n + 1) m = min n m by omega]
      simp [h]

/-! ## Nothing hangs on a mask -/

section Idle
variable {s : State} {u g : Nat}

theorem State.collect_idle (h : ∀ j m due f, (s.thr u g j).park ≠ .signed m due f) (m : Nat) : s.collect u g m = s := by
  have hnone : (s.grp u g).signers m = [] := Group.signers_eq_nil fun j due f => h j m due f
  simp [State.collect, hnone]

theorem State.collectAll_idle (h : ∀ j m due f, (s.thr u g j).park ≠ .signed m due f) : s.collectAll u g = s :=
  List.foldl_fixed' (State.collect_idle h) _

theorem State.mwaits_idle (h : ∀ j m, (s.thr u g j).park ≠ .mwait m) : s.mwaits u g = s := by
  refine List.foldl_fixed' (fun m => ?_) _
  have hnone : (s.grp u g).mwaiters m = [] :=
    List.filter_eq_nil_iff.mpr fun j _ => by simpa [State.thr] using h j m
  simp [hnone]

/-- A team's leaving its queues for an array touches no team. -/
theorem State.teams_pruneWaits (s : State) (u : Nat) : (s.pruneWaits u).teams = s.teams :=
  List.foldlRecOn (motive := fun t : State => t.teams = s.teams) _ _ rfl (fun _ h _ _ => h)

theorem State.thr_pruneWaits (s : State) (u v g j : Nat) : (s.pruneWaits u).thr v g j = s.thr v g j := by
  simp only [State.thr, State.grp, State.team, State.teams_pruneWaits]

/-- What hangs on a mask that no lane has signed and no lane waits on: its team's queue for an array. -/
theorem State.maskChanged_idle (hsigned : ∀ j m due f, (s.thr u g j).park ≠ .signed m due f)
    (hwait : ∀ j m, (s.thr u g j).park ≠ .mwait m) (m : Nat) : s.maskChanged u g m = s.pruneWaits u := by
  have hnone : (s.grp u g).signers m = [] := Group.signers_eq_nil fun j due f => hsigned j m due f
  simp only [State.maskChanged, hnone, List.filter_nil, List.foldl_nil]
  rw [State.mwaits_idle (fun j m => by rw [State.thr_pruneWaits]; exact hwait j m),
    State.collectAll_idle (fun j m due f => by rw [State.thr_pruneWaits]; exact hsigned j m due f)]

/-- Stepping on with nothing on its way, a lane runs or parks at its meeting, and so may others of its group; their parks
do not change otherwise. -/
theorem State.park_advance {l : Nat} (hs : Still s (.thread u g l)) (j : Nat) :
    ((s.advance (.thread u g l)).thr u g j).park = .run ∨ ((s.advance (.thread u g l)).thr u g j).park = .meeting ∨
      ((s.advance (.thread u g l)).thr u g j).park = (s.thr u g j).park := by
  by_cases hm : (s.thr u g l).meet = nextPc (s.thr u g l).pc
  · obtain ⟨r, hr, hadv⟩ := State.advance_meeting hs hm
    rw [hadv, State.thr_meetings_eq]
    split
    · exact .inl rfl
    · rw [hr.thr]
      split
      · exact .inr (.inl rfl)
      · exact .inr (.inr rfl)
  · rw [(laneStep_advance hm).thr]
    split
    · exact .inl rfl
    · exact .inr (.inr rfl)

end Idle

/-! ## Writing and reading a mask (R89) -/

section MaskForms
variable {s : State} {u g l : Nat} {i : Instr} {m : MaskNo}

/-- A form that writes a mask, of one lane, in a group where nothing hangs on a mask. -/
theorem maskForm_executes (f : State → List Agent → Nat → Nat) (hs : Still s (.thread u g l))
    (hsigned : ∀ j n due f, (s.thr u g j).park ≠ .signed n due f) (hwait : ∀ j n, (s.thr u g j).park ≠ .mwait n)
    (hex : Executes s (.thread u g l) i) :
    ∃ x, maskForm i m f s = .next (((s.setGrp u g { s.grp u g with masks := aput (s.grp u g).masks m.toNat x }).advance
        (.thread u g l)).pruneWaits u) ∧
      ∀ j, nbit x j = (decide (j < (s.grp u g).width) && nbit ((s.grp u g).mask 0) j &&
        nbit (f s [.thread u g l] ((s.grp u g).mask m.toNat)) j) := by
  generalize hx : f s [.thread u g l] ((s.grp u g).mask m.toNat) % 2 ^ (s.grp u g).width &&& (s.grp u g).mask 0 = x
  have hthr (j : Nat) : (s.setGrp u g { s.grp u g with masks := aput (s.grp u g).masks m.toNat x }).thr u g j =
      s.thr u g j := by
    rw [State.thr, State.grp_setGrp]; rfl
  have hpark := State.park_advance (s := s.setGrp u g { s.grp u g with masks := aput (s.grp u g).masks m.toNat x })
    (u := u) (g := g) (l := l) hs
  simp only [hthr] at hpark
  refine ⟨x, ?_, fun j => ?_⟩
  · simp only [maskForm, cohort_executes hex, List.foldl_cons, List.foldl_nil, hx]
    rw [State.maskChanged_idle]
    · intro j n due f hp
      obtain h | h | h := hpark j
      · simp [h] at hp
      · simp [h] at hp
      · exact hsigned j n due f (h ▸ hp)
    · intro j n hp
      obtain h | h | h := hpark j
      · simp [h] at hp
      · simp [h] at hp
      · exact hwait j n (h ▸ hp)
  · rw [← hx, nbit_and, nbit_mod_two_pow, Bool.and_right_comm]

theorem nbit_laneBits (l j : Nat) : nbit (laneBits [.thread u g l]) j = decide (j = l) := by
  simp [laneBits, Agent.lane, nbit_two_pow]

end MaskForms

theorem exec_mjoin (h : Hdr) (m : MaskNo) (s : State) :
    exec (.mjoin h m) s = maskForm (.mjoin h m) m (fun _ ags x => x ||| laneBits ags) s := rfl

theorem exec_mleave (h : Hdr) (m : MaskNo) (s : State) :
    exec (.mleave h m) s = maskForm (.mleave h m) m (fun _ ags x => x - (x &&& laneBits ags)) s := rfl

/-- What MSET makes of a mask's bits, from the executing lanes' values (R89). -/
def msetBits (a : Reg) (op : MsetOp) (s : State) (ags : List Agent) (x : Nat) : Nat :=
  let vs := ags.map (fun ag => s.regN ag (s.g64 ags) a)
  let y := vs.foldl (fun b v => b ||| v) 0
  match op with
  | .ld => vs.headD 0
  | .or => x ||| y
  | .andn => x - (x &&& y)

theorem exec_mset (h : Hdr) (a : Reg) (m : MaskNo) (op : MsetOp) (s : State) :
    exec (.mset h a m op) s = maskForm (.mset h a m op) m (msetBits a op) s := rfl

theorem nbit_msetBits (a : Reg) (op : MsetOp) (s : State) (ag : Agent) (x j : Nat) :
    nbit (msetBits a op s [ag] x) j = (match op with
      | .ld => nbit (s.regN ag ((s.descOf ag).gwidth == 64) a) j
      | .or => nbit x j || nbit (s.regN ag ((s.descOf ag).gwidth == 64) a) j
      | .andn => nbit x j && !nbit (s.regN ag ((s.descOf ag).gwidth == 64) a) j) := by
  cases op <;> simp [msetBits, State.g64, nbit_or, nbit_sub_and]

/-- MGET reads a mask: its bits, how many there are, or how many below the lane. -/
theorem mget_executes {s : State} {u g l : Nat} {h : Hdr} {d : Reg} {m : MaskNo} {op : MgetOp}
    (hex : Executes s (.thread u g l) (.mget h d m op)) :
    let old := (s.grp u g).mask m.toNat
    exec (.mget h d m op) s = .next ((match op with
      | .bits => s.resultRF (.thread u g l) h ((s.grp u g).width == 64) d old
      | .cnt => s.resultRF (.thread u g l) h false d ((List.range 64).filter (fun j => nbit old j)).length
      | .rank => s.resultRF (.thread u g l) h false d
          ((List.range l).filter (fun j => j < 64 && nbit old j)).length).advance (.thread u g l)) := by
  refine (simple_executes _ hex).trans ?_
  cases op with
  | bits => rfl
  | cnt => simp only [popcount_eq_length]
  | rank =>
    simp only [popcount_eq_length, nbit_mod_two_pow, filter_range_lt, Nat.min_comm]

/-! ## MWAIT (R90) -/

/-- Does the thread of a lane wait on mask m? -/
def State.WaitsOn (s : State) (u g m j : Nat) : Prop :=
  (s.thr u g j).exited = false ∧ (s.thr u g j).park = .mwait m

/-- The thread at its next slot, running. -/
def Thread.goOn (t : Thread) : Thread := { t with pc := nextPc t.pc, park := .run }

/-- The MWAIT condition of one mask, evaluated (R90). -/
def State.mwaitOn (u g : Nat) (s : State) (m : Nat) : State :=
  if !((s.grp u g).mwaiters m).isEmpty &&
      ((s.grp u g).lanesOf ((s.grp u g).mask m)).all (fun l => ((s.grp u g).mwaiters m).contains l) then
    ((s.grp u g).mwaiters m).foldl (fun s l => s.release (.thread u g l)) s
  else s

theorem State.mwaits_eq_foldl (s : State) (u g : Nat) : s.mwaits u g = (List.range 12).foldl (State.mwaitOn u g) s := rfl

/-- The lanes that wait on a mask may be released one by one: each is listed once, has nothing on its way, and no waiting
lane comes to its meeting address. -/
structure Releasable (s : State) (u g : Nat) : Prop where
  listed : (akeys (s.grp u g).threads).Nodup
  still : ∀ j, Still s (.thread u g j)
  apart : ∀ j m, (s.thr u g j).park = .mwait m → NoMeeting s (.thread u g j)

section MWait
variable {s t : State} {u g m : Nat}

theorem Releasable.mem_mwaiters (h : Releasable s u g) {j : Nat} :
    j ∈ (s.grp u g).mwaiters m ↔ s.WaitsOn u g m j := by
  rw [Group.mwaiters, List.mem_filter, Group.mem_unexited h.listed]
  simp [State.WaitsOn, State.thr]

/-- All the lanes that wait on a mask go on once every member waits on it, and otherwise nothing happens. -/
theorem Releasable.mwaitOn (h : Releasable s u g) (m : Nat) :
    Releasable (s.mwaitOn u g m) u g ∧ GroupStep u g s (s.mwaitOn u g m) ∧
      (∀ j, (∀ i ∈ (s.grp u g).lanesOf ((s.grp u g).mask m), s.WaitsOn u g m i) → s.WaitsOn u g m j →
        (s.mwaitOn u g m).thr u g j = (s.thr u g j).goOn) ∧
      ∀ j, ¬ ((∀ i ∈ (s.grp u g).lanesOf ((s.grp u g).mask m), s.WaitsOn u g m i) ∧ s.WaitsOn u g m j) →
        (s.mwaitOn u g m).thr u g j = s.thr u g j := by
  have hnodup : (((s.grp u g).mwaiters m).map id).Nodup := by
    rw [List.map_id]
    exact (Group.nodup_unexited h.listed).filter _
  have hcond : (!((s.grp u g).mwaiters m).isEmpty &&
        ((s.grp u g).lanesOf ((s.grp u g).mask m)).all (fun l => ((s.grp u g).mwaiters m).contains l)) = true ↔
      (∃ j, s.WaitsOn u g m j) ∧ ∀ i ∈ (s.grp u g).lanesOf ((s.grp u g).mask m), s.WaitsOn u g m i := by
    rw [Bool.and_eq_true, Bool.not_eq_true', List.isEmpty_eq_false_iff_exists_mem]
    simp [h.mem_mwaiters]
  obtain ⟨hrest, hown, hothers⟩ := LaneStep.foldl (s := s) (u := u) (g := g) (lane := id)
    (φ := fun _ => Thread.goOn) (P := fun _ x => x.meet ≠ nextPc x.pc) (f := fun s l => s.release (.thread u g l))
    ((s.grp u g).mwaiters m) hnodup (fun r j _ hj => laneStep_advance hj)
    (fun j hj => h.apart j m (h.mem_mwaiters.mp hj).2)
  unfold State.mwaitOn
  by_cases hc : (∃ j, s.WaitsOn u g m j) ∧ ∀ i ∈ (s.grp u g).lanesOf ((s.grp u g).mask m), s.WaitsOn u g m i
  · rw [if_pos (hcond.mpr hc)]
    refine ⟨⟨hrest.listed h.listed, fun j => hrest.still (h.still j), fun j n hj => ?_⟩, hrest,
      fun j _ hj => hown j (h.mem_mwaiters.mpr hj), fun j hj => hothers j ?_⟩
    · by_cases hw : s.WaitsOn u g m j
      · have hwent := congrArg Thread.park (hown j (h.mem_mwaiters.mpr hw))
        cases hj.symm.trans hwent
      · have hkept := hothers j (by rwa [List.map_id, h.mem_mwaiters])
        rw [hkept] at hj
        simp only [NoMeeting, hkept]
        exact h.apart j n hj
    · rw [List.map_id, h.mem_mwaiters]
      exact fun hw => hj ⟨hc.2, hw⟩
  · rw [if_neg (hcond.not.mpr hc)]
    exact ⟨h, GroupStep.refl s u g, fun j hall hj => absurd ⟨⟨j, hj⟩, hall⟩ hc, fun _ _ => rfl⟩

/-- From s to t the masks but m have been evaluated: a lane that waits on m, or runs, has not changed, and no further lane
waits on m. -/
structure Apart (u g m : Nat) (s t : State) : Prop extends GroupStep u g s t where
  ready : Releasable t u g
  kept : ∀ j, (s.thr u g j).park = .mwait m ∨ (s.thr u g j).park = .run → t.thr u g j = s.thr u g j
  waits : ∀ j, t.WaitsOn u g m j → s.WaitsOn u g m j

theorem Releasable.apart_foldl (h : Releasable s u g) (ns : List Nat) (hm : m ∉ ns) :
    Apart u g m s (ns.foldl (State.mwaitOn u g) s) := by
  induction ns generalizing s with
  | nil => exact ⟨GroupStep.refl s u g, h, fun _ _ => rfl, fun _ => id⟩
  | cons n ns ih =>
    simp only [List.mem_cons, not_or] at hm
    obtain ⟨hready, hrest, hgo, hstay⟩ := h.mwaitOn n
    have hstep := ih hready hm.2
    have hkept (j : Nat) (hj : (s.thr u g j).park = .mwait m ∨ (s.thr u g j).park = .run) :
        (s.mwaitOn u g n).thr u g j = s.thr u g j := by
      refine hstay j ?_
      rintro ⟨-, -, hp⟩
      obtain hj | hj := hj <;> rw [hj] at hp
      · exact hm.1 (by simpa using hp)
      · cases hp
    refine ⟨hrest.trans hstep.toGroupStep, hstep.ready, fun j hj => ?_, fun j hj => ?_⟩
    · exact (hstep.kept j (by rwa [hkept j hj])).trans (hkept j hj)
    · have hwaits := hstep.waits j hj
      by_cases hw : (∀ i ∈ (s.grp u g).lanesOf ((s.grp u g).mask n), s.WaitsOn u g n i) ∧ s.WaitsOn u g n j
      · rw [State.WaitsOn, hgo j hw.1 hw.2] at hwaits
        cases hwaits.2
      · rwa [State.WaitsOn, hstay j hw] at hwaits

/-- Evaluating every mask: the lanes that wait on m all go on if every member of m waits on it, and stay if one does not. -/
theorem Releasable.mwaits (h : Releasable s u g) (hm : m < 12) :
    ((∀ i ∈ (s.grp u g).lanesOf ((s.grp u g).mask m), s.WaitsOn u g m i) → ∀ j, s.WaitsOn u g m j →
      (s.mwaits u g).thr u g j = (s.thr u g j).goOn) ∧
    ((∃ i ∈ (s.grp u g).lanesOf ((s.grp u g).mask m), ¬ s.WaitsOn u g m i) → ∀ j, s.WaitsOn u g m j →
      (s.mwaits u g).thr u g j = s.thr u g j) := by
  obtain ⟨pre, post, hsplit⟩ := List.append_of_mem (List.mem_range.mpr hm)
  have hnodup : (pre ++ m :: post).Nodup := hsplit ▸ List.nodup_range
  simp only [List.nodup_append, List.nodup_cons, List.mem_cons] at hnodup
  obtain ⟨-, ⟨hpost, -⟩, hpre⟩ := hnodup
  have hbefore := h.apart_foldl pre (fun hmem => hpre m hmem m (.inl rfl) rfl)
  rw [State.mwaits_eq_foldl, hsplit, List.foldl_append, List.foldl_cons]
  generalize pre.foldl (State.mwaitOn u g) s = r at hbefore
  obtain ⟨hready, -, hgo, hstay⟩ := hbefore.ready.mwaitOn m
  have hafter := hready.apart_foldl post hpost
  have hkept (j : Nat) (hj : s.WaitsOn u g m j) : r.thr u g j = s.thr u g j := hbefore.kept j (.inl hj.2)
  have hwaits (j : Nat) : r.WaitsOn u g m j ↔ s.WaitsOn u g m j :=
    ⟨hbefore.waits j, fun hj => by rwa [State.WaitsOn, hkept j hj]⟩
  have hmembers : (r.grp u g).lanesOf ((r.grp u g).mask m) = (s.grp u g).lanesOf ((s.grp u g).mask m) := by
    rw [Group.lanesOf, Group.lanesOf, hbefore.mask, hbefore.width]
  simp only [hmembers, hwaits] at hgo hstay
  refine ⟨fun hall j hj => ?_, fun ⟨i, hi, hnot⟩ j hj => ?_⟩
  · rw [hafter.kept j (.inr (congrArg Thread.park (hgo j hall hj))), hgo j hall hj, hkept j hj]
  · have hwaiting : (r.mwaitOn u g m).thr u g j = r.thr u g j := hstay j fun hw => hnot (hw.1 i hi)
    rw [hafter.kept j (.inl (by rw [hwaiting, hkept j hj]; exact hj.2)), hwaiting, hkept j hj]

end MWait

section MWaitForm
variable {s : State} {u g l : Nat} {h : Hdr} {m : MaskNo}

/-- MWAIT parks its lane, and the MWAIT conditions of the group are evaluated. -/
theorem mwait_executes (hex : Executes s (.thread u g l) (.mwait h m)) (hs : Still s (.thread u g l)) :
    exec (.mwait h m) s = .next ((s.setPark (.thread u g l) (.mwait m.toNat)).mwaits u g) := by
  obtain ⟨hcur, hlive, htrap, hcond⟩ := hex
  change execMwait h m s = _
  simp only [execMwait, State.curGroup, hcur, List.foldl_cons, List.foldl_nil, laneStep, hlive, htrap, hcond, LaneOut.run,
    State.parkOn_still _ hs, Bool.not_true, Bool.false_eq_true, if_false, if_true]

/-- Once its lane has parked, the lanes that wait on the mask are that one and those that waited before. -/
theorem waitsOn_setPark (hunexited : (s.thr u g l).exited = false) (j : Nat) :
    (s.setPark (.thread u g l) (.mwait m.toNat)).WaitsOn u g m.toNat j ↔
      j = l ∨ s.WaitsOn u g m.toNat j := by
  rw [State.WaitsOn, (laneStep_setPark s u g l (.mwait m.toNat)).thr]
  split
  · next hj => exact ⟨fun _ => .inl hj, fun _ => ⟨hunexited, rfl⟩⟩
  · next hj => simp [hj, State.WaitsOn]

theorem releasable_setPark (htidy : Tidy s) (hs : ∀ j, Still s (.thread u g j) ∧ NoMeeting s (.thread u g j)) :
    Releasable (s.setPark (.thread u g l) (.mwait m.toNat)) u g := by
  have hpark := laneStep_setPark s u g l (.mwait m.toNat)
  refine ⟨hpark.listed (htidy u g), fun j => hpark.still (hs j).1, fun j _ _ => ?_⟩
  simp only [NoMeeting, hpark.thr]
  split
  · exact (hs l).2
  · exact (hs j).2

end MWaitForm

/-! ## The statement -/

/-- Settles O14: the forms that write a mask, MGET, and the evaluation of every mask of the group at MWAIT. -/
theorem masksAndWaits : Obligations.MasksAndWaits := by
  refine ⟨fun s u g l h m => ⟨fun hs hsigned hwait i f hi hex => ?write, fun d op hex => mget_executes hex⟩,
    fun s u g l h m hex htidy hs hm => ?wait⟩
  case write =>
    obtain ⟨rfl, rfl⟩ | ⟨rfl, rfl⟩ | ⟨a, op, rfl, rfl⟩ := hi
    · rw [exec_mjoin]
      simpa only [nbit_or, nbit_laneBits] using
        maskForm_executes (fun _ ags x => x ||| laneBits ags) hs hsigned hwait hex
    · rw [exec_mleave]
      simpa only [nbit_sub_and, nbit_laneBits, decide_not] using
        maskForm_executes (fun _ ags x => x - (x &&& laneBits ags)) hs hsigned hwait hex
    · rw [exec_mset]
      obtain ⟨x, hx, hbits⟩ := maskForm_executes (msetBits a op) hs hsigned hwait hex
      exact ⟨x, hx, fun j => (hbits j).trans (congrArg (Bool.and _) (nbit_msetBits a op s _ _ j))⟩
  case wait =>
    intro k members waits
    have hpark := laneStep_setPark s u g l (.mwait m.toNat)
    obtain ⟨hgo, hstay⟩ := (releasable_setPark (l := l) (m := m) htidy hs).mwaits hm
    have hmembers : ((s.setPark (.thread u g l) (.mwait m.toNat)).grp u g).lanesOf
        (((s.setPark (.thread u g l) (.mwait m.toNat)).grp u g).mask m.toNat) = members := by
      rw [Group.lanesOf, hpark.mask, hpark.width]
      rfl
    simp only [hmembers, waitsOn_setPark (unexited_of_executes hex)] at hgo hstay
    refine ⟨fun hall => ⟨_, mwait_executes hex (hs l).1, fun j hj => ?_⟩, fun ⟨i, hi, hne, hnot⟩ =>
      ⟨_, mwait_executes hex (hs l).1, ?_⟩⟩
    · have hthr := hgo (fun i hi => or_iff_not_imp_left.mpr (hall i hi)) j hj
      have hpc : ((s.setPark (.thread u g l) (.mwait m.toNat)).thr u g j).pc = (s.thr u g j).pc := by
        rw [hpark.thr]
        split
        · next hjl => rw [hjl]
        · rfl
      exact ⟨congrArg Thread.park hthr, (congrArg Thread.pc hthr).trans (congrArg nextPc hpc)⟩
    · have hthr := (hstay ⟨i, hi, not_or.mpr ⟨hne, hnot⟩⟩ l (.inl rfl)).trans hpark.own
      exact ⟨congrArg Thread.park hthr, by simp only [State.pc, hthr]⟩

end Sys2Proof.Machine
end

section
/-! SUPPORT. Endings and the armed BKPT (R87, R229, R262, R351): what memory, caches, machine checks and recoveries leave of
every team; what a step of any agent leaves of the masks and the lanes of a group; and the end of a lane or of a context. -/

namespace Sys2Proof.Machine

open Sys2Proof.Safety

/-! ## Steps that touch no group -/

/-- A team but for its memory, what it holds back, what it counts of its releases and exits, its status and its first
fault. -/
def Team.lasting (x : Team) : Team :=
  { x with
    scr := [], scr2 := [], bad := [], tags := [], tags2 := [], held := [], rays := [], ckpt := none, icinvs := [],
    rels := 0, last := 0, stat := .finished, first := none }

/-- A step leaves every team as it was, but for that. -/
def Spares (s t : State) : Prop := ∀ u, (t.team u).lasting = (s.team u).lasting

theorem Spares.refl (s : State) : Spares s s := fun _ => rfl

theorem Spares.trans {r s t : State} (h : Spares r s) (h' : Spares s t) : Spares r t := fun u => (h' u).trans (h u)

theorem Spares.grp {s t : State} (h : Spares s t) (u g : Nat) : t.grp u g = s.grp u g := by
  have hgroups : (t.team u).lasting.grp g = (s.team u).lasting.grp g := by rw [h u]
  exact hgroups

theorem Spares.of_teams {s t : State} (h : t.teams = s.teams := by rfl) : Spares s t := fun u => by
  rw [State.team, State.team, h]

theorem Spares.ite {c : Prop} [Decidable c] {s t t' : State} (h : Spares s t) (h' : Spares s t') :
    Spares s (if c then t else t') := by
  split
  · exact h
  · exact h'

theorem Spares.foldl {α : Type} {f : State → α → State} (h : ∀ s a, Spares s (f s a)) (s : State) (l : List α) :
    Spares s (l.foldl f s) :=
  List.foldlRecOn l f (Spares.refl s) (fun _ hs a _ => hs.trans (h _ a))

theorem spares_setTeam {s : State} {u : Nat} {x : Team} (h : x.lasting = (s.team u).lasting := by rfl) :
    Spares s (s.setTeam u x) := by
  intro v
  by_cases hv : v = u
  · subst hv; rw [State.team_setTeam, h]
  · rw [State.team_setTeam_ne _ _ hv]

/-! ### Memory and L1 (R172, R175) -/

theorem spares_rawWrite (s : State) (l : Loc) (n x : Nat) : Spares s (s.rawWrite l n x) := by
  cases l with
  | hbm a => exact Spares.ite .of_teams (.refl s)
  | vault a => exact .of_teams
  | scr u sd o => exact spares_setTeam (by cases sd <;> rfl)
  | host a c => exact .of_teams

theorem spares_clearTag (s : State) (l : Loc) (n : Nat) : Spares s (s.clearTag l n) := by
  cases l with
  | hbm a => exact .of_teams
  | scr u sd o => exact Spares.ite spares_setTeam spares_setTeam
  | vault a => exact .refl s
  | host a c => exact .refl s

theorem spares_mend (s : State) (hs : List Held) : Spares s (s.mend hs) := by
  intro u
  rw [State.team, State.team, State.mend, aget, aget, afind_map _ (fun e => by split <;> rfl)]
  cases afind s.teams u with
  | none => rfl
  | some x =>
    simp only [Option.map_some]
    split <;> rfl

theorem spares_tallyVault (s : State) (l : Loc) (reads writes : Bool) : Spares s (s.tallyVault l reads writes) := by
  cases l with
  | vault x => cases reads <;> cases writes <;> exact .of_teams
  | hbm | scr | host => exact .refl s

theorem spares_portUpdate (s : State) (l : Loc) (n : Nat) (op : PortOp) (x : Nat) : Spares s (s.portUpdate l n op x).1 := by
  have htally (r w : Bool) (y : Nat) : Spares s ((s.tallyVault l r w).rawWrite l n y) :=
    (spares_tallyVault s l r w).trans (spares_rawWrite _ l n y)
  cases op with
  | cas e =>
    simp only [State.portUpdate]
    split
    · exact htally _ _ x
    · exact spares_tallyVault s l _ _
  | write | upd | half | badd => exact htally _ _ _

theorem spares_writeBack (s : State) (l : L1Line) : Spares s (s.writeBack l) := by
  have hraces (r : State) (es : List (Nat × Nat × Access)) : Spares r (r.trapRacing es) :=
    Spares.foldl (fun r _ => Spares.ite (.refl r) .of_teams) r es
  have hbytes (r : State) (is : List Nat) :
      Spares r (is.foldl (fun s i => s.hbmWrite (64 * l.line + i) 1 (l.byte i)) r) :=
    Spares.foldl (fun r i => spares_rawWrite r (.hbm _) _ _) r is
  refine (((hraces s _).trans (hbytes _ _)).trans .of_teams).trans (Spares.foldl (fun r k => ?_) _ _)
  exact ((Spares.refl r).ite .of_teams).ite (spares_clearTag r _ _)

theorem spares_l1Clean (s : State) (core : Nat) (which : L1Line → Bool) (drop : Bool) :
    Spares s (s.l1Clean core which drop) := by
  refine Spares.trans (List.foldlRecOn (motive := fun q : State × List L1Line => Spares s q.1) (s.core core).l1 _
    (Spares.refl s) fun p hp l _ => ?_) .of_teams
  split
  · have hline : Spares p.1 (p.1.cleanLine l drop).1 := by
      unfold State.cleanLine
      split <;> exact spares_writeBack p.1 l
    exact hp.trans hline
  · exact hp

/-! ### Held writes (R391, R398, R399) -/

theorem spares_applyHeld (s : State) (hs : List Held) : Spares s (s.applyHeld hs) := by
  refine Spares.foldl (fun s h => ?_) s hs
  have hport := (spares_portUpdate s h.loc h.n h.op h.data).trans (spares_mend _ (hs.filter (fun g => g.key == h.key)))
  exact hport.ite (hport.trans (spares_clearTag _ _ _))

theorem spares_flushHeld (s : State) (u : Nat) (hs : List Held) : Spares s (s.flushHeld u hs) := by
  refine Spares.foldl (fun s h => ?_) s hs
  split
  · exact Spares.foldl (fun s c => spares_l1Clean s c _ true) s _
  · exact .refl s

theorem spares_icAgain (s : State) (u : Nat) : Spares s (s.icAgain u) :=
  Spares.ite (.refl s) (Spares.trans spares_setTeam
    (Spares.foldl (fun r _ => Spares.foldl (fun _ _ => .of_teams) r _) _ _))

theorem spares_commitEarly (s : State) (u : Nat) : Spares s (s.commitEarly u) := by
  refine Spares.ite ?_ (Spares.ite spares_setTeam (.refl s))
  have hheld : Spares s ((s.commitHeld u (s.team u).held).addRays (s.team u).rays) :=
    (((spares_flushHeld s u _).trans (spares_applyHeld _ _)).trans (spares_icAgain _ u)).trans
      (Spares.foldl (fun _ _ => .of_teams) _ _)
  exact (hheld.trans spares_setTeam).trans (Spares.foldl (fun _ _ => .of_teams) _ _)

/-! ### Fault records, recovery and the end of a launch (R259, R388, R410) -/

theorem spares_unitWrite (s : State) (ctx va n x : Nat) : Spares s (s.unitWrite ctx va n x) := by
  refine Spares.foldl (fun s p => (Spares.refl s).ite ?_) s _
  split
  · exact ((spares_rawWrite _ _ _ _).trans (spares_clearTag _ _ _)).ite (.refl s)
  · exact .refl s

theorem spares_unitCheck (s : State) (dn space addr : Nat) : Spares s (s.unitCheck dn space addr) := by
  have hlog (r : State) (x : McRec) : Spares r (r.logCheck x) := Spares.ite .of_teams .of_teams
  have hdump (r : State) : Spares r r.fatalDump := (Spares.refl r).ite ((spares_rawWrite r _ _ _).trans .of_teams)
  exact (hlog s _).trans (hdump _)

theorem spares_queueError (s : State) (q : Nat) (launchid : Word) (e : ErrInfo) : Spares s (s.queueError q launchid e) := by
  have hadd (ctx va x : Nat) : Spares s (s.unitAdd ctx va x) := by
    unfold State.unitAdd
    split
    · exact spares_unitCheck s _ _ _
    · exact spares_unitWrite s _ _ _ _
  exact (hadd _ _ _).ite (Spares.trans .of_teams (spares_unitWrite _ _ _ _ _))

theorem spares_stopTeam (s : State) (uid : Nat) (st : TeamStat) : Spares s (s.stopTeam uid st) := by
  have hbursar : Spares s (s.stopBursar uid) := Spares.foldl (fun _ _ => .of_teams) s _
  have hqueue (r : State) : Spares r (r.unwait uid) := Spares.foldl (fun _ _ => .of_teams) r _
  exact ((hbursar.trans (hqueue _)).trans .of_teams).trans spares_setTeam

theorem spares_launchError (s : State) (l : Nat) (e : ErrInfo) : Spares s (s.launchError l e) :=
  Spares.ite (.refl s) (((spares_queueError s _ _ _).trans .of_teams).trans
    (Spares.foldl (fun r u => spares_stopTeam r u _) _ _))

theorem spares_recover (s : State) (uid : Nat) (roll idem : Bool) (e : ErrInfo) : Spares s (s.recover uid roll idem e) := by
  have hstop : Spares s ((s.stopTeam uid (.killed e.kind e.cause e.pc e.lane e.val e.addr)).setTeam uid
      { (s.stopTeam uid (.killed e.kind e.cause e.pc e.lane e.val e.addr)).team uid with
        first := some ((s.team uid).first.getD e) }) := (spares_stopTeam s uid _).trans spares_setTeam
  exact (hstop.trans (spares_launchError _ _ _)).ite ((hstop.trans (spares_launchError _ _ _)).ite
    (hstop.ite ((hstop.trans (spares_commitEarly _ _)).ite (hstop.trans (spares_launchError _ _ _)))))

theorem spares_doubleFault (s : State) (uid cause : Nat) (pc : Word) (lane : Nat) (val addr : DWord) :
    Spares s (s.doubleFault uid cause pc lane val addr) := by
  unfold State.doubleFault
  split
  · exact .refl s
  · exact spares_recover s uid _ _ _

/-- A double fault brings back no context that has ended. -/
theorem State.doubleFault_ended {s : State} (uid cause : Nat) (pc : Word) (lane : Nat) (val addr : DWord) (k c : Nat)
    (h : (s.bctx k c).run = .ended) : ((s.doubleFault uid cause pc lane val addr).bctx k c).run = .ended := by
  unfold State.doubleFault
  split
  · exact h
  · exact (State.recover_faulted s uid true true _).ended k c h

/-! ## Steps of any agent leave the masks and the lanes -/

/-- A step leaves every mask, and which lanes have exited; no lane has a signature that it had not before, and no context
that has ended comes back. -/
structure KeepsLanes (s t : State) : Prop where
  masks : ∀ u g, (t.grp u g).masks = (s.grp u g).masks
  exited : ∀ u g l, (t.thr u g l).exited = (s.thr u g l).exited
  signed : ∀ u g l m due f, (t.thr u g l).park = .signed m due f → (s.thr u g l).park = .signed m due f
  ended : ∀ k c, (s.bctx k c).run = .ended → (t.bctx k c).run = .ended

theorem KeepsLanes.refl (s : State) : KeepsLanes s s :=
  ⟨fun _ _ => rfl, fun _ _ _ => rfl, fun _ _ _ _ _ _ h => h, fun _ _ h => h⟩

theorem KeepsLanes.trans {r s t : State} (h : KeepsLanes r s) (h' : KeepsLanes s t) : KeepsLanes r t where
  masks u g := (h'.masks u g).trans (h.masks u g)
  exited u g l := (h'.exited u g l).trans (h.exited u g l)
  signed u g l m due f hp := h.signed u g l m due f (h'.signed u g l m due f hp)
  ended k c hc := h'.ended k c (h.ended k c hc)

theorem KeepsLanes.ite {c : Prop} [Decidable c] {s t t' : State} (h : KeepsLanes s t) (h' : KeepsLanes s t') :
    KeepsLanes s (if c then t else t') := by
  split
  · exact h
  · exact h'

theorem KeepsLanes.foldl {α : Type} {f : State → α → State} (h : ∀ s a, KeepsLanes s (f s a)) (s : State) (l : List α) :
    KeepsLanes s (l.foldl f s) :=
  List.foldlRecOn l f (KeepsLanes.refl s) (fun _ hs a _ => hs.trans (h _ a))

theorem Spares.keepsLanes {s t : State} (h : Spares s t)
    (hended : ∀ k c, (s.bctx k c).run = .ended → (t.bctx k c).run = .ended) : KeepsLanes s t where
  masks u g := by rw [h.grp]
  exited u g l := by rw [State.thr, State.thr, h.grp]
  signed u g l m due f hp := by rwa [State.thr, h.grp] at hp
  ended := hended

/-- A step that writes neither teams nor cores. -/
theorem KeepsLanes.of_parts {s t : State} (ht : t.teams = s.teams := by rfl) (hc : t.cores = s.cores := by rfl) :
    KeepsLanes s t :=
  (Spares.of_teams ht).keepsLanes fun k c h => by rwa [State.bctx, State.core, hc]

/-- A write of a core that leaves its contexts. -/
theorem keepsLanes_setCore {s : State} {k : Nat} {x : Core} (h : x.ctxs = (s.core k).ctxs := by rfl) :
    KeepsLanes s (s.setCore k x) :=
  Spares.keepsLanes (.of_teams) (calm_setCore fun c hc => by rwa [Core.ctx, h]).ended

/-- A write of a context that leaves its run state, or ends it. -/
theorem keepsLanes_setBctx {s : State} {k c : Nat} {x : BCtx} (h : (s.bctx k c).run = .ended → x.run = .ended) :
    KeepsLanes s (s.setBctx k c x) :=
  Spares.keepsLanes (.of_teams) (calm_setBctx h).ended

/-- A write of a group that leaves its masks, and of each thread its exit and no new signature. -/
theorem keepsLanes_setGrp {s : State} {u g : Nat} {x : Group} (hmasks : x.masks = (s.grp u g).masks)
    (hexited : ∀ l, (x.thr l).exited = (s.thr u g l).exited)
    (hsigned : ∀ l m due f, (x.thr l).park = .signed m due f → (s.thr u g l).park = .signed m due f) :
    KeepsLanes s (s.setGrp u g x) where
  masks v k := by
    rw [State.grp_setGrp_any]
    split
    · next h => obtain ⟨rfl, rfl⟩ := h; exact hmasks
    · rfl
  exited v k l := by
    rw [State.thr, State.grp_setGrp_any]
    split
    · next h => obtain ⟨rfl, rfl⟩ := h; exact hexited l
    · rfl
  signed v k l m due f hp := by
    rw [State.thr, State.grp_setGrp_any] at hp
    split at hp
    · next h => obtain ⟨rfl, rfl⟩ := h; exact hsigned l m due f hp
    · exact hp
  ended _ _ h := h

theorem keepsLanes_setThr {s : State} {u g l : Nat} {x : Thread} (hexited : x.exited = (s.thr u g l).exited)
    (hsigned : ∀ m due f, x.park = .signed m due f → (s.thr u g l).park = .signed m due f) :
    KeepsLanes s (s.setThr u g l x) := by
  refine keepsLanes_setGrp rfl (fun j => ?_) (fun j m due f hp => ?_)
  · rw [Group.thr_setThr]
    split
    · next hj => rw [hj]; exact hexited
    · rfl
  · rw [Group.thr_setThr] at hp
    split at hp
    · next hj => rw [hj]; exact hsigned m due f hp
    · exact hp

/-! ### Registers, codes, PC, park and trap state -/

section Agent
variable (s : State) (ag : Agent)

theorem keepsLanes_setPc (p : Word) : KeepsLanes s (s.setPc ag p) := by
  cases ag with
  | thread u g l => exact keepsLanes_setThr rfl fun _ _ _ h => h
  | ctx k c => exact keepsLanes_setBctx id

theorem keepsLanes_setCC (c : CC) : KeepsLanes s (s.setCC ag c) := by
  cases ag with
  | thread u g l => exact keepsLanes_setThr rfl fun _ _ _ h => h
  | ctx k c => exact keepsLanes_setBctx id

theorem keepsLanes_setTrap (x : TrapState) : KeepsLanes s (s.setTrap ag x) := by
  cases ag with
  | thread u g l => exact keepsLanes_setThr rfl fun _ _ _ h => h
  | ctx k c => exact keepsLanes_setBctx id

theorem keepsLanes_setReg (r : Reg) (v : Word) : KeepsLanes s (s.setReg ag r v) := by
  refine KeepsLanes.ite (.refl s) ?_
  cases ag with
  | thread u g l => exact keepsLanes_setThr rfl fun _ _ _ h => h
  | ctx k c => exact keepsLanes_setCore

theorem keepsLanes_setPark {p : Park} (hp : ∀ m due f, p ≠ .signed m due f) : KeepsLanes s (s.setPark ag p) := by
  cases ag with
  | thread u g l => exact keepsLanes_setThr rfl fun m due f h => absurd h (hp m due f)
  | ctx k c => exact keepsLanes_setBctx id

theorem keepsLanes_meetings (u g : Nat) : KeepsLanes s (s.meetings u g) := by
  refine keepsLanes_setGrp rfl (fun l => ?_) (fun l m due f hp => ?_)
  · rw [Group.thr_meetings]
    split <;> rfl
  · rw [Group.thr_meetings] at hp
    split at hp
    · cases hp
    · exact hp

/-! ### Windows and late traps (R45, R46, R256) -/

theorem keepsLanes_setRegs (rs : List Reg) (vs : List Word) : KeepsLanes s (s.setRegs ag rs vs) := by
  induction rs generalizing s vs with
  | nil => exact .refl s
  | cons r rs ih =>
    cases vs with
    | nil => exact .refl s
    | cons v vs => exact (keepsLanes_setReg s ag r v).trans (ih _ vs)

theorem keepsLanes_settleAccs : KeepsLanes s (s.settleAccs ag) := by
  refine KeepsLanes.trans (KeepsLanes.foldl (fun r a => ?_) s _) .of_parts
  unfold State.writeResult
  cases a.flags with
  | none => exact keepsLanes_setRegs r a.ag _ _
  | some c => exact (keepsLanes_setRegs r a.ag _ _).trans (keepsLanes_setCC _ a.ag c)

theorem keepsLanes_closeWindows : KeepsLanes s (s.closeWindows ag) :=
  KeepsLanes.trans .of_parts (keepsLanes_settleAccs _ ag)

theorem keepsLanes_pendDue : KeepsLanes s (s.pendDue ag) := by
  unfold State.pendDue
  split
  · exact .refl s
  · exact KeepsLanes.trans .of_parts (keepsLanes_setTrap _ ag _)

variable (cause : Nat) (tpc : Word) (val addr : DWord) (resume : Word) (saved : Option Access)

theorem keepsLanes_enterHandler : KeepsLanes s (s.enterHandler ag cause tpc val addr resume saved) := by
  have hclosed := (keepsLanes_closeWindows s ag).trans (keepsLanes_pendDue _ ag)
  unfold State.enterHandler
  generalize (s.closeWindows ag).pendDue ag = r at hclosed
  have henters (x : TrapState) (p : Word) : KeepsLanes s (((r.setTrap ag x).setPc ag p).setPark ag .run) :=
    ((hclosed.trans (keepsLanes_setTrap r ag x)).trans (keepsLanes_setPc _ ag p)).trans
      (keepsLanes_setPark _ ag (by simp))
  cases ag with
  | thread u g l =>
    dsimp only
    split
    · exact ((henters _ _).trans (keepsLanes_setPark _ _ (by simp))).trans (keepsLanes_meetings _ u g)
    · exact henters _ _
  | ctx k c => exact henters _ _

theorem keepsLanes_takeTrap : KeepsLanes s (s.takeTrap ag cause tpc val addr resume saved) := by
  have hdouble (r : State) (u : Nat) (lane : Nat) : KeepsLanes r (r.doubleFault u cause tpc lane val addr) :=
    (spares_doubleFault r u cause tpc lane val addr).keepsLanes (State.doubleFault_ended u cause tpc lane val addr)
  refine KeepsLanes.ite ?_ (keepsLanes_enterHandler s ag _ _ _ _ _ _)
  cases ag with
  | thread u g l => exact hdouble _ _ _
  | ctx k c => exact (keepsLanes_setBctx fun _ => rfl).trans (hdouble _ _ _)

/-- A late trap that is delivered leaves them too. -/
theorem keepsLanes_takeLate {t : State} {resume : Word} (h : s.takeLate ag resume = some t) : KeepsLanes s t := by
  unfold State.takeLate at h
  split at h
  · cases h
  · obtain rfl := Option.some.inj h
    have hdrop (as : List Access) : KeepsLanes s { s with accs := as } := .of_parts
    have htake (r : State) (x : TrapState) (cause : Nat) (tpc : Word) (val addr : DWord) (saved : Option Access) :
        KeepsLanes r ((r.setTrap ag x).takeTrap ag cause tpc val addr resume saved) :=
      (keepsLanes_setTrap r ag x).trans (keepsLanes_takeTrap _ ag _ _ _ _ _ _)
    exact (hdrop _).trans (htake _ _ _ _ _ _ _)

/-! ### Parking, stepping on and releasing (R78, R90, R95) -/

theorem keepsLanes_parkOn {p : Park} (hp : ∀ m due f, p ≠ .signed m due f) : KeepsLanes s (s.parkOn ag p) := by
  unfold State.parkOn
  have hclose := keepsLanes_closeWindows s ag
  generalize s.closeWindows ag = r at hclose
  dsimp only
  split
  · next t ht => exact hclose.trans (keepsLanes_takeLate r ag ht)
  · exact hclose.trans (keepsLanes_setPark r ag hp)

theorem keepsLanes_advance : KeepsLanes s (s.advance ag) := by
  have hstep : KeepsLanes s ((s.setPc ag (nextPc (s.pc ag))).setPark ag .run) :=
    (keepsLanes_setPc s ag _).trans (keepsLanes_setPark _ ag (by simp))
  cases ag with
  | thread u g l =>
    exact ((hstep.trans (keepsLanes_parkOn _ _ (by simp))).trans (keepsLanes_meetings _ u g)).ite hstep
  | ctx k c => exact hstep

theorem keepsLanes_mwaits (u g : Nat) : KeepsLanes s (s.mwaits u g) :=
  KeepsLanes.foldl (fun r _ => KeepsLanes.ite (KeepsLanes.foldl (fun r _ => keepsLanes_advance r _) r _) (.refl r)) s _

theorem keepsLanes_releaseRdv (core c : Nat) : KeepsLanes s (s.releaseRdv core c) :=
  KeepsLanes.foldl (fun r _ => KeepsLanes.foldl (fun r _ => KeepsLanes.ite (KeepsLanes.foldl (fun r _ =>
    KeepsLanes.ite (keepsLanes_advance r _) (.refl r)) r _) (.refl r)) r _) s _

end Agent

/-! ## The end of a lane (R87) -/

/-- A group once a lane has ended: its thread has exited, and its bit is in no mask. -/
def Group.lose (k : Group) (l : Nat) : Group :=
  { (k.setThr l { k.thr l with exited := true, park := .run, rels := (k.thr l).rels + 1 }).clearLane l with
    rels := k.rels + 1 }

theorem Group.thr_lose (k : Group) (l j : Nat) : (k.lose l).thr j =
    if j = l then { k.thr l with exited := true, park := .run, rels := (k.thr l).rels + 1 } else k.thr j :=
  k.thr_setThr l j _

theorem Group.nbit_lose (k : Group) (l m j : Nat) :
    nbit ((k.lose l).mask m) j = (nbit (k.mask m) j && decide (j ≠ l)) := by
  have hclear (x : Nat) : (if nbit x l then x - 2 ^ l else x) = x - (x &&& 2 ^ l) := by
    rw [Nat.and_two_pow, ← nbit_eq_testBit]
    cases nbit x l <;> simp
  have hmask : (k.lose l).mask m = k.mask m - (k.mask m &&& 2 ^ l) := by
    simp only [Group.mask, Group.lose, Group.clearLane, Group.setThr, hclear, aget,
      afind_map (fun e : Nat × Nat => (e.1, e.2 - (e.2 &&& 2 ^ l))) (fun _ => rfl)]
    cases afind k.masks m <;> simp
  rw [hmask, nbit_sub_and, nbit_two_pow, decide_not]

theorem keepsLanes_exitPixel (s : State) (u g l : Nat) : KeepsLanes s (s.exitPixel u g l) := by
  have hcheck (r : State) (dn space addr : Nat) : KeepsLanes r (r.unitCheck dn space addr) :=
    (spares_unitCheck r dn space addr).keepsLanes ((calm_logCheck r _).trans (calm_fatalDump _)).ended
  have hopen (r : State) (ctx : Nat) (p : PassDesc) (tx ty : Nat) : KeepsLanes r (r.openTile ctx p tx ty) := by
    unfold State.openTile
    dsimp only
    split
    · exact .refl r
    · split
      · exact hcheck r _ _ _
      · exact .of_parts
  unfold State.exitPixel
  dsimp only
  split
  · split
    · exact .refl s
    · exact KeepsLanes.foldl (fun r i => (hopen r _ _ _ _).trans .of_parts) s _
  · exact .refl s

/-- What follows the end of a lane leaves the masks and lanes as that end left them. -/
theorem keepsLanes_endLane (s : State) (u g l : Nat) :
    KeepsLanes (s.setGrp u g ((s.grp u g).lose l)) (s.endLane u g l) := by
  have hcommit (r : State) : KeepsLanes r (if (r.team u).allExited then r.commitEarly u else r) :=
    ((spares_commitEarly r u).keepsLanes (calm_commitEarly r u).ended).ite (.refl r)
  have hteam (r : State) (n last : Nat) : KeepsLanes r (r.setTeam u { r.team u with rels := n, last := last }) :=
    Spares.keepsLanes spares_setTeam fun _ _ h => h
  have haccs (as : List Access) : KeepsLanes (s.setGrp u g ((s.grp u g).lose l))
      (({ s with accs := as }).setGrp u g ((s.grp u g).lose l)) := .of_parts
  exact ((((haccs _).trans (hteam _ _ _)).trans (hcommit _)).trans (keepsLanes_meetings _ u g)).trans
    (keepsLanes_mwaits _ u g)

/-! ## EXIT and DISCARD -/

/-- The results of an agent with nothing on its way. -/
theorem State.settleAccs_still {s : State} {ag : Agent} (h : Still s ag) : s.settleAccs ag = s := by
  simp [State.settleAccs, State.seenAccs, show s.accsOf ag = [] from h, dueOf]

theorem State.dropLoads_still {s : State} {ag : Agent} (h : Still s ag) : s.dropLoads ag = s := by
  have hkept : s.accs.filter (fun a => !(decide (a.ag = ag) && !a.op.outlasts)) = s.accs := by
    refine List.filter_eq_self.mpr fun a ha => ?_
    have hne : a.ag ≠ ag := by simpa using List.filter_eq_nil_iff.mp h a ha
    simp [hne]
  rw [State.dropLoads, hkept]

section Leave
variable {s : State} {ag : Agent} {h : Hdr} {d : Bool} (hmode : (s.chOf ag).mode = 0)
include hmode

/-- Without a choice record to flush, an ending agent parks, and leaves its loads. -/
theorem State.leave_eq (i : Instr) (hpark : (s.parkOn ag (.ending d)).park ag = .ending d) :
    (s.leave h d ag).run i ag = ((s.parkOn ag (.ending d)).dropLoads ag).tryEnd ag := by
  have hflush : s.storing ag h ((s.chOf ag).flushIf (s.descOf ag)) = s := by
    rw [ChState.flushIf, if_pos hmode]; rfl
  unfold State.leave
  rw [hflush, if_pos hpark]
  rfl

theorem State.leave_still (i : Instr) (hs : Still s ag) :
    (s.leave h d ag).run i ag = (s.setPark ag (.ending d)).tryEnd ag := by
  have hstill : Still (s.setPark ag (.ending d)) ag :=
    still_of_accs (State.setPark_accs ..) hs
  rw [State.leave_eq hmode i (by rw [State.parkOn_still _ hs, State.park_setPark]), State.parkOn_still _ hs,
    State.dropLoads_still hstill]

end Leave

/-- What becomes of the output of a thread that ends (R351, R392). -/
def State.putOut (s : State) (d : Bool) (u g l : Nat) : State :=
  if d then s.dropOut u g l else if s.speculative u then s else s.exitPixel u g l

theorem keepsLanes_putOut (s : State) (d : Bool) (u g l : Nat) : KeepsLanes s (s.putOut d u g l) :=
  KeepsLanes.ite (keepsLanes_setThr rfl fun _ _ _ h => h) ((KeepsLanes.refl s).ite (keepsLanes_exitPixel s u g l))

/-- An ending thread with nothing on its way ends. -/
theorem State.tryEnd_thread {s : State} {u g l : Nat} {d : Bool} (hpark : s.park (.thread u g l) = .ending d)
    (hs : Still s (.thread u g l)) (htiles : ∀ x ∈ s.tiles, .thread u g l ∉ x.ags) :
    KeepsLanes (((s.putOut d u g l).endLane u g l).collectAll u g) (s.tryEnd (.thread u g l)) := by
  have hnone : s.tiles.any (fun t => t.ags.contains (.thread u g l)) = false := by
    simpa using htiles
  unfold State.tryEnd
  rw [hpark]
  simp only [State.settleAccs_still hs, State.takeLate_still _ hs, show s.accsOf (.thread u g l) = [] from hs, hnone,
    List.isEmpty_nil, Bool.not_true, Bool.or_self, Bool.false_eq_true, if_false]
  exact (KeepsLanes.foldl (fun r k => keepsLanes_setCore) _ _).ite (.refl _)

/-- EXIT or DISCARD of a thread with nothing on its way, in a group where no lane has signed: the thread has exited, and its
bit is out of every mask. -/
theorem State.leave_thread_ends {s : State} {u g l : Nat} {h : Hdr} (i : Instr) (d : Bool) (hs : Still s (.thread u g l))
    (htiles : ∀ x ∈ s.tiles, .thread u g l ∉ x.ags) (hmode : (s.thr u g l).ch.mode = 0)
    (hsigned : ∀ j m due f, (s.thr u g j).park ≠ .signed m due f) :
    let t := (s.leave h d (.thread u g l)).run i (.thread u g l)
    (t.thr u g l).exited = true ∧ ∀ m j, nbit ((t.grp u g).mask m) j = (nbit ((s.grp u g).mask m) j && decide (j ≠ l)) := by
  have hstill : Still (s.setPark (.thread u g l) (.ending d)) (.thread u g l) :=
    still_of_accs (State.setPark_accs ..) hs
  have hend := State.tryEnd_thread (State.park_setPark s (.thread u g l) (.ending d)) hstill (by simpa using htiles)
  simp only [State.leave_still (ag := .thread u g l) hmode i hs]
  generalize (s.setPark (.thread u g l) (.ending d)).tryEnd (.thread u g l) = t at hend ⊢
  have hout : KeepsLanes s ((s.setPark (.thread u g l) (.ending d)).putOut d u g l) :=
    (keepsLanes_setPark s _ (by simp)).trans (keepsLanes_putOut _ d u g l)
  generalize (s.setPark (.thread u g l) (.ending d)).putOut d u g l = r at hend hout
  have hlane := keepsLanes_endLane r u g l
  have hlost (j : Nat) : ((r.setGrp u g ((r.grp u g).lose l)).thr u g j) = ((r.grp u g).lose l).thr j := by
    rw [State.thr, State.grp_setGrp]
  rw [State.collectAll_idle (fun j m due f hp => ?_)] at hend
  · have hkept := hlane.trans hend
    refine ⟨?_, fun m j => ?_⟩
    · rw [hkept.exited, hlost, Group.thr_lose, if_pos rfl]
    · rw [Group.mask, hkept.masks, State.grp_setGrp, ← Group.mask, Group.nbit_lose, Group.mask, hout.masks, ← Group.mask]
  · have hp := hlane.signed u g j m due f hp
    rw [hlost, Group.thr_lose] at hp
    split at hp
    · cases hp
    · exact hsigned j m due f (hout.signed u g j m due f hp)

/-- A context with nothing on its way ends (R229). -/
theorem State.leave_ctx_ends {s : State} {k c : Nat} {h : Hdr} (i : Instr) (d : Bool) (hs : Still s (.ctx k c))
    (htiles : ∀ x ∈ s.tiles, .ctx k c ∉ x.ags) :
    (((s.leave h d (.ctx k c)).run i (.ctx k c)).bctx k c).run = .ended := by
  have hstill : Still (s.setPark (.ctx k c) (.ending d)) (.ctx k c) :=
    still_of_accs (State.setPark_accs ..) hs
  have hnone : (s.setPark (.ctx k c) (.ending d)).tiles.any (fun t => t.ags.contains (.ctx k c)) = false := by
    simpa using htiles
  rw [State.leave_still rfl i hs, State.tryEnd, State.park_setPark]
  simp only [State.settleAccs_still hstill, State.takeLate_still _ hstill,
    show (s.setPark (.ctx k c) (.ending d)).accsOf (.ctx k c) = [] from hstill, hnone,
    List.isEmpty_nil, Bool.not_true, Bool.or_self, Bool.false_eq_true, if_false]
  refine (keepsLanes_releaseRdv _ k c).ended k c ?_
  simp [State.bctx, Core.ctx]

/-! ## EXIT waits for a store (R87) -/

theorem dueOf_undone {l : List Access} (h : ∀ a ∈ l, a.stage ≠ .done) (kept : List Access) : dueOf kept l = [] := by
  induction l generalizing kept with
  | nil => rfl
  | cons a l ih =>
    obtain ⟨ha, hl⟩ := List.forall_mem_cons.mp h
    have hback : a.writesBack = false := by simp [Access.writesBack, ha]
    rw [dueOf, hback]
    split <;> exact ih hl _

/-- Every access of the agent is checked and on its way to its port. -/
def AllReady (s : State) (ag : Agent) : Prop := ∀ a ∈ s.accsOf ag, a.stage = .ready

section AllReady
variable {s : State} {ag : Agent}

theorem AllReady.settleAccs (h : AllReady s ag) : s.settleAccs ag = s := by
  have hdue : dueOf [] (s.seenAccs ag) = [] := by
    refine dueOf_undone (fun a ha => ?_) []
    obtain ⟨b, hb, rfl⟩ := List.mem_map.mp ha
    simp [h b hb]
  simp [State.settleAccs, hdue]

theorem AllReady.takeLate (h : AllReady s ag) (p : Word) : s.takeLate ag p = none := by
  have hdue : s.dueTraps ag = [] := by
    rw [State.dueTraps, List.filter_eq_nil_iff.mpr fun a ha => by simp [h a ha], List.foldr_nil]
  simp [State.takeLate, hdue]

theorem AllReady.mono {t : State} (h : AllReady s ag) (ht : ∀ a ∈ t.accsOf ag, a ∈ s.accsOf ag) : AllReady t ag :=
  fun a ha => h a (ht a ha)

/-- Closing the windows of accesses on their way only closes the windows. -/
theorem AllReady.closeWindows (h : AllReady s ag) :
    AllReady (s.closeWindows ag) ag ∧ s.closeWindows ag = s.mapAccs ag (Access.close s.tick) := by
  have hclose : AllReady (s.mapAccs ag (Access.close s.tick)) ag := by
    intro a ha
    obtain ⟨hmem, hag⟩ := List.mem_filter.mp ha
    obtain ⟨b, hb, rfl⟩ := List.mem_map.mp hmem
    have hag' : (if b.ag = ag then Access.close s.tick b else b).ag = ag := by simpa using hag
    have hbag : b.ag = ag := by
      split at hag'
      · assumption
      · exact hag'
    have hstage : (Access.close s.tick b).stage = b.stage := by
      unfold Access.close
      split <;> rfl
    rw [if_pos hbag, hstage]
    exact h b (List.mem_filter.mpr ⟨hb, by simp [hbag]⟩)
  rw [State.closeWindows, hclose.settleAccs]
  exact ⟨hclose, rfl⟩

theorem AllReady.parkOn (h : AllReady s ag) (p : Park) :
    s.parkOn ag p = (s.mapAccs ag (Access.close s.tick)).setPark ag p := by
  obtain ⟨hready, hclose⟩ := h.closeWindows
  unfold State.parkOn
  simp only [hready.takeLate]
  rw [hclose]

end AllReady

/-- EXIT of a thread whose store is on its way parks at its PC. -/
theorem State.leave_waits {s : State} {u g l : Nat} {h : Hdr} (i : Instr) {a : Access} {x : Nat}
    (hone : s.accsOf (.thread u g l) = [a]) (hop : a.op = .store x) (hstage : a.stage = .ready)
    (hmode : (s.thr u g l).ch.mode = 0) :
    ((s.leave h false (.thread u g l)).run i (.thread u g l)).thr u g l = { s.thr u g l with park := .ending false } := by
  have hready : AllReady s (.thread u g l) := fun b hb => by
    rw [hone, List.mem_singleton] at hb
    rw [hb, hstage]
  have hclosed : AllReady (s.mapAccs (.thread u g l) (Access.close s.tick)) (.thread u g l) := by
    obtain ⟨hclosed, heq⟩ := hready.closeWindows
    rwa [heq] at hclosed
  generalize hr : (s.mapAccs (.thread u g l) (Access.close s.tick)).setPark (.thread u g l) (.ending false) = r
  have hpark : s.parkOn (.thread u g l) (.ending false) = r := by rw [hready.parkOn, hr]
  have hending : r.park (.thread u g l) = .ending false := by rw [← hr, State.park_setPark]
  have hleft : AllReady (r.dropLoads (.thread u g l)) (.thread u g l) := by
    refine hclosed.mono fun b hb => ?_
    obtain ⟨hb, hag⟩ := List.mem_filter.mp hb
    have hb := (List.mem_filter.mp hb).1
    rw [← hr, State.setPark_accs] at hb
    exact List.mem_filter.mpr ⟨hb, hag⟩
  have hstore : (r.dropLoads (.thread u g l)).accsOf (.thread u g l) ≠ [] := by
    obtain ⟨hmem, hag⟩ := List.mem_filter.mp (hone ▸ List.mem_singleton_self a : a ∈ s.accsOf (.thread u g l))
    have hag : a.ag = .thread u g l := by simpa using hag
    have hclose : (Access.close s.tick a).ag = a.ag ∧ (Access.close s.tick a).op = a.op := by
      unfold Access.close
      split <;> exact ⟨rfl, rfl⟩
    refine List.ne_nil_of_mem (a := Access.close s.tick a) (List.mem_filter.mpr ⟨List.mem_filter.mpr ⟨?_, ?_⟩, ?_⟩)
    · rw [← hr, State.setPark_accs]
      exact List.mem_map.mpr ⟨a, hmem, by rw [if_pos hag]⟩
    · simp [hclose.2, hop, AccOp.outlasts, AccOp.stands]
    · simp [hclose.1, hag]
  rw [State.leave_eq (ag := .thread u g l) hmode i (by rw [hpark, hending]), hpark, State.tryEnd]
  rw [show (r.dropLoads (.thread u g l)).park (.thread u g l) = .ending false from hending]
  simp only [hleft.settleAccs, hleft.takeLate]
  rw [if_pos (by simp [hstore])]
  change r.thr u g l = _
  rw [← hr]
  exact (laneStep_setPark _ u g l (.ending false)).own

/-! ## BKPT (R262) -/

/-- The group has stopped, and the debugger has been told. -/
def State.halted (s : State) (u g : Nat) : State :=
  ({ s with dbg := { s.dbg with
      reported := if s.dbg.reported.contains (u, g) then s.dbg.reported else s.dbg.reported ++ [(u, g)] } }).setGrp u g
    { s.grp u g with stopped := true }

section Bkpt
variable {s : State} {u g l : Nat}

theorem bkpt_armed {h : Hdr} {code : BitVec 12} (hex : Executes s (.thread u g l) (.bkpt h code))
    (harmed : s.dbg.armed.contains (s.ctxNo u) = true) (hopen : s.feature 1 = true) :
    exec (.bkpt h code) s = .next ((s.halted u g).advance (.thread u g l)) := by
  refine (perLane_executes _ hex).trans ?_
  simp only [harmed, hopen, Bool.and_self, if_true]
  rfl

theorem State.thr_halted (j : Nat) : (s.halted u g).thr u g j = s.thr u g j := by
  rw [State.halted, State.thr, State.grp_setGrp]
  rfl

theorem State.mem_reported_halted : (u, g) ∈ (s.halted u g).dbg.reported := by
  change (u, g) ∈ if s.dbg.reported.contains (u, g) then s.dbg.reported else s.dbg.reported ++ [(u, g)]
  split
  · next h => simpa using h
  · simp

/-- The debugger's resumption lets a stopped group go on where it is. -/
theorem bkptResumption_stopped (h : (s.grp u g).stopped = true) :
    ∃ v, exec (.bkptResumption u g) s = .next v ∧ (v.grp u g).stopped = false ∧ (u, g) ∉ v.dbg.reported ∧
      ∀ j, v.thr u g j = s.thr u g j := by
  refine ⟨_, if_pos h, ?_, ?_, fun j => ?_⟩
  · rw [State.grp_setGrp]
  · simp
  · rw [State.thr, State.grp_setGrp]
    rfl

end Bkpt

/-! ## The statement -/

/-- Settles O13: EXIT and DISCARD by what their agents have on their way, and BKPT with its resumption. -/
theorem exitsAndArmedBreakpoints : Obligations.ExitsAndArmedBreakpoints := by
  refine fun s h => ⟨fun u g l => ?threads, fun k c hex hs htiles => ⟨_, perLane_executes _ hex,
    State.leave_ctx_ends _ _ hs htiles⟩, fun u g l code hex hs harmed => ?bkpt⟩
  case threads =>
    intro ag ends clear
    refine ⟨fun hex ⟨hs, htiles, hmode, hsigned⟩ => ⟨_, perLane_executes _ hex,
        State.leave_thread_ends _ _ hs htiles hmode hsigned⟩,
      fun hex ⟨hs, htiles, hmode, hsigned⟩ => ⟨_, perLane_executes _ hex,
        State.leave_thread_ends _ _ hs htiles hmode hsigned⟩,
      fun a x hex hone hop hstage hmode => ⟨_, perLane_executes _ hex, ?_⟩⟩
    have hthr := State.leave_waits (h := h) (.exit h) hone hop hstage hmode
    exact ⟨congrArg Thread.park hthr, (congrArg Thread.exited hthr).trans (unexited_of_executes hex),
      by simp only [ag, State.pc, hthr]⟩
  case bkpt =>
    by_cases hopen : s.feature 1 = true
    · have hstill : Still (s.halted u g) (.thread u g l) := hs
      obtain ⟨hstep, p, hp⟩ := State.advance_still hstill
      rw [State.thr_halted] at hp
      have hstopped : (((s.halted u g).advance (.thread u g l)).grp u g).stopped = true := by
        rw [hstep.stopped, State.halted, State.grp_setGrp]
      obtain ⟨v, hv, hruns, hgone, hthr⟩ := bkptResumption_stopped hstopped
      refine ⟨_, bkpt_armed hex harmed hopen, fun _ => ⟨hstopped, ?_, congrArg Thread.pc hp, fun r => ?_, ?_, v, hv, hruns,
        hgone, congrArg Thread.pc (hthr l)⟩⟩
      · rw [hstep.dbg]
        exact State.mem_reported_halted
      · simp only [State.reg, hp]
      · exact sameMemory_trans (sameMemory_setGrp _ _ _ _) hstep.memory
    · exact ⟨_, perLane_executes _ hex, fun h => absurd h hopen⟩

end Sys2Proof.Machine
end

section
/-! SUPPORT. FORK and RDV (R94, R95, R225): a state in which the grant of a context releases the forking lane itself. -/

namespace Sys2Proof.Machine

open Sys2Proof.Safety

/-! ## A lane that is listed twice

BursarHandOff asks for no Tidy state. Granting context c first releases the threads parked on RDV of c, entry by entry of
the tables, and an entry behind another of the same lane is one of them: the lane that forks then steps on twice. -/

/-- Lane 0 of group 0 of team 0 runs at PC 0; a second entry of the same lane is parked on RDV of context 0. Its code page
lies beyond the address space, so a transfer's target is not checked. -/
def doublyListed : State :=
  { State.reset with
    ctxs := [(0, { Ctx.zero with codebase := BitVec.ofNat 64 (2 ^ 57) })],
    teams := [(0, { Team.absent with
      stat := .running,
      desc := { KDesc.zero with nreg := 16 },
      groups := [(0, { Group.absent with
        threads := [(0, { Thread.absent with exited := false }),
          (0, { Thread.absent with exited := false, park := .rdv 0 })] })] })],
    cur := ⟨[.thread 0 0 0], 0⟩ }

/-- A form that always executes, without codes or a window. -/
def always : Hdr := ⟨.al, false, 0, false, 0, 0⟩

/-- FORK with D = vz, A = v0 and its own slot as the target. -/
def forkHere : Instr := .fork always vz 0 0

theorem forkHere_executes : Executes doublyListed (.thread 0 0 0) forkHere := by decide +kernel

theorem doublyListed_aim : doublyListed.aim (.thread 0 0 0) (targetPc (doublyListed.pc (.thread 0 0 0)) 0) =
    (doublyListed, .go false) := by decide +kernel

/-- The PC of lane 0 in an answer. -/
def pcAfter (o : Out) : Option Word :=
  match o with
  | .next t => some (t.pc (.thread 0 0 0))
  | _ => none

/-- The lane ends two slots on, not at its next slot. -/
theorem forkHere_steps_twice : pcAfter (exec forkHere doublyListed) = some 24 := by decide +kernel

theorem nextPc_doublyListed : nextPc (doublyListed.pc (.thread 0 0 0)) = 12 := by decide +kernel

/-- Refutes O15: of a lane that is listed twice, once parked on RDV of the context that FORK grants, the grant itself releases
the lane, which then goes on to the slot after its next one. -/
theorem not_bursarHandOff : ¬ Obligations.BursarHandOff := by
  unfold Obligations.BursarHandOff
  rintro ⟨hfork, -⟩
  obtain ⟨hgrant, -⟩ := hfork doublyListed doublyListed 0 0 0 always vz 0 0 forkHere_executes doublyListed_aim rfl
    (by decide +kernel) (by decide +kernel) (by decide +kernel)
  obtain ⟨t, ht, -, -, -, hpc, -⟩ := hgrant 0 (by decide) (by decide +kernel) (fun b hb => absurd hb (Nat.not_lt_zero b))
  have htwice := forkHere_steps_twice
  rw [forkHere, ht, pcAfter, hpc, nextPc_doublyListed] at htwice
  exact absurd htwice (by decide)

end Sys2Proof.Machine
end

section
/-! SUPPORT. Collectives (R81): signing, and the one execution of a body for all the members of its mask. -/

namespace Sys2Proof.Machine

open Sys2Proof.Safety

/-! ## Signing -/

/-- A collective form signs its mask. -/
theorem exec_signAll {i : Instr} {m : MaskNo} (h : maskOf i = some m) (s : State) : exec i s = signAll i m s := by
  cases i with
  | vote | shfl | vcomp | vexp | iscan | ired | fred | fscan | bscale | malg | mwld | mgath | mscale | mma | mzero |
    mldacc | mdrain | mdrst | mstat | barv | spush | spop =>
    obtain rfl := Option.some.inj h
    rfl
  | _ => cases h

/-- One lane that executes a collective signs or traps; then the bodies that are due execute. -/
theorem signAll_executes {s : State} {u g l : Nat} {i : Instr} (m : MaskNo) (hex : Executes s (.thread u g l) i) :
    signAll i m s =
      .next (((signLane i m (.thread u g l) s).run i (.thread u g l)).collect u g m.toNat) := by
  obtain ⟨hcur, hlive, htrap, hcond⟩ := hex
  simp [signAll, State.curGroup, hcur, laneStep, hlive, htrap, hcond]

/-! ## The body that is due -/

/-- The thread, its signature on mask n marked due at a place unless it was. -/
def Thread.markDue (n place : Nat) (t : Thread) : Thread :=
  match t.park with
  | .signed k due i => if k = n then { t with park := .signed k (some (due.getD place)) i } else t
  | _ => t

theorem Thread.markDue_signed {n place : Nat} {t : Thread} {due : Option Nat} {i : Instr} (h : t.park = .signed n due i) :
    t.markDue n place = { t with park := .signed n (some (due.getD place)) i } := by
  simp [Thread.markDue, h]

theorem Thread.markDue_unsigned {n : Nat} (place : Nat) {t : Thread} (h : ∀ due i, t.park ≠ .signed n due i) :
    t.markDue n place = t := by
  unfold Thread.markDue
  split
  · next k due i hp =>
    rw [if_neg]
    rintro rfl
    exact h due i hp
  · rfl

theorem Group.thr_markDue (k : Group) (n place j : Nat) : (k.markDue n place).thr j = (k.thr j).markDue n place := by
  have hentry (e : Nat × Thread) : (match e.2.park with
      | .signed k due i => if k = n then (e.1, { e.2 with park := .signed k (some (due.getD place)) i }) else e
      | _ => e) = (e.1, e.2.markDue n place) := by
    unfold Thread.markDue
    cases e.2.park with
    | signed k due i => dsimp only; split <;> rfl
    | _ => rfl
  have hmark : k.markDue n place = { k with threads := k.threads.map (fun e => (e.1, e.2.markDue n place)) } :=
    congrArg (fun ts : List (Nat × Thread) => ({ k with threads := ts } : Group))
      (List.map_congr_left fun e _ => hentry e)
  rw [hmark]
  exact Group.thr_map (f := fun e => (e.1, e.2.markDue n place)) (fun _ => rfl) j rfl

theorem thr_marked (s : State) (u g n j : Nat) :
    (Safety.marked s u g n).thr u g j = (s.thr u g j).markDue n (s.team u).nextPlace := by
  rw [Safety.marked, State.thr, State.grp_setGrp, Group.thr_markDue]
  rfl

/-- Marking a group's signatures changes the parks of its threads alone. -/
theorem groupStep_marked (s : State) (u g n : Nat) : GroupStep u g s (Safety.marked s u g n) where
  group := by rw [Safety.marked, State.grp_setGrp]; rfl
  listed h := by
    have hkeys : akeys ((s.grp u g).markDue n (s.team u).nextPlace).threads = akeys (s.grp u g).threads := by
      rw [Group.markDue, akeys, List.map_map]
      refine List.map_congr_left fun e _ => ?_
      dsimp only [Function.comp]
      split
      · split <;> rfl
      · rfl
    rw [Safety.marked, State.grp_setGrp, hkeys]
    exact h
  rest := rfl
  memory := sameMemory_setGrp _ _ _ _

theorem Thread.signedOn_of_signed {t : Thread} {n : Nat} {due : Option Nat} {i : Instr} (h : t.park = .signed n due i) :
    t.signedOn n = some due := by
  simp [Thread.signedOn, h]

/-- Has a lane a body due on mask n: it has signed there, and every member has? -/
theorem Thread.due_iff {t : Thread} {n : Nat} :
    (t.signedOn n).join.isSome = true ↔ ∃ place i, t.park = .signed n (some place) i := by
  unfold Thread.signedOn
  split
  · next k due i hp =>
    rw [hp]
    by_cases hk : k = n
    · cases due <;> simp [hk]
    · simp [hk]
  · next hp => simpa using fun place i => hp n (some place) i

/-- The lowest PC among lanes that stand at one slot. -/
theorem Group.lowPc_eq {k : Group} {ls : List Nat} {p : Word} (hne : ls ≠ []) (h : ∀ l ∈ ls, (k.thr l).pc = p) :
    k.lowPc ls = p.toNat := by
  have hfold (ls : List Nat) (q : Nat) (hls : ∀ l ∈ ls, (k.thr l).pc = p) :
      ls.foldl (fun p l => min p (k.thr l).pc.toNat) q = if ls = [] then q else min q p.toNat := by
    induction ls generalizing q with
    | nil => rfl
    | cons l ls ih =>
      obtain ⟨hl, hls⟩ := List.forall_mem_cons.mp hls
      rw [List.foldl_cons, ih _ hls, hl]
      by_cases hnil : ls = [] <;> simp [hnil]
  rw [Group.lowPc, hfold ls _ h, if_neg hne]
  have := p.isLt
  omega

/-- Where the signers of a mask are all due at one place and stand at one slot, they execute together. -/
theorem Group.nextBody_eq {k : Group} {n place : Nat} {ls : List Nat} {i : Instr} {p : Word} (hls : k.signers n = ls)
    (hdue : ∀ l ∈ ls, (k.thr l).park = .signed n (some place) i) (hpc : ∀ l ∈ ls, (k.thr l).pc = p) :
    k.nextBody n = ls := by
  have hjoin (l : Nat) (hl : l ∈ ls) : ((k.thr l).signedOn n).join = some place := by
    rw [Thread.signedOn_of_signed (hdue l hl)]; rfl
  have hall : k.dueSigners n = ls := by
    rw [Group.dueSigners, hls]
    exact List.filter_eq_self.mpr fun l hl => by rw [hjoin l hl]; rfl
  have hfirst : ls.filter (fun l => ls.all (fun k' => decide (((k.thr l).signedOn n).join.getD 0 ≤
      ((k.thr k').signedOn n).join.getD 0))) = ls := by
    refine List.filter_eq_self.mpr fun l hl => List.all_eq_true.mpr fun j hj => ?_
    rw [hjoin l hl, hjoin j hj]
    simp
  simp only [Group.nextBody, hall, hfirst]
  refine List.filter_eq_self.mpr fun l hl => ?_
  rw [Group.lowPc_eq (List.ne_nil_of_mem hl) hpc, hpc l hl]
  simp

theorem Group.nextBody_nil {k : Group} {n : Nat} (h : ∀ j place i, (k.thr j).park ≠ .signed n (some place) i) :
    k.nextBody n = [] := by
  have hnone : k.dueSigners n = [] := by
    refine List.filter_eq_nil_iff.mpr fun j _ hj => ?_
    obtain ⟨place, i, hp⟩ := Thread.due_iff.mp hj
    exact h j place i hp
  simp [Group.nextBody, hnone]

theorem Group.signers_markDue (k : Group) (n place m : Nat) : (k.markDue n place).signers m = k.signers m := by
  have hsame (t : Thread) : (!(t.markDue n place).exited && ((t.markDue n place).signedOn m).isSome) =
      (!t.exited && (t.signedOn m).isSome) := by
    unfold Thread.markDue
    split
    · next k due i hp =>
      split
      · by_cases hk : k = m <;> simp [Thread.signedOn, hp, hk]
      · rfl
    · rfl
  refine List.filter_congr fun j _ => ?_
  rw [Group.thr_markDue, hsame]

section Body
variable {s : State} {u g n : Nat} {ls : List Nat} {i : Instr} {due : Option Nat}

/-- Where a body leaves no lane due on its mask, it is the last that executes. -/
theorem State.runDue_last {l : Nat} {t : State} (fuel : Nat) (hrun : (s.team u).stat = .running)
    (hnext : (s.grp u g).nextBody n = ls) (hl : ls.head? = some l) (hp : ∃ place, (s.thr u g l).park = .signed n place i)
    (ht : runBody i (ls.map (Agent.thread u g)) s = t) (hdone : ∀ j k f, (t.thr u g j).park ≠ .signed n (some k) f) :
    s.runDue u g n (fuel + 1) = t := by
  obtain ⟨ls', rfl⟩ : ∃ ls', ls = l :: ls' := List.head?_eq_some_iff.mp hl
  obtain ⟨place, hp⟩ := hp
  have hidle : t.runDue u g n fuel = t := by
    cases fuel with
    | zero => rfl
    | succ fuel => simp only [State.runDue, Group.nextBody_nil hdone]
  have hnone (p : Word) : (l :: ls').any (fun j => ((t.grp u g).thr j).pc == p &&
      (((t.grp u g).thr j).signedOn n).join.isSome) = false := by
    refine List.any_eq_false.mpr fun j _ hj => ?_
    obtain ⟨k, f, hk⟩ := Thread.due_iff.mp (Bool.and_eq_true_iff.mp hj).2
    exact hdone j k f hk
  have hp' : ((s.grp u g).thr l).park = .signed n place i := hp
  simp only [State.runDue, hnext, hrun, hp', ht, hnone, hidle, bne_self_eq_false, Bool.false_eq_true, if_false]

/-- Once every member of mask n has signed, the body executes once for all of them, if it leaves none of them signed. -/
theorem collectiveBody_due (hrun : (s.team u).stat = .running) (hls : (s.grp u g).signers n = ls) (hne : ls ≠ [])
    (hmembers : (s.grp u g).lanesOf ((s.grp u g).mask n) = ls) (hsigned : ∀ j ∈ ls, (s.thr u g j).park = .signed n due i)
    (hslot : ∀ j ∈ ls, ∀ k ∈ ls, (s.thr u g j).pc = (s.thr u g k).pc)
    (hdone : ∀ j k f, ((runBody i (ls.map (Agent.thread u g)) (Safety.marked s u g n)).thr u g j).park ≠ .signed n (some k) f) :
    exec (.collectiveBody u g n) s = .next (runBody i (ls.map (Agent.thread u g)) (Safety.marked s u g n)) := by
  obtain ⟨l, ls', rfl⟩ := List.exists_cons_of_ne_nil hne
  have hmark (j : Nat) (hj : j ∈ l :: ls') : (Safety.marked s u g n).thr u g j =
      { s.thr u g j with park := .signed n (some (due.getD (s.team u).nextPlace)) i } := by
    rw [thr_marked, Thread.markDue_signed (hsigned j hj)]
  have hrun' : ((Safety.marked s u g n).team u).stat = .running := by
    rw [Safety.marked, s.team_setGrp u g u]; exact hrun
  have hsigners : ((Safety.marked s u g n).grp u g).signers n = l :: ls' := by
    rw [Safety.marked, State.grp_setGrp, Group.signers_markDue, hls]
  have hnext : ((Safety.marked s u g n).grp u g).nextBody n = l :: ls' :=
    Group.nextBody_eq hsigners (fun j hj => congrArg Thread.park (hmark j hj))
      (fun j hj => (congrArg Thread.pc (hmark j hj)).trans (hslot j hj l List.mem_cons_self))
  have hbody := State.runDue_last 64 hrun' hnext rfl ⟨_, congrArg Thread.park (hmark l List.mem_cons_self)⟩ rfl hdone
  have hcollect : s.collect u g n = (Safety.marked s u g n).runDue u g n 65 := by
    have hall : ((s.grp u g).lanesOf ((s.grp u g).mask n)).all (fun j => (l :: ls').contains j) = true := by
      rw [hmembers]
      exact List.all_eq_true.mpr fun j hj => List.contains_iff_mem.mpr hj
    simp only [State.collect, hls, hall, hrun]
    rfl
  calc exec (.collectiveBody u g n) s = .next (s.collect u g n) := by
        change execCollectiveBody u g n s = _
        rw [execCollectiveBody, hls]
        rfl
    _ = _ := by rw [hcollect, hbody]

end Body

/-! ## O26 -/

/-- Settles O26: signing lane by lane and then `State.collect` for the two clauses about one lane; for the body, its
signers are the lanes of the mask, all due at one place and at one slot, so `Group.nextBody` is all of them, and after the
body none is due. -/
theorem collectivesSignThenExecute : Obligations.CollectivesSignThenExecute := by
  unfold Obligations.CollectivesSignThenExecute
  intro s u g l i m ag hmask
  refine ⟨fun hex hin => ?_, fun hex hout => ?_, ?_⟩
  · rw [exec_signAll hmask, signAll_executes m hex]
    have hsign : signLane i m ag s = .park s (.signed m.toNat none i) := if_pos hin
    rw [hsign]
    rfl
  · rw [exec_signAll hmask, signAll_executes m hex]
    have htrap : signLane i m ag s = .trap s ⟨0x06, BitVec.ofNat 64 m.toNat, 0⟩ :=
      if_neg (by rw [State.member, hout]; exact Bool.false_ne_true)
    rw [htrap]
    rfl
  · intro n ls due hrun hls hne hmembers hsigned hslot t hdone
    exact collectiveBody_due hrun hls hne hmembers hsigned hslot hdone

end Sys2Proof.Machine
end

section
/-! SUPPORT. The bodies of the cross-lane forms (R91, R112 to R116): what a body's writes and its release leave of the
members' threads, and the values that each form gives. -/

namespace Sys2Proof.Machine

open Sys2Proof.Safety

/-! ## A thread's registers and codes -/

/-- A thread's register; vz reads as zero (R38). -/
def Thread.reg (x : Thread) (r : Reg) : Word := if r = vz then 0 else aget 0 x.regs r.toNat

/-- A thread's register or pair, as a number. -/
def Thread.regN (x : Thread) (w64 : Bool) (r : Reg) : Nat :=
  if w64 then (pair64 (x.reg r) (x.reg (regAt r 1))).toNat else (x.reg r).toNat

/-- A thread's register or pair, written from a number. -/
def Thread.setRegN (x : Thread) (w64 : Bool) (r : Reg) (n : Nat) : Thread :=
  if w64 then (x.setReg r (lo32 (BitVec.ofNat 64 n))).setReg (regAt r 1) (high32 (BitVec.ofNat 64 n))
  else x.setReg r (BitVec.ofNat 32 n)

/-- A thread's codes, set when W = 1 (R42). -/
def Thread.flagIf (x : Thread) (h : Hdr) (c : CC) : Thread := if h.w then { x with cc := c } else x

theorem State.reg_thread (s : State) (u g l : Nat) (r : Reg) : s.reg (.thread u g l) r = (s.thr u g l).reg r := rfl

theorem State.regN_thread (s : State) (u g l : Nat) (w64 : Bool) (r : Reg) :
    s.regN (.thread u g l) w64 r = (s.thr u g l).regN w64 r := rfl

section Thread
variable (x : Thread)

theorem Thread.reg_setReg_same {r : Reg} (hr : r ≠ vz) (v : Word) : (x.setReg r v).reg r = v := by
  simp [Thread.reg, Thread.setReg, hr]

theorem Thread.reg_setReg_ne {r q : Reg} (hq : q ≠ r) (v : Word) : (x.setReg r v).reg q = x.reg q := by
  have hn : q.toNat ≠ r.toNat := fun e => hq (BitVec.eq_of_toNat_eq e)
  unfold Thread.setReg
  split
  · rfl
  · simp only [Thread.reg, aget_aput_ne _ _ _ hn]

/-- A write of a register changes the registers alone. -/
theorem Thread.setReg_eq (r : Reg) (v : Word) : ∃ f, x.setReg r v = { x with regs := f } := by
  unfold Thread.setReg
  split
  · exact ⟨_, rfl⟩
  · exact ⟨_, rfl⟩

theorem Thread.setRegN_eq (w64 : Bool) (r : Reg) (n : Nat) : ∃ f, x.setRegN w64 r n = { x with regs := f } := by
  unfold Thread.setRegN
  split
  · obtain ⟨f, hf⟩ := x.setReg_eq r (lo32 (BitVec.ofNat 64 n))
    obtain ⟨f', hf'⟩ := (x.setReg r (lo32 (BitVec.ofNat 64 n))).setReg_eq (regAt r 1) (high32 (BitVec.ofNat 64 n))
    exact ⟨f', by rw [hf', hf]⟩
  · exact x.setReg_eq r _

theorem Thread.flagIf_eq (h : Hdr) (c : CC) : x.flagIf h c = { x with cc := if h.w then c else x.cc } := by
  unfold Thread.flagIf
  split <;> rfl

theorem regAt_one {r : Reg} (hr : r ≠ vz) : regAt r 1 = r + 1 := if_neg hr

theorem Thread.regN_setRegN {w64 : Bool} {r : Reg} (n : Nat) (hr : r ≠ vz) (hpair : w64 = true → r + 1 ≠ vz) :
    (x.setRegN w64 r n).regN w64 r = n % 2 ^ (if w64 then 64 else 32) := by
  cases w64 with
  | false => simp [Thread.setRegN, Thread.regN, x.reg_setReg_same hr]
  | true =>
    have hne : r ≠ r + 1 := by bv_omega
    simp only [Thread.setRegN, Thread.regN, if_true, regAt_one hr, Thread.reg_setReg_same _ (hpair rfl),
      Thread.reg_setReg_ne _ hne, Thread.reg_setReg_same _ hr]
    have hjoin (v : DWord) : pair64 (lo32 v) (high32 v) = v := by
      unfold pair64 lo32 high32
      bv_omega
    rw [hjoin, BitVec.toNat_ofNat]

theorem Thread.reg_setRegN_ne {w64 : Bool} {r q : Reg} (n : Nat) (hq : q ≠ r) (hpair : w64 = true → q ≠ r + 1) :
    (x.setRegN w64 r n).reg q = x.reg q := by
  cases w64 with
  | false => exact x.reg_setReg_ne hq _
  | true =>
    have hat : q ≠ regAt r 1 := by
      unfold regAt
      split
      · next hr => exact hr ▸ hq
      · exact hpair rfl
    exact (Thread.reg_setReg_ne _ hat _).trans (x.reg_setReg_ne hq _)

end Thread

section Lane
variable (s : State) (u g l : Nat)

theorem laneStep_setRegN (w64 : Bool) (r : Reg) (n : Nat) :
    LaneStep u g l ((s.thr u g l).setRegN w64 r n) s (s.setRegN (.thread u g l) w64 r n) := by
  cases w64 with
  | false => exact laneStep_setReg ..
  | true =>
    have hlow := laneStep_setReg s u g l r (lo32 (BitVec.ofNat 64 n))
    have hhigh := laneStep_setReg (s.setReg (.thread u g l) r (lo32 (BitVec.ofNat 64 n))) u g l (regAt r 1)
      (high32 (BitVec.ofNat 64 n))
    rw [hlow.own] at hhigh
    exact hlow.trans hhigh

theorem laneStep_flagIf (h : Hdr) (c : CC) :
    LaneStep u g l ((s.thr u g l).flagIf h c) s (s.flagIf (.thread u g l) h c) := by
  unfold State.flagIf Thread.flagIf
  split
  · exact laneStep_setCC ..
  · exact LaneStep.refl s u g l

theorem laneStep_result (h : Hdr) (w64 : Bool) (d : Reg) (n : Nat) (c : CC) :
    LaneStep u g l (((s.thr u g l).setRegN w64 d n).flagIf h c) s (s.result (.thread u g l) h w64 d n c) := by
  have hreg := laneStep_setRegN s u g l w64 d n
  have hcc := laneStep_flagIf (s.setRegN (.thread u g l) w64 d n) u g l h c
  rw [hreg.own] at hcc
  exact hreg.trans hcc

end Lane

/-! ## The members of a mask, and what completes their collective -/

section Members
variable {s : State} {u g m : Nat} {i : Instr} {ls : List Nat}

theorem signed_signers (hs : Signed s u g m i ls) : (s.grp u g).signers m = ls := by
  obtain ⟨due, hdue⟩ := hs.signed
  rw [← hs.members]
  refine List.filter_congr fun j hj => Bool.eq_iff_iff.mpr ?_
  have hmem : nbit ((s.grp u g).mask m) j = true ↔ j ∈ ls := by
    rw [← hs.members, Group.mem_lanesOf, and_iff_right (List.mem_range.mp hj)]
  have hsign : (!((s.grp u g).thr j).exited && (((s.grp u g).thr j).signedOn m).isSome) = true ↔
      j ∈ (s.grp u g).signers m := by
    rw [Group.signers, List.mem_filter, and_iff_right hj]
  rw [hmem, hsign, Group.mem_signers, and_iff_right (List.mem_range.mp hj)]
  refine ⟨fun ⟨_, due', f, hp⟩ => ?_, fun hjl => ⟨hs.live j hjl, due, i, hdue j hjl⟩⟩
  by_contra hout
  exact hs.others j hout due' f hp

/-- The lanes of a mask are listed in ascending order. -/
theorem signed_ascending (hs : Signed s u g m i ls) : ls.Pairwise (· < ·) :=
  hs.members ▸ List.pairwise_lt_range.filter _

theorem signed_nodup (hs : Signed s u g m i ls) : ls.Nodup := (signed_ascending hs).imp fun h => Nat.ne_of_lt h

/-- Once its signature is due, a thread differs in its park alone. -/
theorem thr_marked_park (s : State) (u g m j : Nat) :
    ∃ p, (Safety.marked s u g m).thr u g j = { s.thr u g j with park := p } := by
  rw [thr_marked]
  unfold Thread.markDue
  split
  · split
    · exact ⟨_, rfl⟩
    · exact ⟨_, rfl⟩
  · exact ⟨_, rfl⟩

theorem reg_marked (s : State) (u g m j : Nat) (r : Reg) :
    (Safety.marked s u g m).reg (.thread u g j) r = s.reg (.thread u g j) r := by
  obtain ⟨p, hp⟩ := thr_marked_park s u g m j
  rw [State.reg_thread, hp]
  rfl

/-- The release of lanes that do not come to their meeting addresses. -/
theorem State.releaseAll_lanes {r : State} (hls : ls.Nodup) (hmeet : ∀ l ∈ ls, NoMeeting r (.thread u g l)) :
    let t := r.releaseAll (ls.map (Agent.thread u g))
    GroupStep u g r t ∧
      (∀ l ∈ ls, t.thr u g l = { r.thr u g l with pc := nextPc (r.thr u g l).pc, park := .run }) ∧
      ∀ j, j ∉ ls → t.thr u g j = r.thr u g j := by
  have hsteps := LaneStep.foldl (s := r) (u := u) (g := g) (f := fun t l => t.release (.thread u g l)) (lane := id)
    (φ := fun _ x => { x with pc := nextPc x.pc, park := .run }) (P := fun _ x => x.meet ≠ nextPc x.pc) ls
    (by rwa [List.map_id]) (fun _ _ _ h => laneStep_advance h) hmeet
  rwa [List.map_id, ← List.foldl_map] at hsteps

/-- What a body leaves that writes the members' registers and codes, thread l becoming y l, and then releases them. -/
theorem collected_of_writes {w : State} {y : Nat → Thread} {h : Hdr} {w64 : Bool} {d : Reg} {value : Nat → Option Nat}
    {codes : Nat → CC} (hs : Signed s u g m i ls)
    (hbody : runBody i (ls.map (Agent.thread u g)) (Safety.marked s u g m) = w.releaseAll (ls.map (Agent.thread u g)))
    (hstep : GroupStep u g (Safety.marked s u g m) w)
    (hown : ∀ l ∈ ls, w.thr u g l = y l)
    (hothers : ∀ j, j ∉ ls → w.thr u g j = (Safety.marked s u g m).thr u g j)
    (hy : ∀ l ∈ ls, ∃ p f c, y l = { s.thr u g l with park := p, regs := f, cc := c })
    (hdst : ∀ l ∈ ls, d ≠ vz → (y l).regN w64 d = match value l with
      | some v => v % 2 ^ (if w64 then 64 else 32)
      | none => (s.thr u g l).regN w64 d)
    (hregs : ∀ l ∈ ls, ∀ r, r ≠ d → (w64 = true → r ≠ d + 1) → (y l).reg r = (s.thr u g l).reg r)
    (hcodes : ∀ l ∈ ls, (y l).cc = if h.w then codes l else (s.thr u g l).cc) :
    ∃ t, exec (.collectiveBody u g m) s = .next t ∧ Collected s t u g ls h w64 d value codes := by
  obtain ⟨due, hdue⟩ := hs.signed
  have hpc : ∀ l ∈ ls, (w.thr u g l).pc = (s.thr u g l).pc ∧ (w.thr u g l).meet = (s.thr u g l).meet := by
    intro l hl
    obtain ⟨p, f, c, hyl⟩ := hy l hl
    rw [hown l hl, hyl]
    exact ⟨rfl, rfl⟩
  obtain ⟨hrel, hgo, hrest⟩ := State.releaseAll_lanes (r := w) (u := u) (g := g) (signed_nodup hs) fun l hl => by
    obtain ⟨hpcl, hmeetl⟩ := hpc l hl
    have hapart : (s.thr u g l).meet ≠ nextPc (s.thr u g l).pc := hs.apart l hl
    change (w.thr u g l).meet ≠ nextPc (w.thr u g l).pc
    rwa [hpcl, hmeetl]
  rw [← hbody] at hrel hgo hrest
  have hthr : ∀ l ∈ ls, (runBody i (ls.map (Agent.thread u g)) (Safety.marked s u g m)).thr u g l =
      { y l with pc := nextPc (s.thr u g l).pc, park := .run } := by
    intro l hl
    rw [hgo l hl, hown l hl, ← (hpc l hl).1, hown l hl]
  have hout : ∀ j, j ∉ ls → (runBody i (ls.map (Agent.thread u g)) (Safety.marked s u g m)).thr u g j = s.thr u g j := by
    intro j hj
    rw [hrest j hj, hothers j hj, thr_marked, Thread.markDue_unsigned _ (hs.others j hj)]
  have hexec := collectiveBody_due hs.running (signed_signers hs) hs.nonempty hs.members hdue hs.slot fun j k f => by
    by_cases hj : j ∈ ls
    · rw [hthr j hj]
      exact Park.noConfusion
    · rw [hout j hj]
      exact hs.others j hj _ f
  refine ⟨_, hexec, ?_⟩
  exact {
    runs := fun l hl => ⟨congrArg Thread.park (hthr l hl), congrArg Thread.pc (hthr l hl)⟩
    dst := fun l hl hd => by
      rw [State.regN_thread, hthr l hl]
      exact hdst l hl hd
    regs := fun l hl r hr hr' => by
      rw [State.reg_thread, hthr l hl]
      exact hregs l hl r hr hr'
    codes := fun l hl => (congrArg Thread.cc (hthr l hl)).trans (hcodes l hl)
    others := hout
    memory := ((groupStep_marked s u g m).trans (hstep.trans hrel)).memory }

end Members

/-! ## Bodies that give every member a result, and bodies that give some of them one -/

section Finish
variable {s : State} {u g m : Nat} {i : Instr} {ls : List Nat} {h : Hdr} {d : Reg}

/-- The registers of an instruction that lanes have signed are all named as they may be (R38, R39). -/
theorem signed_opds (hs : Signed s u g m i ls) {o : Opd}
    (ho : o ∈ Instr.opds ((s.team u).desc.gwidth == 64) (s.team u).algDim i) :
    Opd.bad (Nat.min (s.team u).desc.nreg 511) o = none := by
  obtain ⟨l, hl⟩ := List.exists_mem_of_ne_nil ls hs.nonempty
  have hlegal := hs.legal l hl
  unfold State.encodingTrap at hlegal
  split at hlegal
  · cases hlegal
  · have hbad : s.regBad (.thread u g l) i = none := Option.map_eq_none_iff.mp hlegal
    exact List.findSome?_eq_none_iff.mp hbad o ho

/-- A pair that an instruction may name does not reach vz. -/
theorem Opd.pair_inside {lim : Nat} (hlim : lim ≤ 511) (hok : Opd.bad lim (o2 d) = none) (hd : d ≠ vz) : d + 1 ≠ vz := by
  have hend : d.toNat + 2 ≤ lim := by
    simp only [Opd.bad, o2] at hok
    grind
  intro heq
  have hvz : (d + 1).toNat = vz.toNat := congrArg BitVec.toNat heq
  rw [BitVec.toNat_add] at hvz
  have : vz.toNat = 511 := rfl
  have : (1 : Reg).toNat = 1 := rfl
  omega

/-- A body that ends with one result for each member. -/
theorem collected_of_finish {w64 : Bool} {value : Nat → Nat} {codes : Nat → CC} (hs : Signed s u g m i ls)
    (hbody : runBody i (ls.map (Agent.thread u g)) (Safety.marked s u g m) = (Safety.marked s u g m).finish
      (ls.map (Agent.thread u g)) h w64 d (ls.map fun l => (value l, codes l)))
    (hpair : w64 = true → d ≠ vz → d + 1 ≠ vz) :
    ∃ t, exec (.collectiveBody u g m) s = .next t ∧
      Collected s t u g ls h w64 d (fun l => some (value l)) codes := by
  have hsteps := LaneStep.foldl (s := Safety.marked s u g m) (u := u) (g := g)
    (f := fun t l => t.result (.thread u g l) h w64 d (value l) (codes l)) (lane := id)
    (φ := fun l x => (x.setRegN w64 d (value l)).flagIf h (codes l)) (P := fun _ _ => True) ls
    (by rw [List.map_id]; exact signed_nodup hs) (fun r l _ _ => laneStep_result r u g l h w64 d (value l) (codes l))
    (fun _ _ => trivial)
  rw [List.map_id] at hsteps
  obtain ⟨hstep, hown, hothers⟩ := hsteps
  have hform (l : Nat) : ∃ p f, ((((Safety.marked s u g m).thr u g l).setRegN w64 d (value l)).flagIf h (codes l)) =
      { s.thr u g l with park := p, regs := f, cc := if h.w then codes l else (s.thr u g l).cc } := by
    obtain ⟨p, hp⟩ := thr_marked_park s u g m l
    obtain ⟨f, hf⟩ := ((Safety.marked s u g m).thr u g l).setRegN_eq w64 d (value l)
    exact ⟨p, f, by rw [Thread.flagIf_eq, hf, hp]⟩
  refine collected_of_writes hs (hbody.trans ?_) hstep hown hothers (fun l _ => ?_) (fun l _ hd => ?_)
    (fun l _ r hr hr' => ?_) (fun l _ => ?_)
  · rw [State.finish, List.zip_map', List.foldl_map]
  · obtain ⟨p, f, heq⟩ := hform l
    exact ⟨p, f, _, heq⟩
  · rw [Thread.flagIf_eq]
    exact Thread.regN_setRegN _ _ hd fun hw => hpair hw hd
  · rw [Thread.flagIf_eq]
    exact (Thread.reg_setRegN_ne _ (value l) hr hr').trans (reg_marked s u g m l r)
  · obtain ⟨p, f, heq⟩ := hform l
    exact congrArg Thread.cc heq

/-- A thread's register, written where there is a value. -/
def Thread.setOpt (x : Thread) (r : Reg) : Option Word → Thread
  | some v => x.setReg r v
  | none => x

theorem Thread.setOpt_eq (x : Thread) (r : Reg) (v : Option Word) : ∃ f, x.setOpt r v = { x with regs := f } := by
  cases v with
  | none => exact ⟨x.regs, rfl⟩
  | some v => exact x.setReg_eq r v

theorem afind_eq_none {α : Type} {t : List (Nat × α)} {k : Nat} (h : k ∉ akeys t) : afind t k = none := by
  cases hf : afind t k with
  | none => rfl
  | some v => exact absurd (List.mem_map_of_mem (f := Prod.fst) (afind_some_mem hf)) h

/-- Writes of one register in several threads, each listed once. -/
theorem State.setRegs_lanes (r : State) (u g : Nat) (d : Reg) {ws : List (Nat × Word)} (hws : (akeys ws).Nodup) :
    let t := ws.foldl (fun t e => t.setReg (.thread u g e.1) d e.2) r
    GroupStep u g r t ∧ ∀ j, t.thr u g j = (r.thr u g j).setOpt d (afind ws j) := by
  obtain ⟨hstep, hown, hothers⟩ := LaneStep.foldl (s := r) (u := u) (g := g)
    (f := fun t e => t.setReg (.thread u g e.1) d e.2) (lane := Prod.fst) (φ := fun e x => x.setReg d e.2)
    (P := fun _ _ => True) ws hws (fun t e _ _ => laneStep_setReg t u g e.1 d e.2) (fun _ _ => trivial)
  refine ⟨hstep, fun j => ?_⟩
  by_cases hj : j ∈ akeys ws
  · obtain ⟨⟨k, v⟩, he, rfl⟩ := List.mem_map.mp hj
    rw [afind_of_mem hws he]
    exact hown _ he
  · rw [afind_eq_none hj]
    exact hothers j hj

/-- A body that ends with results for some of the members, and a code for each. -/
theorem collected_of_finishSome {ws : List (Nat × Word)} {value : Nat → Option Nat} {z : Nat → Bool}
    (hs : Signed s u g m i ls)
    (hbody : runBody i (ls.map (Agent.thread u g)) (Safety.marked s u g m) = (Safety.marked s u g m).finishSome
      (ls.map (Agent.thread u g)) h d (ws.map fun e => (.thread u g e.1, e.2)) (ls.map z))
    (hws : (akeys ws).Nodup) (hin : ∀ j ∈ akeys ws, j ∈ ls)
    (hvalue : ∀ l ∈ ls, value l = (afind ws l).map BitVec.toNat) :
    ∃ t, exec (.collectiveBody u g m) s = .next t ∧
      Collected s t u g ls h false d value (fun l => zFlag (z l)) := by
  obtain ⟨hregs, hwritten⟩ := State.setRegs_lanes (Safety.marked s u g m) u g d hws
  have hflags := LaneStep.foldl (u := u) (g := g)
    (s := ws.foldl (fun t e => t.setReg (.thread u g e.1) d e.2) (Safety.marked s u g m))
    (f := fun t l => t.flagIf (.thread u g l) h (zFlag (z l))) (lane := id)
    (φ := fun l x => x.flagIf h (zFlag (z l))) (P := fun _ _ => True) ls
    (by rw [List.map_id]; exact signed_nodup hs) (fun r l _ _ => laneStep_flagIf r u g l h (zFlag (z l)))
    (fun _ _ => trivial)
  rw [List.map_id] at hflags
  obtain ⟨hstep, hown, hothers⟩ := hflags
  have hform (l : Nat) : ∃ p f,
      (((Safety.marked s u g m).thr u g l).setOpt d (afind ws l)).flagIf h (zFlag (z l)) =
      { s.thr u g l with park := p, regs := f, cc := if h.w then zFlag (z l) else (s.thr u g l).cc } := by
    obtain ⟨p, hp⟩ := thr_marked_park s u g m l
    obtain ⟨f, hf⟩ := ((Safety.marked s u g m).thr u g l).setOpt_eq d (afind ws l)
    exact ⟨p, f, by rw [Thread.flagIf_eq, hf, hp]⟩
  refine collected_of_writes hs (hbody.trans ?_) (hregs.trans hstep)
    (fun l hl => (hown l hl).trans (congrArg (fun x => Thread.flagIf x h (zFlag (z l))) (hwritten l)))
    (fun j hj => ?_) (fun l _ => ?_) (fun l hl hd => ?_) (fun l _ r hr _ => ?_) (fun l _ => ?_)
  · rw [State.finishSome, List.zip_map', List.foldl_map, List.foldl_map]
  · rw [hothers j hj, hwritten j, afind_eq_none fun hmem => hj (hin j hmem)]
    rfl
  · obtain ⟨p, f, heq⟩ := hform l
    exact ⟨p, f, _, heq⟩
  · rw [Thread.flagIf_eq, hvalue l hl]
    cases afind ws l with
    | none => exact congrArg BitVec.toNat (reg_marked s u g m l d)
    | some v =>
      exact (congrArg BitVec.toNat (Thread.reg_setReg_same _ hd v)).trans (Nat.mod_eq_of_lt v.isLt).symm
  · rw [Thread.flagIf_eq]
    cases afind ws l with
    | none => exact reg_marked s u g m l r
    | some v => exact (Thread.reg_setReg_ne _ hr v).trans (reg_marked s u g m l r)
  · obtain ⟨p, f, heq⟩ := hform l
    exact congrArg Thread.cc heq

end Finish

end Sys2Proof.Machine
end

section
/-! SUPPORT. What VOTE, SHFL, VCOMP, VEXP, ISCAN and IRED compute from the members' operands (R91, R112 to R116). -/

namespace Sys2Proof.Machine

open Sys2Proof.Safety

/-! ## Lists of members and of their operands -/

/-- Looking a key up in keys paired with values: the value at the key's place. -/
theorem afind_zip {α : Type} (ks : List Nat) (vs : List α) (k : Nat) :
    afind (ks.zip vs) k = if k ∈ ks then vs[ks.idxOf k]? else none := by
  induction ks generalizing vs with
  | nil => rfl
  | cons j ks ih =>
    cases vs with
    | nil => simp [afind]
    | cons v vs =>
      rw [List.zip_cons_cons, afind, ih]
      by_cases hj : j = k
      · simp [hj]
      · simp [hj, Ne.symm hj, List.idxOf_cons_ne]

theorem akeys_zip_sublist {α : Type} (ks : List Nat) (vs : List α) : (akeys (ks.zip vs)).Sublist ks := by
  induction ks generalizing vs with
  | nil => exact List.Sublist.refl _
  | cons k ks ih =>
    cases vs with
    | nil => exact List.nil_sublist _
    | cons v vs => exact (ih vs).cons_cons k

theorem afind_zip_map {α : Type} (ks : List Nat) (f : Nat → α) (k : Nat) :
    afind (ks.zip (ks.map f)) k = if k ∈ ks then some (f k) else none := by
  rw [afind_zip]
  split
  · next hk => rw [List.getElem?_map, List.getElem?_idxOf hk]; rfl
  · rfl

theorem map_idxOf_of_nodup {ls : List Nat} (hls : ls.Nodup) {α : Type} (f : Nat → α) :
    ls.map (fun l => f (ls.idxOf l)) = (List.range ls.length).map f := by
  refine List.ext_getElem (by simp) fun n hn _ => ?_
  simp [hls.idxOf_getElem]

section Column
variable (s : State) (u g m : Nat) (ls : List Nat)

theorem lanes_threads : lanes (ls.map (Agent.thread u g)) = ls := by
  rw [lanes, List.map_map]
  exact List.map_id ls

theorem column_marked (a : Reg) : (Safety.marked s u g m).column (ls.map (Agent.thread u g)) a =
    ls.map fun l => (s.reg (.thread u g l) a).toNat := by
  rw [State.column, List.map_map]
  exact List.map_congr_left fun l _ => congrArg BitVec.toNat (reg_marked s u g m l a)

theorem picked_marked (b : Reg) : (Safety.marked s u g m).picked (ls.map (Agent.thread u g)) b =
    (ls.filter fun l => decide ((s.reg (.thread u g l) b).toNat ≠ 0)).map (Agent.thread u g) := by
  rw [State.picked, List.filter_map]
  refine congrArg _ (List.filter_congr fun l _ => ?_)
  simp only [Function.comp, reg_marked, bne, decide_not]
  exact congrArg Bool.not (Bool.eq_iff_iff.mpr (by simp [← BitVec.toNat_inj]))

end Column

/-! ## VOTE -/

/-- The bits of ascending lanes add up. -/
theorem ballot_eq_sum {ls : List Nat} (hls : ls.Pairwise (· < ·)) (x : Nat → Nat) :
    ballot ls (ls.map x) = ((ls.filter fun l => decide (x l ≠ 0)).map fun l => 2 ^ l).sum := by
  have hfrom (b : Nat) (hb : ∀ l ∈ ls, b < 2 ^ l) :
      (ls.zip (ls.map x)).foldl (fun b e => if e.2 = 0 then b else b ||| 2 ^ e.1) b =
        b + ((ls.filter fun l => decide (x l ≠ 0)).map fun l => 2 ^ l).sum := by
    induction ls generalizing b with
    | nil => rfl
    | cons l ls ih =>
      obtain ⟨hl, hls⟩ := List.pairwise_cons.mp hls
      have hbl := hb l List.mem_cons_self
      rw [List.map_cons, List.zip_cons_cons, List.foldl_cons]
      by_cases hx : x l = 0
      · rw [if_pos hx, ih hls b fun k hk => hb k (List.mem_cons_of_mem _ hk), List.filter_cons_of_neg (by simp [hx])]
      · have hor : b ||| 2 ^ l = b + 2 ^ l := by
          have := Nat.two_pow_add_eq_or_of_lt hbl 1
          rw [mul_one] at this
          rw [Nat.or_comm, ← this, Nat.add_comm]
        have hbelow : ∀ k ∈ ls, b + 2 ^ l < 2 ^ k := fun k hk => by
          have := Nat.pow_le_pow_right two_pos (hl k hk)
          rw [Nat.succ_eq_add_one, pow_succ] at this
          omega
        rw [if_neg hx, hor, ih hls _ hbelow, List.filter_cons_of_pos (by simp [hx]), List.map_cons, List.sum_cons,
          Nat.add_assoc]
  rw [ballot, hfrom 0 fun l _ => Nat.two_pow_pos l, Nat.zero_add]

/-- What VOTE gives to its signers (R91). -/
def voteValue (op : VoteOp) (ls : List Nat) (x : Nat → Nat) : Nat :=
  match op with
  | .all => b2n ((ls.map x).all (fun y => y != 0))
  | .any => b2n (ballot ls (ls.map x) != 0)
  | .uni => b2n ((ls.map x).all (fun y => y == (ls.map x).headD 0))
  | .ballot => ballot ls (ls.map x)

theorem b2n_eq_ite {b : Bool} {p : Prop} [Decidable p] (h : b = true ↔ p) : b2n b = if p then 1 else 0 := by
  unfold b2n
  exact if_congr h rfl rfl

section Vote
variable {ls : List Nat} (x : Nat → Nat)

theorem voteValue_all : voteValue .all ls x = if ∀ l ∈ ls, x l ≠ 0 then 1 else 0 := b2n_eq_ite (by simp)

theorem voteValue_any (hls : ls.Pairwise (· < ·)) : voteValue .any ls x = if ∃ l ∈ ls, x l ≠ 0 then 1 else 0 := by
  refine b2n_eq_ite ?_
  rw [ballot_eq_sum hls, bne_iff_ne, ne_eq, List.sum_eq_zero_iff]
  simp

theorem voteValue_uni : voteValue .uni ls x = if ∀ l ∈ ls, ∀ k ∈ ls, x l = x k then 1 else 0 := by
  refine b2n_eq_ite ?_
  cases ls with
  | nil => simp
  | cons l ls =>
    have hhead : ((l :: ls).map x).headD 0 = x l := rfl
    rw [hhead, List.all_map]
    simp only [List.all_eq_true, Function.comp, beq_iff_eq]
    exact ⟨fun h j hj k hk => (h j hj).trans (h k hk).symm, fun h j hj => h j hj l List.mem_cons_self⟩

theorem voteValue_ballot (hls : ls.Pairwise (· < ·)) :
    voteValue .ballot ls x = ((ls.filter fun l => decide (x l ≠ 0)).map fun l => 2 ^ l).sum := ballot_eq_sum hls x

end Vote

section Forms
variable {s : State} {u g m : Nat} {ls : List Nat} {h : Hdr} {d a b c : Reg} {mm : MaskNo}

/-- The operand of a lane. -/
def operand (s : State) (u g : Nat) (r : Reg) (l : Nat) : Nat := (s.reg (.thread u g l) r).toNat

theorem g64_marked (hne : ls ≠ []) :
    (Safety.marked s u g m).g64 (ls.map (Agent.thread u g)) = ((s.team u).desc.gwidth == 64) := by
  obtain ⟨l, ls', rfl⟩ := List.exists_cons_of_ne_nil hne
  have hdesc : ((Safety.marked s u g m).team u).desc = (s.team u).desc := by
    rw [Safety.marked, s.team_setGrp u g u]
  change (((Safety.marked s u g m).team u).desc.gwidth == 64) = _
  rw [hdesc]

theorem vote_collected {op : VoteOp} (hs : Signed s u g m (.vote h d a mm op) ls) :
    let w64 := decide (op = .ballot ∧ (s.team u).desc.gwidth = 64)
    let v := voteValue op ls (operand s u g a)
    ∃ t, exec (.collectiveBody u g m) s = .next t ∧
      Collected s t u g ls h w64 d (fun _ => some v) (fun _ => codesInt (if w64 then 64 else 32) v false) := by
  intro w64 v
  have hwide : (op == .ballot && (s.team u).desc.gwidth == 64) = w64 := by
    simp only [w64, Bool.decide_and]
    rfl
  refine collected_of_finish hs ?_ fun hw hd => ?_
  · change bodyVote h d a op _ _ = _
    simp only [bodyVote, g64_marked hs.nonempty, hwide, column_marked, lanes_threads]
    rw [List.map_map]
    cases op <;> rfl
  · refine Opd.pair_inside (Nat.min_le_right _ _) (signed_opds hs (o := o2 d) ?_) hd
    rw [hw] at hwide
    obtain ⟨hop, hg⟩ := Bool.and_eq_true_iff.mp hwide
    simp [Instr.opds, hop, hg, oW]

/-- The lane that SHFL names to lane l by its operand k, if it names one (R113). -/
def shflSource (op : ShflOp) (l k : Nat) : Option Nat :=
  match op with
  | .idx => some k
  | .up => if k ≤ l then some (l - k) else none
  | .down => some (l + k)
  | .xor => some (l ^^^ k)

/-- The lane's number that R113 names, which may lie outside the group. -/
def shflName (op : ShflOp) (l k : Nat) : Int :=
  match op with
  | .idx => k
  | .up => l - k
  | .down => l + k
  | .xor => (l ^^^ k : Nat)

theorem shflSource_eq_some (op : ShflOp) (l k n : Nat) : shflSource op l k = some n ↔ shflName op l k = n := by
  cases op with
  | idx | xor =>
    rw [shflName, Nat.cast_inj]
    exact Option.some_inj
  | up =>
    simp only [shflSource, shflName, Option.ite_none_right_eq_some, Option.some_inj]
    omega
  | down =>
    rw [shflName, ← Nat.cast_add, Nat.cast_inj]
    exact Option.some_inj

/-- What SHFL finds: the operand of the named lane, if it is a member. -/
theorem shflSource_found (op : ShflOp) (x : Nat → Nat) (l k : Nat) :
    (shflSource op l k).bind (afind (ls.zip (ls.map x))) =
      if ∃ j ∈ ls, shflName op l k = (j : Int) then some (x (shflName op l k).toNat) else none := by
  have hsrc := shflSource_eq_some op l k
  split
  · next hin =>
    obtain ⟨j, hj, hname⟩ := hin
    rw [(hsrc j).mpr hname, Option.bind_some, afind_zip_map, if_pos hj, hname, Int.toNat_natCast]
  · next hout =>
    cases ho : shflSource op l k with
    | none => rfl
    | some n =>
      rw [Option.bind_some, afind_zip_map, if_neg]
      exact fun hn => hout ⟨n, hn, (hsrc n).mp ho⟩

theorem shfl_collected {op : ShflOp} {src : Nat → Int} (hsrc : ∀ l, src l = shflName op l (operand s u g b l))
    (hs : Signed s u g m (.shfl h d a b c mm op) ls) :
    let ok := fun l => decide (∃ k ∈ ls, src l = (k : Int))
    let v := fun l => if ok l then operand s u g a (src l).toNat else operand s u g c l
    ∃ t, exec (.collectiveBody u g m) s = .next t ∧
      Collected s t u g ls h false d (fun l => some (v l)) (fun l => codesInt 32 (v l) (ok l)) := by
  intro ok v
  refine collected_of_finish hs ?_ (fun hw => absurd hw Bool.false_ne_true)
  change bodyShfl h d a b c op _ _ = _
  simp only [bodyShfl, lanes_threads, column_marked]
  rw [List.map_map]
  refine congrArg _ (List.map_congr_left fun l _ => ?_)
  have hfound := shflSource_found (ls := ls) op (operand s u g a) l (operand s u g b l)
  simp only [Function.comp, reg_marked]
  change (match (shflSource op l (operand s u g b l)).bind (afind (ls.zip (ls.map (operand s u g a)))) with
    | some v => (v, { resultFlags 32 v with c := true })
    | none => (operand s u g c l, resultFlags 32 (operand s u g c l))) = _
  rw [hfound, ← hsrc]
  by_cases hin : ∃ k ∈ ls, src l = (k : Int)
  · simp only [v, ok, hin, decide_true, if_true]
    rfl
  · simp only [v, ok, hin, decide_false, if_false, Bool.false_eq_true]
    rfl

/-- VCOMP: the members' operands move down onto the lowest members, those with a zero predicate left out (R114). -/
theorem vcomp_collected (hs : Signed s u g m (.vcomp h d a b mm) ls) :
    let picked := ls.filter fun l => decide (operand s u g b l ≠ 0)
    ∃ t, exec (.collectiveBody u g m) s = .next t ∧
      Collected s t u g ls h false d (fun l => (picked[ls.idxOf l]?).map (operand s u g a))
        (fun l => ⟨false, decide (picked.length ≤ ls.idxOf l), false, false⟩) := by
  intro picked
  have hls := signed_nodup hs
  have hsub := akeys_zip_sublist ls (picked.map fun l => s.reg (.thread u g l) a)
  refine collected_of_finishSome (z := fun l => decide (picked.length ≤ ls.idxOf l)) hs ?_
    (hls.sublist hsub) (fun _ hj => hsub.mem hj) fun l hl => ?_
  · change bodyVcomp h d a b _ _ = _
    rw [bodyVcomp, picked_marked, List.map_map, List.length_map, List.length_map,
      map_idxOf_of_nodup hls fun n => decide (picked.length ≤ n), List.zip_map_left]
    refine congrArg (fun vs => State.finishSome _ _ h d ((ls.zip vs).map _) _) ?_
    exact List.map_congr_left fun l _ => reg_marked s u g m l a
  · rw [afind_zip, if_pos hl, List.getElem?_map, Option.map_map]
    rfl

/-- VEXP: the members' operands move up onto the members with a predicate but zero (R115). -/
theorem vexp_collected (hs : Signed s u g m (.vexp h d a b mm) ls) :
    let picked := ls.filter fun l => decide (operand s u g b l ≠ 0)
    ∃ t, exec (.collectiveBody u g m) s = .next t ∧
      Collected s t u g ls h false d
        (fun l => if l ∈ picked then (ls[picked.idxOf l]?).map (operand s u g a) else none)
        (fun l => ⟨false, decide (l ∉ picked), false, false⟩) := by
  intro picked
  have hsub := akeys_zip_sublist picked (ls.map fun l => s.reg (.thread u g l) a)
  refine collected_of_finishSome (z := fun l => decide (l ∉ picked)) hs ?_
    (((signed_nodup hs).filter _).sublist hsub) (fun j hj => (List.mem_filter.mp (hsub.mem hj)).1) fun l _ => ?_
  · change bodyVexp h d a b _ _ = _
    have hflag (l : Nat) : (!(picked.map (Agent.thread u g)).contains (.thread u g l)) = decide (l ∉ picked) := by
      simp
    rw [bodyVexp, picked_marked, List.map_map, List.map_map, List.zip_map_left]
    refine congrArg₂ (fun vs zs => State.finishSome _ _ h d ((picked.zip vs).map _) zs) ?_ ?_
    · exact List.map_congr_left fun l _ => reg_marked s u g m l a
    · exact List.map_congr_left fun l _ => hflag l
  · rw [afind_zip, List.getElem?_map]
    split
    · rw [Option.map_map]
      rfl
    · rfl

/-! ## Scans -/

/-- The running results of a scan, each from the values up to its place (R116). -/
theorem scanList_eq_map (op : ScanOp) (excl : Bool) (x : Nat) (ys : List Nat) : scanList op excl x ys =
    (List.range ys.length).map fun n => (ys.take (n + if excl then 0 else 1)).foldl (scanOp op) x := by
  induction ys generalizing x with
  | nil => rfl
  | cons y ys ih =>
    rw [scanList, ih, List.length_cons, List.range_succ_eq_map, List.map_cons, List.map_map]
    refine congrArg₂ List.cons ?_ (List.map_congr_left fun n _ => ?_)
    · cases excl <;> rfl
    · rw [Function.comp, Nat.succ_eq_add_one, Nat.add_right_comm, List.take_succ_cons]
      rfl

theorem iscan_collected {op : ScanOp} {excl : Bool} {upTo : Nat → Nat}
    (hupTo : ∀ n, ((ls.take n).map (operand s u g a)).foldl (scanOp op) (scanId op) = upTo n)
    (hs : Signed s u g m (.iscan h d a mm op excl) ls) :
    ∃ t, exec (.collectiveBody u g m) s = .next t ∧
      Collected s t u g ls h false d (fun l => some (upTo (ls.idxOf l + if excl then 0 else 1)))
        (fun l => codesInt 32 (upTo (ls.idxOf l + if excl then 0 else 1)) false) := by
  refine collected_of_finish hs ?_ (fun hw => absurd hw Bool.false_ne_true)
  change bodyIscan h d a op excl _ _ = _
  rw [bodyIscan, column_marked, scanList_eq_map, List.length_map, List.map_map,
    map_idxOf_of_nodup (signed_nodup hs) fun n => (upTo (n + if excl then 0 else 1),
      codesInt 32 (upTo (n + if excl then 0 else 1)) false)]
  refine congrArg _ (List.map_congr_left fun n _ => ?_)
  rw [Function.comp, ← hupTo, List.map_take]
  rfl

theorem ired_collected {op : ScanOp} {upTo : Nat → Nat}
    (hupTo : ∀ n, ((ls.take n).map (operand s u g a)).foldl (scanOp op) (scanId op) = upTo n)
    (hs : Signed s u g m (.ired h d a mm op) ls) :
    ∃ t, exec (.collectiveBody u g m) s = .next t ∧
      Collected s t u g ls h false d (fun _ => some (upTo ls.length)) (fun _ => codesInt 32 (upTo ls.length) false) := by
  refine collected_of_finish hs ?_ (fun hw => absurd hw Bool.false_ne_true)
  change bodyIred h d a op _ _ = _
  rw [← hupTo, List.take_length, bodyIred, column_marked, List.map_map]
  rfl

end Forms

/-! ## The operations of Table 5-4 -/

/-- The patterns of 32 bits are told apart by their signed values. -/
theorem sgn_inj {p q : Nat} (hp : p < 2 ^ 32) (hq : q < 2 ^ 32) (h : sgn 32 p = sgn 32 q) : p = q := by
  simp only [sgn, Nat.mod_eq_of_lt hp, Nat.mod_eq_of_lt hq] at h
  split at h <;> split at h <;> omega

theorem scanOp_lt (op : ScanOp) {p q : Nat} (hp : p < 2 ^ 32) (hq : q < 2 ^ 32) : scanOp op p q < 2 ^ 32 := by
  cases op with
  | add => exact Nat.mod_lt _ (by decide)
  | smin | smax | umin | umax =>
    simp only [scanOp]
    split <;> assumption
  | and => exact Nat.and_lt_two_pow p hq
  | or => exact Nat.or_lt_two_pow hp hq
  | xor => exact Nat.xor_lt_two_pow hp hq

/-- Folds of two operations that agree on 32-bit patterns, of which the first gives such patterns. -/
theorem foldl_congr_lt {f f' : Nat → Nat → Nat} (hlt : ∀ p q, p < 2 ^ 32 → q < 2 ^ 32 → f p q < 2 ^ 32)
    (heq : ∀ p q, p < 2 ^ 32 → q < 2 ^ 32 → f p q = f' p q) {x : Nat} (hx : x < 2 ^ 32) {ys : List Nat}
    (hys : ∀ y ∈ ys, y < 2 ^ 32) : ys.foldl f x = ys.foldl f' x := by
  induction ys generalizing x with
  | nil => rfl
  | cons y ys ih =>
    obtain ⟨hy, hys⟩ := List.forall_mem_cons.mp hys
    rw [List.foldl_cons, List.foldl_cons, ← heq x y hx hy, ih (hlt x y hx hy) hys]

/-- Table 5-4 as `scanOp` and `scanId` have it: an operation that agrees with it on 32-bit patterns, with its identity,
folds the members' operands alike. -/
theorem foldl_scanOp {op : ScanOp} {f : Nat → Nat → Nat} {unit : Nat} (hunit : scanId op = unit)
    (hf : ∀ p q, p < 2 ^ 32 → q < 2 ^ 32 → scanOp op p q = f p q) (s : State) (u g : Nat) (a : Reg) (ls : List Nat) :
    (ls.map (operand s u g a)).foldl (scanOp op) (scanId op) = (ls.map (operand s u g a)).foldl f unit := by
  have hid : scanId op < 2 ^ 32 := by cases op <;> decide
  refine (foldl_congr_lt (fun p q => scanOp_lt op) hf hid fun y hy => ?_).trans (by rw [hunit])
  obtain ⟨l, -, rfl⟩ := List.mem_map.mp hy
  exact (s.reg (.thread u g l) a).isLt

theorem scanOp_smin {p q : Nat} (hp : p < 2 ^ 32) (hq : q < 2 ^ 32) :
    scanOp .smin p q = if sgn 32 p ≤ sgn 32 q then p else q := by
  have htie := sgn_inj hp hq
  simp only [scanOp]
  split <;> split <;> omega

theorem scanOp_smax {p q : Nat} (hp : p < 2 ^ 32) (hq : q < 2 ^ 32) :
    scanOp .smax p q = if sgn 32 p ≤ sgn 32 q then q else p := by
  have htie := sgn_inj hp hq
  simp only [scanOp]
  split <;> split <;> omega

theorem scanOp_umin (p q : Nat) : scanOp .umin p q = min p q := by
  simp only [scanOp]
  split <;> omega

theorem scanOp_umax (p q : Nat) : scanOp .umax p q = max p q := by
  simp only [scanOp]
  split <;> omega

/-! ## O27 -/

/-- Settles O27: each body reads the operands of its signers, whose threads their marking as due leaves but for their
parks, writes its results and releases them all. -/
theorem crossLaneResults : Obligations.CrossLaneResults := by
  unfold Obligations.CrossLaneResults
  intro s u g m ls h d a b c mm ag x picked gets
  refine ⟨?_, ?_, vcomp_collected, vexp_collected, ?_⟩
  · intro op w64 v hs
    have hv : voteValue op ls (operand s u g a) = v := by
      cases op with
      | all => exact voteValue_all _
      | any => exact voteValue_any _ (signed_ascending hs)
      | uni => exact voteValue_uni _
      | ballot => exact voteValue_ballot _ (signed_ascending hs)
    have hvote := vote_collected hs
    rw [hv] at hvote
    simpa only [decide_eq_true_eq] using hvote
  · intro op src ok v hs
    exact shfl_collected (src := src) (fun l => by cases op <;> rfl) hs
  · intro op f unit hop upTo
    have hunit : scanId op = unit := by
      cases op <;> exact hop.2.symm
    have hf : ∀ p q, p < 2 ^ 32 → q < 2 ^ 32 → scanOp op p q = f p q := by
      intro p q hp hq
      cases op with
      | smin => rw [hop.1]; exact scanOp_smin hp hq
      | smax => rw [hop.1]; exact scanOp_smax hp hq
      | umin => rw [hop.1]; exact scanOp_umin p q
      | umax => rw [hop.1]; exact scanOp_umax p q
      | add | and | or | xor => rw [hop.1]; rfl
    have hfold (n : Nat) := foldl_scanOp hunit hf s u g a (ls.take n)
    exact ⟨fun excl => iscan_collected hfold, ired_collected hfold⟩

end Sys2Proof.Machine
end

section
/-! SUPPORT. Integer words (R2, R4): the model's numbers and bits as those of bit vectors; addition and subtraction (R100),
and with them the statement about IADD and ISUB. -/

namespace Sys2Proof.Machine

open Sys2Proof.Safety

/-! ## Numbers and bit vectors (R4) -/

theorem nbit_toNat {w : Nat} (x : BitVec w) (i : Nat) : nbit x.toNat i = x.getLsbD i := nbit_eq_testBit ..

theorem wrapN_eq_toNat (n : Nat) (i : Int) : wrapN n i = (BitVec.ofInt n i).toNat := rfl

/-- The number of patterns of w bits is twice the weight of the top bit. -/
theorem two_pow_eq_top {w : Nat} (hw : 0 < w) : 2 ^ w = 2 * 2 ^ (w - 1) := by rw [← pow_succ', Nat.sub_add_cancel hw]

/-- A power of two of the integers, as the number that it is. -/
theorem cast_two_pow (k : Nat) : (2 : Int) ^ k = ((2 ^ k : Nat) : Int) := by push_cast; rfl

theorem sgn_of_lt {w x : Nat} (hx : x < 2 ^ w) : sgn w x = if x < 2 ^ (w - 1) then (x : Int) else x - 2 ^ w := by
  rw [sgn, Nat.mod_eq_of_lt hx]

theorem sgn_toNat {w : Nat} (hw : 0 < w) (x : BitVec w) : sgn w x.toNat = x.toInt := by
  have htop := two_pow_eq_top hw
  have hiff : x.toNat < 2 ^ (w - 1) ↔ 2 * x.toNat < 2 ^ w := by omega
  rw [sgn_of_lt x.isLt, BitVec.toInt_eq_toNat_cond]
  simp only [hiff, Nat.cast_pow, Nat.cast_ofNat]

/-- The top bit of a w-bit number says that it is at least 2^(w − 1). -/
theorem nbit_top {w r : Nat} (hr : r < 2 ^ w) : nbit r (w - 1) = decide (2 ^ (w - 1) ≤ r) := by
  have h := BitVec.msb_eq_decide (BitVec.ofNatLT r hr)
  rwa [BitVec.msb_eq_getLsbD_last, ← nbit_toNat, BitVec.toNat_ofNatLT] at h

theorem State.regN_lt (s : State) (ag : Agent) (w64 : Bool) (r : Reg) :
    s.regN ag w64 r < 2 ^ (if w64 then 64 else 32) := by
  cases w64 with
  | false => exact (s.reg ag r).isLt
  | true => exact (s.reg64 ag r).isLt

/-! ## Addition and subtraction (R100) -/

/-- The codes of a w-bit result r that wraps: carry as said, and overflow where the exact signed result e lies outside
the w-bit integers. -/
def arithCodes (w r : Nat) (carry : Bool) (e : Int) : CC :=
  ⟨carry, decide (r = 0), decide (2 ^ (w - 1) ≤ r), decide (e < -(2 ^ (w - 1)) ∨ 2 ^ (w - 1) - 1 < e)⟩

/-- A result of R100 that may have been clamped, and its codes: C is that of the wrapped sum, O says the clamp. -/
def clamped (w : Nat) (f : CC) (p : Nat × Bool) : Nat × CC :=
  (p.1, { f with z := p.1 % 2 ^ w == 0, s := nbit p.1 (w - 1), o := p.2 })

theorem clamped_of_lt {w r : Nat} (hr : r < 2 ^ w) (f : CC) (o : Bool) :
    clamped w f (r, o) = (r, ⟨f.c, decide (r = 0), decide (2 ^ (w - 1) ≤ r), o⟩) := by
  simp only [clamped, Nat.mod_eq_of_lt hr, nbit_top hr, beq_eq_decide]

/-- The w-bit pattern of an integer that lies within one period of the w-bit numbers. -/
theorem wrapN_of_bounds {w : Nat} {i : Int} (hlo : -(2 ^ w) ≤ i) (hhi : i < 2 ^ w) :
    (wrapN w i : Int) = if 0 ≤ i then i else i + 2 ^ w := by
  have hpos : ((2 ^ w : Nat) : Int) ≠ 0 := by positivity
  rw [wrapN, Int.toNat_of_nonneg (Int.emod_nonneg _ hpos)]
  push_cast
  split
  · exact Int.emod_eq_of_lt ‹_› hhi
  · rw [← Int.add_emod_right, Int.emod_eq_of_lt (by omega) (by omega)]

/-- A number below twice the modulus. -/
theorem mod_of_lt_twice {a n : Nat} (h : a < 2 * n) : a % n = if a < n then a else a - n := by
  split
  · exact Nat.mod_eq_of_lt ‹_›
  · rw [Nat.mod_eq_sub_mod (by omega), Nat.mod_eq_of_lt (by omega)]

/-- The carry into the sum of R100. -/
def carryIn (sub : Bool) (cin : Option Bool) : Nat := b2n (cin.getD sub)

theorem carryIn_le (sub : Bool) (cin : Option Bool) : carryIn sub cin ≤ 1 := by
  unfold carryIn b2n
  split <;> omega

/-- The exact signed sum or difference of two w-bit operands. -/
def exactSgn (w : Nat) (sub : Bool) (x y : Nat) : Int := if sub then sgn w x - sgn w y else sgn w x + sgn w y

/-- The complement of a w-bit number stands for one less than its negation. -/
theorem sgn_compl {w y : Nat} (hw : 0 < w) (hy : y < 2 ^ w) : sgn w (2 ^ w - 1 - y) = -1 - sgn w y := by
  have htop := two_pow_eq_top hw
  rw [sgn_of_lt hy, sgn_of_lt (by omega), cast_two_pow]
  split_ifs <;> omega

section Width
variable {w x y : Nat} (hw : 0 < w) (hx : x < 2 ^ w) (hy : y < 2 ^ w)
include hw hx hy

/-- The sum of two equal signs has the other sign just when the exact sum has no w-bit pattern. -/
theorem signs_overflow {c : Nat} (hc : c ≤ 1) :
    ((nbit x (w - 1) == nbit y (w - 1)) && nbit ((x + y + c) % 2 ^ w) (w - 1) != nbit x (w - 1)) =
      decide (sgn w x + sgn w y + c < -(2 ^ (w - 1)) ∨ 2 ^ (w - 1) - 1 < sgn w x + sgn w y + c) := by
  have hr : (x + y + c) % 2 ^ w < 2 ^ w := Nat.mod_lt _ (by omega)
  rw [nbit_top hx, nbit_top hy, nbit_top hr, sgn_of_lt hx, sgn_of_lt hy, Bool.eq_iff_iff,
    mod_of_lt_twice (by omega)]
  have htop := two_pow_eq_top hw
  simp only [cast_two_pow, Bool.and_eq_true, beq_iff_eq, decide_eq_decide, bne_iff_ne, ne_eq, decide_eq_true_eq]
  split_ifs <;> omega

/-- The sum with carry in, and its codes. -/
theorem addCore_add (cin : Option Bool) :
    addCore w false cin x y = ((x + y + carryIn false cin) % 2 ^ w, arithCodes w ((x + y + carryIn false cin) % 2 ^ w)
      (decide (2 ^ w ≤ x + y + carryIn false cin)) (exactSgn w false x y + carryIn false cin)) := by
  have hr : (x + y + carryIn false cin) % 2 ^ w < 2 ^ w := Nat.mod_lt _ (by omega)
  rw [arithCodes, exactSgn, if_neg Bool.false_ne_true, ← signs_overflow hw hx hy (carryIn_le false cin), ← nbit_top hr,
    ← beq_eq_decide]
  cases cin <;> rfl

/-- The difference, less a borrow where no carry comes in, and its codes. -/
theorem addCore_sub (cin : Option Bool) {k : Nat} (hk : k + carryIn true cin = 1) :
    addCore w true cin x y = ((x + 2 ^ w - y - k) % 2 ^ w, arithCodes w ((x + 2 ^ w - y - k) % 2 ^ w)
      (decide (y + k ≤ x)) (exactSgn w true x y - k)) := by
  have hsame : addCore w true cin x y = addCore w false (some (cin.getD true)) x (2 ^ w - 1 - y) := by
    cases cin <;> rfl
  have hc : carryIn false (some (cin.getD true)) = carryIn true cin := rfl
  have hsum : x + (2 ^ w - 1 - y) + carryIn true cin = x + 2 ^ w - y - k := by omega
  have hcarry : (2 ^ w ≤ x + 2 ^ w - y - k) = (y + k ≤ x) := by rw [eq_iff_iff]; omega
  have hexact : exactSgn w false x (2 ^ w - 1 - y) + carryIn true cin = exactSgn w true x y - k := by
    simp only [exactSgn, sgn_compl hw hy, if_true, Bool.false_eq_true, if_false]
    omega
  rw [hsame, addCore_add hw hx (by omega), hc, hsum, hexact]
  simp only [hcarry]

/-- The wrapped sum or difference is the pattern of the exact signed one. -/
theorem addCore_fst (sub : Bool) : (addCore w sub none x y).1 = wrapN w (exactSgn w sub x y) := by
  have htop := two_pow_eq_top hw
  have hbounds := wrapN_of_bounds (w := w) (i := exactSgn w sub x y)
  cases sub with
  | false =>
    simp only [addCore_add hw hx hy, show carryIn false none = 0 from rfl, Nat.add_zero]
    rw [mod_of_lt_twice (by omega)]
    simp only [exactSgn, Bool.false_eq_true, if_false, sgn_of_lt hx, sgn_of_lt hy, cast_two_pow] at hbounds ⊢
    split_ifs at * <;> omega
  | true =>
    simp only [addCore_sub hw hx hy none (k := 0) rfl, Nat.sub_zero]
    rw [mod_of_lt_twice (by omega)]
    simp only [exactSgn, if_true, sgn_of_lt hx, sgn_of_lt hy, cast_two_pow] at hbounds ⊢
    split_ifs at * <;> omega

/-- Signed saturation: the exact result clamped to the w-bit integers. -/
theorem addSub_sats (sub c : Bool) {e : Int} (he : exactSgn w sub x y = e) {r : Nat}
    (hr : r = wrapN w (max (-(2 ^ (w - 1))) (min (2 ^ (w - 1) - 1) e))) :
    addSub w sub .sats c x y = (r, arithCodes w r (addCore w sub none x y).2.c e) := by
  have htop := two_pow_eq_top hw
  have hbounds := wrapN_of_bounds (w := w) (i := max (-(2 ^ (w - 1))) (min (2 ^ (w - 1) - 1) e))
  rw [← hr] at hbounds
  have hlt : r < 2 ^ w := by
    simp only [cast_two_pow] at hbounds
    split_ifs at hbounds <;> omega
  have hclamp : (if e > 2 ^ (w - 1) - 1 then (2 ^ (w - 1) - 1, true)
      else if e < -(2 ^ (w - 1)) then (2 ^ (w - 1), true) else ((addCore w sub none x y).1, false)) =
      (r, decide (e < -(2 ^ (w - 1)) ∨ 2 ^ (w - 1) - 1 < e)) := by
    rw [addCore_fst hw hx hy, he]
    split_ifs with hhi hlo
    · refine Prod.ext ?_ (by simp [hhi])
      simp only [cast_two_pow] at *
      split_ifs at hbounds <;> omega
    · refine Prod.ext ?_ (by simp [hlo])
      simp only [cast_two_pow] at *
      split_ifs at hbounds <;> omega
    · rw [hr, min_eq_right (by omega), max_eq_right (by omega), decide_eq_false (by omega)]
  rw [arithCodes, ← clamped_of_lt hlt, ← hclamp, ← he]
  rfl

/-- Unsigned saturation: the exact result clamped to the w-bit numbers. -/
theorem addSub_satu (sub c : Bool) {e : Int} (he : e = if sub then (x : Int) - y else x + y) {r : Nat}
    (hr : (r : Int) = max 0 (min (2 ^ w - 1) e)) :
    addSub w sub .satu c x y = (r, ⟨(addCore w sub none x y).2.c, decide (r = 0), decide (2 ^ (w - 1) ≤ r),
      decide (e < 0 ∨ 2 ^ w - 1 < e)⟩) := by
  have hcast := cast_two_pow w
  have hclamp : (if e > 2 ^ w - 1 then (2 ^ w - 1, true) else if e < 0 then (0, true)
      else ((addCore w sub none x y).1, false)) = (r, decide (e < 0 ∨ 2 ^ w - 1 < e)) := by
    split_ifs with hhi hlo
    · exact Prod.ext (by omega) (by simp [hhi])
    · exact Prod.ext (by omega) (by simp [hlo])
    · refine Prod.ext ?_ (decide_eq_false (by omega)).symm
      cases sub with
      | false =>
        simp only [addCore_add hw hx hy, show carryIn false none = 0 from rfl, Nat.add_zero, Bool.false_eq_true,
          if_false] at he ⊢
        rw [mod_of_lt_twice (by omega)]
        split_ifs <;> omega
      | true =>
        simp only [addCore_sub hw hx hy none (k := 0) rfl, Nat.sub_zero, if_true] at he ⊢
        rw [mod_of_lt_twice (by omega)]
        split_ifs <;> omega
  rw [← clamped_of_lt (by omega), ← hclamp, he]
  rfl

/-- The sum under unsigned saturation. -/
theorem addSub_satu_add (c : Bool) : addSub w false .satu c x y = (min (x + y) (2 ^ w - 1),
    ⟨decide (2 ^ w ≤ x + y), decide (min (x + y) (2 ^ w - 1) = 0), decide (2 ^ (w - 1) ≤ min (x + y) (2 ^ w - 1)),
      decide (2 ^ w ≤ x + y)⟩) := by
  have hcast := cast_two_pow w
  have hr : ((min (x + y) (2 ^ w - 1) : Nat) : Int) = max 0 (min (2 ^ w - 1) ((x : Int) + y)) := by omega
  have ho : ((x : Int) + y < 0 ∨ 2 ^ w - 1 < (x : Int) + y) = (2 ^ w ≤ x + y) := by rw [eq_iff_iff]; omega
  rw [addSub_satu hw hx hy false c (e := (x : Int) + y) rfl hr, addCore_add hw hx hy none]
  simp only [ho]
  rfl

/-- The difference under unsigned saturation. -/
theorem addSub_satu_sub (c : Bool) : addSub w true .satu c x y = (x - y,
    ⟨decide (y ≤ x), decide (x - y = 0), decide (2 ^ (w - 1) ≤ x - y), decide (x < y)⟩) := by
  have hcast := cast_two_pow w
  have hr : ((x - y : Nat) : Int) = max 0 (min (2 ^ w - 1) ((x : Int) - y)) := by omega
  have ho : ((x : Int) - y < 0 ∨ 2 ^ w - 1 < (x : Int) - y) = (x < y) := by rw [eq_iff_iff]; omega
  rw [addSub_satu hw hx hy true c (e := (x : Int) - y) rfl hr, addCore_sub hw hx hy none (k := 0) rfl]
  simp only [ho]
  rfl

end Width

/-- Settles O1: the modes that wrap are the core sum with its carry or borrow; the others clamp the exact result. -/
theorem addAndSubtract : Obligations.AddAndSubtract := by
  unfold Obligations.AddAndSubtract
  refine ⟨?_, ?_⟩
  · intro s ag h d a b mode w64 hex w x y cin e
    have hw : 0 < w := by cases w64 <;> decide
    have hx : x < 2 ^ w := s.regN_lt ag w64 a
    have hy : y < 2 ^ w := s.regN_lt ag w64 b
    refine ⟨(addSub w false mode (s.cc ag).c x y).1, (addSub w false mode (s.cc ag).c x y).2, simple_executes _ hex, ?_⟩
    have hcore := addCore_add hw hx hy none
    cases mode with
    | wrap =>
      have hsum : addSub w false .wrap (s.cc ag).c x y = _ := hcore
      rw [hsum]
      exact ⟨rfl, rfl, rfl, rfl, rfl⟩
    | ci =>
      have hcin : cin = carryIn false (some (s.cc ag).c) := by simp [cin, carryIn, b2n]
      have hsum : addSub w false .ci (s.cc ag).c x y = _ := addCore_add hw hx hy (some (s.cc ag).c)
      rw [hsum, ← hcin]
      exact ⟨rfl, rfl, rfl, rfl, rfl⟩
    | sats =>
      rw [addSub_sats hw hx hy false _ rfl rfl, hcore]
      exact ⟨rfl, rfl, rfl, rfl, by simp [cin, e, exactSgn, arithCodes]⟩
    | satu =>
      rw [addSub_satu_add hw hx hy]
      exact ⟨rfl, rfl, rfl, rfl, rfl⟩
  · intro s ag h d a b mode w64 hex w x y bin e
    have hw : 0 < w := by cases w64 <;> decide
    have hx : x < 2 ^ w := s.regN_lt ag w64 a
    have hy : y < 2 ^ w := s.regN_lt ag w64 b
    refine ⟨(addSub w true mode (s.cc ag).c x y).1, (addSub w true mode (s.cc ag).c x y).2, simple_executes _ hex, ?_⟩
    have hcore := addCore_sub hw hx hy none (k := 0) rfl
    cases mode with
    | wrap =>
      have hdiff : addSub w true .wrap (s.cc ag).c x y = _ := hcore
      rw [hdiff]
      exact ⟨rfl, rfl, rfl, rfl, rfl⟩
    | ci =>
      have hbin : bin + carryIn true (some (s.cc ag).c) = 1 := by
        simp only [bin, carryIn, b2n, Option.getD_some]
        cases (s.cc ag).c <;> rfl
      have hdiff : addSub w true .ci (s.cc ag).c x y = _ := addCore_sub hw hx hy (some (s.cc ag).c) hbin
      rw [hdiff]
      exact ⟨rfl, rfl, rfl, rfl, rfl⟩
    | sats =>
      rw [addSub_sats hw hx hy true _ rfl rfl, hcore]
      exact ⟨rfl, rfl, rfl, rfl, by simp [bin, e, exactSgn, arithCodes]⟩
    | satu =>
      rw [addSub_satu_sub hw hx hy]
      exact ⟨rfl, rfl, rfl, rfl, rfl⟩

end Sys2Proof.Machine
end

section
/-! SUPPORT. Compares, minima, maxima and products (R101, R102, R108), and the statements about them. -/

namespace Sys2Proof.Machine

open Sys2Proof.Safety

/-! ## Compare, minimum and maximum (R102, R108) -/

/-- The codes of a difference that wraps. -/
theorem addSub_wrap_codes {w x y : Nat} (hw : 0 < w) (hx : x < 2 ^ w) (hy : y < 2 ^ w) (c : Bool) :
    (addSub w true .wrap c x y).2 = ⟨decide (y ≤ x), decide (x = y), decide (2 ^ (w - 1) ≤ (x + 2 ^ w - y) % 2 ^ w),
      decide (sgn w x - sgn w y < -(2 ^ (w - 1)) ∨ 2 ^ (w - 1) - 1 < sgn w x - sgn w y)⟩ := by
  have hzero : ((x + 2 ^ w - y) % 2 ^ w = 0) = (x = y) := by
    rw [mod_of_lt_twice (by omega), eq_iff_iff]
    split <;> omega
  have hcodes : (addSub w true .wrap c x y).2 = _ := congrArg Prod.snd (addCore_sub hw hx hy none (k := 0) rfl)
  simp only [hcodes, arithCodes, exactSgn, if_true, Nat.add_zero, Nat.sub_zero, Nat.cast_zero, sub_zero, hzero]

/-- An operand of R102 as its type reads it. -/
def IntTy.value (ty : IntTy) : Nat → Int :=
  match ty with
  | .s32 => sgn 32
  | .s64 => sgn 64
  | _ => Int.ofNat

theorem minMax_min (ty : IntTy) (x y : Nat) :
    minMax .min ty x y = if IntTy.value ty x < IntTy.value ty y then x else y := by
  cases ty with
  | s32 | s64 => simp only [minMax, decide_eq_true_eq]; rfl
  | n32 | n64 => simp [minMax, IntTy.value]

theorem minMax_max (ty : IntTy) (x y : Nat) :
    minMax .max ty x y = if IntTy.value ty x < IntTy.value ty y then y else x := by
  cases ty with
  | s32 | s64 => simp only [minMax, decide_eq_true_eq]; rfl
  | n32 | n64 => simp [minMax, IntTy.value]

/-- Settles O2: ICMP keeps the codes of the difference, IMINMAX compares what its type reads. -/
theorem compareAndMinMax : Obligations.CompareAndMinMax := by
  unfold Obligations.CompareAndMinMax
  refine ⟨?_, ?_⟩
  · intro s ag h a b w64 hex w x y
    have hw : 0 < w := by cases w64 <;> decide
    have hcodes := addSub_wrap_codes hw (s.regN_lt ag w64 a) (s.regN_lt ag w64 b) (s.cc ag).c
    rw [← hcodes]
    exact simple_executes _ hex
  · intro s ag h d a b op ty hex w64 x y value
    have hvalue : value = IntTy.value ty := rfl
    refine ⟨minMax op ty x y, simple_executes _ hex, ?_⟩
    rw [hvalue]
    cases op with
    | min =>
      rw [minMax_min]
      split
      · exact ⟨.inl rfl, le_rfl, le_of_lt ‹_›⟩
      · exact ⟨.inr rfl, not_lt.mp ‹_›, le_rfl⟩
    | max =>
      rw [minMax_max]
      split
      · exact ⟨.inr rfl, le_of_lt ‹_›, le_rfl⟩
      · exact ⟨.inl rfl, le_rfl, not_lt.mp ‹_›⟩

/-! ## Products (R101) -/

/-- The high half of a 64-bit product. -/
theorem wrapN_div (p : Int) : wrapN 32 (p / 2 ^ 32) = ((BitVec.ofInt 64 p).extractLsb' 32 32).toNat := by
  rw [BitVec.extractLsb'_toNat, BitVec.toNat_ofInt, Nat.shiftRight_eq_div_pow, wrapN]
  omega

theorem mulHigh_toNat (m : HiMode) (x y : Word) : mulHigh m x.toNat y.toNat = (match m with
    | .s32 => (x.signExtend 64 * y.signExtend 64).extractLsb' 32 32
    | .n32 => (x.setWidth 64 * y.setWidth 64).extractLsb' 32 32
    | .sn32 => (x.signExtend 64 * y.setWidth 64).extractLsb' 32 32).toNat := by
  have hsigned (z : Word) : z.signExtend 64 = BitVec.ofInt 64 (sgn 32 z.toNat) := by
    rw [sgn_toNat (by decide)]; rfl
  have hplain (z : Word) : z.setWidth 64 = BitVec.ofInt 64 z.toNat := by
    rw [BitVec.ofInt_natCast, BitVec.ofNat_toNat]
  cases m <;> simp only [mulHigh, wrapN_div, hsigned, hplain, ← BitVec.ofInt_mul]

theorem mulAdd_lo (x y z : Word) : mulAdd .lo x.toNat y.toNat z.toNat = (x * y + z).toNat := by
  simp [mulAdd, BitVec.toNat_add, BitVec.toNat_mul]

theorem mulAdd_ws (x y : Word) (z : DWord) :
    mulAdd .ws x.toNat y.toNat z.toNat = (x.signExtend 64 * y.signExtend 64 + z).toNat := by
  rw [mulAdd, wrapN_eq_toNat, sgn_toNat (by decide), sgn_toNat (by decide), sgn_toNat (by decide), BitVec.ofInt_add,
    BitVec.ofInt_mul, BitVec.ofInt_toInt]
  rfl

theorem mulAdd_wu (x y : Word) (z : DWord) :
    mulAdd .wu x.toNat y.toNat z.toNat = (x.setWidth 64 * y.setWidth 64 + z).toNat := by
  simp [mulAdd, BitVec.toNat_add, BitVec.toNat_mul]

/-- Settles O3: each product of numbers, of its operands as they are read, is the product of the words extended. -/
theorem multiplyWritesTheProduct : Obligations.MultiplyWritesTheProduct := by
  unfold Obligations.MultiplyWritesTheProduct
  intro s ag h d a b c x y
  refine ⟨fun hex => ?_, fun hex => ?_, fun m hex => ?_, fun hex => ?_, fun hex => ?_, fun hex => ?_⟩
  · rw [BitVec.toNat_mul]
    exact simple_executes _ hex
  · rw [BitVec.toNat_mul]
    exact simple_executes _ hex
  · refine (simple_executes _ hex).trans ?_
    simp only [mulHigh_toNat]
    cases m <;> rfl
  · rw [← mulAdd_lo]
    exact simple_executes _ hex
  · rw [← mulAdd_ws]
    exact simple_executes _ hex
  · rw [← mulAdd_wu]
    exact simple_executes _ hex

end Sys2Proof.Machine
end

section
/-! SUPPORT. Bits of words: logic and bit fields (R103, R105), and the statement about them. -/

namespace Sys2Proof.Machine

open Sys2Proof.Safety

/-! ## Logic (R103) -/

/-- A gate gives each bit what its code holds at the place that the two operand bits name. -/
theorem getLsbD_gate (g : BitVec 4) (x y : Word) {i : Nat} (hi : i < 32) :
    (gate g x y).getLsbD i = g.getLsbD (2 * b2n (x.getLsbD i) + b2n (y.getLsbD i)) := by
  have hrow (c : Bool) (z : Word) : (if c then z else 0).getLsbD i = (c && z.getLsbD i) := by cases c <;> simp
  simp only [gate, BitVec.getLsbD_or, hrow, BitVec.getLsbD_and, BitVec.getLsbD_not, hi, decide_true, Bool.true_and]
  cases x.getLsbD i <;> cases y.getLsbD i <;> simp [b2n]

/-- What BOOL computes. -/
def boolOp (g1 g0 : BitVec 4) (x y z : Word) : Word := (z &&& gate g1 x y) ||| (~~~z &&& gate g0 x y)

theorem getLsbD_boolOp (g1 g0 : BitVec 4) (x y z : Word) {i : Nat} (hi : i < 32) :
    (boolOp g1 g0 x y z).getLsbD i =
      (if z.getLsbD i then g1 else g0).getLsbD (2 * b2n (x.getLsbD i) + b2n (y.getLsbD i)) := by
  simp only [boolOp, BitVec.getLsbD_or, BitVec.getLsbD_and, BitVec.getLsbD_not, getLsbD_gate _ _ _ hi, hi, decide_true,
    Bool.true_and]
  cases z.getLsbD i <;> simp

/-! ## Bit fields (R105) -/

theorem testBit_bitf (x lo n i : Nat) : (bitf x lo n).testBit i = (decide (i < n) && x.testBit (lo + i)) := by
  rw [bitf, Nat.testBit_mod_two_pow, Nat.testBit_div_two_pow, Nat.add_comm]

/-- Filling a number of m bits with ones up to n bits. -/
theorem testBit_fill {x m n : Nat} (hx : x < 2 ^ m) (hmn : m ≤ n) (i : Nat) :
    (x + (2 ^ n - 2 ^ m)).testBit i = if i < m then x.testBit i else decide (i < n) := by
  have hones : 2 ^ n - 2 ^ m = 2 ^ m * (2 ^ (n - m) - 1) := by
    rw [Nat.mul_sub, ← pow_add, Nat.add_sub_cancel' hmn, Nat.mul_one]
  rw [hones, Nat.add_comm, Nat.testBit_two_pow_mul_add _ hx, Nat.testBit_two_pow_sub_one]
  split
  · rfl
  · exact decide_eq_decide.mpr (by omega)

/-- A word seen with more bits, of its sign or zero, from place `pos` on (R105). -/
def fieldBit (sx : Bool) (x : Word) (pos j : Nat) : Bool :=
  if pos + j < 32 then x.getLsbD (pos + j) else sx && x.getLsbD 31

theorem testBit_field (sx : Bool) (x : Word) {pos len i : Nat} (hpos : pos < 256) (hi : i < len) (hlen : len ≤ 32) :
    (bitf (if sx && nbit x.toNat 31 then x.toNat + (2 ^ 512 - 2 ^ 32) else x.toNat) pos len).testBit i =
      fieldBit sx x pos i := by
  rw [testBit_bitf, nbit_toNat, fieldBit]
  simp only [hi, decide_true, Bool.true_and]
  split
  · next hneg =>
    rw [testBit_fill x.isLt (by decide), hneg]
    simp only [BitVec.testBit_toNat, show pos + i < 512 by omega, decide_true]
  · next hneg =>
    rw [BitVec.testBit_toNat]
    split
    · rfl
    · rw [BitVec.getLsbD_of_ge _ _ (by omega), Bool.eq_false_iff.mpr hneg]

section Extract
variable (sx : Bool) (x p : Word)

/-- The place of a field (R105). -/
def fieldPos (p : Word) : Nat := p.toNat % 256

/-- The length of a field (R105). -/
def fieldLen (p : Word) : Nat := min (p.toNat / 256 % 256) 32

theorem fieldPos_lt : fieldPos p < 256 := Nat.mod_lt _ (by decide)

theorem fieldLen_le : fieldLen p ≤ 32 := min_le_right ..

theorem bitf_pos : bitf p.toNat 0 8 = fieldPos p := by simp [bitf, fieldPos]

theorem bitf_len : Nat.min (bitf p.toNat 8 8) 32 = fieldLen p := rfl

/-- The bits of A that a field names. -/
def rawField : Nat :=
  bitf (if sx && nbit x.toNat 31 then x.toNat + (2 ^ 512 - 2 ^ 32) else x.toNat) (fieldPos p) (fieldLen p)

theorem rawField_lt : rawField sx x p < 2 ^ fieldLen p := Nat.mod_lt _ (by positivity)

theorem testBit_rawField {i : Nat} (hi : i < fieldLen p) :
    (rawField sx x p).testBit i = fieldBit sx x (fieldPos p) i :=
  testBit_field sx x (fieldPos_lt p) hi (fieldLen_le p)

theorem fieldX_eq : fieldX sx x.toNat p.toNat =
    if fieldLen p = 0 then 0
    else if sx && nbit (rawField sx x p) (fieldLen p - 1) then rawField sx x p + (2 ^ 32 - 2 ^ fieldLen p)
    else rawField sx x p := by
  rw [fieldX, bitf_pos, bitf_len, rawField]

theorem fieldX_lt : fieldX sx x.toNat p.toNat < 2 ^ 32 := by
  have hraw := rawField_lt sx x p
  have hpow : 2 ^ fieldLen p ≤ 2 ^ 32 := Nat.pow_le_pow_right (by decide) (fieldLen_le p)
  rw [fieldX_eq]
  split_ifs <;> omega

theorem testBit_fieldX {i : Nat} (hi : i < 32) : (fieldX sx x.toNat p.toNat).testBit i =
    if i < fieldLen p then fieldBit sx x (fieldPos p) i
    else sx && decide (0 < fieldLen p) && fieldBit sx x (fieldPos p) (fieldLen p - 1) := by
  rw [fieldX_eq, nbit_eq_testBit]
  by_cases hlen : fieldLen p = 0
  · simp [hlen]
  have hpos : 0 < fieldLen p := Nat.pos_of_ne_zero hlen
  rw [if_neg hlen, testBit_rawField sx x p (by omega), decide_eq_true hpos, Bool.and_true]
  split
  · next hsign =>
    rw [testBit_fill (rawField_lt sx x p) (fieldLen_le p), hsign, decide_eq_true hi]
    split
    · exact testBit_rawField sx x p ‹_›
    · rfl
  · next hsign =>
    rw [Bool.eq_false_iff.mpr hsign]
    split
    · exact testBit_rawField sx x p ‹_›
    · exact Nat.testBit_lt_two_pow ((rawField_lt sx x p).trans_le (Nat.pow_le_pow_right (by decide) (by omega)))

end Extract

section Insert
variable (x y p : Word)

theorem fieldI_lt : fieldI x.toNat y.toNat p.toNat < 2 ^ 32 := Nat.mod_lt _ (by decide)

/-- The inserted field between the bits of A above and below it. -/
theorem fieldI_eq : fieldI x.toNat y.toNat p.toNat =
    (2 ^ fieldPos p * (2 ^ fieldLen p * (x.toNat / 2 ^ (fieldPos p + fieldLen p)) + y.toNat % 2 ^ fieldLen p) +
      x.toNat % 2 ^ fieldPos p) % 2 ^ 32 := by
  have hlow : x.toNat % 2 ^ Nat.min (fieldPos p) 32 = x.toNat % 2 ^ fieldPos p := by
    change x.toNat % 2 ^ min (fieldPos p) 32 = _
    obtain h | h := Nat.le_total (fieldPos p) 32
    · rw [Nat.min_eq_left h]
    · rw [Nat.min_eq_right h, Nat.mod_eq_of_lt x.isLt,
        Nat.mod_eq_of_lt (x.isLt.trans_le (Nat.pow_le_pow_right (by decide) h))]
  rw [fieldI, bitf_pos, bitf_len, hlow]
  ring_nf

theorem testBit_fieldI {i : Nat} (hi : i < 32) : (fieldI x.toNat y.toNat p.toNat).testBit i =
    if fieldPos p ≤ i ∧ i < fieldPos p + fieldLen p then y.getLsbD (i - fieldPos p) else x.getLsbD i := by
  rw [fieldI_eq, Nat.testBit_mod_two_pow, decide_eq_true hi, Bool.true_and,
    Nat.testBit_two_pow_mul_add _ (Nat.mod_lt _ (by positivity)),
    Nat.testBit_two_pow_mul_add _ (Nat.mod_lt _ (by positivity)), Nat.testBit_mod_two_pow, Nat.testBit_mod_two_pow,
    Nat.testBit_div_two_pow, BitVec.testBit_toNat, BitVec.testBit_toNat, BitVec.testBit_toNat]
  obtain hbelow | hfrom := Nat.lt_or_ge i (fieldPos p)
  · rw [if_pos hbelow, if_neg (by omega), decide_eq_true hbelow, Bool.true_and]
  rw [if_neg (by omega)]
  obtain hin | habove := Nat.lt_or_ge (i - fieldPos p) (fieldLen p)
  · rw [if_pos hin, if_pos (by omega), decide_eq_true hin, Bool.true_and]
  · rw [if_neg (by omega), if_neg (by omega)]
    congr 1
    omega

end Insert

/-- Settles O4: bit by bit, from the gates' table and from what filling and joining fields leave of each bit. -/
theorem boolAndBitFieldsBitByBit : Obligations.BoolAndBitFieldsBitByBit := by
  unfold Obligations.BoolAndBitFieldsBitByBit
  refine ⟨?_, ?_⟩
  · intro s ag h d a b c g1 g0 hex
    exact ⟨boolOp g1 g0 (s.reg ag a) (s.reg ag b) (s.reg ag c), simple_executes _ hex,
      fun i hi => getLsbD_boolOp _ _ _ _ _ hi⟩
  · intro s ag h d a b c
    refine ⟨fun sx hex => ?_, fun hex => ?_⟩
    · exact ⟨BitVec.ofNatLT _ (fieldX_lt sx (s.reg ag a) (s.reg ag b)), simple_executes _ hex,
        fun i hi => testBit_fieldX _ _ _ hi⟩
    · exact ⟨BitVec.ofNatLT _ (fieldI_lt (s.reg ag a) (s.reg ag b) (s.reg ag c)), simple_executes _ hex,
        fun i hi => testBit_fieldI _ _ _ hi⟩

end Sys2Proof.Machine
end

section
/-! SUPPORT. Shifts for every amount (R104), and the statement about SHF. -/

namespace Sys2Proof.Machine

open Sys2Proof.Safety

/-- The result of SHF, as a word (R104). -/
def shiftWord (op : ShfOp) (x : Word) (n : Nat) (c : Word) : Word :=
  match op with
  | .shl => x <<< n
  | .shr => x >>> n
  | .sar => x.sshiftRight (min n 32)
  | .rol => x.rotateLeft (n % 32)
  | .ror => x.rotateRight (n % 32)
  | .fshl => ((x ++ c : DWord) <<< min n 32).extractLsb' 32 32
  | .fshr => ((x ++ c : DWord) >>> min n 32).extractLsb' 0 32

/-- The bit that SHF shifts out (R104). -/
def shiftOut (op : ShfOp) (x : Word) (n : Nat) : Bool :=
  match op with
  | .shl => decide (1 ≤ n ∧ n ≤ 32) && x.getLsbD (32 - n)
  | .shr => decide (1 ≤ n ∧ n ≤ 32) && x.getLsbD (n - 1)
  | .sar => decide (1 ≤ n) && x.getLsbD (min n 32 - 1)
  | _ => false

section Amounts
variable (x c : Word) (n : Nat)

theorem toNat_shl : (x <<< n).toNat = x.toNat * 2 ^ Nat.min n 32 % 2 ^ 32 := by
  change _ = x.toNat * 2 ^ min n 32 % 2 ^ 32
  obtain h | h := Nat.le_total n 32
  · rw [min_eq_left h, BitVec.toNat_shiftLeft, Nat.shiftLeft_eq]
  · rw [min_eq_right h, BitVec.shiftLeft_eq_zero h, Nat.mul_mod_left]
    rfl

theorem toNat_shr : (x >>> n).toNat = x.toNat / 2 ^ Nat.min n 32 := by
  change _ = x.toNat / 2 ^ min n 32
  obtain h | h := Nat.le_total n 32
  · rw [min_eq_left h, BitVec.toNat_ushiftRight, Nat.shiftRight_eq_div_pow]
  · rw [min_eq_right h, BitVec.ushiftRight_eq_zero h, Nat.div_eq_of_lt x.isLt]
    rfl

theorem toNat_sar : (x.sshiftRight (min n 32)).toNat = wrapN 32 (sgn 32 x.toNat / 2 ^ Nat.min n 32) := by
  rw [BitVec.sshiftRight_eq, Int.shiftRight_eq_div_pow, sgn_toNat (by decide)]
  rfl

/-- A rotation joins what leaves at the top to what stays. -/
theorem toNat_rotateLeft {k : Nat} (hk : k < 32) :
    (x.rotateLeft k).toNat = x.toNat * 2 ^ k % 2 ^ 32 + x.toNat / 2 ^ (32 - k) := by
  have hout : x.toNat / 2 ^ (32 - k) < 2 ^ k := by
    rw [Nat.div_lt_iff_lt_mul (by positivity), ← pow_add, Nat.add_sub_cancel' hk.le]
    exact x.isLt
  have hkept : x.toNat * 2 ^ k % 2 ^ 32 = (x.toNat % 2 ^ (32 - k)) <<< k := by
    rw [Nat.shiftLeft_eq, ← Nat.mul_mod_mul_right, ← pow_add, Nat.sub_add_cancel hk.le]
  rw [BitVec.toNat_rotateLeft, Nat.mod_eq_of_lt hk, Nat.shiftLeft_eq, Nat.shiftRight_eq_div_pow, hkept,
    Nat.shiftLeft_add_eq_or_of_lt hout]

/-- A rotation to the right is one to the left by what is wanting to 32. -/
theorem rotateRight_eq_rotateLeft : x.rotateRight (n % 32) = x.rotateLeft ((32 - n % 32) % 32) := by
  have hlt : n % 32 < 32 := Nat.mod_lt _ (by decide)
  rw [BitVec.rotateRight_def, BitVec.rotateLeft_def, Nat.mod_mod, Nat.mod_mod]
  obtain h | h := Nat.eq_zero_or_pos (n % 32)
  · simp [h, BitVec.ushiftRight_eq_zero]
  · rw [Nat.mod_eq_of_lt (a := 32 - n % 32) (by omega), Nat.sub_sub_self hlt.le, BitVec.or_comm]

theorem toNat_pair : (x ++ c : DWord).toNat = x.toNat * 2 ^ 32 + c.toNat := by
  rw [BitVec.toNat_append, ← Nat.shiftLeft_add_eq_or_of_lt c.isLt, Nat.shiftLeft_eq]

theorem toNat_fshl : (((x ++ c : DWord) <<< min n 32).extractLsb' 32 32).toNat =
    (x.toNat * 2 ^ 32 + c.toNat) * 2 ^ Nat.min n 32 / 2 ^ 32 % 2 ^ 32 := by
  rw [BitVec.extractLsb'_toNat, BitVec.toNat_shiftLeft, toNat_pair, Nat.shiftLeft_eq, Nat.shiftRight_eq_div_pow]
  change _ = (x.toNat * 2 ^ 32 + c.toNat) * 2 ^ min n 32 / 2 ^ 32 % 2 ^ 32
  omega

theorem toNat_fshr : (((x ++ c : DWord) >>> min n 32).extractLsb' 0 32).toNat =
    (x.toNat * 2 ^ 32 + c.toNat) / 2 ^ Nat.min n 32 % 2 ^ 32 := by
  rw [BitVec.extractLsb'_toNat, BitVec.toNat_ushiftRight, toNat_pair, Nat.shiftRight_zero, Nat.shiftRight_eq_div_pow]

theorem shiftOp_fst (op : ShfOp) : (shiftOp op x.toNat n c.toNat).1 = (shiftWord op x n c).toNat := by
  cases op with
  | shl => exact (toNat_shl x n).symm
  | shr => exact (toNat_shr x n).symm
  | sar => exact (toNat_sar x n).symm
  | rol => exact (toNat_rotateLeft x (Nat.mod_lt _ (by decide))).symm
  | ror =>
    rw [shiftWord, rotateRight_eq_rotateLeft]
    exact (toNat_rotateLeft x (Nat.mod_lt _ (by decide))).symm
  | fshl => exact (toNat_fshl x c n).symm
  | fshr => exact (toNat_fshr x c n).symm

theorem shiftOp_snd (op : ShfOp) : (shiftOp op x.toNat n c.toNat).2 = shiftOut op x n := by
  cases op with
  | shl | shr => simp only [shiftOp, shiftOut, nbit_toNat, Bool.decide_and]
  | sar => exact congrArg (decide (1 ≤ n) && ·) (nbit_toNat x _)
  | rol | ror | fshl | fshr => rfl

theorem shiftOp_eq (op : ShfOp) : shiftOp op x.toNat n c.toNat = ((shiftWord op x n c).toNat, shiftOut op x n) :=
  Prod.ext (shiftOp_fst x c n op) (shiftOp_snd x c n op)

end Amounts

/-- The result flags of a word (R99). -/
theorem resultFlags_toNat (r : Word) : resultFlags 32 r.toNat = ⟨false, decide (r = 0), r.getLsbD 31, false⟩ := by
  have hzero : decide (r = 0) = (r.toNat == 0) := by rw [beq_eq_decide, decide_eq_decide, BitVec.toNat_eq]; rfl
  rw [resultFlags, Nat.mod_eq_of_lt r.isLt, nbit_toNat, hzero]

/-- Settles O5: SHF computes on numbers what the shifts of words give, for every amount. -/
theorem shiftsForEveryAmount : Obligations.ShiftsForEveryAmount := by
  unfold Obligations.ShiftsForEveryAmount
  intro s ag h d a b c op hex x n k both
  refine ⟨shiftWord op x n (s.reg ag c), shiftOut op x n, (simple_executes _ hex).trans ?_,
    by cases op <;> exact ⟨rfl, rfl⟩⟩
  simp only [shiftOp_eq, resultFlags_toNat]
  rfl

end Sys2Proof.Machine
end

section
/-! SUPPORT. Counts of bits, reversal and the selection of bytes (R106, R107); moves, selects and addresses (R108); and the
statements about them. -/

namespace Sys2Proof.Machine

open Sys2Proof.Safety

/-! ## Counts and reversal (R106) -/

theorem brev_lt (n x : Nat) : brev n x < 2 ^ n := by
  induction n generalizing x with
  | zero => exact Nat.one_pos
  | succ n ih =>
    have htail := ih (x / 2)
    have hhead : x % 2 * 2 ^ n ≤ 1 * 2 ^ n := Nat.mul_le_mul_right _ (by omega)
    rw [brev, pow_succ]
    omega

/-- Reversal takes bit i to its mirror place. -/
theorem testBit_brev {n i : Nat} (x : Nat) (hi : i < n) : (brev n x).testBit i = x.testBit (n - 1 - i) := by
  induction n generalizing x with
  | zero => omega
  | succ n ih =>
    rw [brev, Nat.mul_comm, Nat.testBit_two_pow_mul_add _ (brev_lt n _)]
    split
    · rw [ih _ ‹_›, show n + 1 - 1 - i = n - 1 - i + 1 by omega, Nat.testBit_succ]
    · rw [show i - n = 0 by omega, show n + 1 - 1 - i = 0 by omega]
      simp

/-- The low zero bits that `ctz` counts are zero, and the next bit, if there is one, is not. -/
theorem ctz_spec (n x : Nat) :
    ctz n x ≤ n ∧ (∀ i < ctz n x, x.testBit i = false) ∧ (ctz n x < n → x.testBit (ctz n x) = true) := by
  induction n generalizing x with
  | zero => exact ⟨le_rfl, fun i hi => absurd hi i.not_lt_zero, fun h => absurd h (Nat.lt_irrefl 0)⟩
  | succ n ih =>
    obtain ⟨hle, hzero, hone⟩ := ih (x / 2)
    rw [ctz]
    split
    · next hodd => exact ⟨Nat.zero_le _, fun i hi => absurd hi i.not_lt_zero, fun _ => by simp [hodd]⟩
    · next heven =>
      refine ⟨by omega, fun i hi => ?_, fun h => ?_⟩
      · cases i with
        | zero => simpa using heven
        | succ i => rw [Nat.testBit_succ]; exact hzero i (by omega)
      · rw [Nat.add_comm, Nat.testBit_succ]
        exact hone (by omega)

/-! ## Bytes (R107) -/

theorem bitf_toNat {w : Nat} (x : BitVec w) (lo n : Nat) : bitf x.toNat lo n = (x.extractLsb' lo n).toNat := by
  rw [bitf, BitVec.extractLsb'_toNat, Nat.shiftRight_eq_div_pow]

/-- The byte that a selector code picks from a pool of eight (R107). -/
def pickByte (pool : DWord) (q : Nat) : Byte :=
  if q < 8 then pool.extractLsb' (8 * q) 8
  else if q < 16 then (if pool.getLsbD (8 * (q - 8) + 7) then 0xFF else 0)
  else if q = 17 then 0xFF else 0

theorem poolByte_toNat (pool : DWord) (q : Nat) : poolByte pool.toNat q = (pickByte pool q).toNat := by
  rw [poolByte, pickByte, bitf_toNat, nbit_toNat]
  split_ifs <;> rfl

/-- Selector k of BYSEL. -/
def selector (z : Word) (k : Nat) : Nat := (z.extractLsb' (8 * k) 5).toNat

theorem pair64_toNat (x y : Word) : (pair64 x y).toNat = x.toNat + y.toNat * 2 ^ 32 := by
  rw [pair64, BitVec.toNat_ofNat, Nat.mul_comm (2 ^ 32), Nat.mod_eq_of_lt (by omega)]

theorem foldl_range_four (t : Nat → Nat) : (List.range 4).foldl (fun r k => r + t k) 0 = t 0 + t 1 + t 2 + t 3 := by
  simp [List.range_succ]

/-- Selected byte k in its place. -/
def placedByte (pool : DWord) (z : Word) (k : Nat) : Nat := (pickByte pool (selector z k)).toNat * 2 ^ (8 * k)

theorem byteSelect_eq (x y z : Word) : byteSelect x.toNat y.toNat z.toNat =
    placedByte (pair64 x y) z 0 + placedByte (pair64 x y) z 1 + placedByte (pair64 x y) z 2 +
      placedByte (pair64 x y) z 3 := by
  rw [← foldl_range_four, byteSelect]
  simp only [← pair64_toNat, poolByte_toNat, bitf_toNat, placedByte, selector]

theorem byteSelect_lt (x y z : Word) : byteSelect x.toNat y.toNat z.toNat < 2 ^ 32 := by
  rw [byteSelect_eq]
  simp only [placedByte, Nat.reduceMul, Nat.reducePow]
  omega

theorem extract_byteSelect (x y z : Word) {k : Nat} (hk : k < 4) :
    (BitVec.ofNatLT _ (byteSelect_lt x y z)).extractLsb' (8 * k) 8 = pickByte (pair64 x y) (selector z k) := by
  apply BitVec.eq_of_toNat_eq
  rw [← bitf_toNat, BitVec.toNat_ofNatLT, byteSelect_eq, bitf]
  simp only [placedByte, Nat.reduceMul, Nat.reducePow]
  interval_cases k <;> omega

/-- Settles O6: the leading zeros are the trailing zeros of the reversal; BYSEL adds four bytes in their places. -/
theorem bitCountsAndByteSelection : Obligations.BitCountsAndByteSelection := by
  unfold Obligations.BitCountsAndByteSelection
  intro s ag h d a b c
  refine ⟨fun op hex => ?_, fun hex => ?_⟩
  · intro x
    refine ⟨bitCount op x.toNat, simple_executes _ hex, ?_⟩
    cases op with
    | popc =>
      refine (popcount_eq_length 32 x.toNat).trans ?_
      simp only [nbit_toNat]
    | clz =>
      obtain ⟨hle, hzero, hone⟩ := ctz_spec 32 (brev 32 x.toNat)
      refine ⟨hle, fun i hi => ?_, fun hlt => ?_⟩
      · exact (testBit_brev _ (hi.trans_le hle)).symm.trans (hzero i hi)
      · exact (testBit_brev _ hlt).symm.trans (hone hlt)
    | ctz => exact ctz_spec 32 x.toNat
    | brev => exact ⟨brev_lt 32 _, fun i hi => testBit_brev _ hi⟩
  · exact ⟨BitVec.ofNatLT _ (byteSelect_lt (s.reg ag a) (s.reg ag b) (s.reg ag c)), simple_executes _ hex,
      fun k hk => extract_byteSelect _ _ _ hk⟩

/-! ## Addresses (R108) -/

/-- A base and a scaled index, modulo 2^64. -/
theorem ofInt_scaled (x : DWord) (i : Int) (k : Nat) :
    BitVec.ofInt 64 (x.toNat + i * 2 ^ k) = x + BitVec.ofInt 64 i <<< k := by
  have hscale : BitVec.ofInt 64 (2 ^ k) = BitVec.twoPow 64 k := by
    apply BitVec.eq_of_toNat_eq
    rw [cast_two_pow, BitVec.ofInt_natCast, BitVec.toNat_ofNat, BitVec.toNat_twoPow]
  rw [BitVec.ofInt_add, BitVec.ofInt_natCast, BitVec.ofNat_toNat, BitVec.setWidth_eq, BitVec.ofInt_mul, hscale,
    BitVec.shiftLeft_eq_mul_twoPow]

/-- Settles O7: each form writes its operand, its constant or its sum as it stands. -/
theorem movesSelectsAndAddresses : Obligations.MovesSelectsAndAddresses := by
  unfold Obligations.MovesSelectsAndAddresses
  intro s ag h d a b
  refine ⟨fun w64 sc hex => ?_, fun w64 hex => simple_executes _ hex, fun imm hex => simple_executes _ hex,
    fun imm hex => simple_executes _ hex, fun sg scale hex => ?_⟩
  · rw [apply_ite (s.regN ag w64)]
    exact simple_executes _ hex
  · refine (simple_executes _ hex).trans ?_
    simp only [ofInt_scaled]
    cases sg with
    | false =>
      simp only [Bool.false_eq_true, if_false, BitVec.ofInt_natCast, BitVec.ofNat_toNat]
    | true => rfl

end Sys2Proof.Machine
end

section
/-! SUPPORT. Special registers of a thread (R109 to R111, R264): which there are, how wide each is and what it reads as, and
the statement about SRD and SWR. -/

namespace Sys2Proof.Machine

open Sys2Proof.Safety

/-! ## Which there are (Tables 5-3 and 12-6) -/

/-- The special registers that any thread reads. -/
def openRegs : List (BitVec 12) :=
  [0x000, 0x001, 0x002, 0x003, 0x004, 0x005, 0x006, 0x010, 0x011, 0x020, 0x030, 0x031, 0x032, 0x033, 0x034, 0x035, 0x036,
    0x040, 0x050, 0x051, 0x052, 0x053, 0x054, 0x060]

/-- The special registers that a privileged thread reads besides. -/
def shutRegs : List (BitVec 12) := [0x800, 0x801, 0x802, 0x803, 0x804, 0x805, 0x806]

/-- The special registers of 64 bits. -/
def wideRegs : List (BitVec 12) :=
  [0x011, 0x031, 0x032, 0x033, 0x034, 0x035, 0x040, 0x052, 0x054, 0x801, 0x802, 0x803, 0x804, 0x805, 0x806]

/-- The timing-dependent special registers (R111). -/
def timedRegs : List (BitVec 12) := [0x006, 0x010, 0x011]

theorem srOk_read_iff (n : BitVec 12) (priv : Bool) :
    srOk n.toNat false false priv = true ↔ n ∈ openRegs ∨ n ∈ shutRegs ∧ priv = true := by
  have hopen : n ∈ openRegs ↔ n.toNat ∈ openRegs.map BitVec.toNat := by simp [openRegs, BitVec.toNat_eq]
  have hshut : n ∈ shutRegs ↔ 0x800 ≤ n.toNat ∧ n.toNat ≤ 0x806 := by simp [shutRegs, BitVec.toNat_eq]; omega
  rw [hopen, hshut]
  simp only [openRegs, List.map_cons, List.map_nil, List.mem_cons, List.not_mem_nil, or_false, srOk]
  by_cases h : 0x800 ≤ n.toNat
  · cases priv <;> simp [h] <;> omega
  · simp [h]
    omega

theorem srWide_eq (n : BitVec 12) : srWide n.toNat = decide (n ∈ wideRegs) := by
  rw [Bool.eq_iff_iff, decide_eq_true_iff]
  simp [srWide, wideRegs, BitVec.toNat_eq]
  omega

theorem srTiming_iff (n : BitVec 12) : srTiming n.toNat = true ↔ n ∈ timedRegs := by
  simp [srTiming, timedRegs, BitVec.toNat_eq, or_assoc]

theorem srOk_write_eq_false {n : BitVec 12} (hmeet : n ≠ 0x020) (hval : n ≠ 0x052) (priv : Bool) :
    srOk n.toNat true false priv = false := by
  have hmeet' : n.toNat ≠ 0x020 := fun h => hmeet (BitVec.eq_of_toNat_eq h)
  have hval' : n.toNat ≠ 0x052 := fun h => hval (BitVec.eq_of_toNat_eq h)
  simp [srOk, hmeet', hval']

section Thread
variable (s : State) (u g l : Nat)

/-- The values that a thread reads. -/
def srdTable : List (BitVec 12 × Nat) :=
  let ag := Agent.thread u g l
  let t := s.team u
  let th := s.thr u g l
  let x := s.ctxNo u
  let low := fun (y : Nat) => y % 2 ^ 32
  [(0x000, low l), (0x001, low t.desc.gwidth), (0x002, low (s.groupId u g)), (0x003, low t.teamid),
    (0x004, low t.groups.length), (0x005, (s.launch t.launch).launchid.toNat), (0x006, s.coreOf ag % 2),
    (0x010, low (s.coreOf ag)), (0x011, s.tick % 2 ^ 64), (0x020, th.meet.toNat),
    (0x030, low (th.ch.mode % 4 + 4 * b2n th.ch.bank + 8 * (th.ch.geom % 4)))] ++
  [(0x031, th.ch.base.toNat), (0x032, (aget 0 th.ch.muts 0).toNat), (0x033, (aget 0 th.ch.muts 1).toNat),
    (0x034, (aget 0 th.ch.muts 2).toNat), (0x035, (aget 0 th.ch.muts 3).toNat), (0x036, th.ch.iter.toNat),
    (0x040, (s.grp u g).srkey.toNat), (0x050, low th.trap.cause), (0x051, th.trap.pc.toNat),
    (0x052, th.trap.val.toNat), (0x053, b2n th.trap.lvl), (0x054, th.trap.addr.toNat), (0x060, t.mstatus.toNat)] ++
  [(0x800, low x), (0x801, (s.ctx x).ptroot.toNat), (0x802, (s.ctx x).codebase.toNat),
    (0x803, (s.ctx x).vread.toNat), (0x804, (s.ctx x).vwrite.toNat), (0x805, (s.ctx x).hncsz.toNat),
    (0x806, (s.ctx x).hcsz.toNat)]

/-- A word of a special register as 64 bits. -/
theorem toNat_word (x : Word) : (BitVec.ofNat 64 x.toNat).toNat = x.toNat :=
  Nat.mod_eq_of_lt (x.isLt.trans (by decide))

/-- A number of a special register, cut to 32 bits. -/
theorem toNat_low (x : Nat) : (BitVec.ofNat 64 (x % 2 ^ 32)).toNat = x % 2 ^ 32 :=
  Nat.mod_eq_of_lt ((Nat.mod_lt x (by decide)).trans (by decide))

theorem special_of_mem_srdTable : ∀ e ∈ srdTable s u g l, (s.special (.thread u g l) e.1.toNat).toNat = e.2 := by
  have hparity : s.coreOf (.thread u g l) % 2 % 2 ^ 32 = s.coreOf (.thread u g l) % 2 := by omega
  have hlvl (b : Bool) : b2n b % 2 ^ 32 = b2n b := by cases b <;> rfl
  simp only [srdTable, List.forall_mem_append, List.forall_mem_cons]
  refine ⟨⟨⟨toNat_low _, toNat_low _, toNat_low _, toNat_low _, toNat_low _, toNat_word _, (toNat_low _).trans hparity,
      toNat_low _, Nat.mod_mod _ _, toNat_word _, toNat_word _, List.forall_mem_nil _⟩,
    ⟨rfl, rfl, rfl, rfl, rfl, toNat_word _, rfl, toNat_low _, toNat_word _, rfl, (toNat_low _).trans (hlvl _), rfl,
      toNat_word _, List.forall_mem_nil _⟩⟩,
    ⟨toNat_low _, rfl, rfl, rfl, rfl, rfl, rfl, List.forall_mem_nil _⟩⟩

variable {s u g l} {h : Hdr} {d a : Reg} {n : BitVec 12}

theorem srd_executes (hex : Executes s (.thread u g l) (.srd h d n)) : exec (.srd h d n) s = .next (
    if s.det (.thread u g l) = true ∧ n ∈ timedRegs
    then s.raise (.thread u g l) (.srd h d n) ⟨0x0D, BitVec.ofNat 64 n.toNat, 0⟩
    else (s.setRegN (.thread u g l) (decide (n ∈ wideRegs)) d (s.special (.thread u g l) n.toNat).toNat).advance
      (.thread u g l)) := by
  refine (perLane_executes _ hex).trans ?_
  simp only [Bool.and_eq_true, srTiming_iff, srWide_eq]
  split_ifs <;> rfl

/-- A special register that an agent may not read makes SRD illegal for it. -/
theorem srd_illegal (hcur : s.cur.agents = [.thread u g l]) (hlive : s.live (.thread u g l) = true)
    (hopen : n ∉ openRegs) (hshut : ¬ (n ∈ shutRegs ∧ s.privOf (.thread u g l) = true)) :
    exec (.srd h d n) s = .next (s.raise (.thread u g l) (.srd h d n) ⟨0x01, 0, 0⟩) := by
  have hok : srOk n.toNat false false (s.privOf (.thread u g l)) = false :=
    Bool.eq_false_iff.mpr fun hok => ((srOk_read_iff n _).mp hok).elim hopen hshut
  refine exec_traps rfl ⟨hcur, hlive, if_pos ?_⟩
  simp [State.illegal, Agent.bursar, hok]

theorem swr_illegal (hcur : s.cur.agents = [.thread u g l]) (hlive : s.live (.thread u g l) = true)
    (hmeet : n ≠ 0x020) (hval : n ≠ 0x052) :
    exec (.swr h a n) s = .next (s.raise (.thread u g l) (.swr h a n) ⟨0x01, 0, 0⟩) := by
  have hok := srOk_write_eq_false hmeet hval (s.privOf (.thread u g l))
  refine exec_traps rfl ⟨hcur, hlive, if_pos ?_⟩
  simp [State.illegal, Agent.bursar, hok]

end Thread

/-- Settles O17: what SRD reads is the table's value, and the checks on its encoding are membership in the lists of special
registers. -/
theorem specialRegistersOfAThread : Obligations.SpecialRegistersOfAThread := by
  unfold Obligations.SpecialRegistersOfAThread
  refine ⟨?_, ?_⟩
  · intro s u g l h d a n v ag t th x low hmem wide
    refine ⟨fun hex hdet => ?_, fun hex => ?_⟩
    · have hv : (s.special ag n.toNat).toNat = v := special_of_mem_srdTable s u g l (n, v) hmem
      have huntimed : ¬ (s.det ag = true ∧ n ∈ timedRegs) := fun ⟨htrue, htimed⟩ =>
        hdet.elim (fun hfalse => Bool.false_ne_true (hfalse.symm.trans htrue)) (fun hnot => hnot htimed)
      rw [← hv, srd_executes hex, if_neg huntimed]
      rfl
    · exact simple_executes _ hex
  · intro s u g l h d a n ag open' shut hcur hlive
    exact ⟨srd_illegal hcur hlive, swr_illegal hcur hlive,
      fun hex hdet htimed => (srd_executes hex).trans (by rw [if_pos ⟨hdet, htimed⟩])⟩

end Sys2Proof.Machine
end

section
/-! SUPPORT. Exact numbers (R5, R120, R123): the rationals that the model's finite values denote, and what its sums,
products, compares and signs are of those. -/

namespace Sys2Proof.Machine

open Sys2Proof.Safety

/-! ## The rational that a value denotes (R5) -/

/-- x is a finite value over a denominator that is not zero, and denotes q. -/
def X.Denotes (x : X) (q : ℚ) : Prop :=
  ∃ (s : Bool) (n : Int) (d : Nat) (e : Int), x = .fin s n d e ∧ d ≠ 0 ∧ (n : ℚ) / d * 2 ^ e = q

/-- If x stands for a rational, x denotes it: no finite value has the denominator zero. -/
def X.Proper (x : X) : Prop := ∀ q, valueOf x = some q → x.Denotes q

theorem X.Denotes.value {x : X} {q : ℚ} (h : x.Denotes q) : valueOf x = some q := by
  obtain ⟨s, n, d, e, rfl, -, rfl⟩ := h
  rfl

theorem X.Denotes.ne_nan {x : X} {q : ℚ} (h : x.Denotes q) : x ≠ .nan := by
  obtain ⟨s, n, d, e, rfl, -, -⟩ := h
  exact X.noConfusion

theorem X.Denotes.ne_inf {x : X} {q : ℚ} (h : x.Denotes q) (sg : Bool) : x ≠ .inf sg := by
  obtain ⟨s, n, d, e, rfl, -, -⟩ := h
  exact X.noConfusion

theorem X.denotes_fin (s : Bool) (n e : Int) : (X.fin s n 1 e).Denotes (n * 2 ^ e) :=
  ⟨s, n, 1, e, rfl, one_ne_zero, by rw [Nat.cast_one, div_one]⟩

theorem X.denotes_zero (s : Bool) : (X.zero s).Denotes 0 := ⟨s, 0, 1, 0, rfl, one_ne_zero, by simp⟩

theorem X.denotes_int (i : Int) : (X.int i).Denotes i := ⟨_, i, 1, 0, rfl, one_ne_zero, by simp⟩

theorem X.denotes_dy (i e : Int) : (X.dy i e).Denotes (i * 2 ^ e) := X.denotes_fin _ i e

/-- A value has one of three shapes: NaN, an infinity, or a finite value. -/
theorem X.Proper.cases {x : X} (h : x.Proper) : x = .nan ∨ (∃ s, x = .inf s) ∨ ∃ q, x.Denotes q := by
  cases x with
  | nan => exact .inl rfl
  | inf s => exact .inr (.inl ⟨s, rfl⟩)
  | fin s n d e => exact .inr (.inr ⟨_, h _ rfl⟩)

/-! ## Signs -/

/-- The numerator is zero just when the value is. -/
theorem numerator_eq_zero {n : Int} {d : Nat} {e : Int} {q : ℚ} (hd : d ≠ 0) (hq : (n : ℚ) / d * 2 ^ e = q) :
    n = 0 ↔ q = 0 := by
  subst hq
  simp [hd, zpow_ne_zero]

/-- The numerator is negative just when the value is. -/
theorem numerator_neg {n : Int} {d : Nat} {e : Int} {q : ℚ} (hd : d ≠ 0) (hq : (n : ℚ) / d * 2 ^ e = q) :
    n < 0 ↔ q < 0 := by
  subst hq
  have hscale : (0 : ℚ) < (d : ℚ)⁻¹ * 2 ^ e := by positivity
  rw [div_eq_mul_inv, mul_assoc, mul_neg_iff, ← Int.cast_lt_zero (R := ℚ)]
  simp [hscale, hscale.not_gt]

theorem X.Denotes.isZero_iff {x : X} {q : ℚ} (h : x.Denotes q) : x.isZero = true ↔ q = 0 := by
  obtain ⟨s, n, d, e, rfl, hd, hq⟩ := h
  rw [← numerator_eq_zero hd hq]
  exact beq_iff_eq

/-- The sign of a value that is not zero. -/
theorem X.Denotes.isNeg_iff {x : X} {q : ℚ} (h : x.Denotes q) (hq0 : q ≠ 0) : x.isNeg = true ↔ q < 0 := by
  obtain ⟨s, n, d, e, rfl, hd, hq⟩ := h
  have hn : n ≠ 0 := fun hn => hq0 ((numerator_eq_zero hd hq).mp hn)
  rw [← numerator_neg hd hq, X.isNeg, if_neg hn, decide_eq_true_iff]

theorem X.Denotes.isNeg_of_neg {x : X} {q : ℚ} (h : x.Denotes q) (hq : q < 0) : x.isNeg = true :=
  (h.isNeg_iff hq.ne).mpr hq

theorem X.Denotes.isNeg_of_pos {x : X} {q : ℚ} (h : x.Denotes q) (hq : 0 < q) : x.isNeg = false :=
  Bool.eq_false_iff.mpr fun hneg => hq.not_gt ((h.isNeg_iff hq.ne').mp hneg)

/-- A value with a minus sign is at most zero, and one without is at least zero. -/
theorem X.Denotes.nonpos {x : X} {q : ℚ} (h : x.Denotes q) (hneg : x.isNeg = true) : q ≤ 0 :=
  not_lt.mp fun hq => Bool.false_ne_true ((h.isNeg_of_pos hq).symm.trans hneg)

theorem X.Denotes.nonneg {x : X} {q : ℚ} (h : x.Denotes q) (hpos : x.isNeg = false) : 0 ≤ q :=
  not_lt.mp fun hq => Bool.false_ne_true (hpos.symm.trans (h.isNeg_of_neg hq))

/-! ## Negation, magnitude, product -/

theorem X.Denotes.neg {x : X} {q : ℚ} (h : x.Denotes q) : x.neg.Denotes (-q) := by
  obtain ⟨s, n, d, e, rfl, hd, rfl⟩ := h
  exact ⟨!s, -n, d, e, rfl, hd, by push_cast; ring⟩

theorem X.Denotes.abs {x : X} {q : ℚ} (h : x.Denotes q) : x.abs.Denotes |q| := by
  unfold X.abs
  cases hs : x.isNeg with
  | true => simpa [abs_of_nonpos (h.nonpos hs)] using h.neg
  | false => simpa [abs_of_nonneg (h.nonneg hs)] using h

theorem X.Denotes.mul {x y : X} {p q : ℚ} (hx : x.Denotes p) (hy : y.Denotes q) : (x.mul y).Denotes (p * q) := by
  obtain ⟨s, n, d, e, rfl, hd, rfl⟩ := hx
  obtain ⟨t, m, c, f, rfl, hc, rfl⟩ := hy
  refine ⟨_, n * m, d * c, e + f, rfl, Nat.mul_ne_zero hd hc, ?_⟩
  push_cast
  rw [zpow_add₀ two_ne_zero]
  ring

/-- The sign of a product is that of the signs. -/
theorem X.Denotes.isNeg_mul {x y : X} {p q : ℚ} (hx : x.Denotes p) (hy : y.Denotes q) :
    (x.mul y).isNeg = (x.isNeg != y.isNeg) := by
  obtain ⟨s, n, d, e, rfl, -, -⟩ := hx
  obtain ⟨t, m, c, f, rfl, -, -⟩ := hy
  by_cases hzero : n * m = 0
  · simp only [X.mul, X.isNeg, hzero, if_true]
  · obtain ⟨hn, hm⟩ := mul_ne_zero_iff.mp hzero
    simp only [X.mul, X.isNeg, hzero, hn, hm, if_false]
    rw [Bool.eq_iff_iff, decide_eq_true_iff, mul_neg_iff, bne_iff_ne, ne_eq, decide_eq_decide]
    omega

/-! ## Sum and compares -/

/-- A power of two as a whole one over a lower one. -/
theorem two_pow_toNat_mul {g e : Int} (h : g ≤ e) : (2 : ℚ) ^ (e - g).toNat * 2 ^ g = 2 ^ e := by
  rw [← zpow_natCast, Int.toNat_of_nonneg (Int.sub_nonneg.mpr h), ← zpow_add₀ two_ne_zero, Int.sub_add_cancel]

/-- Two values over one denominator and one power of two. -/
theorem alignQ_eq {n m : Int} {d c : Nat} {e f : Int} {p q : ℚ} (hd : d ≠ 0) (hc : c ≠ 0)
    (hp : (n : ℚ) / d * 2 ^ e = p) (hq : (m : ℚ) / c * 2 ^ f = q) :
    ∃ (i j : Int) (k : Nat) (g : Int), alignQ n d e m c f = (i, j, k, g) ∧ k ≠ 0 ∧
      (i : ℚ) / k * 2 ^ g = p ∧ (j : ℚ) / k * 2 ^ g = q := by
  refine ⟨_, _, _, _, rfl, Nat.mul_ne_zero hd hc, ?_, ?_⟩
  · rw [← hp, ← two_pow_toNat_mul (min_le_left e f)]
    push_cast
    field_simp
  · rw [← hq, ← two_pow_toNat_mul (min_le_right e f)]
    push_cast
    field_simp

/-- An exact sum: a zero's sign is said by the mode, unless both are zeros of one sign (R120). -/
theorem X.Denotes.add_cases {x y : X} {p q : ℚ} (rm : Bool) (hx : x.Denotes p) (hy : y.Denotes q) :
    (x.add rm y).Denotes (p + q) ∧
      (p + q = 0 → (x.add rm y).isNeg = if p = 0 ∧ x.isNeg = y.isNeg then x.isNeg else rm) := by
  obtain ⟨s, n, d, e, rfl, hd, hp⟩ := hx
  obtain ⟨t, m, c, f, rfl, hc, hq⟩ := hy
  have hn := numerator_eq_zero hd hp
  have hm := numerator_eq_zero hc hq
  by_cases hzeros : n = 0 ∧ m = 0
  · obtain ⟨rfl, rfl⟩ := hzeros
    obtain rfl : p = 0 := hn.mp rfl
    obtain rfl : q = 0 := hm.mp rfl
    refine ⟨?_, fun _ => ?_⟩
    · rw [add_zero]
      exact X.denotes_zero (if s = t then s else rm)
    · simp [X.add, X.isNeg]
  · obtain ⟨i, j, k, g, halign, hk, hi, hj⟩ := alignQ_eq hd hc hp hq
    have hsum : ((i + j : Int) : ℚ) / k * 2 ^ g = p + q := by
      rw [← hi, ← hj]
      push_cast
      ring
    have hij := numerator_eq_zero hk hsum
    have hp0 : p + q = 0 → p ≠ 0 := fun h0 hp0 => hzeros ⟨hn.mpr hp0, hm.mpr (by linarith)⟩
    simp only [X.add, if_neg hzeros, halign]
    by_cases h0 : i + j = 0
    · rw [if_pos h0]
      refine ⟨?_, fun hpq => ?_⟩
      · rw [hij.mp h0]
        exact X.denotes_zero rm
      · rw [if_neg fun h => hp0 hpq h.1]
        rfl
    · rw [if_neg h0]
      exact ⟨⟨_, _, _, _, rfl, hk, hsum⟩, fun hpq => absurd (hij.mpr hpq) h0⟩

theorem X.Denotes.add {x y : X} {p q : ℚ} (rm : Bool) (hx : x.Denotes p) (hy : y.Denotes q) :
    (x.add rm y).Denotes (p + q) := (hx.add_cases rm hy).1

theorem X.Denotes.isNeg_add {x y : X} {p q : ℚ} (rm : Bool) (hx : x.Denotes p) (hy : y.Denotes q) (hpq : p + q = 0) :
    (x.add rm y).isNeg = if p = 0 ∧ x.isNeg = y.isNeg then x.isNeg else rm := (hx.add_cases rm hy).2 hpq

theorem X.Denotes.lt_iff {x y : X} {p q : ℚ} (hx : x.Denotes p) (hy : y.Denotes q) : x.lt y = true ↔ p < q := by
  obtain ⟨s, n, d, e, rfl, hd, hp⟩ := hx
  obtain ⟨t, m, c, f, rfl, hc, hq⟩ := hy
  obtain ⟨i, j, k, g, halign, hk, rfl, rfl⟩ := alignQ_eq hd hc hp hq
  have hk' : (0 : ℚ) < k := by positivity
  simp only [X.lt, halign, decide_eq_true_iff]
  rw [mul_lt_mul_iff_left₀ (zpow_pos two_pos g), div_lt_div_iff_of_pos_right hk', Int.cast_lt]

theorem X.Denotes.lt_eq_false_iff {x y : X} {p q : ℚ} (hx : x.Denotes p) (hy : y.Denotes q) :
    x.lt y = false ↔ q ≤ p := by
  rw [← Bool.not_eq_true, hx.lt_iff hy, not_lt]

theorem X.Denotes.eq_iff {x y : X} {p q : ℚ} (hx : x.Denotes p) (hy : y.Denotes q) : x.eq y = true ↔ p = q := by
  have heq : x.eq y = (!x.lt y && !y.lt x) := by
    obtain ⟨s, n, d, e, rfl, -, -⟩ := hx
    obtain ⟨t, m, c, f, rfl, -, -⟩ := hy
    rfl
  rw [heq, Bool.and_eq_true, Bool.not_eq_true', Bool.not_eq_true', hx.lt_eq_false_iff hy, hy.lt_eq_false_iff hx,
    le_antisymm_iff, and_comm]

/-! ## Encodings (R142) -/

/-- The numerator and the exponent of a type's encoding that stands for a finite value. -/
theorem FFmt.toX_cases (f : FFmt) (b : Nat) :
    f.toX b = .nan ∨ (∃ s, f.toX b = .inf s) ∨ ∃ s n e, f.toX b = .fin s n 1 e := by
  unfold FFmt.toX
  dsimp only
  split_ifs
  · exact .inr (.inl ⟨_, rfl⟩)
  · exact .inl rfl
  · exact .inl rfl
  all_goals exact .inr (.inr ⟨_, _, _, rfl⟩)

theorem FFmt.toX_proper (f : FFmt) (b : Nat) : (f.toX b).Proper := by
  intro q hq
  obtain h | ⟨s, h⟩ | ⟨s, n, e, h⟩ := f.toX_cases b
  · rw [h] at hq; cases hq
  · rw [h] at hq; cases hq
  · rw [h] at hq ⊢
    obtain rfl : q = n * 2 ^ e := Option.some.inj (hq.symm.trans (X.denotes_fin s n e).value)
    exact X.denotes_fin s n e

theorem xf_proper (w : Word) : (xf w).Proper := f32.toX_proper w.toNat

end Sys2Proof.Machine
end

section
/-! SUPPORT. Float arithmetic (R120 to R124): the model's exact results are those of the special cases and the rationals, and
SAT is its clamp; and with them the statement about FADD to HFMA2. -/

namespace Sys2Proof.Machine

open Sys2Proof.Safety

/-! ## Special values in sums and products (R120, R123) -/

@[simp] theorem X.add_nan (rm : Bool) (x : X) : x.add rm .nan = .nan := by cases x <;> rfl
@[simp] theorem X.nan_add (rm : Bool) (x : X) : X.add rm .nan x = .nan := rfl
@[simp] theorem X.mul_nan (x : X) : x.mul .nan = .nan := by cases x <;> rfl
@[simp] theorem X.nan_mul (x : X) : X.mul .nan x = .nan := rfl

theorem X.Denotes.add_inf {x : X} {p : ℚ} (rm : Bool) (h : x.Denotes p) (a : Bool) : x.add rm (.inf a) = .inf a := by
  obtain ⟨s, n, d, e, rfl, -, -⟩ := h
  rfl

theorem X.Denotes.inf_add {x : X} {p : ℚ} (rm : Bool) (h : x.Denotes p) (a : Bool) : X.add rm (.inf a) x = .inf a := by
  obtain ⟨s, n, d, e, rfl, -, -⟩ := h
  rfl

/-- An infinity and a value that is no NaN: only the opposite infinity takes the sum away. -/
theorem X.inf_add (rm a : Bool) {x : X} (h : x ≠ .nan) : X.add rm (.inf a) x = if x = .inf (!a) then .nan else .inf a := by
  cases x with
  | nan => exact absurd rfl h
  | inf b => cases a <;> cases b <;> rfl
  | fin s n d e => rfl

theorem X.Proper.isZero_iff {x : X} (h : x.Proper) : x.isZero = true ↔ valueOf x = some 0 := by
  obtain rfl | ⟨s, rfl⟩ | ⟨q, hq⟩ := h.cases
  · simp [X.isZero, valueOf]
  · simp [X.isZero, valueOf]
  · rw [hq.isZero_iff, hq.value, Option.some_inj]

theorem X.inf_mul (a : Bool) {x : X} (hx : x.Proper) (h : x ≠ .nan) :
    X.mul (.inf a) x = if valueOf x = some 0 then .nan else .inf (a != x.isNeg) := by
  simp only [← hx.isZero_iff]
  cases x with
  | nan => exact absurd rfl h
  | inf b => rfl
  | fin s n d e => rfl

theorem X.mul_inf (a : Bool) {x : X} (hx : x.Proper) (h : x ≠ .nan) :
    x.mul (.inf a) = if valueOf x = some 0 then .nan else .inf (x.isNeg != a) := by
  simp only [← hx.isZero_iff]
  cases x with
  | nan => exact absurd rfl h
  | inf b => rfl
  | fin s n d e => rfl

/-! ## The exact results of R123 -/

section Exact
variable {x y z : X} (hx : x.Proper) (hy : y.Proper)
include hx hy

theorem exactOf_add (rm : Bool) (z : X) : ExactOf .add rm x y z (x.add rm y) where
  nan := by
    rintro (rfl | rfl | ⟨⟨⟩, -⟩)
    · exact X.nan_add rm y
    · exact X.add_nan rm x
  value := fun p q r hp hq _ => ((hx p hp).add rm (hy q hq)).value
  sumOfInfs := by
    rintro - a b rfl rfl
    rfl
  sumWithInf := by
    rintro - a p (⟨rfl, hp⟩ | ⟨rfl, hp⟩)
    · exact (hy p hp).inf_add rm a
    · exact (hx p hp).add_inf rm a
  zeroSum := fun _ p q hp hq => (hx p hp).isNeg_add rm (hy q hq)
  product := nofun
  timesInf := nofun
  fusedZero := nofun
  fusedZeroTimesInf := nofun
  fusedInf := nofun
  fusedAddend := nofun

theorem exactOf_mul (rm : Bool) (z : X) : ExactOf .mul rm x y z (x.mul y) where
  nan := by
    rintro (rfl | rfl | ⟨⟨⟩, -⟩)
    · exact X.nan_mul y
    · exact X.mul_nan x
  value := fun p q r hp hq _ => ((hx p hp).mul (hy q hq)).value
  sumOfInfs := nofun
  sumWithInf := nofun
  zeroSum := nofun
  product := fun _ p q hp hq => (hx p hp).isNeg_mul (hy q hq)
  timesInf := by
    rintro - a
    refine ⟨?_, ?_⟩
    · rintro ⟨rfl, hnan⟩
      exact X.inf_mul a hy hnan
    · rintro ⟨rfl, hnan⟩
      exact X.mul_inf a hx hnan
  fusedZero := nofun
  fusedZeroTimesInf := nofun
  fusedInf := nofun
  fusedAddend := nofun

/-- A product with an infinity, where the other factor is neither zero nor NaN. -/
theorem X.mul_eq_inf {a : Bool} (h : x = .inf a ∧ y ≠ .nan ∧ valueOf y ≠ some 0 ∨
    y = .inf a ∧ x ≠ .nan ∧ valueOf x ≠ some 0) : x.mul y = .inf (x.isNeg != y.isNeg) := by
  obtain ⟨rfl, hnan, hzero⟩ | ⟨rfl, hnan, hzero⟩ := h
  · exact (X.inf_mul a hy hnan).trans (if_neg hzero)
  · exact (X.mul_inf a hx hnan).trans (if_neg hzero)

/-- A product of an infinity and a zero. -/
theorem X.mul_eq_nan {a : Bool} (h : x = .inf a ∧ valueOf y = some 0 ∨ y = .inf a ∧ valueOf x = some 0) :
    x.mul y = .nan := by
  obtain ⟨rfl, hzero⟩ | ⟨rfl, hzero⟩ := h
  · exact (X.inf_mul a hy (hy 0 hzero).ne_nan).trans (if_pos hzero)
  · exact (X.mul_inf a hx (hx 0 hzero).ne_nan).trans (if_pos hzero)

theorem exactOf_fma (rm : Bool) (hz : z.Proper) : ExactOf .fma rm x y z ((x.mul y).add rm z) where
  nan := by
    rintro (rfl | rfl | ⟨-, rfl⟩)
    · rw [X.nan_mul, X.nan_add]
    · rw [X.mul_nan, X.nan_add]
    · exact X.add_nan rm _
  value := fun p q r hp hq hr => (((hx p hp).mul (hy q hq)).add rm (hz r hr)).value
  sumOfInfs := nofun
  sumWithInf := nofun
  zeroSum := nofun
  product := nofun
  timesInf := nofun
  fusedZero := by
    intro _ p q r hp hq hr hsum
    have hprod : p * q = 0 ↔ r = 0 := ⟨fun h => by linarith, fun h => by linarith⟩
    rw [((hx p hp).mul (hy q hq)).isNeg_add rm (hz r hr) hsum, (hx p hp).isNeg_mul (hy q hq)]
    simp only [hprod]
    split
    · next h => exact h.2
    · rfl
  fusedZeroTimesInf := fun _ a h => by rw [X.mul_eq_nan hx hy h, X.nan_add]
  fusedInf := by
    intro _ hnan a h
    have hopposite (a b : Bool) : (!(a != b)) = (a == b) := by cases a <;> cases b <;> rfl
    rw [X.mul_eq_inf hx hy h, X.inf_add rm _ hnan, hopposite]
  fusedAddend := by
    rintro - p q a hp hq rfl
    exact ((hx p hp).mul (hy q hq)).add_inf rm a

theorem FArith.exact_exactOf (op : FArith) (rm : Bool) (hz : z.Proper) : ExactOf op rm x y z (op.exact rm x y z) := by
  cases op with
  | add => exact exactOf_add hx hy rm z
  | mul => exact exactOf_mul hx hy rm z
  | fma => exact exactOf_fma hx hy rm hz

end Exact

/-! ## The clamp and the codes (R121, R122) -/

section Clamp
variable {f : FFmt} {b : Nat}

theorem satClamp_nan (h : f.toX b = .nan) : satClamp f b = 0 := by simp [satClamp, h]

theorem satClamp_eq (h : f.toX b ≠ .nan) : satClamp f b =
    if (f.toX b).isNeg then 0 else if (X.int 1).lt (f.toX b) then f.bias * 2 ^ f.mb else b := by
  unfold satClamp
  split
  · next hnan => exact absurd hnan h
  · rfl

theorem satClamp_neg (h : (f.toX b).isNeg = true) : satClamp f b = 0 := by
  have hnan : f.toX b ≠ .nan := fun hnan => by rw [hnan] at h; exact Bool.false_ne_true h
  rw [satClamp_eq hnan, if_pos h]

theorem satClamp_above (h : f.toX b = .inf false ∨ ∃ q, valueOf (f.toX b) = some q ∧ 1 < q) :
    satClamp f b = f.bias * 2 ^ f.mb := by
  obtain hinf | ⟨q, hq, hlt⟩ := h
  · simp [satClamp, hinf, X.isNeg, X.lt, X.int]
  · have hden := f.toX_proper b q hq
    rw [satClamp_eq hden.ne_nan, hden.isNeg_of_pos (by linarith), if_neg Bool.false_ne_true,
      if_pos (((X.denotes_int 1).lt_iff hden).mpr (by exact_mod_cast hlt))]

theorem satClamp_inside {q : ℚ} (hq : valueOf (f.toX b) = some q) (hpos : (f.toX b).isNeg = false) (hle : q ≤ 1) :
    satClamp f b = b := by
  have hden := f.toX_proper b q hq
  rw [satClamp_eq hden.ne_nan, hpos, if_neg Bool.false_ne_true,
    if_neg fun hlt => hle.not_gt (by exact_mod_cast ((X.denotes_int 1).lt_iff hden).mp hlt)]

/-- Rounding and then the clamp of SAT. -/
theorem roundSat_saturated (f : FFmt) (sat : Bool) (rnd : Rnd) (x : X) :
    Saturated f sat (f.round x rnd 0 false).bits (roundSat f sat rnd x) := by
  cases sat with
  | false => exact ⟨fun _ => rfl, nofun, nofun, nofun, nofun⟩
  | true =>
    exact ⟨nofun, fun _ => satClamp_nan, fun _ => satClamp_neg, fun _ => satClamp_above, fun _ q => satClamp_inside⟩

theorem floatRF_eq_codesOf (f : FFmt) (b : Nat) : floatRF f b = codesOf f b := by
  unfold floatRF codesOf
  split
  · next h => rw [h]; rfl
  · next h => rw [decide_eq_false h]

end Clamp

/-! ## Each form's result -/

theorem FArith.value_arithOf (op : FArith) (f : FFmt) (sat : Bool) (rnd : Rnd) (x y z : Nat) :
    ArithOf op f sat rnd x y z (op.value f sat rnd x y z) :=
  ⟨_, op.exact_exactOf (f.toX_proper x) (f.toX_proper y) _ (f.toX_proper z), roundSat_saturated f sat rnd _⟩

@[simp] theorem regAt_vz (i : Nat) : regAt vz i = vz := if_pos rfl

@[simp] theorem State.regN_vz (s : State) (ag : Agent) (w64 : Bool) : s.regN ag w64 vz = 0 := by
  cases w64 <;> simp [State.regN, State.reg64, pair64]

theorem State.resultF_eq (s : State) (ag : Agent) (h : Hdr) (w64 : Bool) (d : Reg) (r : Nat) :
    s.resultF ag h w64 d r = s.result ag h w64 d r (codesOf (if w64 then f64 else f32) r) := by
  rw [State.resultF, floatRF_eq_codesOf]

/-- The scalar forms write one result of R123 and its codes. -/
theorem State.arith_result (s : State) (ag : Agent) (h : Hdr) (w64 : Bool) (op : FArith) (d a b c : Reg) (sat : Bool)
    (rnd : Rnd) : ∃ r,
      s.arith ag h w64 op d a b c sat rnd = s.result ag h w64 d r (codesOf (if w64 then f64 else f32) r) ∧
      ArithOf op (if w64 then f64 else f32) sat rnd (s.regN ag w64 a) (s.regN ag w64 b) (s.regN ag w64 c) r :=
  ⟨_, s.resultF_eq ag h w64 d _, op.value_arithOf _ sat rnd _ _ _⟩

theorem bitf_halves (w : Word) :
    bitf w.toNat (16 * 0) 16 = w.toNat % 65536 ∧ bitf w.toNat (16 * 1) 16 = w.toNat / 65536 := by
  have := w.isLt
  simp only [bitf]
  omega

/-- The packed forms write two results of R123, one beside the other (R124). -/
theorem packed_halves (op : FArith) (f : FFmt) (sat : Bool) (rnd : Rnd) (a b c : Word) : ∃ x y,
    packed op f sat rnd a b c = x + 65536 * y ∧
      ArithOf op f sat rnd (a.toNat % 65536) (b.toNat % 65536) (c.toNat % 65536) x ∧
      ArithOf op f sat rnd (a.toNat / 65536) (b.toNat / 65536) (c.toNat / 65536) y := by
  obtain ⟨ha, ha'⟩ := bitf_halves a
  obtain ⟨hb, hb'⟩ := bitf_halves b
  obtain ⟨hc, hc'⟩ := bitf_halves c
  refine ⟨_, _, ?_, op.value_arithOf f sat rnd _ _ _, op.value_arithOf f sat rnd _ _ _⟩
  simp only [packed, ha, ha', hb, hb', hc, hc']

section Forms
variable {s : State} {ag : Agent} {i : Instr} {h : Hdr} {d a b c : Reg} {sat : Bool} {rnd : Rnd} {op : FArith}

/-- A scalar form completes with one result of R123 and its codes. -/
theorem arith_executes {w64 : Bool} {z : Nat}
    (hexec : exec i s = simple i (fun ag s => s.arith ag h w64 op d a b c sat rnd) s) (hz : s.regN ag w64 c = z)
    (hex : Executes s ag i) : ∃ r,
      exec i s = .next ((s.result ag h w64 d r (codesOf (if w64 then f64 else f32) r)).advance ag) ∧
      ArithOf op (if w64 then f64 else f32) sat rnd (s.regN ag w64 a) (s.regN ag w64 b) z r := by
  obtain ⟨r, hr, harith⟩ := s.arith_result ag h w64 op d a b c sat rnd
  exact ⟨r, by rw [hexec, simple_executes _ hex, hr], hz ▸ harith⟩

/-- A packed form completes with two results of R123, one beside the other. -/
theorem packed_executes {f : FFmt}
    (hexec : exec i s = simple i (fun ag s => s.setRegN ag false d
      (packed op f sat rnd (s.reg ag a) (s.reg ag b) (s.reg ag c))) s) (hex : Executes s ag i) : ∃ x y,
      exec i s = .next ((s.setReg ag d (BitVec.ofNat 32 (x + 65536 * y))).advance ag) ∧
      ArithOf op f sat rnd ((s.reg ag a).toNat % 65536) ((s.reg ag b).toNat % 65536) ((s.reg ag c).toNat % 65536) x ∧
      ArithOf op f sat rnd ((s.reg ag a).toNat / 65536) ((s.reg ag b).toNat / 65536) ((s.reg ag c).toNat / 65536) y := by
  obtain ⟨x, y, hxy, harith⟩ := packed_halves op f sat rnd (s.reg ag a) (s.reg ag b) (s.reg ag c)
  refine ⟨x, y, ?_, harith⟩
  rw [hexec, simple_executes _ hex, hxy]
  rfl

end Forms

/-- Settles O20: every form writes `FArith.value` of its operands, which is the exact result, rounded, then clamped. -/
theorem floatArithmeticRoundsOnce : Obligations.FloatArithmeticRoundsOnce := by
  unfold Obligations.FloatArithmeticRoundsOnce
  intro s ag h d a b c sat rnd ty scalar done half packed'
  have hvz (w64 : Bool) : s.regN ag w64 vz = 0 := s.regN_vz ag w64
  exact ⟨arith_executes rfl (hvz false), arith_executes rfl (hvz false), arith_executes rfl rfl,
    arith_executes rfl (hvz true), arith_executes rfl (hvz true), arith_executes rfl rfl,
    packed_executes (f := HalfTy.fmt ty) rfl, packed_executes (f := HalfTy.fmt ty) rfl,
    packed_executes (f := HalfTy.fmt ty) rfl⟩

end Sys2Proof.Machine
end

section
/-! SUPPORT. Special functions (R129 to R132): the coefficient image read word by word, floors, the special inputs of Table
6-4, and the statement about SFN. -/

namespace Sys2Proof.Machine

open Sys2Proof.Safety

/-! ## The coefficient image (R129) -/

section Image
variable (img : BitVec 65536) (slot : Nat)

theorem coefByte_kind : coefByte img (8 * slot) = (img.extractLsb' (64 * slot) 8).toNat := by
  rw [coefByte, bitf_toNat, ← Nat.mul_assoc]

theorem coefByte_segments : coefByte img (8 * slot + 1) = (img.extractLsb' (64 * slot + 8) 8).toNat := by
  rw [coefByte, bitf_toNat, Nat.mul_add, ← Nat.mul_assoc]

/-- Coefficient j of segment 0 of a slot. -/
theorem coefWord_segment (j : Nat) : coefWord img (bitf img.toNat (8 * (8 * slot + 4)) 16 + 16 * 0 + 4 * j) =
    img.extractLsb' (8 * (img.extractLsb' (64 * slot + 32) 16).toNat + 32 * j) 32 := by
  have hbase : 8 * (8 * slot + 4) = 64 * slot + 32 := by omega
  rw [coefWord, bitf_toNat, bitf_toNat, BitVec.ofNat_toNat, BitVec.setWidth_eq, hbase]
  congr 1
  omega

end Image

/-! ## Floors (R4, R131) -/

theorem X.Denotes.floor {x : X} {q : ℚ} (h : x.Denotes q) : x.floor = ⌊q⌋ := by
  obtain ⟨s, n, d, e, rfl, hd, rfl⟩ := h
  unfold X.floor
  dsimp only
  split
  · next he =>
    obtain ⟨k, rfl⟩ := Int.eq_ofNat_of_zero_le he
    rw [← Rat.floor_intCast_div_natCast]
    congr 1
    push_cast [Int.toNat_natCast, zpow_natCast]
    ring
  · next he =>
    obtain ⟨k, rfl⟩ : ∃ k : Nat, e = -k := ⟨(-e).toNat, by omega⟩
    rw [← Rat.floor_intCast_div_natCast]
    congr 1
    push_cast [neg_neg, Int.toNat_natCast, zpow_neg, zpow_natCast]
    field_simp

/-- A whole number is integral. -/
theorem X.Denotes.integral {x : X} {k : Int} (h : x.Denotes k) : x.integral = true := by
  have hfloor : x.floor = k := h.floor.trans (Int.floor_intCast k)
  obtain ⟨s, n, d, e, rfl, hd, hq⟩ := h
  have hunsigned : (X.fin false n d e).Denotes k := ⟨false, n, d, e, rfl, hd, hq⟩
  change (X.int (X.floor _)).eq (.fin false n d e) = true
  rw [hfloor]
  exact ((X.denotes_int k).eq_iff hunsigned).mpr rfl

/-! ## The parts of an f32 -/

/-- The exponent field of an f32. -/
def exponentOf (w : Word) : Nat := bitf w.toNat 23 8

/-- The fraction field of an f32. -/
def fractionOf (w : Word) : Nat := bitf w.toNat 0 23

theorem word_parts (w : Word) : w.toNat = b2n (nbit w.toNat 31) * 2 ^ 31 + exponentOf w * 2 ^ 23 + fractionOf w ∧
    exponentOf w < 256 ∧ fractionOf w < 2 ^ 23 := by
  have := w.isLt
  unfold exponentOf fractionOf bitf nbit b2n
  by_cases h : w.toNat / 2 ^ 31 % 2 = 1
  · simp only [h, beq_self_eq_true, if_true]
    omega
  · simp only [h, beq_iff_eq, if_false]
    omega

/-- The magnitude of a finite f32 in units of its last place. -/
def unitsOf (w : Word) : Nat := if exponentOf w = 0 then fractionOf w else 2 ^ 23 + fractionOf w

/-- The exponent of the last place of a finite f32. -/
def lastPlace (w : Word) : Int := (if exponentOf w = 0 then 1 else (exponentOf w : Int)) - 150

theorem xf_special {w : Word} (h : exponentOf w = 255) :
    xf w = if fractionOf w = 0 then .inf (nbit w.toNat 31) else .nan := by
  have he : bitf w.toNat 23 8 = 255 := h
  simp only [xf, FFmt.toX, f32, he]
  rfl

theorem xf_finite {w : Word} (h : exponentOf w ≠ 255) : xf w =
    .fin (nbit w.toNat 31) (if nbit w.toNat 31 then -(unitsOf w : Int) else unitsOf w) 1 (lastPlace w) := by
  have he : (bitf w.toNat 23 8 == 255) = false := beq_eq_false_iff_ne.mpr h
  simp only [xf, FFmt.toX, f32, FFmt.nanTop, unitsOf, lastPlace, exponentOf, fractionOf]
  simp [he, sub_sub]
  exact ⟨rfl, rfl⟩

/-- An f32 that stands for a number is finite. -/
theorem exponentOf_ne_of_value {w : Word} {q : ℚ} (h : valueOf (xf w) = some q) : exponentOf w ≠ 255 := by
  intro he
  rw [xf_special he] at h
  split at h <;> cases h

theorem unitsOf_eq_zero_iff (w : Word) : unitsOf w = 0 ↔ exponentOf w = 0 ∧ fractionOf w = 0 := by
  unfold unitsOf
  split <;> omega

/-- The sign of a finite f32 is its sign bit. -/
theorem isNeg_xf_finite {w : Word} (h : exponentOf w ≠ 255) : (xf w).isNeg = nbit w.toNat 31 := by
  rw [xf_finite h, X.isNeg]
  cases nbit w.toNat 31 <;> simp
  omega

/-- An f32 zero is the one of its sign. -/
theorem eq_signZero {w : Word} (h : (xf w).Denotes 0) : w = signZero (xf w).isNeg := by
  have hfin := exponentOf_ne_of_value h.value
  have hzero := h.isZero_iff.mpr rfl
  obtain ⟨hw, -, -⟩ := word_parts w
  have hunits : unitsOf w = 0 := by
    rw [xf_finite hfin] at hzero
    simp only [X.isZero, beq_iff_eq] at hzero
    split at hzero <;> omega
  obtain ⟨he, hf⟩ := (unitsOf_eq_zero_iff w).mp hunits
  rw [he, hf, ← isNeg_xf_finite hfin] at hw
  apply BitVec.eq_of_toNat_eq
  rw [hw]
  cases (xf w).isNeg <;> rfl

/-! ## The special inputs of Table 6-4 -/

theorem sfnSpecial_nan (kd : Nat) (a : Word) : sfnSpecial kd a .nan = some nanf := by simp [sfnSpecial]

section Table
variable (a : Word) {x : X} {q : ℚ} (h : x.Denotes q)
include h

theorem sfnSpecial_rcp : sfnSpecial 1 a x = if x.isZero then some (signInf x.isNeg) else none := by
  obtain ⟨s, n, d, e, rfl, -, -⟩ := h
  rfl

theorem sfnSpecial_rsqrt :
    sfnSpecial 2 a x = if x.isZero then some (signInf x.isNeg) else if x.isNeg then some nanf else none := by
  obtain ⟨s, n, d, e, rfl, -, -⟩ := h
  rfl

theorem sfnSpecial_sqrt :
    sfnSpecial 3 a x = if x.isZero then some (signZero x.isNeg) else if x.isNeg then some nanf else none := by
  obtain ⟨s, n, d, e, rfl, -, -⟩ := h
  rfl

theorem sfnSpecial_exp2 : sfnSpecial 4 a x =
    if !x.lt (.int 128) then some (signInf false) else if x.lt (.int (-150)) then some 0 else none := by
  obtain ⟨s, n, d, e, rfl, -, -⟩ := h
  rfl

theorem sfnSpecial_log2 :
    sfnSpecial 5 a x = if x.isZero then some (signInf true) else if x.isNeg then some nanf else none := by
  obtain ⟨s, n, d, e, rfl, -, -⟩ := h
  rfl

theorem sfnSpecial_sin : sfnSpecial 6 a x = if x.integral then some (signZero x.isNeg) else none := by
  obtain ⟨s, n, d, e, rfl, -, -⟩ := h
  rfl

theorem sfnSpecial_cos :
    sfnSpecial 7 a x = if (x.add false (.dy 1 (-1))).integral then some 0 else none := by
  obtain ⟨s, n, d, e, rfl, -, -⟩ := h
  rfl

theorem sfnSpecial_tanh : sfnSpecial 8 a x =
    if !x.abs.lt (.int 16) then some (signOne x.isNeg) else if x.abs.lt (.dy 1 (-12)) then some a else none := by
  obtain ⟨s, n, d, e, rfl, -, -⟩ := h
  rfl

end Table

/-! ### Finite inputs, by their value -/

section Zero
variable (a : Word) {x : X} (h : x.Denotes 0)
include h

theorem sfnSpecial_rcp_zero : sfnSpecial 1 a x = some (signInf x.isNeg) := by
  rw [sfnSpecial_rcp a h, if_pos (h.isZero_iff.mpr rfl)]

theorem sfnSpecial_rsqrt_zero : sfnSpecial 2 a x = some (signInf x.isNeg) := by
  rw [sfnSpecial_rsqrt a h, if_pos (h.isZero_iff.mpr rfl)]

theorem sfnSpecial_sqrt_zero : sfnSpecial 3 a x = some (signZero x.isNeg) := by
  rw [sfnSpecial_sqrt a h, if_pos (h.isZero_iff.mpr rfl)]

theorem sfnSpecial_log2_zero : sfnSpecial 5 a x = some (signInf true) := by
  rw [sfnSpecial_log2 a h, if_pos (h.isZero_iff.mpr rfl)]

end Zero

section Value
variable (a : Word) {x : X} {q : ℚ} (h : x.Denotes q)
include h

/-- Roots and logarithms of a negative number are NaN. -/
theorem sfnSpecial_negative (hq : q < 0) {kd : Nat} (hkd : kd = 2 ∨ kd = 3 ∨ kd = 5) :
    sfnSpecial kd a x = some nanf := by
  have hzero : ¬ x.isZero = true := fun hz => hq.ne (h.isZero_iff.mp hz)
  have hneg := h.isNeg_of_neg hq
  obtain rfl | rfl | rfl := hkd
  · rw [sfnSpecial_rsqrt a h, if_neg hzero, if_pos hneg]
  · rw [sfnSpecial_sqrt a h, if_neg hzero, if_pos hneg]
  · rw [sfnSpecial_log2 a h, if_neg hzero, if_pos hneg]

theorem sfnSpecial_exp2_large (hq : 128 ≤ q) : sfnSpecial 4 a x = some (signInf false) := by
  have hlt : x.lt (.int 128) = false := (h.lt_eq_false_iff (X.denotes_int 128)).mpr (by exact_mod_cast hq)
  rw [sfnSpecial_exp2 a h, hlt]
  rfl

theorem sfnSpecial_exp2_small (hq : q < -150) : sfnSpecial 4 a x = some 0 := by
  have hlt : x.lt (.int 128) = true := (h.lt_iff (X.denotes_int 128)).mpr (by push_cast; linarith)
  have hlow : x.lt (.int (-150)) = true := (h.lt_iff (X.denotes_int (-150))).mpr (by exact_mod_cast hq)
  rw [sfnSpecial_exp2 a h, hlt, hlow]
  rfl

theorem sfnSpecial_sin_integral {k : Int} (hq : q = k) : sfnSpecial 6 a x = some (signZero x.isNeg) := by
  subst hq
  rw [sfnSpecial_sin a h, if_pos h.integral]

theorem sfnSpecial_cos_half {k : Int} (hq : q = k + 1 / 2) : sfnSpecial 7 a x = some 0 := by
  have hsum : (x.add false (.dy 1 (-1))).Denotes ((k + 1 : Int) : ℚ) := by
    have hadd := h.add false (X.denotes_dy 1 (-1))
    have hvalue : q + ((1 : Int) : ℚ) * 2 ^ (-1 : Int) = ((k + 1 : Int) : ℚ) := by
      rw [hq]
      push_cast
      norm_num
      ring
    rwa [hvalue] at hadd
  rw [sfnSpecial_cos a h, if_pos hsum.integral]

theorem sfnSpecial_tanh_large (hq : 16 ≤ |q|) :
    sfnSpecial 8 a x = some (if q < 0 then 0xBF800000 else 0x3F800000) := by
  have hlt : x.abs.lt (.int 16) = false := (h.abs.lt_eq_false_iff (X.denotes_int 16)).mpr (by exact_mod_cast hq)
  have hsign := h.isNeg_iff (abs_pos.mp (by linarith))
  rw [sfnSpecial_tanh a h, hlt, signOne]
  simp only [hsign]
  rfl

theorem sfnSpecial_tanh_small (hq : |q| < (1 / 2) ^ 12) : sfnSpecial 8 a x = some a := by
  have htiny : |q| < ((1 : Int) : ℚ) * 2 ^ (-12 : Int) := hq.trans_eq (by norm_num)
  have hlt : x.abs.lt (.int 16) = true :=
    (h.abs.lt_iff (X.denotes_int 16)).mpr (hq.trans (by norm_num))
  rw [sfnSpecial_tanh a h, hlt, (h.abs.lt_iff (X.denotes_dy 1 (-12))).mpr htiny]
  rfl

end Value

/-! ## The function of a slot -/

section Function
variable {img : BitVec 65536} {slot : Nat} {a : Word}

/-- A special input gives what the table says, whatever the image holds. -/
theorem sfnValue_special {kd : Nat} {r : Word} (hkd : coefByte img (8 * slot) = kd)
    (h : sfnSpecial kd a (xf a) = some r) : sfnValue img slot a = r := by
  unfold sfnValue
  dsimp only
  rw [hkd, h]

/-- The identity kind is the cubic of segment 0 at the operand (R131). -/
theorem sfnValue_ident {q : ℚ} (hkd : coefByte img (8 * slot) = 0) (h : (xf a).Denotes q) :
    sfnValue img slot a = segment img slot 0 (xf a) := by
  have hnone : sfnSpecial 0 a (xf a) = none := by
    obtain ⟨s, n, d, e, hx, -, -⟩ := h
    rw [hx]
    rfl
  obtain ⟨s, n, d, e, hx, -, -⟩ := h
  unfold sfnValue
  simp only [hkd, hnone]
  simp only [hx]

end Function

/-! ## The cubic of a segment (R131) -/

/-- One step of the cubic: a product and a sum, rounded once. -/
def cubicStep (u p z : X) : X := xf (rfn ((p.mul u).add false z))

/-- The cubic with coefficients c at u. -/
def cubic (u : X) (c : Nat → X) : X := cubicStep u (cubicStep u (cubicStep u (c 3) (c 2)) (c 1)) (c 0)

theorem xf_zero : xf 0 = .fin false 0 1 (-149) := by decide

/-- A step from a zero to +0 gives +0. -/
theorem cubicStep_zero {u : X} {q : ℚ} (h : u.Denotes q) (s : Bool) (e f : Int) :
    cubicStep u (.fin s 0 1 e) (.fin false 0 1 f) = xf 0 := by
  have hsum : ((X.fin s 0 1 e).mul u).add false (.fin false 0 1 f) = .zero false := by
    obtain ⟨t, n, d, g, rfl, -, -⟩ := h
    simp [X.mul, X.add, X.zero]
  rw [cubicStep, hsum]
  rfl

theorem cubic_zero {u : X} {q : ℚ} (h : u.Denotes q) {c : Nat → X} {e : Int} (hc : ∀ j, c j = .fin false 0 1 e) :
    cubic u c = xf 0 := by
  simp only [cubic, hc, cubicStep_zero h, xf_zero]

/-- The cubic of segment 0 with the coefficients of the image; of a slot without segments the cubic of zeros. -/
theorem xf_segment (img : BitVec 65536) (slot : Nat) {u : X} {q : ℚ} (h : u.Denotes q) :
    xf (segment img slot 0 u) = cubic u (fun j => xf (if (img.extractLsb' (64 * slot + 8) 8).toNat = 0 then 0
      else img.extractLsb' (8 * (img.extractLsb' (64 * slot + 32) 16).toNat + 32 * j) 32)) := by
  have hsegment : xf (segment img slot 0 u) = cubic u (fun j => if (img.extractLsb' (64 * slot + 8) 8).toNat = 0
      then .zero false else xf (img.extractLsb' (8 * (img.extractLsb' (64 * slot + 32) 16).toNat + 32 * j) 32)) := by
    simp only [← coefByte_segments, ← coefWord_segment]
    rfl
  rw [hsegment]
  by_cases hn : (img.extractLsb' (64 * slot + 8) 8).toNat = 0
  · exact (cubic_zero h fun _ => if_pos hn).trans (cubic_zero h fun _ => by rw [if_pos hn, xf_zero]).symm
  · simp only [hn, if_false]

/-- Settles O22: the function of the slot at a special input is what Table 6-4 lists for its kind, read off the input's
value; the identity kind is the cubic of segment 0. -/
theorem specialFunctionsOfTheImage : Obligations.SpecialFunctionsOfTheImage := by
  unfold Obligations.SpecialFunctionsOfTheImage
  intro s ag h d a slot hex img kind segs base c w x zero inf nan half
  have hkind : coefByte img (8 * slot.toNat) = kind := coefByte_kind img slot.toNat
  have hx : x.Proper := xf_proper w
  have hspecial {k : Nat} {r : Word} (hk : kind = k) (hr : sfnSpecial k w x = some r) :
      sfnValue img slot.toNat w = r := sfnValue_special (hkind.trans hk) hr
  have hinf {k : Nat} {r : Word} {sg : Bool} (hk : kind = k) (hxs : x = .inf sg)
      (hr : sfnSpecial k w (.inf sg) = some r) : sfnValue img slot.toNat w = r := hspecial hk (hxs ▸ hr)
  refine ⟨sfnValue img slot.toNat w, ?_, fun hnan => hspecial rfl (hnan ▸ sfnSpecial_nan kind w), ?turns, fun hk => ?rcp,
    fun hk => ?rsqrt, fun hk => ?sqrt, fun hk => ?exp2, fun hk => ?log2, fun hk k hv => ?sin, fun hk k hv => ?cos,
    fun hk => ?tanh, fun hk v hv => ?ident⟩
  · rw [← floatRF_eq_codesOf]
    exact simple_executes _ hex
  case turns =>
    rintro sg hxs (hk | hk | hk)
    · exact hinf hk hxs rfl
    · exact hinf hk hxs rfl
    · exact hinf hk hxs rfl
  case rcp => exact ⟨fun sg hxs => hinf hk hxs rfl, fun h0 => hspecial hk (sfnSpecial_rcp_zero w (hx 0 h0))⟩
  case rsqrt =>
    exact ⟨fun hxs => hinf hk hxs rfl, fun hxs => hinf hk hxs rfl,
      fun h0 => hspecial hk (sfnSpecial_rsqrt_zero w (hx 0 h0)),
      fun v hv hneg => hspecial hk (sfnSpecial_negative w (hx v hv) hneg (.inl rfl))⟩
  case sqrt =>
    refine ⟨fun hxs => hinf hk hxs rfl, fun hxs => hinf hk hxs rfl, fun h0 => ?_,
      fun v hv hneg => hspecial hk (sfnSpecial_negative w (hx v hv) hneg (.inr (.inl rfl)))⟩
    exact (hspecial hk (sfnSpecial_sqrt_zero w (hx 0 h0))).trans (eq_signZero (hx 0 h0)).symm
  case exp2 =>
    exact ⟨fun hxs => hinf hk hxs rfl, fun hxs => hinf hk hxs rfl,
      fun v hv => ⟨fun hlarge => hspecial hk (sfnSpecial_exp2_large w (hx v hv) hlarge),
        fun hsmall => hspecial hk (sfnSpecial_exp2_small w (hx v hv) hsmall)⟩⟩
  case log2 =>
    exact ⟨fun hxs => hinf hk hxs rfl, fun hxs => hinf hk hxs rfl,
      fun h0 => hspecial hk (sfnSpecial_log2_zero w (hx 0 h0)),
      fun v hv hneg => hspecial hk (sfnSpecial_negative w (hx v hv) hneg (.inr (.inr rfl)))⟩
  case sin => exact hspecial hk (sfnSpecial_sin_integral w (hx _ hv) rfl)
  case cos => exact hspecial hk (sfnSpecial_cos_half w (hx _ hv) rfl)
  case tanh =>
    exact ⟨fun sg hxs => hinf hk hxs rfl,
      fun v hv => ⟨fun hlarge => hspecial hk (sfnSpecial_tanh_large w (hx v hv) hlarge),
        fun hsmall => hspecial hk (sfnSpecial_tanh_small w (hx v hv) hsmall)⟩⟩
  case ident =>
    have hvalue := hx v hv
    rw [sfnValue_ident (hkind.trans hk) hvalue]
    exact xf_segment img slot.toNat hvalue

end Sys2Proof.Machine
end

section
/-! SUPPORT. Algebra elements (R134, R135): exact sums of several terms, conjugation, the components of a product, and the
statement about ACONJ, AMUL and ANORM. -/

namespace Sys2Proof.Machine

open Sys2Proof.Safety

/-! ## Sums of finite terms -/

/-- The terms are finite, and what they denote adds up to q. -/
inductive SumsTo : List X → ℚ → Prop where
  | nil : SumsTo [] 0
  | cons {x : X} {p : ℚ} {xs : List X} {q : ℚ} (head : x.Denotes p) (tail : SumsTo xs q) : SumsTo (x :: xs) (p + q)

theorem SumsTo.append {xs ys : List X} {p q : ℚ} (hx : SumsTo xs p) (hy : SumsTo ys q) : SumsTo (xs ++ ys) (p + q) := by
  induction hx with
  | nil => rwa [zero_add]
  | cons head _ ih => exact add_assoc (G := ℚ) _ _ _ ▸ ih.cons head

theorem SumsTo.map {α : Type} {l : List α} {f : α → X} {g : α → ℚ} (h : ∀ a ∈ l, (f a).Denotes (g a)) :
    SumsTo (l.map f) (l.map g).sum := by
  induction l with
  | nil => exact .nil
  | cons a l ih =>
    obtain ⟨ha, hl⟩ := List.forall_mem_cons.mp h
    exact .cons ha (ih hl)

theorem SumsTo.flatMap {α : Type} {l : List α} {f : α → List X} {g : α → ℚ} (h : ∀ a ∈ l, SumsTo (f a) (g a)) :
    SumsTo (l.flatMap f) (l.map g).sum := by
  induction l with
  | nil => exact .nil
  | cons a l ih =>
    obtain ⟨ha, hl⟩ := List.forall_mem_cons.mp h
    exact ha.append (ih hl)

/-- What is left out counts as zero. -/
theorem SumsTo.filterMap {α : Type} {l : List α} {f : α → Option X} {g : α → ℚ}
    (h : ∀ a ∈ l, (f a = none ∧ g a = 0) ∨ ∃ x, f a = some x ∧ x.Denotes (g a)) :
    SumsTo (l.filterMap f) (l.map g).sum := by
  induction l with
  | nil => exact .nil
  | cons a l ih =>
    obtain ⟨ha, hl⟩ := List.forall_mem_cons.mp h
    rw [List.map_cons, List.sum_cons]
    obtain ⟨hnone, hzero⟩ | ⟨x, hsome, hx⟩ := ha
    · rw [List.filterMap_cons_none hnone, hzero, zero_add]
      exact ih hl
    · rw [List.filterMap_cons_some hsome]
      exact .cons hx (ih hl)

theorem SumsTo.foldl_add {xs : List X} {q : ℚ} (rm : Bool) (h : SumsTo xs q) {x : X} {p : ℚ} (hx : x.Denotes p) :
    (xs.foldl (X.add rm) x).Denotes (p + q) := by
  induction h generalizing x p with
  | nil => rwa [add_zero]
  | cons head _ ih => exact add_assoc p _ _ ▸ ih (hx.add rm head)

theorem SumsTo.sumTerms {xs : List X} {q : ℚ} (rm : Bool) (h : SumsTo xs q) : (sumTerms rm xs).Denotes q := by
  cases h with
  | nil => exact X.denotes_zero false
  | cons head tail => exact tail.foldl_add rm head

/-! ## Conjugation -/

/-- Component j of an element, conjugated where c says so (R135). -/
def AlgRec.conjAt (r : AlgRec) (c : Bool) (x : Nat → Word) (j : Nat) : Word :=
  if c && r.mask.getLsbD j then x j ^^^ 0x80000000 else x j

theorem conjRun_map (r : AlgRec) (x : Nat → Word) (n : Nat) :
    conjRun r ((List.range n).map x) = (List.range n).map (r.conjAt true x) := by
  have hzip : ((List.range n).map x).zip (List.range n) = (List.range n).map fun j => (x j, j) := by
    conv_lhs => rw [← List.map_id (List.range n), List.map_map]
    exact List.zip_map' ..
  rw [conjRun, List.length_map, List.length_range, hzip, List.map_map]
  rfl

theorem conjRun_if (r : AlgRec) (c : Bool) (x : Nat → Word) (n : Nat) :
    (if c then conjRun r ((List.range n).map x) else (List.range n).map x) = (List.range n).map (r.conjAt c x) := by
  cases c with
  | false => rfl
  | true => exact conjRun_map r x n

theorem xf_eq_nan_iff (w : Word) : xf w = .nan ↔ exponentOf w = 255 ∧ fractionOf w ≠ 0 := by
  by_cases he : exponentOf w = 255
  · rw [xf_special he]
    split <;> simp [*]
  · rw [xf_finite he]
    simp [he]

/-- A NaN is one whatever its sign. -/
theorem xf_xor_eq_nan_iff (w : Word) : xf (w ^^^ 0x80000000) = .nan ↔ xf w = .nan := by
  have he : exponentOf (w ^^^ 0x80000000) = exponentOf w := by
    rw [exponentOf, exponentOf, bitf_toNat, bitf_toNat, BitVec.extractLsb'_xor,
      show (0x80000000 : Word).extractLsb' 23 8 = 0#8 by decide, BitVec.xor_zero]
  have hf : fractionOf (w ^^^ 0x80000000) = fractionOf w := by
    rw [fractionOf, fractionOf, bitf_toNat, bitf_toNat, BitVec.extractLsb'_xor,
      show (0x80000000 : Word).extractLsb' 0 23 = 0#23 by decide, BitVec.xor_zero]
  rw [xf_eq_nan_iff, xf_eq_nan_iff, he, hf]

theorem AlgRec.canonical_conjAt (r : AlgRec) (c : Bool) (x : Nat → Word) (j : Nat) :
    canonical (r.conjAt c x j) = if xf (x j) = .nan then nanf else r.conjAt c x j := by
  have hnan : xf (r.conjAt c x j) = .nan ↔ xf (x j) = .nan := by
    unfold AlgRec.conjAt
    split
    · exact xf_xor_eq_nan_iff (x j)
    · rfl
  simp only [canonical, beq_iff_eq, hnan]

/-! ## Products -/

/-- What the structure table makes of the product of basis elements i and j for component k (R67, R135). -/
def AlgRec.share (r : AlgRec) (k : Nat) (p q : Nat → ℚ) (i j : Nat) : ℚ :=
  let nb := (r.tbl.extractLsb' (4 * (4 * i + j)) 4).toNat
  if nb % 4 = k ∧ nb / 4 ≠ 2 then (if nb / 4 = 1 then -(p i * q j) else p i * q j) else 0

theorem AlgRec.nibble_eq (r : AlgRec) (i j : Nat) : r.nibble i j = (r.tbl.extractLsb' (4 * (4 * i + j)) 4).toNat :=
  bitf_toNat ..

theorem getD_map_range {α : Type} (f : Nat → α) {n i : Nat} (hi : i < n) (x : α) :
    ((List.range n).map f).getD i x = f i := by simp [hi]

section Product
variable {r : AlgRec} {x y : Nat → Word} {p q : Nat → ℚ} {rnd : Rnd}

/-- The products that contribute to a component add up to its shares. -/
theorem AlgRec.terms_sumsTo (k : Nat) (hx : ∀ j < r.d, (xf (x j)).Denotes (p j))
    (hy : ∀ j < r.d, (xf (y j)).Denotes (q j)) :
    SumsTo (r.terms k ((List.range r.d).map fun j => xf (x j)) ((List.range r.d).map fun j => xf (y j)))
      ((List.range r.d).map fun i => ((List.range r.d).map (r.share k p q i)).sum).sum := by
  refine SumsTo.flatMap fun i hi => SumsTo.filterMap fun j hj => ?_
  have hi' := List.mem_range.mp hi
  have hj' := List.mem_range.mp hj
  have hprod := (hx i hi').mul (hy j hj')
  dsimp only
  rw [getD_map_range _ hi', getD_map_range _ hj', r.nibble_eq]
  unfold AlgRec.share
  dsimp only
  by_cases hkeep : (r.tbl.extractLsb' (4 * (4 * i + j)) 4).toNat % 4 = k ∧
      (r.tbl.extractLsb' (4 * (4 * i + j)) 4).toNat / 4 ≠ 2
  · rw [if_pos hkeep, if_pos (by simpa using hkeep)]
    refine .inr ⟨_, rfl, ?_⟩
    split
    · exact hprod.neg
    · exact hprod
  · rw [if_neg hkeep, if_neg (by simpa using hkeep)]
    exact .inl ⟨rfl, rfl⟩

/-- A component of a product is the sum of its shares, rounded once. -/
theorem AlgRec.product_component {k : Nat} (hk : k < r.d) : ∃ w,
    (r.product rnd ((List.range r.d).map x) ((List.range r.d).map y))[k]? = some w ∧
      ∀ p q : Nat → ℚ, (∀ j < r.d, valueOf (xf (x j)) = some (p j) ∧ valueOf (xf (y j)) = some (q j)) →
        ∃ e, w = rf e rnd ∧
          valueOf e = some ((List.range r.d).map fun i => ((List.range r.d).map (r.share k p q i)).sum).sum := by
  rw [AlgRec.product, List.getElem?_map, List.getElem?_range hk]
  refine ⟨_, rfl, fun p q hpq => ⟨_, rfl, ?_⟩⟩
  rw [List.map_map, List.map_map]
  exact ((AlgRec.terms_sumsTo k (fun j hj => xf_proper _ _ (hpq j hj).1)
    fun j hj => xf_proper _ _ (hpq j hj).2).sumTerms _).value

end Product

theorem headD_of_getElem? {α : Type} {l : List α} {x : α} (h : l[0]? = some x) (y : α) : l.headD y = x := by
  rw [List.headD_eq_head?_getD, List.head?_eq_getElem?, h]
  rfl

/-- Settles O23: a run of registers is its components in order, conjugation acts on each of them, and each component of a
product is the rounded sum of the products that the table assigns to it. -/
theorem algebraElementsMultiply : Obligations.AlgebraElementsMultiply := by
  unfold Obligations.AlgebraElementsMultiply
  intro s ag h d a b alg ca cb rnd r conj el comp
  refine ⟨fun hex => ?_, fun hex => ?_, fun hex => ?_⟩
  · refine ⟨_, simple_executes _ hex, ?_, fun j hj => ?_⟩
    · simp [conjRun, State.regRun, r]
    · change ((conjRun r ((List.range r.d).map (el a))).map canonical)[j]? = _
      rw [conjRun_map, List.map_map, List.getElem?_map, List.getElem?_range hj]
      exact congrArg some (r.canonical_conjAt true (el a) j)
  · refine ⟨_, simple_executes _ hex, ?_, fun j hj => ?_⟩
    · simp [AlgRec.product, r]
    · change ∃ w, (r.product rnd (if ca then conjRun r ((List.range r.d).map (el a)) else (List.range r.d).map (el a))
        (if cb then conjRun r ((List.range r.d).map (el b)) else (List.range r.d).map (el b)))[j]? = some w ∧ _
      rw [conjRun_if, conjRun_if]
      exact AlgRec.product_component hj
  · refine ⟨(r.product rnd ((List.range r.d).map (el a)) (conjRun r ((List.range r.d).map (el a)))).headD 0, ?_,
      fun hd => ?_⟩
    · rw [← floatRF_eq_codesOf]
      exact simple_executes _ hex
    · obtain ⟨w, hw, hcomp⟩ := AlgRec.product_component (r := r) (x := el a) (y := r.conjAt true (el a)) (rnd := rnd) hd
      rw [conjRun_map, headD_of_getElem? hw]
      exact hcomp

end Sys2Proof.Machine
end

section
/-! SUPPORT. RoundTo for f32 gives back a value of the type (R145), and logarithms to base 2. -/

namespace Sys2Proof.Machine

open Sys2Proof.Safety

/-! ## The floor of a logarithm -/

/-- Powers of two next to one another hold a positive number between them in one way. -/
theorem two_zpow_unique {v : ℚ} {k l : Int} (hk : (2 : ℚ) ^ k ≤ v) (hk' : v < 2 ^ (k + 1)) (hl : (2 : ℚ) ^ l ≤ v)
    (hl' : v < 2 ^ (l + 1)) : k = l := by
  have hkl : k < l + 1 := (zpow_lt_zpow_iff_right₀ one_lt_two).mp (hk.trans_lt hl')
  have hlk : l < k + 1 := (zpow_lt_zpow_iff_right₀ one_lt_two).mp (hl.trans_lt hk')
  omega

/-- A quotient of two numbers against a power of two, in whole numbers. -/
theorem ilog_test {a b : Nat} (hb : b ≠ 0) (l : Int) :
    (if 0 ≤ l then a < b * 2 ^ l.toNat else a * 2 ^ (-l).toNat < b) ↔ (a : ℚ) / b < 2 ^ l := by
  have hb' : (0 : ℚ) < b := by positivity
  rw [div_lt_iff₀ hb']
  split
  · next hl =>
    obtain ⟨k, rfl⟩ := Int.eq_ofNat_of_zero_le hl
    rw [zpow_natCast, mul_comm, Int.toNat_natCast]
    exact_mod_cast Iff.rfl
  · next hl =>
    obtain ⟨k, rfl⟩ : ∃ k : Nat, l = -k := ⟨(-l).toNat, by omega⟩
    rw [zpow_neg, zpow_natCast, inv_mul_eq_div, lt_div_iff₀ (by positivity), neg_neg, Int.toNat_natCast]
    exact_mod_cast Iff.rfl

theorem log2_bounds {a : Nat} (ha : a ≠ 0) :
    (2 : ℚ) ^ (Nat.log2 a : Int) ≤ a ∧ (a : ℚ) < 2 ^ ((Nat.log2 a : Int) + 1) :=
  ⟨by exact_mod_cast Nat.log2_self_le ha, by exact_mod_cast Nat.lt_log2_self (n := a)⟩

/-- `ilog` is the floor of the logarithm of a / b. -/
theorem ilog_spec {a b : Nat} (ha : a ≠ 0) (hb : b ≠ 0) :
    (2 : ℚ) ^ ilog a b ≤ (a : ℚ) / b ∧ (a : ℚ) / b < 2 ^ (ilog a b + 1) := by
  obtain ⟨ha1, ha2⟩ := log2_bounds ha
  obtain ⟨hb1, hb2⟩ := log2_bounds hb
  have hlow : (2 : ℚ) ^ ((Nat.log2 a : Int) - Nat.log2 b - 1) ≤ (a : ℚ) / b := by
    rw [sub_sub, zpow_sub₀ two_ne_zero]
    exact div_le_div₀ (Nat.cast_nonneg a) ha1 (by positivity) hb2.le
  have hhigh : (a : ℚ) / b < 2 ^ ((Nat.log2 a : Int) - Nat.log2 b + 1) := by
    rw [sub_add_eq_add_sub, zpow_sub₀ two_ne_zero]
    exact div_lt_div₀ ha2 hb1 (by positivity) (by positivity)
  have hcases : ilog a b = if (a : ℚ) / b < 2 ^ ((Nat.log2 a : Int) - Nat.log2 b)
      then (Nat.log2 a : Int) - Nat.log2 b - 1 else (Nat.log2 a : Int) - Nat.log2 b := by
    simp only [← ilog_test hb, ilog]
    split <;> rfl
  rw [hcases]
  split
  · exact ⟨hlow, by rwa [Int.sub_add_cancel]⟩
  · next h => exact ⟨not_lt.mp h, hhigh⟩

theorem ilog_eq {a b : Nat} (ha : a ≠ 0) (hb : b ≠ 0) {e k : Int} (hlow : (2 : ℚ) ^ k ≤ (a : ℚ) / b * 2 ^ e)
    (hhigh : (a : ℚ) / b * 2 ^ e < 2 ^ (k + 1)) : ilog a b + e = k := by
  obtain ⟨h, h'⟩ := ilog_spec ha hb
  have hpos : (0 : ℚ) < 2 ^ e := by positivity
  refine two_zpow_unique ?_ ?_ hlow hhigh
  · rw [zpow_add₀ two_ne_zero]
    exact mul_le_mul_of_nonneg_right h hpos.le
  · rw [add_right_comm, zpow_add₀ two_ne_zero]
    exact mul_lt_mul_of_pos_right h' hpos

/-! ## Rounding a value of the type -/

/-- The encoding of a finite f32, without its sign, is its units over the lowest place of its exponent. -/
theorem lastPlace_units (w : Word) :
    (lastPlace w + 149) * 2 ^ 23 + unitsOf w = ((exponentOf w * 2 ^ 23 + fractionOf w : Nat) : Int) := by
  unfold lastPlace unitsOf
  split
  · next h => rw [h]; push_cast; ring
  · push_cast; ring

/-- The exponent that RoundTo takes for a finite f32 is its own. -/
theorem lastPlace_eq {w : Word} (h : unitsOf w ≠ 0) :
    max (ilog (unitsOf w) 1 + lastPlace w) (-126) - 23 = lastPlace w := by
  obtain ⟨-, -, hf⟩ := word_parts w
  obtain ⟨hlow, hhigh⟩ := ilog_spec h one_ne_zero
  rw [Nat.cast_one, div_one] at hlow hhigh
  by_cases he : exponentOf w = 0
  · have hunits : (unitsOf w : ℚ) < 2 ^ (23 : Int) := by
      rw [unitsOf, if_pos he]
      exact_mod_cast hf
    have hlog : ilog (unitsOf w) 1 < 23 := (zpow_lt_zpow_iff_right₀ one_lt_two).mp (hlow.trans_lt hunits)
    simp only [lastPlace, he, if_true]
    omega
  · have hunits : 2 ^ 23 ≤ unitsOf w ∧ unitsOf w < 2 ^ (23 + 1) := by
      rw [unitsOf, if_neg he]
      omega
    have hlog : ilog (unitsOf w) 1 = 23 :=
      two_zpow_unique hlow hhigh (by exact_mod_cast hunits.1) (by exact_mod_cast hunits.2)
    rw [hlog]
    simp only [lastPlace, he, if_false]
    omega

theorem maxEnc_f32 : f32.maxEnc = 255 * 2 ^ 23 - 1 := by decide

theorem signBit_f32 : f32.signBit = 2 ^ 31 := by decide

/-- The encoding that RoundTo puts together for a finite f32 is its own, and not above the greatest. -/
theorem encoding_eq (w : Word) : (lastPlace w + (f32.mb : Int) + (f32.bias : Int) - 1) * 2 ^ f32.mb + unitsOf w =
    ((exponentOf w * 2 ^ 23 + fractionOf w : Nat) : Int) := by
  rw [← lastPlace_units]
  simp only [f32]
  push_cast
  ring

theorem encoding_le {w : Word} (he : exponentOf w ≠ 255) :
    ((exponentOf w * 2 ^ 23 + fractionOf w : Nat) : Int) ≤ (f32.maxEnc : Int) := by
  obtain ⟨-, he256, hf⟩ := word_parts w
  rw [maxEnc_f32]
  omega

/-- A finite f32 rounds to itself. -/
theorem round_finite {w : Word} (he : exponentOf w ≠ 255) (mode : Rnd) :
    (f32.round (xf w) mode 0 false).bits = w.toNat := by
  obtain ⟨hw, -, -⟩ := word_parts w
  have hsign := isNeg_xf_finite he
  have habs : (if nbit w.toNat 31 then -(unitsOf w : Int) else unitsOf w).natAbs = unitsOf w := by
    cases nbit w.toNat 31 <;> simp
  have hsg : (if nbit w.toNat 31 then f32.signBit else 0) = b2n (nbit w.toNat 31) * 2 ^ 31 := by
    rw [signBit_f32]
    cases nbit w.toNat 31 <;> rfl
  rw [xf_finite he] at hsign ⊢
  simp only [FFmt.round, habs, hsign, hsg]
  by_cases hu : unitsOf w = 0
  · obtain ⟨he0, hf0⟩ := (unitsOf_eq_zero_iff w).mp hu
    rw [he0, hf0, Nat.zero_mul, Nat.add_zero] at hw
    rw [if_pos hu]
    exact hw.symm
  · have hplace : max (ilog (unitsOf w) 1 + lastPlace w) (1 - (f32.bias : Int)) - (f32.mb : Int) = lastPlace w :=
      lastPlace_eq hu
    have hunits : inUnits (unitsOf w) 1 (lastPlace w) (lastPlace w) = (unitsOf w, 0, 1) := by
      simp [inUnits, Nat.mod_one]
    rw [if_neg hu]
    simp only [hplace, hunits, roundUp, if_true, Bool.false_eq_true, if_false, encoding_eq, if_pos (encoding_le he)]
    rw [Int.toNat_natCast, ← Nat.add_assoc]
    exact hw.symm

/-- An f32 that is no NaN, or the canonical one, rounds to itself. -/
theorem rfn_xf {w : Word} (h : xf w = .nan → w = nanf) : rfn (xf w) = w := by
  by_cases hnan : xf w = .nan
  · rw [hnan, h hnan]
    rfl
  · apply BitVec.eq_of_toNat_eq
    have hbits : (f32.round (xf w) .rn 0 false).bits = w.toNat := by
      by_cases he : exponentOf w = 255
      · have hf : fractionOf w = 0 := by
          by_contra hf
          exact hnan ((xf_eq_nan_iff w).mpr ⟨he, hf⟩)
        obtain ⟨hw, -, -⟩ := word_parts w
        rw [xf_special he, if_pos hf, hw, he, hf]
        cases nbit w.toNat 31 <;> rfl
      · exact round_finite he .rn
    rw [rfn, rf, hbits, BitVec.toNat_ofNat, Nat.mod_eq_of_lt w.isLt]

/-- The bits of an f32 that is no NaN: a sign, and a magnitude not above the infinity's. -/
def NumberBits (r : Rounded) : Prop :=
  ∃ (neg : Bool) (m : Nat), m ≤ 255 * 2 ^ 23 ∧ r.bits = (if neg then 2 ^ 31 else 0) + m

theorem numberBits_signed {neg : Bool} {m : Nat} {i c : Bool} (hm : m ≤ 255 * 2 ^ 23) :
    NumberBits ⟨(if neg then f32.signBit else 0) + m, i, c⟩ := ⟨neg, m, hm, by rw [signBit_f32]⟩

theorem numberBits_zero (neg : Bool) {i c : Bool} : NumberBits ⟨if neg then f32.signBit else 0, i, c⟩ :=
  ⟨neg, 0, Nat.zero_le _, by rw [signBit_f32, Nat.add_zero]⟩

theorem numberBits_over (neg : Bool) : NumberBits (f32.over neg false) :=
  numberBits_signed (m := (2 ^ f32.eb - 1) * 2 ^ f32.mb) (by decide)

theorem toNat_le_of_le_maxEnc {enc : Int} (h : enc ≤ (f32.maxEnc : Int)) : enc.toNat ≤ 255 * 2 ^ 23 := by
  rw [maxEnc_f32] at h
  omega

/-- RoundTo for f32 of what is no NaN is no NaN. -/
theorem numberBits_round {x : X} (h : x ≠ .nan) (mode : Rnd) : NumberBits (f32.round x mode 0 false) := by
  cases x with
  | nan => exact absurd rfl h
  | inf s =>
    unfold FFmt.round
    exact iteInduction (motive := NumberBits) (fun _ => numberBits_over s) fun _ => numberBits_over s
  | fin s n d e =>
    unfold FFmt.round
    refine iteInduction (motive := NumberBits) (fun _ => numberBits_zero _) fun _ => ?_
    refine iteInduction (motive := NumberBits) (fun henc => numberBits_signed (toNat_le_of_le_maxEnc henc)) fun _ => ?_
    · exact iteInduction (motive := NumberBits) (fun _ => numberBits_signed (by decide)) fun _ => numberBits_over _

/-- The only NaN that RoundTo writes is the canonical one. -/
theorem rfn_eq_nanf {x : X} (h : xf (rfn x) = .nan) : rfn x = nanf := by
  by_cases hx : x = .nan
  · rw [hx]
    rfl
  · exfalso
    obtain ⟨neg, m, hm, hbits⟩ := numberBits_round hx .rn
    obtain ⟨he, hf⟩ := (xf_eq_nan_iff _).mp h
    have hvalue : (rfn x).toNat = (if neg then 2 ^ 31 else 0) + m := by
      rw [rfn, rf, hbits, BitVec.toNat_ofNat, Nat.mod_eq_of_lt]
      split <;> omega
    unfold exponentOf bitf at he
    unfold fractionOf bitf at hf
    rw [hvalue] at he hf
    cases neg <;> simp only [Bool.false_eq_true, if_true, if_false] at he hf <;> omega

theorem rfn_xf_rfn (x : X) : rfn (xf (rfn x)) = rfn x := rfn_xf rfn_eq_nanf

end Sys2Proof.Machine
end

section
/-! SUPPORT. The float collectives (R136, R161): the sums of each ductus, extremes, the scale of a block, and the statement
about FRED, FSCAN and BSCALE. -/

namespace Sys2Proof.Machine

open Sys2Proof.Safety

/-! ## Sums in the order of the ductus (R136) -/

theorem xsum_eq_sumTerms (xs : List X) : xsum xs = sumTerms false xs := by cases xs <;> rfl

section Sums
variable {xs : List Word} {p : Word → ℚ} (hp : ∀ w ∈ xs, (xf w).Denotes (p w))
include hp

theorem xsum_denotes : (xsum (xs.map xf)).Denotes (xs.map p).sum := by
  rw [xsum_eq_sumTerms]
  exact (SumsTo.map hp).sumTerms false

/-- Finite values have no special sum. -/
theorem sumSpecial_finite : sumSpecial (xs.map xf) = none := by
  have habsent {x : X} (hx : ∀ w ∈ xs, xf w ≠ x) : (xs.map xf).contains x = false := by
    rw [← Bool.not_eq_true, List.contains_iff_mem, List.mem_map]
    rintro ⟨w, hw, rfl⟩
    exact hx w hw rfl
  have hnan := habsent fun w hw => (hp w hw).ne_nan
  have hinf (sg : Bool) := habsent fun w hw => (hp w hw).ne_inf sg
  unfold sumSpecial
  dsimp only
  rw [hnan, hinf, hinf]
  rfl

/-- Ductus 0: one after the other. -/
theorem ductSum_serial {w : Word} {r : List Word} (hxs : xs = w :: r) : ductSum 0 xs = r.foldl addf w := by
  rw [ductSum, sumSpecial_finite hp, hxs]
  rfl

/-- Ductus 1: the balanced tree. -/
theorem ductSum_tree : ductSum 1 xs = rfn (treeSum 7 (xs.map xf)) := by
  rw [ductSum, sumSpecial_finite hp]
  rfl

/-- Ductus 3: one rounding. -/
theorem ductSum_exact : ductSum 3 xs = rfn (xsum (xs.map xf)) := by
  rw [ductSum, sumSpecial_finite hp]
  rfl

/-- Ductus 2, up to 32 members: one rounding. -/
theorem ductSum_run (hne : xs ≠ []) (hlen : xs.length ≤ 32) : ductSum 2 xs = rfn (xsum (xs.map xf)) := by
  have hruns : runs32 64 (xs.map xf) = [xs.map xf] := by
    obtain ⟨w, r, rfl⟩ := List.exists_cons_of_ne_nil hne
    have hdrop : ((w :: r).map xf).drop 32 = [] := List.drop_eq_nil_of_le (by simpa using hlen)
    have htake : ((w :: r).map xf).take 32 = (w :: r).map xf := List.take_of_length_le (by simpa using hlen)
    rw [runs32, hdrop, htake]
    rfl
  rw [ductSum, sumSpecial_finite hp]
  simp only [hruns]
  rfl

/-- Ductus 2, up to 64 members: two runs, each rounded, and then their sum. -/
theorem ductSum_runs (h32 : 32 < xs.length) (h64 : xs.length ≤ 64) :
    ductSum 2 xs = addf (rfn (xsum ((xs.take 32).map xf))) (rfn (xsum ((xs.drop 32).map xf))) := by
  have hne (ys : List X) (hys : 0 < ys.length) : ys.isEmpty = false := by
    cases ys with
    | nil => cases hys
    | cons y ys => rfl
  have hruns : runs32 64 (xs.map xf) = [(xs.take 32).map xf, (xs.drop 32).map xf] := by
    have hdrop : (((xs.map xf).drop 32).drop 32) = [] := List.drop_eq_nil_of_le (by simp; omega)
    have htake : ((xs.map xf).drop 32).take 32 = (xs.map xf).drop 32 := List.take_of_length_le (by simp; omega)
    rw [runs32, runs32, hne _ (by simp; omega), hne _ (by simp; omega), hdrop, htake, List.map_take, List.map_drop]
    rfl
  rw [ductSum, sumSpecial_finite hp]
  simp only [hruns]
  rfl

end Sums

/-! ## The balanced tree -/

/-- The largest power of two below n. -/
theorem powBelow_eq {n k : Nat} (hlow : 2 ^ k < n) (hhigh : n ≤ 2 ^ (k + 1)) : powBelow n = 2 ^ k := by
  have hpos := Nat.two_pow_pos k
  have hlog : Nat.log2 (n - 1) = k := (Nat.log2_eq_iff (by omega)).mpr ⟨by omega, by omega⟩
  rw [powBelow, hlog]

/-- A list of more than one element and at most 2^(k + 1) is split into parts of at most 2^k. -/
theorem powBelow_le {n k : Nat} (h1 : 1 < n) (hn : n ≤ 2 ^ (k + 1)) :
    powBelow n ≤ 2 ^ k ∧ n - powBelow n ≤ 2 ^ k := by
  have hlog : Nat.log2 (n - 1) ≤ k := Nat.lt_succ_iff.mp ((Nat.log2_lt (by omega)).mpr (by omega))
  have hpow : powBelow n ≤ 2 ^ k := Nat.pow_le_pow_right two_pos hlog
  have hlt : n - 1 < 2 ^ (Nat.log2 (n - 1) + 1) := Nat.lt_log2_self
  rw [pow_succ] at hlt
  refine ⟨hpow, ?_⟩
  unfold powBelow at hpow ⊢
  omega

/-- A node of the tree. -/
theorem treeSum_node {k : Nat} {xs : List X} (h : 1 < xs.length) : treeSum (k + 1) xs =
    xf (rfn ((treeSum k (xs.take (powBelow xs.length))).add false (treeSum k (xs.drop (powBelow xs.length))))) := by
  rw [treeSum, if_neg (by omega)]

theorem treeSum_leaf {xs : List X} (k : Nat) (h : xs.length ≤ 1) : treeSum k xs = xs.headD (.zero false) := by
  cases k with
  | zero => rfl
  | succ k => rw [treeSum, if_pos h]

/-- Depth k is enough for 2^k elements. -/
theorem treeSum_succ {k : Nat} {xs : List X} (h : xs.length ≤ 2 ^ k) : treeSum (k + 1) xs = treeSum k xs := by
  induction k generalizing xs with
  | zero => rw [treeSum_leaf 1 h, treeSum_leaf 0 h]
  | succ k ih =>
    by_cases h1 : xs.length ≤ 1
    · rw [treeSum_leaf _ h1, treeSum_leaf _ h1]
    · obtain ⟨htake, hdrop⟩ := powBelow_le (not_le.mp h1) h
      rw [treeSum_node (not_le.mp h1), treeSum_node (not_le.mp h1), ih (by simp; omega), ih (by simp; omega)]

section Tree
variable {xs : List Word} {p : Word → ℚ} (hp : ∀ w ∈ xs, (xf w).Denotes (p w))
include hp

/-- What a tree gives is a value of f32. -/
theorem xf_rfn_treeSum (k : Nat) (hne : xs ≠ []) : xf (rfn (treeSum k (xs.map xf))) = treeSum k (xs.map xf) := by
  by_cases h1 : (xs.map xf).length ≤ 1
  · obtain ⟨w, r, rfl⟩ := List.exists_cons_of_ne_nil hne
    rw [treeSum_leaf k h1]
    exact congrArg xf (rfn_xf fun hnan => absurd hnan (hp w List.mem_cons_self).ne_nan)
  · cases k with
    | zero =>
      obtain ⟨w, r, rfl⟩ := List.exists_cons_of_ne_nil hne
      exact congrArg xf (rfn_xf fun hnan => absurd hnan (hp w List.mem_cons_self).ne_nan)
    | succ k => rw [treeSum_node (not_le.mp h1), rfn_xf_rfn]

/-- The tree of a ductus 1 sum: the sums of the first 2^k members and of the others, added. -/
theorem ductSum_tree_node {k : Nat} (hlow : 2 ^ k < xs.length) (hhigh : xs.length ≤ 2 ^ (k + 1)) (h64 : xs.length ≤ 64) :
    ductSum 1 xs = addf (ductSum 1 (xs.take (2 ^ k))) (ductSum 1 (xs.drop (2 ^ k))) := by
  have hpos : 0 < 2 ^ k := Nat.two_pow_pos k
  have hpt : ∀ w ∈ xs.take (2 ^ k), (xf w).Denotes (p w) := fun w hw => hp w (List.mem_of_mem_take hw)
  have hpd : ∀ w ∈ xs.drop (2 ^ k), (xf w).Denotes (p w) := fun w hw => hp w (List.mem_of_mem_drop hw)
  have hnet : xs.take (2 ^ k) ≠ [] := List.ne_nil_of_length_pos (by rw [List.length_take]; omega)
  have hned : xs.drop (2 ^ k) ≠ [] := List.ne_nil_of_length_pos (by rw [List.length_drop]; omega)
  have hpow : powBelow (xs.map xf).length = 2 ^ k := by rw [List.length_map, powBelow_eq hlow hhigh]
  have hdepth (ys : List Word) (hys : ys.length ≤ xs.length) : treeSum 7 (ys.map xf) = treeSum 6 (ys.map xf) :=
    treeSum_succ (by rw [List.length_map]; omega)
  rw [ductSum_tree hp, ductSum_tree hpt, ductSum_tree hpd, treeSum_node (by rw [List.length_map]; omega), rfn_xf_rfn, hpow,
    addf, xf_rfn_treeSum hpt 7 hnet, xf_rfn_treeSum hpd 7 hned, hdepth (xs.take _) (List.length_take_le' _ _),
    hdepth (xs.drop _) (by rw [List.length_drop]; omega), List.map_take, List.map_drop]

end Tree

/-! ## Extremes (R126, R136) -/

/-- Is p at least as far as q towards the maximum, or towards the minimum? -/
def beyond (mx : Bool) (p q : ℚ) : Prop := if mx then q ≤ p else p ≤ q

theorem beyond_refl (mx : Bool) (p : ℚ) : beyond mx p p := by cases mx <;> exact le_refl p

theorem beyond_trans {mx : Bool} {p q r : ℚ} (h : beyond mx p q) (h' : beyond mx q r) : beyond mx p r := by
  cases mx with
  | false => exact le_trans (α := ℚ) h h'
  | true => exact le_trans (α := ℚ) h' h

/-- An extreme of two finite values is one of them, and at least as far as the other. -/
theorem minmaxf_cases (mx : Bool) {a b : Word} {p q : ℚ} (ha : (xf a).Denotes p) (hb : (xf b).Denotes q) :
    minmaxf mx a b = a ∧ beyond mx p q ∨ minmaxf mx a b = b ∧ beyond mx q p := by
  have heq : minmaxf mx a b = if ((xf a).lt (xf b) || ((xf a).eq (xf b) && (xf a).isNeg && !(xf b).isNeg)) != mx
      then a else b := by
    obtain ⟨s, n, d, e, hx, -, -⟩ := ha
    obtain ⟨t, m, c, f, hy, -, -⟩ := hb
    rw [minmaxf, hx, hy]
  have hless : ((xf a).lt (xf b) || ((xf a).eq (xf b) && (xf a).isNeg && !(xf b).isNeg)) = true → p ≤ q := by
    rw [Bool.or_eq_true, Bool.and_eq_true, Bool.and_eq_true, ha.lt_iff hb, ha.eq_iff hb]
    rintro (hlt | ⟨⟨hpq, -⟩, -⟩)
    · exact hlt.le
    · exact hpq.le
  have hmore : ((xf a).lt (xf b) || ((xf a).eq (xf b) && (xf a).isNeg && !(xf b).isNeg)) = false → q ≤ p := by
    rw [Bool.or_eq_false_iff, ha.lt_eq_false_iff hb]
    exact And.left
  rw [heq]
  cases hl : (xf a).lt (xf b) || ((xf a).eq (xf b) && (xf a).isNeg && !(xf b).isNeg) with
  | false =>
    cases mx with
    | false => exact .inr ⟨rfl, hmore hl⟩
    | true => exact .inl ⟨rfl, hmore hl⟩
  | true =>
    cases mx with
    | false => exact .inl ⟨rfl, hless hl⟩
    | true => exact .inr ⟨rfl, hless hl⟩

theorem foldl_minmaxf (mx : Bool) {p : Word → ℚ} {a : Word} {r : List Word} (ha : (xf a).Denotes (p a))
    (hr : ∀ w ∈ r, (xf w).Denotes (p w)) :
    ∃ w ∈ a :: r, r.foldl (minmaxf mx) a = w ∧ ∀ z ∈ a :: r, beyond mx (p w) (p z) := by
  induction r generalizing a with
  | nil => exact ⟨a, List.mem_cons_self, rfl, by simpa using beyond_refl mx (p a)⟩
  | cons b r ih =>
    obtain ⟨hb, hr⟩ := List.forall_mem_cons.mp hr
    have hstep : ∃ c, (c = a ∨ c = b) ∧ minmaxf mx a b = c ∧ beyond mx (p c) (p a) ∧ beyond mx (p c) (p b) := by
      obtain ⟨h, hbeyond⟩ | ⟨h, hbeyond⟩ := minmaxf_cases mx ha hb
      · exact ⟨a, .inl rfl, h, beyond_refl mx _, hbeyond⟩
      · exact ⟨b, .inr rfl, h, hbeyond, beyond_refl mx _⟩
    obtain ⟨c, hc, hfold, hca, hcb⟩ := hstep
    have hcden : (xf c).Denotes (p c) := by
      obtain rfl | rfl := hc
      · exact ha
      · exact hb
    obtain ⟨w, hw, hval, hall⟩ := ih hcden hr
    have hwc := hall c List.mem_cons_self
    refine ⟨w, ?_, by rw [List.foldl_cons, hfold, hval], ?_⟩
    · grind
    · rw [List.forall_mem_cons, List.forall_mem_cons]
      exact ⟨beyond_trans hwc hca, beyond_trans hwc hcb, fun z hz => hall z (List.mem_cons_of_mem _ hz)⟩

/-- The extreme of a list of finite values is one of them. -/
theorem fredValue_extreme {mx : Bool} {op : FRedOp} (hop : op = if mx then .max else .min) (t : BitVec 2)
    {xs : List Word} {p : Word → ℚ} (hne : xs ≠ []) (hp : ∀ w ∈ xs, (xf w).Denotes (p w)) :
    ∃ w ∈ xs, valueOf (xf (fredValue op t xs)) = some (p w) ∧ ∀ z ∈ xs, beyond mx (p w) (p z) := by
  obtain ⟨a, r, rfl⟩ := List.exists_cons_of_ne_nil hne
  obtain ⟨ha, hr⟩ := List.forall_mem_cons.mp hp
  have hfold : fredValue op t (a :: r) = r.foldl (minmaxf mx) a := by
    have hself : minmaxf mx a a = a := (minmaxf_cases mx ha ha).elim And.left And.left
    cases r with
    | nil => cases mx <;> subst hop <;> exact hself
    | cons b r => cases mx <;> subst hop <;> rfl
  obtain ⟨w, hw, hval, hall⟩ := foldl_minmaxf mx ha hr
  exact ⟨w, hw, by rw [hfold, hval]; exact (hp w hw).value, hall⟩

/-! ## The scale of a block (R161) -/

/-- The largest magnitude of a block. -/
def largest (m : X) (xs : List X) : X := xs.foldl (fun m x => if m.lt x.abs then x.abs else m) m

/-- The largest magnitude is at least every other. -/
theorem largest_denotes {xs : List X} (hxs : ∀ x ∈ xs, ∃ q, x.Denotes q) {m : X} {a : ℚ} (hm : m.Denotes a) :
    ∃ b, (largest m xs).Denotes b ∧ a ≤ b ∧ (∀ x ∈ xs, ∀ q, x.Denotes q → |q| ≤ b) ∧
      (b = a ∨ ∃ x ∈ xs, ∃ q, x.Denotes q ∧ b = |q|) := by
  induction xs generalizing m a with
  | nil => exact ⟨a, hm, le_rfl, fun _ hx => absurd hx List.not_mem_nil, .inl rfl⟩
  | cons x xs ih =>
    obtain ⟨⟨q, hq⟩, hxs⟩ := List.forall_mem_cons.mp hxs
    have hunique (q' : ℚ) (hq' : x.Denotes q') : q' = q := Option.some.inj (hq'.value.symm.trans hq.value)
    rw [largest, List.foldl_cons]
    by_cases hlt : a < |q|
    · rw [if_pos ((hm.lt_iff hq.abs).mpr hlt)]
      obtain ⟨b, hb, hle, hall, hattained⟩ := ih hxs hq.abs
      refine ⟨b, hb, hlt.le.trans hle, List.forall_mem_cons.mpr ⟨fun q' hq' => hunique q' hq' ▸ hle, hall⟩, .inr ?_⟩
      obtain rfl | ⟨y, hy, r, hr, hbr⟩ := hattained
      · exact ⟨x, List.mem_cons_self, q, hq, rfl⟩
      · exact ⟨y, List.mem_cons_of_mem x hy, r, hr, hbr⟩
    · rw [if_neg fun h => hlt ((hm.lt_iff hq.abs).mp h)]
      obtain ⟨b, hb, hle, hall, hattained⟩ := ih hxs hm
      refine ⟨b, hb, hle,
        List.forall_mem_cons.mpr ⟨fun q' hq' => hunique q' hq' ▸ (not_lt.mp hlt).trans hle, hall⟩, ?_⟩
      obtain hba | ⟨y, hy, r, hr, hbr⟩ := hattained
      · exact .inl hba
      · exact .inr ⟨y, List.mem_cons_of_mem x hy, r, hr, hbr⟩

theorem blockScale_special (ty : BscTy) {xs : List X} (h : ∃ x ∈ xs, valueOf x = none) :
    blockScale ty xs = (255, true, false) := by
  obtain ⟨x, hx, hnone⟩ := h
  unfold blockScale
  rw [if_pos]
  refine List.any_eq_true.mpr ⟨x, hx, ?_⟩
  cases x with
  | nan | inf => rfl
  | fin s n d e => cases hnone

/-- The scale of a block of finite values, from the largest magnitude. -/
theorem blockScale_finite (ty : BscTy) {xs : List X} (hxs : ∀ x ∈ xs, ∃ q, x.Denotes q) {s : Bool} {n : Int} {d : Nat}
    {e : Int} (h : largest (.zero false) xs = .fin s n d e) : blockScale ty xs = if n = 0 then (127, false, true)
      else ((max (ilog n.natAbs d + e - BscTy.emax ty + 127) 0).toNat,
        decide (ilog n.natAbs d + e - BscTy.emax ty + 127 < 0), false) := by
  unfold blockScale
  rw [if_neg]
  · unfold largest at h
    simp only [h]
  · rw [List.any_eq_true]
    rintro ⟨x, hx, hspecial⟩
    obtain ⟨q, t, m, c, f, rfl, -, -⟩ := hxs x hx
    cases hspecial

theorem blockScale_zero (ty : BscTy) {xs : List X} (hxs : ∀ x ∈ xs, x.Denotes 0) :
    blockScale ty xs = (127, false, true) := by
  have hfin : ∀ x ∈ xs, ∃ q, x.Denotes q := fun x hx => ⟨0, hxs x hx⟩
  obtain ⟨b, hb, -, -, hattained⟩ := largest_denotes hfin (X.denotes_zero false)
  have hb0 : b = 0 := by
    obtain rfl | ⟨x, hx, q, hq, rfl⟩ := hattained
    · rfl
    · rw [Option.some.inj (hq.value.symm.trans (hxs x hx).value), abs_zero]
  obtain ⟨s, n, d, e, hl, hd, hval⟩ := hb
  rw [blockScale_finite ty hfin hl, if_pos ((numerator_eq_zero hd hval).mpr hb0)]

/-- A block whose largest magnitude lies between 2^k and its double. -/
theorem blockScale_pow (ty : BscTy) {xs : List X} {k : Int} (hxs : ∀ x ∈ xs, ∃ q, x.Denotes q ∧ |q| < 2 ^ (k + 1))
    {x : X} {q : ℚ} (hx : x ∈ xs) (hq : x.Denotes q) (hk : 2 ^ k ≤ |q|) : blockScale ty xs =
      ((max (k + 127 - BscTy.emax ty) 0).toNat, decide (k + 127 - BscTy.emax ty < 0), false) := by
  have hfin : ∀ x ∈ xs, ∃ q, x.Denotes q := fun x hx => (hxs x hx).imp fun _ => And.left
  obtain ⟨b, hb, hnonneg, hall, hattained⟩ := largest_denotes hfin (X.denotes_zero false)
  have hlow : (2 : ℚ) ^ k ≤ b := hk.trans (hall x hx q hq)
  have hhigh : b < 2 ^ (k + 1) := by
    obtain rfl | ⟨y, hy, r, hr, rfl⟩ := hattained
    · positivity
    · obtain ⟨r', hr', hlt⟩ := hxs y hy
      rwa [Option.some.inj (hr.value.symm.trans hr'.value)]
  obtain ⟨s, n, d, e, hl, hd, hval⟩ := hb
  have hn : n ≠ 0 := fun hn => (zpow_pos two_pos k).not_ge ((numerator_eq_zero hd hval).mp hn ▸ hlow)
  have habs : (n.natAbs : ℚ) / d * 2 ^ e = b := by
    have hnum : 0 ≤ n := not_lt.mp fun hneg => hnonneg.not_gt ((numerator_neg hd hval).mp hneg)
    rw [← hval, Nat.cast_natAbs, abs_of_nonneg hnum]
  have hlog : ilog n.natAbs d + e = k :=
    ilog_eq (Int.natAbs_ne_zero.mpr hn) hd (habs.symm ▸ hlow) (habs.symm ▸ hhigh)
  rw [blockScale_finite ty hfin hl, if_neg hn, hlog, show k - BscTy.emax ty + 127 = k + 127 - BscTy.emax ty by ring]

/-! ## What the bodies give -/

section Bodies
variable {s : State} {u g m : Nat} {ls : List Nat} {h : Hdr} {d a : Reg} {mm : MaskNo}

/-- The operand words of the signers. -/
theorem words_marked : (ls.map (Agent.thread u g)).map (fun ag => (Safety.marked s u g m).reg ag a) =
    ls.map fun l => s.reg (.thread u g l) a := by
  rw [List.map_map]
  exact List.map_congr_left fun l _ => reg_marked s u g m l a

theorem fred_collected {op : FRedOp} {t : BitVec 2} (hs : Signed s u g m (.fred h d a mm op t) ls) :
    let v := fredValue op t (ls.map fun l => s.reg (.thread u g l) a)
    ∃ t, exec (.collectiveBody u g m) s = .next t ∧
      Collected s t u g ls h false d (fun _ => some v.toNat) (fun _ => codesOf f32 v.toNat) := by
  intro v
  refine collected_of_finish hs ?_ (fun hw => absurd hw Bool.false_ne_true)
  change bodyFred h d a op t _ _ = _
  rw [bodyFred, words_marked, List.map_map, floatRF_eq_codesOf]
  rfl

theorem fscan_collected {op : FRedOp} {t : BitVec 2} {excl : Bool} (hs : Signed s u g m (.fscan h d a mm op t excl) ls) :
    let v := fun l => fredValue op t ((ls.take (ls.idxOf l + if excl then 0 else 1)).map fun l => s.reg (.thread u g l) a)
    ∃ t, exec (.collectiveBody u g m) s = .next t ∧
      Collected s t u g ls h false d (fun l => some (v l).toNat) (fun l => codesOf f32 (v l).toNat) := by
  intro v
  have hindex (i : Nat) : (if excl then i else i + 1) = i + if excl then 0 else 1 := by cases excl <;> rfl
  have hplaces := map_idxOf_of_nodup (signed_nodup hs) fun i =>
    let w := fredValue op t ((ls.take (i + if excl then 0 else 1)).map fun l => s.reg (.thread u g l) a)
    (w.toNat, codesOf f32 w.toNat)
  refine collected_of_finish hs ?_ (fun hw => absurd hw Bool.false_ne_true)
  change bodyFscan h d a op t excl _ _ = _
  rw [bodyFscan, words_marked, List.length_map]
  refine congrArg _ (Eq.trans (List.map_congr_left fun i _ => ?_) hplaces.symm)
  dsimp only
  rw [hindex, ← List.map_take, floatRF_eq_codesOf]

theorem bscale_collected {ty : BscTy} {e : Nat} {clamp zero : Bool}
    (hscale : blockScale ty (ls.map fun l => xf (s.reg (.thread u g l) a)) = (e, clamp, zero))
    (hs : Signed s u g m (.bscale h d a mm ty) ls) :
    ∃ t, exec (.collectiveBody u g m) s = .next t ∧
      Collected s t u g ls h false d (fun _ => some e) (fun _ => ⟨false, zero, false, clamp⟩) := by
  have hblock : blockScale ty ((ls.map (Agent.thread u g)).map fun ag => xf ((Safety.marked s u g m).reg ag a)) =
      (e, clamp, zero) := by
    rw [← hscale, List.map_map]
    exact congrArg _ (List.map_congr_left fun l _ => congrArg xf (reg_marked s u g m l a))
  refine collected_of_finish hs ?_ (fun hw => absurd hw Bool.false_ne_true)
  change bodyBscale h d a ty _ _ = _
  rw [bodyBscale, hblock]
  dsimp only
  rw [List.map_map]
  rfl

/-- A result is as good as any other with the same low bits. -/
theorem collected_congr {t : State} {w64 : Bool} {v v' : Nat → Nat} {codes : Nat → CC}
    (hv : ∀ l ∈ ls, v l % 2 ^ (if w64 then 64 else 32) = v' l % 2 ^ (if w64 then 64 else 32))
    (hc : Collected s t u g ls h w64 d (fun l => some (v l)) codes) :
    Collected s t u g ls h w64 d (fun l => some (v' l)) codes :=
  { hc with dst := fun l hl hd => (hc.dst l hl hd).trans (hv l hl) }

theorem toNat_ofInt_of_nonneg {i : Int} (hi : 0 ≤ i) : (BitVec.ofInt 32 i).toNat = i.toNat % 2 ^ 32 := by
  obtain ⟨n, rfl⟩ := Int.eq_ofNat_of_zero_le hi
  rw [BitVec.ofInt_natCast, BitVec.toNat_ofNat, Int.toNat_natCast]

end Bodies

/-- Settles O28: the bodies write `fredValue` and `blockScale` of the members' operands; a sum denotes the sum of its terms,
a tree's inner values round to themselves, an extreme is one of the operands, and the scale is the logarithm of the largest
magnitude. -/
theorem floatCollectives : Obligations.FloatCollectives := by
  unfold Obligations.FloatCollectives
  intro s u g m ls h d a mm t x gets
  refine ⟨fun op => fred_collected, fun op excl => fscan_collected, ?sums, ?scale, fun ty => ⟨?zero, ?special⟩⟩
  case sums =>
    intro xs p hne h64 hval add
    have hp : ∀ w ∈ xs, (xf w).Denotes (p w) := fun w hw => xf_proper w _ (hval w hw)
    have hpt : ∀ w ∈ xs.take 32, (xf w).Denotes (p w) := fun w hw => hp w (List.mem_of_mem_take hw)
    have hpd : ∀ w ∈ xs.drop 32, (xf w).Denotes (p w) := fun w hw => hp w (List.mem_of_mem_drop hw)
    refine ⟨fun w r => ductSum_serial hp, fun k _ hlow hhigh => ductSum_tree_node hp hlow hhigh h64,
      ⟨_, (xsum_denotes hp).value, ductSum_exact hp, ductSum_run hp hne⟩, fun h32 => ?_,
      fredValue_extreme (mx := false) rfl t hne hp, fredValue_extreme (mx := true) rfl t hne hp⟩
    exact (ductSum_runs hp h32 h64).trans (congrArg₂ addf (ductSum_exact hpt).symm (ductSum_exact hpd).symm)
  case scale =>
    intro ty p hval k l hl hk hlt e hs
    have hp : ∀ j ∈ ls, (xf (x j)).Denotes (p j) := fun j hj => xf_proper _ _ (hval j hj)
    have he : e = k + 127 - BscTy.emax ty := by cases ty <;> rfl
    have hscale := blockScale_pow ty (xs := ls.map fun j => xf (x j))
      (List.forall_mem_map.mpr fun j hj => ⟨p j, hp j hj, hlt j hj⟩) (List.mem_map_of_mem hl) (hp l hl) hk
    obtain ⟨t, ht, hcollected⟩ := bscale_collected hscale hs
    rw [← he] at hcollected
    refine ⟨t, ht, collected_congr (fun _ _ => ?_) hcollected⟩
    rw [toNat_ofInt_of_nonneg (le_max_right e 0)]
    exact (Nat.mod_mod _ _).symm
  case zero =>
    intro hzero
    exact bscale_collected (blockScale_zero ty (List.forall_mem_map.mpr fun l hl => xf_proper _ _ (hzero l hl)))
  case special =>
    rintro ⟨l, hl, hnone⟩
    exact bscale_collected (blockScale_special ty ⟨_, List.mem_map_of_mem hl, hnone⟩)

end Sys2Proof.Machine
end

section
/-! SUPPORT. Conversions between number formats (R149, R150, R154 to R157, R159): the random values of stochastic rounding,
lists of rounded elements with their packing and codes, and the statement about CVT to CVTW. -/

namespace Sys2Proof.Machine

open Sys2Proof.Safety

/-! ## Random values (R6, R150) -/

/-- The rotation of R6 on numbers is that of words. -/
theorem rotl32_toNat (x : Word) (k : Nat) : rotl32 x.toNat k = (x.rotateLeft k).toNat := by
  have hk : k % 32 < 32 := Nat.mod_lt k (by norm_num)
  have hsplit : 2 ^ 32 = 2 ^ (32 - k % 32) * 2 ^ (k % 32) := by rw [← pow_add, Nat.sub_add_cancel hk.le]
  have hlow : x.toNat / 2 ^ (32 - k % 32) < 2 ^ (k % 32) := Nat.div_lt_of_lt_mul (hsplit ▸ x.isLt)
  have hhigh : x.toNat * 2 ^ (k % 32) % 2 ^ 32 = (x.toNat % 2 ^ (32 - k % 32)) <<< (k % 32) := by
    rw [hsplit, Nat.mul_mod_mul_right, Nat.shiftLeft_eq]
  rw [rotl32, BitVec.toNat_rotateLeft, Nat.shiftRight_eq_div_pow, Nat.shiftLeft_eq, hhigh,
    Nat.shiftLeft_add_eq_or_of_lt hlow]

/-- The random value of an element, in words (R150). -/
theorem srRandom_eq (key : DWord) (gid : Nat) (c : BitVec 40) (lane e : Nat) :
    srRandom key gid c lane e = ((high32 (mix64 (key ^^^ BitVec.ofNat 64 gid <<< 40 ^^^
      (c + BitVec.ofNat 40 e).setWidth 64))).rotateLeft (7 * lane % 32)).toNat % 65536 := by
  have hgid : BitVec.ofNat 64 (gid * 2 ^ 40) = BitVec.ofNat 64 gid <<< 40 := by
    rw [BitVec.shiftLeft_eq_mul_twoPow, BitVec.ofNat_mul, show BitVec.ofNat 64 (2 ^ 40) = BitVec.twoPow 64 40 by decide]
  rw [← rotl32_toNat, ← hgid, srRandom, BitVec.ofNat_toNat]

theorem State.rounding_fixed {s : State} {ag : Agent} {rnd : Rnd} (h : rnd ≠ .sr ∨ Agent.bursar ag = true) (n : Nat) :
    s.rounding ag rnd n = (s, List.replicate n 0) := by
  unfold State.rounding
  split
  · obtain h | h := h
    · exact absurd rfl h
    · cases h
  · rfl

/-! ## Lists of elements (R154) -/

theorem convAll_zeros (t : NumTy) (satf : Bool) (rnd : Rnd) (xs : List X) :
    convAll t satf rnd xs (List.replicate xs.length 0) = xs.map fun x => NumTy.round t x rnd 0 satf := by
  induction xs with
  | nil => rfl
  | cons x xs ih => exact congrArg (_ :: ·) ih

theorem convAll_randoms (t : NumTy) (satf : Bool) (rnd : Rnd) (xs : List X) (random : Nat → Nat) :
    convAll t satf rnd xs ((List.range xs.length).map random) =
      xs.mapIdx fun e x => NumTy.round t x rnd (random e) satf := by
  apply List.ext_getElem
  · simp [convAll]
  · intro e he he'
    simp [convAll]

theorem packAll_eq_foldr (w : Nat) (ys : List Rounded) :
    packAll w ys = ys.foldr (fun y r => y.bits + 2 ^ w * r) 0 := by
  induction ys with
  | nil => rfl
  | cons y ys ih => rw [packAll, ih, List.foldr_cons]

theorem convFlags_eq (t : NumTy) (ys : List Rounded) : convFlags t ys =
    ⟨ys.any (·.inexact), ys.all (fun y => (NumTy.toX t y.bits).isZero),
      (ys.head?.map (fun y => (NumTy.toX t y.bits).isNeg)).getD false, ys.any (·.clamp)⟩ := by
  cases ys with
  | nil => rfl
  | cons y ys => simp [convFlags, Function.comp_def]

/-! ## The conversions -/

section Convert
variable {s : State} {ag : Agent} {h : Hdr} {d : Reg} {satf wide : Bool} {rnd : Rnd} {t : NumTy} {xs : List X}

theorem State.convert_fixed (hrnd : rnd ≠ .sr ∨ Agent.bursar ag = true) :
    s.convert ag h wide d t satf rnd xs =
      let ys := xs.map fun x => NumTy.round t x rnd 0 satf
      s.result ag h wide d (packAll (NumTy.width t) ys) (convFlags t ys) := by
  simp only [State.convert, State.rounding_fixed hrnd, convAll_zeros]

theorem State.convert_stochastic (s : State) (u g l : Nat) :
    s.convert (.thread u g l) h wide d t satf .sr xs =
      let th := s.thr u g l
      let ys := xs.mapIdx fun e x =>
        NumTy.round t x .sr (srRandom (s.grp u g).srkey (s.groupId u g) th.conv l e) satf
      (s.setThr u g l { th with conv := th.conv + BitVec.ofNat 40 xs.length }).result (.thread u g l) h wide d
        (packAll (NumTy.width t) ys) (convFlags t ys) := by
  simp only [State.convert, State.rounding, convAll_randoms]

end Convert

/-- An operand of an integer or floating type fills its register or pair. -/
theorem regN_mod_width (s : State) (ag : Agent) (z : NumTy) (a : Reg)
    (hw : NumTy.width z = if NumTy.wide z then 64 else 32) :
    s.regN ag (NumTy.wide z) a % 2 ^ NumTy.width z = s.regN ag (NumTy.wide z) a :=
  Nat.mod_eq_of_lt (hw ▸ s.regN_lt ag _ a)

theorem unscale_eq (scl : Bool) (e : Nat) (x : X) :
    unscale scl e x = if scl = false then x else if e = 255 then .nan else x.mul (.dy 1 (127 - e)) := by
  cases scl <;> rfl

/-- Settles O24: every form is `State.convert` of its operands, whose random values, packing and codes are those said. -/
theorem conversionsRoundEachElement : Obligations.ConversionsRoundEachElement := by
  unfold Obligations.ConversionsRoundEachElement
  intro s ag h d a b satf scl rnd scaled value rounds four
  have executes {i : Instr} {wide : Bool} {t : NumTy} {xs : List X} (operands : Agent → State → List X)
      (hexec : exec i s = simple i (fun ag s => s.convert ag h wide d t satf rnd (operands ag s)) s)
      (hxs : operands ag s = xs) : rounds i wide t xs := by
    intro hex pack codes
    have hpack (ys : List Rounded) : packAll (NumTy.width t) ys = pack ys := packAll_eq_foldr _ ys
    have hcodes (ys : List Rounded) : convFlags t ys = codes ys := convFlags_eq t ys
    rw [hexec, simple_executes _ hex, hxs]
    refine ⟨fun hrnd => ?_, ?_⟩
    · simp only [State.convert_fixed hrnd, hpack, hcodes]
    · rintro u g l rfl rfl
      simp only [State.convert_stochastic, srRandom_eq, hpack, hcodes]
  have hscaled : (fun w => unscale scl ((s.reg ag b).toNat % 256) (xf w)) = scaled :=
    funext fun w => unscale_eq scl _ (xf w)
  refine ⟨fun t z => executes (fun ag s => _) rfl rfl, fun y => ?_, fun y => ?_, ?_, ?_⟩
  · cases y <;> exact executes _ rfl rfl
  · cases y <;> exact executes _ rfl (congrArg (List.map · _) hscaled)
  · exact executes _ rfl (congrArg (List.map · _) hscaled)
  · intro op q up down p
    have hvalue (z : NumTy) (hz : NumTy.width z = if NumTy.wide z then 64 else 32) :
        NumTy.toX z (s.regN ag (NumTy.wide z) a) = value z := by
      simp only [value, regN_mod_width s ag z a hz]
    have hn32 : X.int (s.regN ag false a) = value .n32 := by
      rw [← hvalue .n32 rfl]
      exact congrArg (fun n : Nat => X.int n) (Nat.mod_eq_of_lt (s.regN_lt ag false a)).symm
    cases op with
    | sf32 => exact executes _ rfl (congrArg (fun x : X => [x.mul up]) (hvalue .f32 rfl))
    | nf32 => exact executes _ rfl (congrArg (fun x : X => [x.mul up]) (hvalue .f32 rfl))
    | sf64 => exact executes _ rfl (congrArg (fun x : X => [x.mul up]) (hvalue .f64 rfl))
    | f32s => exact executes _ rfl (congrArg (fun x : X => [x.mul down]) (hvalue .s32 rfl))
    | f32n => exact executes _ rfl (congrArg (fun x : X => [x.mul down]) hn32)
    | f64s => exact executes _ rfl (congrArg (fun x : X => [x.mul down]) (hvalue .s64 rfl))

end Sys2Proof.Machine
end

section
/-! SUPPORT. UNPQ, I2I and SRSEED (R158, R160, R162): the integers that a pattern of w bits stands for, the registers that
unpacking fills, the seeding of a group, and the statement about them. -/

namespace Sys2Proof.Machine

open Sys2Proof.Safety

/-! ## Integer types of w bits (R4) -/

/-- The least integer of a type. -/
def leastOf (signed : Bool) (w : Nat) : Int := if signed then -(2 ^ (w - 1)) else 0

/-- The greatest integer of a type. -/
def greatestOf (signed : Bool) (w : Nat) : Int := if signed then 2 ^ (w - 1) - 1 else 2 ^ w - 1

/-- The integer that a pattern stands for. -/
def integerOf (signed : Bool) (w r : Nat) : Int := if signed then sgn w r else r

theorem leastOf_le_greatestOf (signed : Bool) (w : Nat) : leastOf signed w ≤ greatestOf signed w := by
  have htop : (0 : Int) < 2 ^ (w - 1) := by positivity
  have hall : (0 : Int) < 2 ^ w := by positivity
  unfold leastOf greatestOf
  split <;> omega

theorem wrapN_lt (w : Nat) (i : Int) : wrapN w i < 2 ^ w := (BitVec.ofInt w i).isLt

theorem cast_wrapN (w : Nat) (i : Int) : (wrapN w i : Int) = i % 2 ^ w := by
  rw [wrapN, Int.toNat_of_nonneg (Int.emod_nonneg _ (by positivity)), cast_two_pow]

section Width
variable {w : Nat} (hw : 0 < w) (signed : Bool) (i : Int)
include hw

theorem sgn_wrapN : sgn w (wrapN w i) = i.bmod (2 ^ w) := by
  rw [wrapN_eq_toNat, sgn_toNat hw, BitVec.toInt_ofInt]

theorem integerOf_wrapN_bounds :
    leastOf signed w ≤ integerOf signed w (wrapN w i) ∧ integerOf signed w (wrapN w i) ≤ greatestOf signed w := by
  have htop := two_pow_eq_top hw
  cases signed with
  | false =>
    have hlt := wrapN_lt w i
    simp only [integerOf, leastOf, greatestOf, Bool.false_eq_true, if_false, cast_two_pow]
    omega
  | true =>
    have hlo := Int.le_bmod (x := i) (m := 2 ^ w) (by positivity)
    have hhi := Int.bmod_lt (x := i) (m := 2 ^ w) (by positivity)
    simp only [integerOf, leastOf, greatestOf, if_true, sgn_wrapN hw, cast_two_pow]
    omega

/-- A pattern stands for its integer but for a multiple of 2^w. -/
theorem integerOf_wrapN_emod : (integerOf signed w (wrapN w i) - i) % 2 ^ w = 0 := by
  apply Int.emod_eq_zero_of_dvd
  cases signed with
  | false =>
    rw [integerOf, if_neg Bool.false_ne_true, cast_wrapN]
    exact Int.dvd_emod_sub_self
  | true =>
    rw [integerOf, if_pos rfl, sgn_wrapN hw, cast_two_pow]
    exact Int.dvd_bmod_sub_self

/-- An integer of the type is the one that its pattern stands for. -/
theorem integerOf_wrapN {i : Int} (hlo : leastOf signed w ≤ i) (hhi : i ≤ greatestOf signed w) :
    integerOf signed w (wrapN w i) = i := by
  have htop := two_pow_eq_top hw
  cases signed with
  | false =>
    simp only [leastOf, greatestOf, Bool.false_eq_true, if_false] at hlo hhi
    rw [integerOf, if_neg Bool.false_ne_true, cast_wrapN, Int.emod_eq_of_lt hlo (by omega)]
  | true =>
    simp only [leastOf, greatestOf, if_true, cast_two_pow] at hlo hhi
    rw [integerOf, if_pos rfl, sgn_wrapN hw, Int.bmod_eq_of_le (by omega) (by omega)]

/-- A wider type of the same signedness holds the integers of the narrower one. -/
theorem bounds_mono {v : Nat} (hwv : w ≤ v) :
    leastOf signed v ≤ leastOf signed w ∧ greatestOf signed w ≤ greatestOf signed v := by
  have htop : (2 : Int) ^ (w - 1) ≤ 2 ^ (v - 1) := pow_le_pow_right₀ (by norm_num) (by omega)
  have hall : (2 : Int) ^ w ≤ 2 ^ v := pow_le_pow_right₀ (by norm_num) hwv
  unfold leastOf greatestOf
  split <;> omega

end Width

/-! ## I2I (R160) -/

/-- What I2I makes of an integer: the nearest of the destination's, or the integer itself, still to be reduced. -/
def i2iSource (ds sat : Bool) (dw : Nat) (x : Int) : Int :=
  if sat then max (leastOf ds dw) (min (greatestOf ds dw) x) else x

theorem i2iValue_eq {dt st : I2ITy} {dw sw : Nat} {ds ss : Bool} (hd : I2ITy.shape dt = (dw, ds))
    (hs : I2ITy.shape st = (sw, ss)) (sat : Bool) (v : Nat) {x : Int} (hx : x = if ss then sgn sw v else (v % 2 ^ sw : Nat)) :
    i2iValue dt st sat v =
      (wrapN (if dw = 64 then 64 else 32) (integerOf ds dw (wrapN dw (i2iSource ds sat dw x))),
        sat && decide (x < leastOf ds dw ∨ greatestOf ds dw < x)) := by
  have hle := leastOf_le_greatestOf ds dw
  have hclamp : (if (sat && decide (x < leastOf ds dw)) = true then (leastOf ds dw, true)
      else if (sat && decide (greatestOf ds dw < x)) = true then (greatestOf ds dw, true) else (x, false)) =
      (i2iSource ds sat dw x, sat && decide (x < leastOf ds dw ∨ greatestOf ds dw < x)) := by
    unfold i2iSource
    cases sat with
    | false => rfl
    | true =>
      simp only [Bool.true_and, decide_eq_true_eq, if_true]
      split_ifs with hlo hhi
      · simp only [hlo, true_or, decide_true, Prod.mk.injEq, and_true]
        omega
      · simp only [hhi, or_true, decide_true, Prod.mk.injEq, and_true]
        omega
      · simp only [hlo, hhi, or_self, decide_false, Prod.mk.injEq, and_true]
        omega
  simp only [i2iValue, hd, hs, ← hx]
  exact congrArg (fun p : Int × Bool => (wrapN _ (integerOf ds dw (wrapN dw p.1)), p.2)) hclamp

/-- I2I writes the pattern, as wide as its destination, of an integer of its type: the clamped source, or one that differs
from it by a multiple of 2^dw. -/
theorem i2i_result {w dw : Nat} (hdw : 0 < dw) (hw : dw ≤ w) {ds sat : Bool} {x : Int} {r : Nat}
    (hr : r = wrapN w (integerOf ds dw (wrapN dw (i2iSource ds sat dw x)))) :
    leastOf ds dw ≤ integerOf ds w r ∧ integerOf ds w r ≤ greatestOf ds dw ∧
      (if sat then integerOf ds w r = max (leastOf ds dw) (min (greatestOf ds dw) x)
        else (integerOf ds w r - x) % 2 ^ dw = 0) := by
  have hle := leastOf_le_greatestOf ds dw
  obtain ⟨hlo, hhi⟩ := integerOf_wrapN_bounds hdw ds (i2iSource ds sat dw x)
  obtain ⟨hleast, hgreatest⟩ := bounds_mono hdw ds hw
  have hz : integerOf ds w r = integerOf ds dw (wrapN dw (i2iSource ds sat dw x)) := by
    rw [hr, integerOf_wrapN (by omega) ds (hleast.trans hlo) (hhi.trans hgreatest)]
  rw [hz]
  refine ⟨hlo, hhi, ?_⟩
  cases sat with
  | false => exact integerOf_wrapN_emod hdw ds x
  | true => exact integerOf_wrapN hdw ds (le_max_left _ _) (max_le hle (min_le_left _ _))

theorem I2ITy.wide_eq (t : I2ITy) : I2ITy.wide t = decide ((I2ITy.shape t).1 = 64) := by cases t <;> rfl

theorem i2i_executes {s : State} {ag : Agent} {h : Hdr} {d a : Reg} {dt st : I2ITy} {sat : Bool} {dw sw : Nat} {ds ss : Bool}
    (hex : Executes s ag (.i2i h d a dt st sat)) (hd : I2ITy.shape dt = (dw, ds)) (hs : I2ITy.shape st = (sw, ss))
    {v : Nat} (hv : v = s.regN ag (decide (sw = 64)) a) {x : Int} (hx : x = if ss then sgn sw v else (v % 2 ^ sw : Nat))
    {w : Nat} (hw : w = if dw = 64 then 64 else 32) {r : Nat}
    (hr : r = wrapN w (integerOf ds dw (wrapN dw (i2iSource ds sat dw x)))) :
    exec (.i2i h d a dt st sat) s = .next ((s.result ag h (decide (dw = 64)) d r
      ⟨false, decide (r = 0), nbit r (w - 1), sat && decide (x < leastOf ds dw ∨ greatestOf ds dw < x)⟩).advance ag) := by
  have hdwide : I2ITy.wide dt = decide (dw = 64) := by rw [I2ITy.wide_eq, hd]
  have hswide : I2ITy.wide st = decide (sw = 64) := by rw [I2ITy.wide_eq, hs]
  have hzero : (r % 2 ^ w == 0) = decide (r = 0) := by
    rw [Nat.mod_eq_of_lt (hr ▸ wrapN_lt _ _), beq_eq_decide]
  change simple _ _ s = _
  rw [simple_executes _ hex]
  simp only [hdwide, hswide, ← hv, i2iValue_eq hd hs sat v hx, ← hw, ← hr, resultFlags, decide_eq_true_eq, hzero]

/-! ## UNPQ (R158) -/

theorem convFlags_f32 (ys : List Rounded) : convFlags .f32 ys =
    ⟨ys.any (·.inexact), ys.all (fun y => (f32.toX y.bits).isZero), (f32.toX ((ys.map (·.bits)).headD 0)).isNeg,
      ys.any (·.clamp)⟩ := by
  cases ys with
  | nil => rfl
  | cons y ys => simp [convFlags, NumTy.toX, Function.comp_def]

/-- Element k of a packed register, times the scale 2^(e − 127) where SCL is set. -/
def unpacked (t : UnpTy) (scl : Bool) (w e k : Nat) : X :=
  let x := NumTy.toX (UnpTy.ty t) (bitf w (NumTy.width (UnpTy.ty t) * k) (NumTy.width (UnpTy.ty t)))
  if scl = false then x else if e = 255 then .nan else x.mul (.dy 1 ((e : Int) - 127))

theorem unpq_executes {s : State} {ag : Agent} {h : Hdr} {d a b : Reg} {t : UnpTy} {scl satf : Bool} {rnd : Rnd}
    (hex : Executes s ag (.unpq h d a b t scl satf rnd)) {ys : List Rounded}
    (hys : ys = ((List.range (UnpTy.count t)).map
      (unpacked t scl (s.reg ag a).toNat ((s.reg ag b).toNat % 256))).map fun x => f32.round x rnd 0 satf) :
    exec (.unpq h d a b t scl satf rnd) s =
      .next (((s.setRun ag d (ys.map fun y => BitVec.ofNat 32 y.bits)).flagIf ag h (convFlags .f32 ys)).advance ag) := by
  change simple _ _ s = _
  rw [simple_executes _ hex]
  dsimp only
  rw [convAll_zeros, hys]
  cases scl <;> rfl

/-! ## SRSEED (R162) -/

section Seed
variable {s : State} {u g l : Nat}

theorem GroupStep.srkey {t : State} (h : GroupStep u g s t) : (t.grp u g).srkey = (s.grp u g).srkey := by
  have hrest : (t.grp u g).rest.srkey = (s.grp u g).rest.srkey := by rw [h.group]
  exact hrest

/-- Stepping on changes nothing of a thread but its PC and its park. -/
theorem State.thr_advance (hs : Still s (.thread u g l)) (j : Nat) :
    ∃ p q, (s.advance (.thread u g l)).thr u g j = { s.thr u g j with pc := p, park := q } := by
  by_cases hm : (s.thr u g l).meet = nextPc (s.thr u g l).pc
  · obtain ⟨r, hr, hadv⟩ := State.advance_meeting hs hm
    obtain ⟨q, hq⟩ := State.thr_meetings r u g j
    rw [hadv, hq, hr.thr]
    split
    · next hj => exact ⟨_, _, by rw [hj]⟩
    · exact ⟨_, _, rfl⟩
  · rw [(laneStep_advance hm).thr]
    split
    · next hj => exact ⟨_, _, by rw [hj]⟩
    · exact ⟨_, _, rfl⟩

/-- The group of a lane, seeded: a new key, and the count of every thread cleared. -/
def Group.seeded (k : Group) (key : DWord) : Group :=
  { k with srkey := key, threads := k.threads.map fun e => (e.1, { e.2 with conv := 0 }) }

theorem Group.thr_seeded (k : Group) (key : DWord) (j : Nat) : (k.seeded key).thr j = { k.thr j with conv := 0 } :=
  Group.thr_map (k := { k with srkey := key }) (f := fun e => (e.1, { e.2 with conv := 0 })) (fun _ => rfl) j rfl

theorem srseed_executes {h : Hdr} {a : Reg} (hex : Executes s (.thread u g l) (.srseed h a)) :
    exec (.srseed h a) s = .next ((s.setGrp u g ((s.grp u g).seeded (s.reg64 (.thread u g l) a))).advance (.thread u g l)) := by
  change execSrseed h a s = _
  rw [execSrseed, cohort_executes hex]
  rfl

/-- SRSEED's lane leaves its group seeded, but for the PCs and parks of stepping on. -/
theorem srseed_seeds {h : Hdr} {a : Reg} (hex : Executes s (.thread u g l) (.srseed h a)) (hs : Still s (.thread u g l)) :
    ∃ t, exec (.srseed h a) s = .next t ∧ (t.grp u g).srkey = s.reg64 (.thread u g l) a ∧
      (∀ j, (s.thr u g j).exited = false → (t.thr u g j).conv = 0 ∧ (t.thr u g j).regs = (s.thr u g j).regs) ∧
      t.pc (.thread u g l) = nextPc (s.pc (.thread u g l)) ∧ SameMemory s t := by
  refine ⟨_, srseed_executes hex, ?_⟩
  have hmem := sameMemory_setGrp s u g ((s.grp u g).seeded (s.reg64 (.thread u g l) a))
  have hgrp := s.grp_setGrp u g ((s.grp u g).seeded (s.reg64 (.thread u g l) a))
  have hstill : Still (s.setGrp u g ((s.grp u g).seeded (s.reg64 (.thread u g l) a))) (.thread u g l) := hs
  generalize s.setGrp u g ((s.grp u g).seeded (s.reg64 (.thread u g l) a)) = r at hmem hgrp hstill ⊢
  have hthr (j : Nat) : r.thr u g j = { s.thr u g j with conv := 0 } := by
    rw [State.thr, hgrp, Group.thr_seeded]
    rfl
  obtain ⟨hstep, p, hp⟩ := State.advance_still hstill
  refine ⟨?_, fun j _ => ?_, ?_, sameMemory_trans hmem hstep.memory⟩
  · rw [hstep.srkey, hgrp]
    rfl
  · obtain ⟨p, q, hj⟩ := State.thr_advance hstill j
    rw [hj, hthr]
    exact ⟨rfl, rfl⟩
  · change ((r.advance (.thread u g l)).thr u g l).pc = nextPc (s.thr u g l).pc
    rw [hp, hthr]

end Seed

/-- Settles O25: UNPQ writes its run of rounded elements; I2I's pattern is that of an integer of its type; and SRSEED's
group is the seeded one, of which stepping on changes only PCs and parks. -/
theorem integerConversionAndSeed : Obligations.IntegerConversionAndSeed := by
  unfold Obligations.IntegerConversionAndSeed
  refine ⟨fun s ag h d a b => ⟨?unpq, ?i2i⟩, ?srseed⟩
  case unpq =>
    intro ty scl satf rnd hex p e ys
    have hys : ys = ((List.range (UnpTy.count ty)).map (unpacked ty scl (s.reg ag a).toNat e)).map fun x =>
        f32.round x rnd 0 satf := by
      rw [List.map_map]
      cases ty <;> rfl
    rw [unpq_executes hex hys, convFlags_f32]
  case i2i =>
    intro dt st sat hex shape dw sw ds ss v x lo hi w
    have hd : I2ITy.shape dt = (dw, ds) := by cases dt <;> rfl
    have hs : I2ITy.shape st = (sw, ss) := by cases st <;> rfl
    have hdw : 0 < dw ∧ dw ≤ w := by cases dt <;> decide
    clear_value dw sw ds ss
    obtain ⟨r, hr⟩ : ∃ r, r = wrapN w (integerOf ds dw (wrapN dw (i2iSource ds sat dw x))) := ⟨_, rfl⟩
    have hlt : r < 2 ^ w := hr ▸ wrapN_lt _ _
    exact ⟨r, i2i_executes hex hd hs rfl rfl rfl hr, hlt, i2i_result hdw.1 hdw.2 hr⟩
  case srseed => exact fun s u g l h a => srseed_seeds

end Sys2Proof.Machine
end

section
/-! SUPPORT. The magnitudes of a floating type (R142): what each encoding of a type of Table 7-1 stands for, and that the
encodings of one sign stand for magnitudes in their order. -/

namespace Sys2Proof.Machine

open Sys2Proof.Safety

/-! ## The magnitudes of a type (R142) -/

namespace FFmt
variable (f : FFmt)

/-- The numerator of the magnitude that the encoding m stands for. -/
def units (m : Nat) : Nat := if m / 2 ^ f.mb = 0 then m % 2 ^ f.mb else 2 ^ f.mb + m % 2 ^ f.mb

/-- The exponent of that numerator's last place. -/
def place (m : Nat) : Int := (if m / 2 ^ f.mb = 0 then 1 else ((m / 2 ^ f.mb : Nat) : Int)) - f.bias - f.mb

/-- The magnitude that the encoding m stands for, as if exponents had no end. -/
def mag (m : Nat) : ℚ := f.units m * 2 ^ f.place m

/-- A magnitude's encoding with a sign. -/
def signed (neg : Bool) (m : Nat) : Nat := (if neg then f.signBit else 0) + m

/-- Does the encoding m stand for an infinity or a NaN? -/
def special (m : Nat) : Prop :=
  f.ieee = true ∧ m / 2 ^ f.mb = 2 ^ f.eb - 1 ∨ f.nanTop = true ∧ m / 2 ^ f.mb = 15 ∧ m % 2 ^ f.mb = 7

variable {f}

/-- k units of an exponent's last place are a magnitude of the type, unless k lacks the leading one above the least
exponent. -/
theorem mag_eq {E k : Nat} (hk : k ≤ 2 ^ (f.mb + 1)) (hsub : k < 2 ^ f.mb → E = 0) :
    f.mag (E * 2 ^ f.mb + k) = k * 2 ^ ((E : Int) + 1 - f.bias - f.mb) := by
  have hpos : 0 < 2 ^ f.mb := by positivity
  have hdouble : 2 ^ (f.mb + 1) = 2 * 2 ^ f.mb := pow_succ' 2 f.mb
  by_cases hlow : k < 2 ^ f.mb
  · obtain rfl := hsub hlow
    simp only [mag, units, place, Nat.zero_mul, Nat.div_eq_of_lt hlow, Nat.mod_eq_of_lt hlow, if_true,
      Nat.cast_zero, zero_add]
  · obtain ⟨j, rfl⟩ := Nat.exists_eq_add_of_le (not_lt.mp hlow)
    have hsum : E * 2 ^ f.mb + (2 ^ f.mb + j) = (E + 1) * 2 ^ f.mb + j := by ring
    by_cases hj : j < 2 ^ f.mb
    · have hdiv : ((E + 1) * 2 ^ f.mb + j) / 2 ^ f.mb = E + 1 := by
        rw [add_comm, Nat.add_mul_div_right _ _ hpos, Nat.div_eq_of_lt hj, zero_add]
      have hmod : ((E + 1) * 2 ^ f.mb + j) % 2 ^ f.mb = j := by
        rw [add_comm, Nat.add_mul_mod_self_right, Nat.mod_eq_of_lt hj]
      rw [hsum]
      simp only [mag, units, place, hdiv, hmod, Nat.succ_ne_zero, if_false, Nat.cast_add_one]
    · obtain rfl : j = 2 ^ f.mb := by omega
      have hsum' : (E + 1) * 2 ^ f.mb + 2 ^ f.mb = (E + 2) * 2 ^ f.mb := by ring
      rw [hsum, hsum']
      simp only [mag, units, place, Nat.mul_div_cancel _ hpos, Nat.mul_mod_left, Nat.succ_ne_zero, if_false, add_zero]
      have hplace : (((E + 2 : Nat) : Int) - f.bias - f.mb) = 1 + ((E : Int) + 1 - f.bias - f.mb) := by push_cast; ring
      rw [hplace, zpow_add₀ two_ne_zero]
      push_cast
      ring

theorem mag_strictMono : StrictMono f.mag := by
  refine strictMono_nat_of_lt_succ fun m => ?_
  have hdouble : 2 ^ (f.mb + 1) = 2 * 2 ^ f.mb := pow_succ' 2 f.mb
  have hmod : m % 2 ^ f.mb < 2 ^ f.mb := Nat.mod_lt _ (by positivity)
  have hm := Nat.div_add_mod' m (2 ^ f.mb)
  obtain ⟨E, k, rfl, hk, hsub⟩ : ∃ E k, m = E * 2 ^ f.mb + k ∧ k < 2 ^ (f.mb + 1) ∧ (k < 2 ^ f.mb → E = 0) := by
    by_cases h0 : m / 2 ^ f.mb = 0
    · rw [h0, zero_mul, zero_add] at hm
      exact ⟨0, m, by simp, by omega, fun _ => rfl⟩
    · obtain ⟨E, hE⟩ := Nat.exists_eq_succ_of_ne_zero h0
      rw [hE, Nat.succ_mul] at hm
      exact ⟨E, 2 ^ f.mb + m % 2 ^ f.mb, by omega, by omega, by omega⟩
  rw [mag_eq hk.le hsub, add_assoc, mag_eq hk (fun h => hsub (by omega))]
  refine mul_lt_mul_of_pos_right ?_ (by positivity)
  exact_mod_cast Nat.lt_succ_self k

theorem mag_nonneg (m : Nat) : 0 ≤ f.mag m := mul_nonneg (Nat.cast_nonneg _) (by positivity)

/-! ## The encodings of a type (Table 7-1) -/

theorem signed_fields (neg : Bool) {m : Nat} (hm : m < f.signBit) :
    nbit (f.signed neg m) (f.eb + f.mb) = neg ∧ bitf (f.signed neg m) f.mb f.eb = m / 2 ^ f.mb ∧
      bitf (f.signed neg m) 0 f.mb = m % 2 ^ f.mb := by
  have hbit : f.signBit = 2 ^ f.eb * 2 ^ f.mb := pow_add 2 f.eb f.mb
  have hsigned : f.signed neg m = m + b2n neg * 2 ^ f.eb * 2 ^ f.mb := by
    rw [signed, hbit, b2n]
    split <;> ring
  have hexp : m / 2 ^ f.mb < 2 ^ f.eb := by
    rw [hbit, mul_comm] at hm
    exact Nat.div_lt_of_lt_mul hm
  have hdiv : f.signed neg m / 2 ^ f.mb = m / 2 ^ f.mb + b2n neg * 2 ^ f.eb := by
    rw [hsigned, Nat.add_mul_div_right _ _ (by positivity)]
  refine ⟨?_, ?_, ?_⟩
  · rw [nbit, add_comm f.eb, pow_add, ← Nat.div_div_eq_div_mul, hdiv, Nat.add_mul_div_right _ _ (by positivity),
      Nat.div_eq_of_lt hexp]
    cases neg <;> rfl
  · rw [bitf, hdiv, Nat.add_mul_mod_self_right, Nat.mod_eq_of_lt hexp]
  · rw [bitf, pow_zero, Nat.div_one, hsigned, Nat.add_mul_mod_self_right]

theorem toX_signed_special (neg : Bool) {m : Nat} (hm : m < f.signBit) (h : f.special m) :
    valueOf (f.toX (f.signed neg m)) = none := by
  obtain ⟨-, hexp, hfrac⟩ := signed_fields neg hm
  unfold toX
  simp only [hexp, hfrac]
  obtain ⟨hi, he⟩ | ⟨hn, he, hf⟩ := h
  · rw [if_pos (by simp [hi, he])]
    split <;> rfl
  · split
    · split <;> rfl
    · rw [if_pos (by simp [hn, he, hf])]
      rfl

theorem toX_signed (neg : Bool) {m : Nat} (hm : m < f.signBit) (h : ¬ f.special m) :
    f.toX (f.signed neg m) = .fin neg (if neg then -(f.units m : Int) else f.units m) 1 (f.place m) := by
  obtain ⟨hsign, hexp, hfrac⟩ := signed_fields neg hm
  have hinf : (f.ieee && m / 2 ^ f.mb == 2 ^ f.eb - 1) = false := by
    rw [Bool.and_eq_false_imp]
    exact fun hi => beq_eq_false_iff_ne.mpr fun he => h (.inl ⟨hi, he⟩)
  have hnan : (f.nanTop && m / 2 ^ f.mb == 15 && m % 2 ^ f.mb == 7) = false := by
    rw [Bool.eq_false_iff]
    intro hand
    simp only [Bool.and_eq_true, beq_iff_eq, and_assoc] at hand
    exact h (.inr hand)
  unfold toX
  simp only [hsign, hexp, hfrac, hinf, hnan, Bool.false_eq_true, if_false]
  rfl

theorem exists_signed {c : Nat} (hc : c < 2 ^ (1 + f.eb + f.mb)) : ∃ neg m, m < f.signBit ∧ c = f.signed neg m := by
  have htwice : 2 ^ (1 + f.eb + f.mb) = 2 * f.signBit := by rw [signBit, add_assoc, pow_add, pow_one]
  by_cases h : c < f.signBit
  · exact ⟨false, c, h, by simp [signed]⟩
  · exact ⟨true, c - f.signBit, by omega, by simp only [signed, if_true]; omega⟩

end FFmt

/-- The types of Table 7-1. -/
abbrev FFmt.Listed (f : FFmt) : Prop := f ∈ [f64, f32, f16, bf16, e4m3, e5m2, e2m1]

theorem FFmt.listed_parameters : ∀ f : FFmt, f.Listed → 0 < f.mb ∧ 0 < f.eb ∧ f.maxEnc < f.signBit ∧
    (f.ieee = true ∨ f = e4m3 ∨ f = e2m1) := by decide

/-- The encodings that stand for no number are those beyond the largest magnitude's. -/
theorem FFmt.Listed.special_iff {f : FFmt} (hf : f.Listed) {m : Nat} (hm : m < f.signBit) :
    f.special m ↔ f.maxEnc < m := by
  obtain ⟨hmb, heb, -, hieee | rfl | rfl⟩ := f.listed_parameters hf
  · have hexp : m / 2 ^ f.mb < 2 ^ f.eb := by
      rw [FFmt.signBit, pow_add, mul_comm] at hm
      exact Nat.div_lt_of_lt_mul hm
    have htop : 0 < (2 ^ f.eb - 1) * 2 ^ f.mb :=
      Nat.mul_pos (Nat.sub_pos_of_lt (Nat.one_lt_two_pow heb.ne')) (by positivity)
    have hle : 2 ^ f.eb - 1 ≤ m / 2 ^ f.mb ↔ (2 ^ f.eb - 1) * 2 ^ f.mb ≤ m := Nat.le_div_iff_mul_le (by positivity)
    simp only [FFmt.special, FFmt.maxEnc, FFmt.nanTop, hieee, true_and, Bool.not_true, Bool.false_and, Bool.false_eq_true,
      false_and, or_false, if_true]
    omega
  · simp only [FFmt.signBit, e4m3] at hm
    simp [FFmt.special, FFmt.maxEnc, FFmt.nanTop, e4m3]
    omega
  · simp only [FFmt.signBit, e2m1] at hm
    simp [FFmt.special, FFmt.maxEnc, FFmt.nanTop, e2m1]
    omega

/-- The value with a sign and a magnitude. -/
def withSign (neg : Bool) (q : ℚ) : ℚ := if neg then -q else q

theorem abs_withSign (neg : Bool) {q : ℚ} (hq : 0 ≤ q) : |withSign neg q| = q := by
  unfold withSign
  split
  · rw [abs_neg, abs_of_nonneg hq]
  · exact abs_of_nonneg hq

theorem withSign_abs {neg : Bool} {q : ℚ} (h : neg = true ↔ q < 0) : withSign neg |q| = q := by
  unfold withSign
  split
  · next hneg => rw [abs_of_neg (h.mp hneg), neg_neg]
  · next hneg => exact abs_of_nonneg (not_lt.mp fun hq => hneg (h.mpr hq))

namespace FFmt.Listed
variable {f : FFmt} (hf : f.Listed)
include hf

theorem toX_finite (neg : Bool) {m : Nat} (hm : m ≤ f.maxEnc) :
    f.toX (f.signed neg m) = .fin neg (if neg then -(f.units m : Int) else f.units m) 1 (f.place m) := by
  obtain ⟨-, -, hlt, -⟩ := f.listed_parameters hf
  have hm' := hm.trans_lt hlt
  exact toX_signed neg hm' fun h => hm.not_gt ((hf.special_iff hm').mp h)

theorem value_finite (neg : Bool) {m : Nat} (hm : m ≤ f.maxEnc) :
    valueOf (f.toX (f.signed neg m)) = some (withSign neg (f.mag m)) := by
  rw [hf.toX_finite neg hm, valueOf, withSign, mag]
  cases neg <;> simp

theorem isNeg_finite (neg : Bool) {m : Nat} (hm : m ≤ f.maxEnc) : (f.toX (f.signed neg m)).isNeg = neg := by
  rw [hf.toX_finite neg hm, X.isNeg]
  cases neg <;> simp
  omega

/-- Every number of the type is a magnitude up to the largest, with a sign. -/
theorem value_cases {c : Nat} (hc : c < 2 ^ (1 + f.eb + f.mb)) {z : ℚ} (hz : valueOf (f.toX c) = some z) :
    ∃ m, m ≤ f.maxEnc ∧ |z| = f.mag m := by
  obtain ⟨neg, m, hm, rfl⟩ := exists_signed hc
  have hle : m ≤ f.maxEnc := by
    by_contra hgt
    rw [toX_signed_special neg hm ((hf.special_iff hm).mpr (not_le.mp hgt))] at hz
    cases hz
  rw [hf.value_finite neg hle] at hz
  obtain rfl := Option.some.inj hz
  exact ⟨m, hle, abs_withSign neg (mag_nonneg m)⟩

end FFmt.Listed

end Sys2Proof.Machine
end

section
/-! SUPPORT. The choice between two neighbours (R145, R151): where each mode takes the upper one, and that the one it takes is
preferred to every value that does not lie between them. -/

namespace Sys2Proof.Machine

open Sys2Proof.Safety

/-! ## The neighbour that a mode takes -/

/-- The neighbour that RoundTo takes: the lower one, k, or the next. -/
def neighbour (mode : Rnd) (neg : Bool) (rnd k r u : Nat) : Nat := if roundUp mode neg rnd k r u then k + 1 else k

/-- Of the lower neighbour, the choice depends on the parity alone. -/
theorem roundUp_congr (mode : Rnd) (neg : Bool) (rnd : Nat) {k m : Nat} (r u : Nat) (h : k % 2 = m % 2) :
    roundUp mode neg rnd k r u = roundUp mode neg rnd m r u := by
  simp only [roundUp, h]

theorem add_neighbour {mode : Rnd} {neg : Bool} {rnd k r u b : Nat} (hb : b % 2 = 0) :
    b + neighbour mode neg rnd k r u = neighbour mode neg rnd (b + k) r u := by
  have h : k % 2 = (b + k) % 2 := by omega
  rw [neighbour, neighbour, roundUp_congr _ _ _ _ _ h]
  split <;> omega

theorem fraction_bounds {r u : Nat} (h : r < u) : 0 ≤ (r : ℚ) / u ∧ (r : ℚ) / u < 1 := by
  have hu : (0 : ℚ) < u := by exact_mod_cast r.zero_le.trans_lt h
  exact ⟨by positivity, (div_lt_one hu).mpr (by exact_mod_cast h)⟩

theorem fraction_eq_zero {r u : Nat} (h : r < u) : (r : ℚ) / u = 0 ↔ r = 0 := by
  have hu : (u : ℚ) ≠ 0 := by exact_mod_cast (r.zero_le.trans_lt h).ne'
  simp [hu]

/-- Where a mode takes the upper neighbour: t is the discarded part, as a fraction of the gap. -/
def RoundsUp (mode : Rnd) (neg : Bool) (rnd k : Nat) (t : ℚ) : Prop :=
  match mode with
  | .rn => 1 / 2 < t ∨ t = 1 / 2 ∧ k % 2 = 1
  | .rna => 1 / 2 ≤ t
  | .rz => False
  | .rp => t ≠ 0 ∧ neg = false
  | .rm => t ≠ 0 ∧ neg = true
  | .sr => t ≠ 0 ∧ 65536 ≤ ⌊t * 65536⌋ + (rnd : Int)

theorem roundUp_iff {mode : Rnd} {neg : Bool} {rnd k r u : Nat} (hru : r < u) :
    roundUp mode neg rnd k r u = true ↔ RoundsUp mode neg rnd k ((r : ℚ) / u) := by
  have hu : (0 : ℚ) < u := by exact_mod_cast r.zero_le.trans_lt hru
  have hzero := fraction_eq_zero hru
  have hhalf : 1 / 2 < (r : ℚ) / u ↔ u < 2 * r := by
    rw [div_lt_div_iff₀ two_pos hu]
    norm_cast
    omega
  have htie : (r : ℚ) / u = 1 / 2 ↔ 2 * r = u := by
    rw [div_eq_div_iff hu.ne' two_ne_zero]
    norm_cast
    omega
  have hhalf' : 1 / 2 ≤ (r : ℚ) / u ↔ u ≤ 2 * r := by
    rw [div_le_div_iff₀ two_pos hu]
    norm_cast
    omega
  have hfloor : ⌊(r : ℚ) / u * 65536⌋ = ((r * 65536 / u : Nat) : Int) := by
    have hmul : (r : ℚ) / u * 65536 = ((r * 65536 : Nat) : Int) / ((u : Nat) : ℚ) := by push_cast; ring
    rw [hmul, Rat.floor_intCast_div_natCast]
    rfl
  unfold roundUp RoundsUp
  by_cases hr : r = 0
  · rw [if_pos hr, hzero.mpr hr]
    cases mode <;> norm_num
  · rw [if_neg hr]
    cases mode with
    | rn => simp only [Bool.or_eq_true, Bool.and_eq_true, decide_eq_true_eq, beq_iff_eq, hhalf, htie]
    | rna => simp only [decide_eq_true_eq, hhalf']
    | rz => simp
    | rp => simp [hzero, hr]
    | rm => simp [hzero, hr]
    | sr =>
      simp only [decide_eq_true_eq, ne_eq, hzero, hr, not_false_eq_true, true_and, hfloor]
      norm_cast

/-- The mode that chooses for −v what another chooses for v. -/
def mirrored : Rnd → Rnd
  | .rp => .rm
  | .rm => .rp
  | m => m

/-- For v, the mode prefers y to z, or finds no difference; `even` says that y has an even encoding. -/
def Prefers (mode : Rnd) (even : Prop) (v y z : ℚ) : Prop :=
  match mode with
  | .rn => |y - v| ≤ |z - v| ∧ (|y - v| = |z - v| → z = y ∨ even)
  | .rna => |y - v| ≤ |z - v| ∧ (|y - v| = |z - v| → |z| ≤ |y|)
  | .rz => |y| ≤ |v| ∧ 0 ≤ y * v ∧ (|z| ≤ |v| → 0 ≤ z * v → |z| ≤ |y|)
  | .rp => v ≤ y ∧ (v ≤ z → y ≤ z)
  | .rm => y ≤ v ∧ (z ≤ v → z ≤ y)
  | .sr => True

theorem prefers_neg {mode : Rnd} {even : Prop} {v y z : ℚ} :
    Prefers (mirrored mode) even (-v) (-y) (-z) ↔ Prefers mode even v y z := by
  have habs (a : ℚ) : |-a + v| = |a - v| := by rw [neg_add_eq_sub, abs_sub_comm]
  cases mode <;> simp [Prefers, mirrored, habs]

theorem roundUp_mirrored (mode : Rnd) (neg : Bool) (rnd k r u : Nat) :
    roundUp (mirrored mode) (!neg) rnd k r u = roundUp mode neg rnd k r u := by
  cases mode <;> simp [roundUp, mirrored]

theorem neighbour_mirrored (mode : Rnd) (neg : Bool) (rnd k r u : Nat) :
    neighbour (mirrored mode) (!neg) rnd k r u = neighbour mode neg rnd k r u := by
  rw [neighbour, neighbour, roundUp_mirrored]

theorem neighbour_cases {mode : Rnd} {neg : Bool} {rnd k r u : Nat} (hru : r < u) :
    (RoundsUp mode neg rnd k ((r : ℚ) / u) ∧ neighbour mode neg rnd k r u = k + 1) ∨
      (¬ RoundsUp mode neg rnd k ((r : ℚ) / u) ∧ neighbour mode neg rnd k r u = k) := by
  rw [← roundUp_iff hru, neighbour]
  split
  · next h => exact .inl ⟨h, rfl⟩
  · next h => exact .inr ⟨h, rfl⟩

theorem neighbour_rz (neg : Bool) (rnd k r u : Nat) : neighbour .rz neg rnd k r u = k := by
  rw [neighbour, roundUp]
  split <;> rfl

section Positive
variable {lo hi t v z : ℚ} (hlo : 0 ≤ lo) (hgap : lo < hi) (ht0 : 0 ≤ t) (ht1 : t < 1) (hv : v = lo + t * (hi - lo))
  (hpos : 0 < v) (hz : |z| ≤ lo ∨ hi ≤ |z|)
include hgap hv

theorem fraction_half : (1 / 2 < t ↔ hi - v < v - lo) ∧ (t = 1 / 2 ↔ v - lo = hi - v) ∧
    (t < 1 / 2 ↔ v - lo < hi - v) ∧ (t = 0 ↔ v = lo) := by
  have hd : 0 < hi - lo := sub_pos.mpr hgap
  have h1 : v - lo = t * (hi - lo) := by rw [hv]; ring
  have h2 : hi - v = (1 - t) * (hi - lo) := by rw [hv]; ring
  rw [h1, h2, mul_lt_mul_iff_left₀ hd, mul_left_inj' hd.ne', mul_lt_mul_iff_left₀ hd, hv, add_eq_left,
    mul_eq_zero_iff_right hd.ne']
  refine ⟨?_, ?_, ?_, Iff.rfl⟩ <;> constructor <;> intro h <;> linarith

include ht0 ht1

theorem between_lt : lo ≤ v ∧ v < hi := by
  have hd : 0 < hi - lo := sub_pos.mpr hgap
  have h0 : 0 ≤ t * (hi - lo) := mul_nonneg ht0 hd.le
  have h1 : t * (hi - lo) < 1 * (hi - lo) := mul_lt_mul_of_pos_right ht1 hd
  constructor <;> linarith

include hpos hz

/-- A value that does not lie between the neighbours is not above the lower, not below the upper, or beyond the other sign's
upper. -/
theorem outside_cases :
    (-lo ≤ z ∧ z ≤ lo ∧ |z - v| = v - z) ∨ (hi ≤ z ∧ |z - v| = z - v) ∨ (z ≤ -hi ∧ |z - v| = v - z) := by
  obtain ⟨hlov, hvhi⟩ := between_lt hgap ht0 ht1 hv
  obtain hz | hz := hz
  · obtain ⟨h1, h2⟩ := abs_le.mp hz
    exact .inl ⟨h1, h2, by rw [abs_sub_comm, abs_of_nonneg (by linarith)]⟩
  · obtain hz | hz := le_abs.mp hz
    · exact .inr (.inl ⟨hz, abs_of_nonneg (by linarith)⟩)
    · exact .inr (.inr ⟨by linarith, by rw [abs_sub_comm, abs_of_nonneg (by linarith)]⟩)

include hlo in
theorem upper_nearest (h : hi - v ≤ v - lo) : |hi - v| ≤ |z - v| ∧ (|hi - v| = |z - v| → |z| ≤ |hi|) ∧
    (hi - v < v - lo → |hi - v| = |z - v| → z = hi) := by
  obtain ⟨hlov, hvhi⟩ := between_lt hgap ht0 ht1 hv
  rw [abs_of_nonneg (sub_nonneg.mpr hvhi.le), abs_of_nonneg (hlo.trans hgap.le), abs_le]
  obtain ⟨h1, h2, hd⟩ | ⟨h1, hd⟩ | ⟨h1, hd⟩ := outside_cases hgap ht0 ht1 hv hpos hz <;> rw [hd] <;>
    refine ⟨by linarith, fun heq => ⟨by linarith, by linarith⟩, fun hlt heq => by linarith⟩

theorem lower_nearest (h : v - lo ≤ hi - v) :
    |lo - v| ≤ |z - v| ∧ (v - lo < hi - v → |lo - v| = |z - v| → z = lo) := by
  obtain ⟨hlov, hvhi⟩ := between_lt hgap ht0 ht1 hv
  rw [abs_sub_comm lo, abs_of_nonneg (sub_nonneg.mpr hlov)]
  obtain ⟨h1, h2, hd⟩ | ⟨h1, hd⟩ | ⟨h1, hd⟩ := outside_cases hgap ht0 ht1 hv hpos hz <;> rw [hd] <;>
    exact ⟨by linarith, fun hlt heq => by linarith⟩

include hlo in
/-- Of two neighbours of v > 0, the mode's choice is preferred to every value that does not lie between them. -/
theorem prefers_of_pos {mode : Rnd} {k rnd : Nat} {y : ℚ} {even : Prop}
    (hup : RoundsUp mode false rnd k t → y = hi ∧ (k % 2 = 1 → even))
    (hdown : ¬ RoundsUp mode false rnd k t → y = lo ∧ (k % 2 = 0 → even)) : Prefers mode even v y z := by
  obtain ⟨hhalf, htie, hbelow, hzero⟩ := fraction_half hgap hv
  obtain ⟨hlov, hvhi⟩ := between_lt hgap ht0 ht1 hv
  have hout := outside_cases hgap ht0 ht1 hv hpos hz
  by_cases hr : RoundsUp mode false rnd k t
  · obtain ⟨rfl, heven⟩ := hup hr
    have hupper := upper_nearest hlo hgap ht0 ht1 hv hpos hz
    cases mode with
    | rn =>
      obtain hlt | ⟨heq, hodd⟩ := hr
      · obtain ⟨hle, -, hunique⟩ := hupper (hhalf.mp hlt).le
        exact ⟨hle, fun h => .inl (hunique (hhalf.mp hlt) h)⟩
      · exact ⟨(hupper (htie.mp heq).ge).1, fun _ => .inr (heven hodd)⟩
    | rna =>
      have hle : y - v ≤ v - lo := by
        obtain hlt | heq := lt_or_eq_of_le hr
        · exact (hhalf.mp hlt).le
        · exact (htie.mp heq.symm).ge
      exact ⟨(hupper hle).1, (hupper hle).2.1⟩
    | rz => exact hr.elim
    | rp =>
      have hne : v ≠ lo := fun h => hr.1 (hzero.mpr h)
      have hlt := lt_of_le_of_ne hlov hne.symm
      refine ⟨hvhi.le, fun hvz => ?_⟩
      obtain ⟨h1, h2, -⟩ | ⟨h1, -⟩ | ⟨h1, -⟩ := hout <;> linarith
    | rm => exact absurd hr.2 Bool.false_ne_true
    | sr => trivial
  · obtain ⟨rfl, heven⟩ := hdown hr
    have hlower := lower_nearest hgap ht0 ht1 hv hpos hz
    cases mode with
    | rn =>
      obtain hlt | heq | hgt := lt_trichotomy t (1 / 2)
      · obtain ⟨hle, hunique⟩ := hlower (hbelow.mp hlt).le
        exact ⟨hle, fun h => .inl (hunique (hbelow.mp hlt) h)⟩
      · have hkeven : k % 2 = 0 := (Nat.mod_two_eq_zero_or_one k).resolve_right fun hodd => hr (.inr ⟨heq, hodd⟩)
        exact ⟨(hlower (htie.mp heq).le).1, fun _ => .inr (heven hkeven)⟩
      · exact absurd (.inl hgt) hr
    | rna =>
      have hlt := hbelow.mp (not_le.mp hr)
      obtain ⟨hle, hunique⟩ := hlower hlt.le
      exact ⟨hle, fun h => (congrArg _ (hunique hlt h)).le⟩
    | rz =>
      rw [Prefers, abs_of_nonneg hlo, abs_of_pos hpos]
      refine ⟨hlov, mul_nonneg hlo hpos.le, fun hzv _ => hz.resolve_right fun h => by linarith⟩
    | rp =>
      have ht : t = 0 := by_contra fun ht => hr ⟨ht, rfl⟩
      rw [hzero.mp ht]
      exact ⟨le_refl _, id⟩
    | rm =>
      refine ⟨hlov, fun hzv => ?_⟩
      obtain ⟨h1, h2, -⟩ | ⟨h1, -⟩ | ⟨h1, -⟩ := hout <;> linarith
    | sr => trivial

end Positive

end Sys2Proof.Machine
end

section
/-! SUPPORT. RoundTo (R145, R146, R151): the two magnitudes of a type, or the two integers, between which a value lies; and the
statement about what RoundTo makes of a finite value. -/

namespace Sys2Proof.Machine

open Sys2Proof.Safety

/-! ## A magnitude in units of a power of two -/

theorem inUnits_spec (n : Nat) {d : Nat} (hd : d ≠ 0) (e q : Int) : ∃ k r u : Nat, inUnits n d e q = (k, r, u) ∧ r < u ∧
    (n : ℚ) / d * 2 ^ e = (k + (r : ℚ) / u) * 2 ^ q := by
  have hparts (a b : Nat) (hb : b ≠ 0) : (a : ℚ) / b = ((a / b : Nat) : ℚ) + ((a % b : Nat) : ℚ) / b := by
    have hb' : (b : ℚ) ≠ 0 := Nat.cast_ne_zero.mpr hb
    rw [div_eq_iff hb', add_mul, div_mul_cancel₀ _ hb']
    exact_mod_cast (Nat.div_add_mod' a b).symm
  by_cases hqe : q ≤ e
  · refine ⟨_, _, _, if_pos hqe, Nat.mod_lt _ (Nat.pos_of_ne_zero hd), ?_⟩
    rw [← hparts _ _ hd, ← two_pow_toNat_mul hqe]
    push_cast
    ring
  · have hb : d * 2 ^ (q - e).toNat ≠ 0 := mul_ne_zero hd (pow_ne_zero _ two_ne_zero)
    refine ⟨_, _, _, if_neg hqe, Nat.mod_lt _ (Nat.pos_of_ne_zero hb), ?_⟩
    rw [← hparts _ _ hb, ← two_pow_toNat_mul (not_le.mp hqe).le]
    push_cast
    field_simp

/-! ## The two neighbours of a value (R145) -/

/-- The magnitude of q lies r / u of the way from the type's magnitude m to the next. -/
structure FFmt.Between (f : FFmt) (q : ℚ) (m r u : Nat) : Prop where
  lt : r < u
  eq : |q| = f.mag m + (r : ℚ) / u * (f.mag (m + 1) - f.mag m)

/-- In units of the place that RoundTo takes, a magnitude has at most one bit more than the type's fraction, and just that
many above the least exponent. -/
theorem FFmt.units_range {f : FFmt} {a d : Nat} (ha : a ≠ 0) (hd : d ≠ 0) {e q : Int}
    (hq : q = max (ilog a d + e) (1 - (f.bias : Int)) - f.mb) {k : Nat} {t : ℚ} (ht0 : 0 ≤ t) (ht1 : t < 1)
    (hvalue : (a : ℚ) / d * 2 ^ e = (k + t) * 2 ^ q) :
    k < 2 ^ (f.mb + 1) ∧ (k < 2 ^ f.mb → q = 1 - (f.bias : Int) - f.mb) := by
  obtain ⟨hlow, hhigh⟩ := ilog_spec ha hd
  have hpos : (0 : ℚ) < 2 ^ q := by positivity
  constructor
  · have hlt : (k + t) * 2 ^ q < 2 ^ (f.mb + 1) * 2 ^ q := by
      rw [← hvalue, ← zpow_natCast, ← zpow_add₀ two_ne_zero]
      calc (a : ℚ) / d * 2 ^ e < 2 ^ (ilog a d + 1) * 2 ^ e := by gcongr
        _ = 2 ^ (ilog a d + 1 + e) := (zpow_add₀ two_ne_zero _ _).symm
        _ ≤ 2 ^ (((f.mb + 1 : Nat) : Int) + q) := zpow_le_zpow_right₀ one_le_two (by push_cast; omega)
    exact_mod_cast (le_add_of_nonneg_right ht0).trans_lt (lt_of_mul_lt_mul_right hlt hpos.le)
  · intro hfew
    by_contra hplace
    have hle : 2 ^ f.mb * 2 ^ q ≤ (k + t) * 2 ^ q := by
      rw [← hvalue, ← zpow_natCast, ← zpow_add₀ two_ne_zero]
      calc (2 : ℚ) ^ ((f.mb : Int) + q) = 2 ^ ilog a d * 2 ^ e := by rw [← zpow_add₀ two_ne_zero]; congr 1; omega
        _ ≤ a / d * 2 ^ e := by gcongr
    have hle' := le_of_mul_le_mul_right hle hpos
    have hnext : ((2 ^ f.mb : Nat) : ℚ) < ((k + 1 : Nat) : ℚ) := by push_cast; linarith
    have := Nat.cast_lt.mp hnext
    omega

/-- RoundTo of a value that is not zero finds its two neighbours among the magnitudes of the type, and gives the one that
the mode chooses, if the type has it. -/
theorem FFmt.round_between {f : FFmt} (hmb : 0 < f.mb) (sg : Bool) {n : Int} {d : Nat} (e : Int) (hn : n ≠ 0) (hd : d ≠ 0) :
    ∃ m r u, f.Between ((n : ℚ) / d * 2 ^ e) m r u ∧ ∀ mode rnd satf,
      neighbour mode (decide (n < 0)) rnd m r u ≤ f.maxEnc → f.round (.fin sg n d e) mode rnd satf =
        ⟨f.signed (decide (n < 0)) (neighbour mode (decide (n < 0)) rnd m r u), decide (r ≠ 0), false⟩ := by
  have ha : n.natAbs ≠ 0 := Int.natAbs_ne_zero.mpr hn
  obtain ⟨q, hq⟩ : ∃ q, q = max (ilog n.natAbs d + e) (1 - (f.bias : Int)) - f.mb := ⟨_, rfl⟩
  obtain ⟨k, r, u, hunits, hru, hvalue⟩ := inUnits_spec n.natAbs hd e q
  obtain ⟨E, hE⟩ : ∃ E : Nat, q = (E : Int) + 1 - f.bias - f.mb := ⟨(q + f.mb + f.bias - 1).toNat, by omega⟩
  obtain ⟨hk, hleast⟩ := f.units_range ha hd hq (fraction_bounds hru).1 (fraction_bounds hru).2 hvalue
  have hsub : k < 2 ^ f.mb → E = 0 := fun hlt => by
    have := hleast hlt
    omega
  have hmag : f.mag (E * 2 ^ f.mb + k) = k * 2 ^ q := hE ▸ mag_eq hk.le hsub
  have hmag' : f.mag (E * 2 ^ f.mb + k + 1) = (k + 1) * 2 ^ q := by
    rw [add_assoc, mag_eq hk fun h => hsub (by omega), ← hE, Nat.cast_add_one]
  have habs : |(n : ℚ) / d * 2 ^ e| = (k + (r : ℚ) / u) * 2 ^ q := by
    rw [← hvalue, abs_mul, abs_div, Nat.abs_cast, abs_zpow, abs_two, ← Int.cast_abs, Nat.cast_natAbs]
  refine ⟨E * 2 ^ f.mb + k, r, u, ⟨hru, by rw [habs, hmag, hmag']; ring⟩, fun mode rnd satf hmax => ?_⟩
  have heven : E * 2 ^ f.mb % 2 = 0 := by
    rw [← Nat.succ_pred_eq_of_pos hmb, pow_succ, ← mul_assoc, Nat.mul_mod_left]
  rw [← add_neighbour heven] at hmax ⊢
  have hneg : (X.fin sg n d e).isNeg = decide (n < 0) := if_neg hn
  have henc : (q + f.mb + f.bias - 1) * 2 ^ f.mb + ((neighbour mode (decide (n < 0)) rnd k r u : Nat) : Int) =
      ((E * 2 ^ f.mb + neighbour mode (decide (n < 0)) rnd k r u : Nat) : Int) := by
    rw [hE]
    push_cast
    ring
  simp only [round, if_neg ha, hneg, ← hq, hunits]
  rw [← neighbour, henc, if_pos (by exact_mod_cast hmax), Int.toNat_natCast, signed]

namespace FFmt.Between
variable {f : FFmt} {q : ℚ} {m r u : Nat} (h : f.Between q m r u)
include h

theorem le_abs : f.mag m ≤ |q| ∧ |q| < f.mag (m + 1) :=
  between_lt (mag_strictMono (Nat.lt_succ_self m)) (fraction_bounds h.lt).1 (fraction_bounds h.lt).2 h.eq

/-- The value is the lower neighbour's when nothing is left. -/
theorem eq_lower_iff : r = 0 ↔ |q| = f.mag m := by
  rw [← fraction_eq_zero h.lt]
  exact (fraction_half (mag_strictMono (Nat.lt_succ_self m)) h.eq).2.2.2

/-- Below a magnitude of the type, both neighbours are at most it, unless the value is the magnitude. -/
theorem lt_of_inexact {M : Nat} (hM : |q| ≤ f.mag M) (hr : r ≠ 0) : m < M := by
  refine mag_strictMono.lt_iff_lt.mp (lt_of_lt_of_le ?_ hM)
  exact lt_of_le_of_ne h.le_abs.1 fun heq => hr (h.eq_lower_iff.mpr heq.symm)

theorem neighbour_le {M : Nat} (hM : |q| ≤ f.mag M) (mode : Rnd) (neg : Bool) (rnd : Nat) :
    neighbour mode neg rnd m r u ≤ M := by
  by_cases hr : r = 0
  · subst hr
    exact mag_strictMono.le_iff_le.mp (h.le_abs.1.trans hM)
  · have hlt := h.lt_of_inexact hM hr
    unfold neighbour
    split <;> omega

/-- Of the type's values, the mode prefers the neighbour that it takes. -/
theorem prefers (hq : q ≠ 0) {neg : Bool} (hneg : neg = true ↔ q < 0) (mode : Rnd) (rnd : Nat) {z : ℚ} {c : Nat}
    (hz : |z| = f.mag c) {even : Prop} (heven : neighbour mode neg rnd m r u % 2 = 0 → even) :
    Prefers mode even q (withSign neg (f.mag (neighbour mode neg rnd m r u))) z := by
  have hpositive (mode : Rnd) (z : ℚ) (hz : |z| = f.mag c) (heven : neighbour mode false rnd m r u % 2 = 0 → even) :
      Prefers mode even |q| (f.mag (neighbour mode false rnd m r u)) z := by
    have hout : |z| ≤ f.mag m ∨ f.mag (m + 1) ≤ |z| := by
      rw [hz]
      exact (Nat.lt_or_ge m c).symm.imp (fun hle => mag_strictMono.monotone hle) fun hlt => mag_strictMono.monotone hlt
    refine prefers_of_pos (k := m) (rnd := rnd) (mag_nonneg m) (mag_strictMono (Nat.lt_succ_self m)) (fraction_bounds h.lt).1
      (fraction_bounds h.lt).2 h.eq (abs_pos.mpr hq) hout (fun hup => ?_) (fun hdown => ?_)
    · obtain ⟨-, hn⟩ | ⟨hdown, -⟩ := neighbour_cases (mode := mode) (neg := false) (rnd := rnd) (k := m) h.lt
      · rw [hn] at heven ⊢
        exact ⟨rfl, fun hodd => heven (by omega)⟩
      · exact absurd hup hdown
    · obtain ⟨hup, -⟩ | ⟨-, hn⟩ := neighbour_cases (mode := mode) (neg := false) (rnd := rnd) (k := m) h.lt
      · exact absurd hup hdown
      · rw [hn] at heven ⊢
        exact ⟨rfl, heven⟩
  rw [← withSign_abs hneg]
  cases neg with
  | false => exact hpositive mode z hz heven
  | true =>
    rw [← prefers_neg]
    rw [← neighbour_mirrored] at heven ⊢
    simp only [withSign, if_true, neg_neg, Bool.not_true] at heven ⊢
    exact hpositive (mirrored mode) (-z) (by rw [abs_neg, hz]) heven

end FFmt.Between

/-! ## RoundTo of a floating type -/

namespace FFmt.Listed
variable {f : FFmt} (hf : f.Listed)
include hf

theorem even_signed {neg : Bool} {m : Nat} (h : m % 2 = 0) : f.signed neg m % 2 = 0 := by
  obtain ⟨hmb, heb, -⟩ := f.listed_parameters hf
  have heven : f.signBit % 2 = 0 := by
    rw [signBit, ← Nat.succ_pred_eq_of_pos (Nat.add_pos_left heb f.mb), pow_succ, Nat.mul_mod_left]
  unfold signed
  split <;> omega

/-- The value of the largest encoding is the largest magnitude. -/
theorem le_of_le_top {v : ℚ} (h : ∃ top, valueOf (f.toX f.maxEnc) = some top ∧ |v| ≤ top) : |v| ≤ f.mag f.maxEnc := by
  obtain ⟨top, htop, hle⟩ := h
  have hvalue := hf.value_finite false (le_refl f.maxEnc)
  have hsigned : f.signed false f.maxEnc = f.maxEnc := Nat.zero_add _
  rw [hsigned, htop] at hvalue
  exact hle.trans_eq (Option.some.inj hvalue)

end FFmt.Listed

section Float
variable {f : FFmt} (hf : f.Listed) {v : ℚ} {m r u : Nat} (hb : f.Between v m r u) {neg : Bool}
  (hmax : |v| ≤ f.mag f.maxEnc)
include hf hb hmax

/-- The encoding that RoundTo gives is the one that the mode chooses among all encodings of the type. -/
theorem neighbour_chosen (hv : v ≠ 0) (hneg : neg = true ↔ v < 0) (mode : Rnd) (rnd : Nat) :
    Chosen (fun b => valueOf (f.toX b)) (2 ^ (1 + f.eb + f.mb)) mode v (f.signed neg (neighbour mode neg rnd m r u)) := by
  refine ⟨_, hf.value_finite neg (hb.neighbour_le hmax mode neg rnd), fun c z hc hz => ?_⟩
  obtain ⟨k, -, hk⟩ := hf.value_cases hc hz
  have hprefers := hb.prefers hv hneg mode rnd hk (hf.even_signed (neg := neg))
  cases mode <;> exact hprefers

/-- The neighbour towards zero is the value itself just when nothing is discarded. -/
theorem value_lower (hneg : neg = true ↔ v < 0) : valueOf (f.toX (f.signed neg m)) = some v ↔ r = 0 := by
  have hle := hb.neighbour_le hmax .rz neg 0
  rw [neighbour_rz] at hle
  rw [hf.value_finite neg hle, Option.some_inj, hb.eq_lower_iff]
  constructor
  · rintro rfl
    exact abs_withSign neg (FFmt.mag_nonneg m)
  · intro h
    rw [← h, withSign_abs hneg]

/-- Under sr the neighbour towards zero or the next is taken, by the discarded part's top 16 bits and the random value. -/
theorem neighbour_stochastic (hneg : neg = true ↔ v < 0) (rnd : Nat) {lo hi : ℚ}
    (hlo : valueOf (f.toX (f.signed neg m)) = some lo) (hhi : valueOf (f.toX (f.signed neg m + 1)) = some hi) :
    (lo = v → f.signed neg (neighbour .sr neg rnd m r u) = f.signed neg m) ∧
      (lo ≠ v → f.signed neg (neighbour .sr neg rnd m r u) =
        if 65536 ≤ ⌊(|v| - |lo|) / (|hi| - |lo|) * 65536⌋ + (rnd : Int) then f.signed neg m + 1 else f.signed neg m) := by
  have hzero := value_lower hf hb hmax hneg
  rw [hlo, Option.some_inj] at hzero
  refine ⟨fun h => ?_, fun h => ?_⟩
  · obtain rfl := hzero.mp h
    rfl
  · have hr : r ≠ 0 := fun hr => h (hzero.mpr hr)
    have hlt := hb.lt_of_inexact hmax hr
    have hloabs : |lo| = f.mag m := by
      rw [hf.value_finite neg hlt.le] at hlo
      rw [← Option.some.inj hlo, abs_withSign neg (FFmt.mag_nonneg m)]
    have hhiabs : |hi| = f.mag (m + 1) := by
      rw [FFmt.signed, add_assoc, ← FFmt.signed, hf.value_finite neg hlt] at hhi
      rw [← Option.some.inj hhi, abs_withSign neg (FFmt.mag_nonneg _)]
    have hgap : f.mag (m + 1) - f.mag m ≠ 0 := (sub_pos.mpr (FFmt.mag_strictMono (Nat.lt_succ_self m))).ne'
    have hfraction : (|v| - |lo|) / (|hi| - |lo|) = (r : ℚ) / u := by
      rw [hloabs, hhiabs, hb.eq, add_sub_cancel_left, mul_div_cancel_right₀ _ hgap]
    have hup : RoundsUp .sr neg rnd m ((r : ℚ) / u) ↔ 65536 ≤ ⌊(r : ℚ) / u * 65536⌋ + (rnd : Int) :=
      and_iff_right fun h0 => hr ((fraction_eq_zero hb.lt).mp h0)
    rw [hfraction, neighbour]
    simp only [roundUp_iff hb.lt, hup]
    split <;> rfl

end Float

/-! ## RoundTo of an integer or fixed-point type (R145, R146) -/

/-- Does the mode choose the integer k for v? -/
def ChoosesInteger (mode : Rnd) (v : ℚ) (k : Int) : Prop :=
  match mode with
  | .rn => |(k : ℚ) - v| ≤ 1 / 2 ∧ (|(k : ℚ) - v| = 1 / 2 → k % 2 = 0)
  | .rna => |(k : ℚ) - v| ≤ 1 / 2 ∧ (|(k : ℚ) - v| = 1 / 2 → |v| < |(k : ℚ)|)
  | .rz => |(k : ℚ)| ≤ |v| ∧ |(k : ℚ) - v| < 1
  | .rp => v ≤ k ∧ (k : ℚ) < v + 1
  | .rm => (k : ℚ) ≤ v ∧ v < k + 1
  | .sr => True

theorem choosesInteger_neg {mode : Rnd} {v : ℚ} {k : Int} :
    ChoosesInteger (mirrored mode) (-v) (-k) ↔ ChoosesInteger mode v k := by
  have habs : |(-k : ℚ) - -v| = |(k : ℚ) - v| := by rw [neg_sub_neg, abs_sub_comm]
  have hrp : (k : ℚ) ≤ v ∧ v < k + 1 ↔ -v ≤ -k ∧ (-k : ℚ) < -v + 1 :=
    and_congr neg_le_neg_iff.symm ⟨fun h => by linarith, fun h => by linarith⟩
  have hrm : v ≤ k ∧ (k : ℚ) < v + 1 ↔ (-k : ℚ) ≤ -v ∧ -v < -k + 1 :=
    and_congr neg_le_neg_iff.symm ⟨fun h => by linarith, fun h => by linarith⟩
  unfold ChoosesInteger
  rw [Int.cast_neg, habs, abs_neg, abs_neg, Int.neg_emod_two]
  cases mode with
  | rn | rna | rz | sr => exact Iff.rfl
  | rp => exact hrm.symm
  | rm => exact hrp.symm

theorem choosesInteger_of_nonneg {v : ℚ} {k r u : Nat} (hru : r < u) (hv : v = k + (r : ℚ) / u) (mode : Rnd) (rnd : Nat) :
    ChoosesInteger mode v (neighbour mode false rnd k r u : Nat) := by
  obtain ⟨ht0, ht1⟩ := fraction_bounds hru
  have hk : (0 : ℚ) ≤ k := Nat.cast_nonneg k
  have hcases := neighbour_cases (mode := mode) (neg := false) (rnd := rnd) (k := k) hru
  generalize (r : ℚ) / u = t at *
  have hv0 : 0 ≤ v := by linarith
  have hupper : |((k + 1 : Nat) : ℚ) - v| = 1 - t := by
    rw [hv, Nat.cast_add_one, abs_of_nonneg (by linarith)]
    ring
  have hlower : |(k : ℚ) - v| = t := by
    rw [hv, sub_add_cancel_left, abs_neg, abs_of_nonneg ht0]
  unfold ChoosesInteger
  obtain ⟨hup, hn⟩ | ⟨hdown, hn⟩ := hcases <;> rw [hn, Int.cast_natCast, abs_of_nonneg hv0, Nat.abs_cast]
  · rw [hupper]
    have hnext : ((k + 1 : Nat) : ℚ) = k + 1 := Nat.cast_add_one k
    cases mode with
    | rn =>
      obtain hlt | ⟨heq, hodd⟩ := hup
      · exact ⟨by linarith, fun h => by linarith⟩
      · exact ⟨by linarith, fun _ => by omega⟩
    | rna =>
      have hhalf : 1 / 2 ≤ t := hup
      exact ⟨by linarith, fun _ => by linarith⟩
    | rz => exact hup.elim
    | rp =>
      have hpos : 0 < t := lt_of_le_of_ne ht0 (Ne.symm hup.1)
      exact ⟨by linarith, by linarith⟩
    | rm => exact absurd hup.2 Bool.false_ne_true
    | sr => trivial
  · rw [hlower]
    cases mode with
    | rn =>
      have hle : t ≤ 1 / 2 := not_lt.mp fun h => hdown (.inl h)
      refine ⟨hle, fun heq => ?_⟩
      have heven : ¬ k % 2 = 1 := fun hodd => hdown (.inr ⟨heq, hodd⟩)
      omega
    | rna =>
      have hlt : t < 1 / 2 := not_le.mp hdown
      exact ⟨hlt.le, fun h => absurd h hlt.ne⟩
    | rz => exact ⟨by linarith, ht1⟩
    | rp =>
      have ht : t = 0 := by_contra fun h => hdown ⟨h, rfl⟩
      exact ⟨by linarith, by linarith⟩
    | rm => exact ⟨by linarith, by linarith⟩
    | sr => trivial

theorem choosesInteger_neighbour {v : ℚ} {k r u : Nat} (hru : r < u) (hv : |v| = k + (r : ℚ) / u) {neg : Bool}
    (hneg : neg = true ↔ v < 0) (mode : Rnd) (rnd : Nat) :
    ChoosesInteger mode v (if neg then -(neighbour mode neg rnd k r u : Int) else neighbour mode neg rnd k r u) := by
  cases neg with
  | false =>
    rw [← withSign_abs hneg]
    exact choosesInteger_of_nonneg hru hv mode rnd
  | true =>
    rw [← choosesInteger_neg, ← neighbour_mirrored, if_pos rfl, neg_neg, ← abs_of_neg (hneg.mp rfl)]
    exact choosesInteger_of_nonneg hru hv (mirrored mode) rnd

/-- The pattern of an integer, or of the nearer bound. -/
theorem clamped_rounded {w : Nat} {lo hi z : Int} {i : Bool} (hle : lo ≤ hi) {r : Rounded}
    (hr : r = if z < lo then ⟨wrapN w lo, true, true⟩
      else if hi < z then ⟨wrapN w hi, true, true⟩ else ⟨wrapN w z, i, false⟩) :
    r.bits = wrapN w (max lo (min hi z)) ∧ r.clamp = decide (z < lo ∨ hi < z) := by
  rw [hr]
  split_ifs with hlo hhi
  · exact ⟨by rw [max_eq_left (by omega)], by simp [hlo]⟩
  · exact ⟨by rw [min_eq_left (by omega), max_eq_right hle], by simp [hhi]⟩
  · exact ⟨by rw [min_eq_right (by omega), max_eq_right (by omega)], by simp [hlo, hhi]⟩

/-- RoundTo of a finite value for an integer or fixed-point type: the integer that the mode chooses for it in units, clamped
to the type's bounds. -/
theorem roundFix_fin (w fb : Nat) (signed sg : Bool) (n : Int) {d : Nat} (hd : d ≠ 0) (e : Int) (mode : Rnd) :
    ∃ k : Int, ChoosesInteger mode ((n : ℚ) / d * 2 ^ e * 2 ^ fb) k ∧
      (roundFix w signed fb (.fin sg n d e) mode 0).bits = wrapN w (max (leastOf signed w) (min (greatestOf signed w) k)) ∧
      (roundFix w signed fb (.fin sg n d e) mode 0).clamp = decide (k < leastOf signed w ∨ greatestOf signed w < k) := by
  obtain ⟨k, r, u, hunits, hru, hvalue⟩ := inUnits_spec n.natAbs hd e (-(fb : Int))
  have hscale : (n : ℚ) / d * 2 ^ e * 2 ^ fb = n / d * 2 ^ (e + fb) := by
    rw [zpow_add₀ two_ne_zero, zpow_natCast, mul_assoc]
  have habs : |(n : ℚ) / d * 2 ^ e * 2 ^ fb| = k + (r : ℚ) / u := by
    rw [abs_mul, abs_mul, abs_div, Nat.abs_cast, abs_zpow, abs_pow, abs_two, ← Int.cast_abs, ← Nat.cast_natAbs, hvalue,
      mul_assoc, ← zpow_natCast, ← zpow_add₀ two_ne_zero, neg_add_cancel, zpow_zero, mul_one]
  have hneg : decide (n < 0) = true ↔ (n : ℚ) / d * 2 ^ e * 2 ^ fb < 0 := by
    rw [decide_eq_true_iff, hscale]
    exact numerator_neg hd rfl
  refine ⟨_, choosesInteger_neighbour hru habs hneg mode 0, ?_⟩
  have hle := leastOf_le_greatestOf signed w
  simp only [roundFix, hunits]
  rw [← neighbour]
  generalize (if decide (n < 0) = true then -(neighbour mode (decide (n < 0)) 0 k r u : Int)
    else (neighbour mode (decide (n < 0)) 0 k r u : Int)) = z
  exact clamped_rounded hle rfl

/-- Settles O19: a value's neighbours are two magnitudes of its type, one after the other, of which RoundTo takes the one that
the mode prefers; an integer type's are two integers, and the choice is clamped to its bounds. -/
theorem roundToChoosesTheNeighbour : Obligations.RoundToChoosesTheNeighbour := by
  unfold Obligations.RoundToChoosesTheNeighbour
  refine ⟨?float, ?fixed⟩
  case float =>
    intro f sg satf n d e mode rnd hf hn hd _ x v r val htop
    have hlisted : f.Listed := hf
    obtain ⟨hmb, -⟩ := f.listed_parameters hf
    have hmax : |v| ≤ f.mag f.maxEnc := hlisted.le_of_le_top htop
    obtain ⟨m, p, u, hb, hround⟩ := f.round_between hmb sg e hn hd
    have hneg : decide (n < 0) = true ↔ v < 0 := decide_eq_true_iff.trans (numerator_neg hd rfl)
    have hv : v ≠ 0 := fun h => hn ((numerator_eq_zero hd rfl).mpr h)
    have hresult (mode : Rnd) (rnd : Nat) (satf : Bool) : f.round x mode rnd satf =
        ⟨f.signed (decide (n < 0)) (neighbour mode (decide (n < 0)) rnd m p u), decide (p ≠ 0), false⟩ :=
      hround mode rnd satf (hb.neighbour_le hmax mode _ rnd)
    have hrz : (f.round x .rz 0 satf).bits = f.signed (decide (n < 0)) m := by rw [hresult, neighbour_rz]
    have hr : r = _ := hresult mode rnd satf
    rw [hr, hrz]
    refine ⟨fun _ => neighbour_chosen hlisted hb hmax hv hneg mode rnd,
      hlisted.isNeg_finite _ (hb.neighbour_le hmax mode _ rnd), ?_, rfl, ?_⟩
    · exact decide_eq_decide.mpr (not_congr (value_lower hlisted hb hmax hneg).symm)
    · rintro rfl b lo hi hlo hhi
      exact neighbour_stochastic hlisted hb hmax hneg rnd hlo hhi
  case fixed =>
    intro w fb signed sg n d e mode _ hd _ v lo hi r
    obtain ⟨k, hk, hbits, hclamp⟩ := roundFix_fin w fb signed sg n hd e mode
    refine ⟨⟨k, ?_, hbits, hclamp⟩, rfl, rfl⟩
    cases mode <;> exact hk

end Sys2Proof.Machine
end

section
/-! SUPPORT. Memory forms at issue (R166 to R187): the checks of an address in their order, the access that a form which
passes them opens, and the memory that stepping on leaves as it was; and with them the statement about memory forms. -/

namespace Sys2Proof.Machine

open Sys2Proof.Safety

set_option Elab.async false

/-! ## Stepping on while accesses are on their way (R45, R78) -/

/-- Every access of the agent is on its way to its port: none has arrived, and none has trapped. -/
def OnTheWay (s : State) (ag : Agent) : Prop := ∀ a ∈ s.accsOf ag, a.stage = .issued ∨ a.stage = .ready

section OnTheWay
variable {s : State} {ag : Agent}

theorem OnTheWay.settleAccs (h : OnTheWay s ag) : s.settleAccs ag = s := by
  have hdue : dueOf [] (s.seenAccs ag) = [] := by
    refine dueOf_undone (fun a ha => ?_) []
    obtain ⟨b, hb, rfl⟩ := List.mem_map.mp ha
    rcases h b hb with hstage | hstage <;> simp [hstage]
  simp [State.settleAccs, hdue]

theorem OnTheWay.takeLate (h : OnTheWay s ag) (p : Word) : s.takeLate ag p = none := by
  have hdue : s.dueTraps ag = [] := by
    rw [State.dueTraps, List.filter_eq_nil_iff.mpr, List.foldr_nil]
    intro a ha
    rcases h a ha with hstage | hstage <;> simp [hstage]
  simp [State.takeLate, hdue]

theorem OnTheWay.close (h : OnTheWay s ag) : OnTheWay (s.mapAccs ag (Access.close s.tick)) ag := by
  intro a ha
  obtain ⟨hmem, hag⟩ := List.mem_filter.mp ha
  obtain ⟨b, hb, rfl⟩ := List.mem_map.mp hmem
  have hkeep : (Access.close s.tick b).stage = b.stage ∧ (Access.close s.tick b).ag = b.ag := by
    unfold Access.close
    split <;> exact ⟨rfl, rfl⟩
  obtain ⟨hstage, hagent⟩ := hkeep
  by_cases hbag : b.ag = ag
  · rw [if_pos hbag, hstage]
    exact h b (List.mem_filter.mpr ⟨hb, by simp [hbag]⟩)
  · simp [hbag] at hag

theorem OnTheWay.parkOn (h : OnTheWay s ag) (p : Park) :
    s.parkOn ag p = (s.mapAccs ag (Access.close s.tick)).setPark ag p := by
  have hclose : s.closeWindows ag = s.mapAccs ag (Access.close s.tick) := h.close.settleAccs
  simp only [State.parkOn, hclose, h.close.takeLate]

end OnTheWay

theorem sameMemory_setPc (s : State) (ag : Agent) (p : Word) : SameMemory s (s.setPc ag p) := by
  cases ag with
  | thread u g l => exact sameMemory_setGrp _ _ _ _
  | ctx k c => exact fun l => by cases l <;> rfl

theorem sameMemory_setPark (s : State) (ag : Agent) (p : Park) : SameMemory s (s.setPark ag p) := by
  cases ag with
  | thread u g l => exact sameMemory_setGrp _ _ _ _
  | ctx k c => exact fun l => by cases l <;> rfl

theorem sameMemory_mapAccs (s : State) (ag : Agent) (f : Access → Access) : SameMemory s (s.mapAccs ag f) :=
  fun l => by cases l <;> rfl

@[simp] theorem State.accsOf_setPc (s : State) (ag b : Agent) (p : Word) : (s.setPc ag p).accsOf b = s.accsOf b := by
  cases ag <;> rfl

@[simp] theorem State.accsOf_setPark (s : State) (ag b : Agent) (p : Park) : (s.setPark ag p).accsOf b = s.accsOf b := by
  cases ag <;> rfl

/-- Stepping to the next slot changes no byte of memory. -/
theorem OnTheWay.advance_memory {s : State} {ag : Agent} (h : OnTheWay s ag) : SameMemory s (s.advance ag) := by
  have hstep : SameMemory s ((s.setPc ag (nextPc (s.pc ag))).setPark ag .run) :=
    sameMemory_trans (sameMemory_setPc _ _ _) (sameMemory_setPark _ _ _)
  have hway : OnTheWay ((s.setPc ag (nextPc (s.pc ag))).setPark ag .run) ag := fun a ha => h a (by simpa using ha)
  rw [State.advance]
  cases ag with
  | ctx k c => exact hstep
  | thread u g l =>
    rw [State.compareMeet]
    split
    · rw [hway.parkOn]
      exact sameMemory_trans hstep (sameMemory_trans (sameMemory_mapAccs _ _ _)
        (sameMemory_trans (sameMemory_setPark _ _ _) (sameMemory_setGrp _ _ _ _)))
    · exact hstep

/-- An agent with nothing on its way opens an access and steps on: no byte of memory has changed. -/
theorem push_advance_memory {s : State} {ag : Agent} {x : Access} (hstill : Still s ag)
    (hx : x.stage = .issued ∨ x.stage = .ready) : SameMemory s ((s.push x).advance ag) := by
  refine OnTheWay.advance_memory (s := s.push x) fun a ha => ?_
  obtain ⟨hmem, hag⟩ := List.mem_filter.mp ha
  rcases List.mem_append.mp hmem with hold | hnew
  · have : a ∈ s.accsOf ag := List.mem_filter.mpr ⟨hold, hag⟩
    rw [hstill] at this
    cases this
  · rwa [List.mem_singleton.mp hnew]

/-! ## The checks of an access (R166 to R170, R186, R187) -/

/-- Which spaces are translated for an agent hangs on no address. -/
theorem State.translated_eq (s : State) (ag : Agent) (x : Space) (ea : Nat) : s.translated ag x = (s.va ag x ea).isSome := by
  cases x with
  | karg => cases h : (s.team (s.uidOf ag)).payload <;> simp [State.translated, State.va, h]
  | _ => rfl

/-- And those in which an access may commit early hang on no state either. -/
theorem State.translated_of_commitsEarly (s t : State) (ag : Agent) {x : Space} {atomic : Bool}
    (h : commitsEarly x atomic = true) : t.translated ag x = s.translated ag x := by
  cases x with
  | karg => simp [commitsEarly, Space.held] at h
  | _ => rfl

/-- The range of an access: that of its space, and of the last virtual address to which it comes. -/
def State.inside (s : State) (ag : Agent) (x : Space) (ea : Int) (n : Nat) : Bool :=
  s.inRange ag x ea n && (match s.va ag x (ea.toNat + n - 1) with
    | some v => decide (v < 2 ^ 57)
    | none => true)

section Checks
variable {s : State} {ag : Agent} {x : Space} {ea : Int} {n : Nat} {use : Use} {timed : Bool}

/-- In deterministic mode a timed form, and one of host memory, is turned away. -/
theorem State.checkAccess_sealed (h : (s.det ag && (timed || x == .hnc || x == .hc)) = true) :
    s.checkAccess ag x ea n n use timed = some ⟨0x0D, BitVec.ofNat 64 (spaceNo x), 0⟩ := by
  simp [State.checkAccess, h]

/-- Past DET_TIMING, an address out of range is turned away before anything else is looked at. -/
theorem State.checkAccess_outside (h : (s.det ag && (timed || x == .hnc || x == .hc)) = false)
    (hin : s.inside ag x ea n = false) :
    s.checkAccess ag x ea n n use timed = some ⟨0x08, BitVec.ofNat 64 (spaceNo x), BitVec.ofInt 64 ea⟩ := by
  rw [State.checkAccess, h]
  cases hrange : s.inRange ag x ea n with
  | false => simp [State.beyond, State.checkAddr, hrange]
  | true =>
    have hbeyond : s.beyond ag x ea n = true := by
      cases hva : s.va ag x (ea.toNat + n - 1) <;> simp [State.inside, hrange, hva] at hin
      simpa [State.beyond, hrange, hva] using hin
    simp [hbeyond]

/-- Past DET_TIMING, an address in range is checked for its alignment and then against the vault masks. -/
theorem State.checkAccess_inside (h : (s.det ag && (timed || x == .hnc || x == .hc)) = false)
    (hin : s.inside ag x ea n = true) :
    s.checkAccess ag x ea n n use timed =
      if ea % n != 0 then some ⟨0x09, BitVec.ofNat 64 n, BitVec.ofInt 64 ea⟩
      else if x == .vlt && !s.vaultOk ag (ea / 2 ^ 24).toNat use then
        some ⟨0x0A, BitVec.ofInt 64 (ea / 2 ^ 24), BitVec.ofInt 64 ea⟩
      else none := by
  have hrange : s.inRange ag x ea n = true := (Bool.and_eq_true_iff.mp hin).1
  have hbeyond : s.beyond ag x ea n = false := by
    cases hva : s.va ag x (ea.toNat + n - 1) with
    | none => simp [State.beyond, hva]
    | some v => simpa [State.beyond, State.inside, hrange, hva] using hin
  simp [State.checkAccess, h, hbeyond, State.checkAddr, hrange]

/-- An address in range is not negative. -/
theorem State.nonneg_of_inRange (h : s.inRange ag x ea n = true) : 0 ≤ ea := by
  cases x <;> simp [State.inRange] at h <;> omega

end Checks

/-! ## The access that a form opens -/

section Opens
variable {s : State} {ag : Agent} {h : Hdr} {f : MemF} {a : Reg} {op : AccOp} {dst : List Reg} {use : Use}
  {atomic timed plain window : Bool}

/-- A form whose address a check turns away traps. -/
theorem State.issueAcc_trap {t : Trap} (ht : s.checkAccess ag f.space (s.ea ag f.space a f.ofs) (Size.bytes f.size)
    (Size.bytes f.size) use timed = some t) :
    s.issueAcc ag h f a op dst use atomic timed plain window = .trap s t := by
  simp only [State.issueAcc, ht]

/-- A form that no check turns away opens its access. -/
theorem State.issueAcc_done (ht : s.checkAccess ag f.space (s.ea ag f.space a f.ofs) (Size.bytes f.size)
    (Size.bytes f.size) use timed = none) :
    ∃ x : Access, s.issueAcc ag h f a op dst use atomic timed plain window =
        .done ((if commitsEarly f.space atomic then s.commitEarly (s.uidOf ag) else s).push x) ∧
      x.ag = ag ∧ x.op = op ∧ x.dst = dst ∧ x.space = f.space ∧ x.ea = (s.ea ag f.space a f.ofs).toNat ∧
      x.len = Size.bytes f.size ∧ x.ord = f.ord ∧ x.scope = f.scope ∧ x.plain = plain ∧ x.w = h.w ∧
      x.nl1 = (f.hint == .nl1) ∧ x.left = (if window then some h.la.toNat else none) ∧
      x.stage = (if (s.va ag f.space (s.ea ag f.space a f.ofs).toNat).isSome then .issued else .ready) := by
  simp only [State.issueAcc, ht]
  refine ⟨_, rfl, rfl, rfl, rfl, rfl, rfl, rfl, rfl, rfl, rfl, rfl, rfl, rfl, ?_⟩
  dsimp only
  rw [← s.translated_eq]
  split
  · next hcommits => rw [State.translated_of_commitsEarly s _ ag hcommits]
  · rfl

end Opens

theorem State.ea_eq (s : State) (ag : Agent) (x : Space) (a : Reg) (ofs : BitVec 20) :
    s.ea ag x a ofs = ((if Space.wide x then (s.reg64 ag a).toNat else (s.reg ag a).toNat : Nat) : Int) + ofs.toInt := by
  unfold State.ea
  split <;> rfl

theorem Space.held_eq (x : Space) : Space.held x = (x == .glob || x == .vlt || x == .priv) := by cases x <;> rfl

theorem Space.scratch_eq (x : Space) : Space.scratch x = (x == .sp || x == .psp) := by cases x <;> rfl

theorem UpdOp.ordered_eq (op : UpdOp) : UpdOp.ordered op = decide (op ∈ [.exch, .fadd, .fadd2, .incw, .fmin, .fmax]) := by
  cases op <;> rfl

/-- What a memory form does, as R186 orders it: DET_TIMING, the range, the alignment, the vault masks; and the access that it
opens where none of them turns it away. -/
def OpensAccess (s : State) (ag : Agent) (h : Hdr) (f : MemF) (ea : Int) (i : Instr) (op : AccOp) (dst : List Reg) (use : Use)
    (atomic timed plain window : Bool) : Prop :=
  let n := Size.bytes f.size
  let sealed' := s.det ag && (timed || f.space == .hnc || f.space == .hc)
  let addr := BitVec.ofInt 64 ea
  (sealed' = true → exec i s = .next (s.raise ag i ⟨0x0D, BitVec.ofNat 64 (spaceNo f.space), 0⟩)) ∧
  (sealed' = false → s.inside ag f.space ea n = false →
    exec i s = .next (s.raise ag i ⟨0x08, BitVec.ofNat 64 (spaceNo f.space), addr⟩)) ∧
  (sealed' = false → s.inside ag f.space ea n = true → ea % n ≠ 0 →
    exec i s = .next (s.raise ag i ⟨0x09, BitVec.ofNat 64 n, addr⟩)) ∧
  (sealed' = false → s.inside ag f.space ea n = true → ea % n = 0 → f.space = .vlt →
    s.vaultOk ag (ea / 2 ^ 24).toNat use = false →
    exec i s = .next (s.raise ag i ⟨0x0A, BitVec.ofInt 64 (ea / 2 ^ 24), addr⟩)) ∧
  (sealed' = false → s.inside ag f.space ea n = true → ea % n = 0 →
    (f.space = .vlt → s.vaultOk ag (ea / 2 ^ 24).toNat use = true) →
    let ends := f.space == .hnc || f.space == .hc || (atomic && (f.space == .glob || f.space == .vlt || f.space == .priv))
    let s1 := if ends then s.commitEarly (s.uidOf ag) else s
    ∃ x : Access, exec i s = .next ((s1.push x).advance ag) ∧ x.ag = ag ∧ x.op = op ∧ x.dst = dst ∧ x.space = f.space ∧
      (x.ea : Int) = ea ∧ x.len = n ∧ x.ord = f.ord ∧ x.scope = f.scope ∧ x.plain = plain ∧ x.w = h.w ∧
      x.nl1 = (f.hint == .nl1) ∧ x.stage = (if (s.va ag f.space ea.toNat).isSome then .issued else .ready) ∧
      x.left = (if window then some h.la.toNat else none) ∧
      (ends = false → Still s ag → SameMemory s ((s1.push x).advance ag)))

/-- A form of one lane whose effect is to issue an access opens it, or traps. -/
theorem opensAccess_of_issueAcc {s : State} {ag : Agent} {h : Hdr} {f : MemF} {a : Reg} {i : Instr} {op : AccOp}
    {dst : List Reg} {use : Use} {atomic timed plain window : Bool}
    (hexec : exec i s = .next ((s.issueAcc ag h f a op dst use atomic timed plain window).run i ag)) :
    OpensAccess s ag h f (s.ea ag f.space a f.ofs) i op dst use atomic timed plain window := by
  have htrap {t : Trap} (ht : s.checkAccess ag f.space (s.ea ag f.space a f.ofs) (Size.bytes f.size)
      (Size.bytes f.size) use timed = some t) : exec i s = .next (s.raise ag i t) := by
    rw [hexec, State.issueAcc_trap ht]
    rfl
  refine ⟨fun hsealed => htrap (State.checkAccess_sealed hsealed), fun hopen hin => htrap (State.checkAccess_outside hopen hin),
    fun hopen hin halign => htrap ?_, fun hopen hin halign hvlt hmask => htrap ?_, fun hopen hin halign hmask => ?_⟩
  · rw [State.checkAccess_inside hopen hin, if_pos (by simpa using halign)]
  · rw [State.checkAccess_inside hopen hin, if_neg (by simpa using halign), if_pos]
    rw [hmask, hvlt]
    rfl
  have hcheck : s.checkAccess ag f.space (s.ea ag f.space a f.ofs) (Size.bytes f.size) (Size.bytes f.size) use timed = none := by
    rw [State.checkAccess_inside hopen hin, if_neg (by simpa using halign), if_neg]
    rw [Bool.and_eq_true, beq_iff_eq, Bool.not_eq_true']
    exact fun ⟨hvlt, hbad⟩ => Bool.false_ne_true (hbad.symm.trans (hmask hvlt))
  have hrange : s.inRange ag f.space (s.ea ag f.space a f.ofs) (Size.bytes f.size) = true := (Bool.and_eq_true_iff.mp hin).1
  obtain ⟨x, hissue, hag, hop, hdst, hspace, hea, hlen, hord, hscope, hplain, hw, hnl1, hleft, hstage⟩ :=
    State.issueAcc_done (h := h) (op := op) (dst := dst) (atomic := atomic) (plain := plain) (window := window) hcheck
  rw [hissue, commitsEarly, Space.held_eq] at hexec
  have hnat : (x.ea : Int) = s.ea ag f.space a f.ofs := by
    rw [hea]
    exact Int.toNat_of_nonneg (State.nonneg_of_inRange hrange)
  refine ⟨x, hexec, hag, hop, hdst, hspace, hnat, hlen, hord, hscope, hplain, hw, hnl1, hstage, hleft, fun hends hstill => ?_⟩
  rw [hends]
  refine push_advance_memory hstill ?_
  rw [hstage]
  cases (s.va ag f.space (s.ea ag f.space a f.ofs).toNat).isSome with
  | true => exact .inl rfl
  | false => exact .inr rfl

/-- The same, of a form of one lane as the model gives it. -/
theorem opensAccess_of_perLane {s : State} {ag : Agent} {h : Hdr} {f : MemF} {a : Reg} {i : Instr}
    {op : Agent → State → AccOp} {dst : List Reg} {use : Use} {atomic timed sealing plain window : Bool} {ea : Int}
    (hea : s.ea ag f.space a f.ofs = ea)
    (hform : exec i s = perLane i (fun ag s => s.issueAcc ag h f a (op ag s) dst use atomic timed plain window) s)
    (htimed : timed = sealing) (hex : Executes s ag i) :
    OpensAccess s ag h f ea i (op ag s) dst use atomic sealing plain window :=
  hea ▸ htimed ▸ opensAccess_of_issueAcc (hform.trans (perLane_executes _ hex))

/-- Settles O32: each form is of one lane, and its effect is to issue an access. -/
theorem memoryFormsOpenAnAccess : Obligations.MemoryFormsOpenAnAccess := by
  intro s ag h d a b c f sx op
  have hea : s.ea ag f.space a f.ofs = _ := s.ea_eq ag f.space a f.ofs
  have hscratch := Space.scratch_eq f.space
  have hred : (Space.scratch f.space && UpdOp.ordered op) = _ := congrArg₂ _ hscratch (UpdOp.ordered_eq op)
  refine ⟨?_, ?_, ?_, ?_, ?_, ?_, ?_, ?_⟩
  · exact opensAccess_of_perLane (op := fun _ _ => .load sx) hea rfl rfl
  · exact opensAccess_of_perLane (op := fun _ _ => .load false) hea rfl rfl
  · exact opensAccess_of_perLane (op := fun _ _ => .load sx) hea rfl rfl
  · exact opensAccess_of_perLane (op := fun ag s => .store (s.data ag f.size b)) hea rfl rfl
  · exact opensAccess_of_perLane (op := fun ag s => .store (s.data ag f.size b)) hea rfl rfl
  · exact opensAccess_of_perLane (op := fun ag s => .upd op (s.data ag f.size b)) hea rfl hscratch
  · exact opensAccess_of_perLane (op := fun ag s => .upd op (s.data ag f.size b)) hea rfl hred
  · exact opensAccess_of_perLane (op := fun ag s => .cas (s.data ag f.size b) (s.data ag f.size c)) hea rfl hscratch

end Sys2Proof.Machine
end

section
/-! SUPPORT. Memory in canonical form, on states and teams: what it depends on, and the updates of a part that keep it. -/

namespace Sys2Proof.Machine

open Sys2Proof.Safety

/-! ## Teams and states in canonical form -/

/-- A checkpoint, if there is one, has both scratchpad halves in canonical form. -/
def CkptWf (o : Option Ckpt) : Prop := ∀ c, o = some c → c.scr.wf = true ∧ c.scr2.wf = true

/-- A team's scratchpad halves are in canonical form, and those of its checkpoint. -/
def Team.MemoryWf (t : Team) : Prop := t.scr.wf = true ∧ t.scr2.wf = true ∧ CkptWf t.ckpt

/-- Every team that a table gives has its memory in canonical form. -/
def TeamsWf (ts : List (Nat × Team)) : Prop := ∀ u, (aget Team.absent ts u).MemoryWf

theorem canonical_iff {s : State} :
    Canonical s ↔ s.hbm.wf = true ∧ s.vault.wf = true ∧ s.host.wf = true ∧ TeamsWf s.teams := Iff.rfl

theorem ckptWf_none : CkptWf none := fun _ h => by cases h

theorem ckptWf_some {c : Ckpt} : CkptWf (some c) ↔ c.scr.wf = true ∧ c.scr2.wf = true :=
  ⟨fun h => h c rfl, fun h d e => by cases e; exact h⟩

/-- A checkpoint rewritten but for its scratchpad halves. -/
theorem CkptWf.map {o : Option Ckpt} (h : CkptWf o) {f : Ckpt → Ckpt}
    (hf : ∀ c, (f c).scr = c.scr ∧ (f c).scr2 = c.scr2) : CkptWf (o.map f) := by
  cases o with
  | none => exact ckptWf_none
  | some c =>
    obtain ⟨h1, h2⟩ := hf c
    simpa [ckptWf_some, h1, h2] using h c rfl

theorem Team.memoryWf_absent : Team.absent.MemoryWf := ⟨rfl, rfl, ckptWf_none⟩

theorem canonical_teamsWf {s : State} (h : Canonical s) : TeamsWf s.teams := (canonical_iff.mp h).2.2.2

theorem canonical_team {s : State} (h : Canonical s) (u : Nat) : (s.team u).MemoryWf :=
  canonical_teamsWf h u

/-! ## Tables of teams -/

section Teams
variable {ts : List (Nat × Team)}

theorem TeamsWf.aput (h : TeamsWf ts) (u : Nat) {t : Team} (ht : t.MemoryWf) : TeamsWf (aput ts u t) := fun v => by
  rw [aget_aput]
  split
  · exact ht
  · exact h v

theorem TeamsWf.map (h : TeamsWf ts) {f : Nat × Team → Nat × Team} (hkey : ∀ e, (f e).1 = e.1)
    (hf : ∀ e, e.2.MemoryWf → (f e).2.MemoryWf) : TeamsWf (ts.map f) := fun v => by
  have hv := h v
  rw [aget] at hv ⊢
  rw [afind_map f hkey]
  cases hfind : afind ts v with
  | none => exact Team.memoryWf_absent
  | some x =>
    rw [hfind] at hv
    exact hf (v, x) hv

/-- What a table gives once an entry has been removed. -/
theorem afind_adel {α : Type} (t : List (Nat × α)) (k j : Nat) :
    afind (adel t k) j = if j = k then none else afind t j := by
  induction t with
  | nil => simp [adel, afind]
  | cons e t ih =>
    obtain ⟨i, w⟩ := e
    simp only [adel] at ih
    by_cases hik : i = k
    · subst hik
      by_cases hj : i = j
      · subst hj; simpa [adel, afind] using ih
      · simpa [adel, afind, hj] using ih
    · by_cases hj : i = j
      · subst hj; simp [adel, afind, hik]
      · simpa [adel, afind, hik, hj] using ih

theorem TeamsWf.adel (h : TeamsWf ts) (u : Nat) : TeamsWf (adel ts u) := fun v => by
  have hv := h v
  rw [aget] at hv ⊢
  rw [afind_adel]
  by_cases hvu : v = u
  · rw [if_pos hvu]
    exact Team.memoryWf_absent
  · rwa [if_neg hvu]

end Teams

/-! ## What memory does not depend on -/

section Frame
variable {launch : Nat} {teamid : Nat} {stage : Stage} {core : Nat} {desc : KDesc} {stat : TeamStat}
  {groups : List (Nat × Group)} {bad : List (Bool × Nat)} {tags tags2 : List (Nat × RaceTag)} {bars : List (Nat × Barrier)}
  {algs : List (Nat × AlgRec)} {mstatus : Word} {recov : Nat} {first : Option ErrInfo} {held : List Held} {rays : List Ray}
  {kids : List Kid} {sig wsig : BitVec 2048} {nonspec : Bool} {rels : Nat} {payload : Option (Nat × Nat)}
  {order : List Nat} {committed : Bool} {last : Nat} {stale : Bool} {icinvs : List (List Nat × Nat × Nat × Nat)}
  {wasHeld : List (Nat × MArray)} {image : Option ImageHead} {imgRays : List Ray} {imgCtxs : List (Nat × BCtx × List Word)}
  {imgSlots : List (Nat × CopySlot)} {imgAccs : List Access} {imgRing : List (Nat × RingSlot × Nat)} {imgNext : Nat}
  {imgCoef : BitVec 65536}

/-- A team rewritten but for its scratchpad halves and its checkpoint. -/
theorem Team.memoryWf_frame {t : Team} (h : t.MemoryWf) :
    Team.MemoryWf ⟨launch, teamid, stage, core, desc, stat, groups, t.scr, t.scr2, bad, tags, tags2, bars, algs, mstatus,
      recov, first, t.ckpt, held, rays, kids, sig, wsig, nonspec, rels, payload, order, committed, last, stale, icinvs,
      wasHeld, image, imgRays, imgCtxs, imgSlots, imgAccs, imgRing, imgNext, imgCoef⟩ := h

/-- A team rewritten but for its scratchpad halves, without a checkpoint. -/
theorem Team.memoryWf_drop {t : Team} (h : t.MemoryWf) :
    Team.MemoryWf ⟨launch, teamid, stage, core, desc, stat, groups, t.scr, t.scr2, bad, tags, tags2, bars, algs, mstatus,
      recov, first, none, held, rays, kids, sig, wsig, nonspec, rels, payload, order, committed, last, stale, icinvs,
      wasHeld, image, imgRays, imgCtxs, imgSlots, imgAccs, imgRing, imgNext, imgCoef⟩ := by
  obtain ⟨hscr, hscr2, -⟩ := h
  exact ⟨hscr, hscr2, ckptWf_none⟩

variable {tick : Nat} {accs : List Access} {tiles : List Tile} {launches : List (Nat × Launch)} {cores : List (Nat × Core)}
  {pairs : List (Nat × CorePair)} {dies : List (Nat × Die)} {hbmBad vaultBad hostBad : List Nat}
  {lineTags : List (Nat × RaceTag)} {queues : List (Nat × Queue)} {lastQueue : Nat} {ctxs : List (Nat × Ctx)}
  {quotas : List (Nat × Quota)} {mgmt : Mgmt} {ports : List (Nat × Port)} {dbg : Debug} {counters : List (Nat × Word)}
  {turns : List Turn} {cur : Issue} {nextUid nextAcc nextSeq nextLaunch nextTile : Nat}

/-- A state rewritten but for its memories and its teams. -/
theorem canonical_frame {s : State} (h : Canonical s) :
    Canonical ⟨tick, s.teams, accs, tiles, launches, cores, pairs, dies, s.hbm, hbmBad, s.vault, vaultBad, s.host, hostBad,
      lineTags, queues, lastQueue, ctxs, quotas, mgmt, ports, dbg, counters, turns, cur, nextUid, nextAcc, nextSeq,
      nextLaunch, nextTile⟩ := h

/-- A state rewritten but for its memories. -/
theorem canonical_teams {s : State} {teams : List (Nat × Team)} (h : Canonical s) (ht : TeamsWf teams) :
    Canonical ⟨tick, teams, accs, tiles, launches, cores, pairs, dies, s.hbm, hbmBad, s.vault, vaultBad, s.host, hostBad,
      lineTags, queues, lastQueue, ctxs, quotas, mgmt, ports, dbg, counters, turns, cur, nextUid, nextAcc, nextSeq,
      nextLaunch, nextTile⟩ := by
  obtain ⟨hhbm, hvault, hhost, -⟩ := h
  exact ⟨hhbm, hvault, hhost, ht⟩

/-- The teams rewritten one by one, and the rest but for the memories. -/
theorem canonical_mapTeams {s : State} {f : Nat × Team → Nat × Team} (h : Canonical s) (hkey : ∀ e, (f e).1 = e.1)
    (hf : ∀ e, e.2.MemoryWf → (f e).2.MemoryWf) :
    Canonical ⟨tick, s.teams.map f, accs, tiles, launches, cores, pairs, dies, s.hbm, hbmBad, s.vault, vaultBad, s.host,
      hostBad, lineTags, queues, lastQueue, ctxs, quotas, mgmt, ports, dbg, counters, turns, cur, nextUid, nextAcc, nextSeq,
      nextLaunch, nextTile⟩ :=
  canonical_teams h ((canonical_teamsWf h).map hkey hf)

/-- Bytes stored in a vault, and the rest rewritten but for the other memories and the teams. -/
theorem canonical_vaultWrite {s : State} {a n x : Nat} (h : Canonical s) :
    Canonical ⟨tick, s.teams, accs, tiles, launches, cores, pairs, dies, s.hbm, hbmBad, s.vault.write a n x, vaultBad, s.host,
      hostBad, lineTags, queues, lastQueue, ctxs, quotas, mgmt, ports, dbg, counters, turns, cur, nextUid, nextAcc, nextSeq,
      nextLaunch, nextTile⟩ := by
  obtain ⟨hhbm, hvault, hhost, hteams⟩ := h
  exact ⟨hhbm, Memory.write_wf _ _ _ _ hvault, hhost, hteams⟩

end Frame

/-! ## Writes of a part -/

section Parts
variable {s : State} (h : Canonical s)
include h

theorem canonical_setCore (n : Nat) (c : Core) : Canonical (s.setCore n c) := h
theorem canonical_setPair (n : Nat) (c : CorePair) : Canonical (s.setPair n c) := h
theorem canonical_setDie (n : Nat) (c : Die) : Canonical (s.setDie n c) := h
theorem canonical_setQueue (n : Nat) (c : Queue) : Canonical (s.setQueue n c) := h
theorem canonical_setPort (n : Nat) (c : Port) : Canonical (s.setPort n c) := h
theorem canonical_setLaunch (n : Nat) (c : Launch) : Canonical (s.setLaunch n c) := h
theorem canonical_setBctx (k c : Nat) (x : BCtx) : Canonical (s.setBctx k c x) := h

theorem canonical_setTeam (u : Nat) {t : Team} (ht : t.MemoryWf) : Canonical (s.setTeam u t) :=
  canonical_teams h ((canonical_teamsWf h).aput u ht)

theorem canonical_setGrp (u g : Nat) (x : Group) : Canonical (s.setGrp u g x) :=
  canonical_setTeam h u (canonical_team h u)

theorem canonical_setThr (u g l : Nat) (x : Thread) : Canonical (s.setThr u g l x) := canonical_setGrp h u g _

end Parts

theorem canonical_foldl {α : Type} {f : State → α → State} (hf : ∀ s a, Canonical s → Canonical (f s a)) {s : State}
    (h : Canonical s) (l : List α) : Canonical (l.foldl f s) :=
  List.foldlRecOn l f h fun _ hs a _ => hf _ a hs

/-- A fold that carries something else besides the state. -/
theorem canonical_foldl_fst {α β : Type} {f : State × β → α → State × β} (hf : ∀ p a, Canonical p.1 → Canonical (f p a).1)
    {p : State × β} (h : Canonical p.1) (l : List α) : Canonical (l.foldl f p).1 :=
  List.foldlRecOn (motive := fun q => Canonical q.1) l f h fun _ hs a _ => hf _ a hs

/-! ## Stores -/

theorem canonical_hbmWrite {s : State} (h : Canonical s) (a n x : Nat) : Canonical (s.hbmWrite a n x) := by
  unfold State.hbmWrite
  split
  · obtain ⟨hhbm, hrest⟩ := h
    exact ⟨Memory.write_wf _ _ _ _ hhbm, hrest⟩
  · exact h

theorem Team.memoryWf_scrWrite {t : Team} (h : t.MemoryWf) (sd : Bool) (o n x : Nat) : (t.scrWrite sd o n x).MemoryWf := by
  obtain ⟨hscr, hscr2, hckpt⟩ := h
  obtain ⟨h1, h2⟩ := t.scrWrite_wf sd o n x hscr hscr2
  refine ⟨h1, h2, ?_⟩
  cases sd <;> exact hckpt.map fun _ => ⟨rfl, rfl⟩

theorem canonical_rawWrite {s : State} (h : Canonical s) (l : Loc) (n x : Nat) : Canonical (s.rawWrite l n x) := by
  obtain ⟨hhbm, hvault, hhost, hteams⟩ := canonical_iff.mp h
  cases l with
  | hbm a => exact canonical_hbmWrite h a n x
  | vault a => exact ⟨hhbm, Memory.write_wf _ _ _ _ hvault, hhost, hteams⟩
  | scr u sd o => exact canonical_setTeam h u (Team.memoryWf_scrWrite (hteams u) sd o n x)
  | host a c => exact ⟨hhbm, hvault, Memory.write_wf _ _ _ _ hhost, hteams⟩

end Sys2Proof.Machine
end

section
/-! SUPPORT. Memory stays in canonical form: under the updates of a part, under memory and L1, traps and machine
checks, and in the frame of a form of one lane. -/

namespace Sys2Proof.Machine

open Sys2Proof.Safety

set_option Elab.async false

/-! ## Reading and writing the parts of a state -/

theorem canonical_setPc {s : State} (h : Canonical s) (ag : Agent) (p : Word) : Canonical (s.setPc ag p) := by
  unfold State.setPc
  grind [canonical_setThr, canonical_setBctx]

theorem canonical_setCC {s : State} (h : Canonical s) (ag : Agent) (x : CC) : Canonical (s.setCC ag x) := by
  unfold State.setCC
  grind [canonical_setThr, canonical_setBctx]

theorem canonical_setPark {s : State} (h : Canonical s) (ag : Agent) (p : Park) : Canonical (s.setPark ag p) := by
  unfold State.setPark
  grind [canonical_setThr, canonical_setBctx]

theorem canonical_setTrap {s : State} (h : Canonical s) (ag : Agent) (x : TrapState) : Canonical (s.setTrap ag x) := by
  unfold State.setTrap
  grind [canonical_setThr, canonical_setBctx]

theorem canonical_setReg {s : State} (h : Canonical s) (ag : Agent) (r : Reg) (v : Word) :
    Canonical (s.setReg ag r v) := by
  unfold State.setReg
  grind [canonical_setThr, canonical_setCore]

theorem canonical_setReg64 {s : State} (h : Canonical s) (ag : Agent) (r : Reg) (v : DWord) :
    Canonical (s.setReg64 ag r v) := by
  unfold State.setReg64
  grind [canonical_setReg]

theorem canonical_setRegs {s : State} (h : Canonical s) (ag : Agent) (rs : List Reg) (vs : List Word) :
    Canonical (s.setRegs ag rs vs) := by
  induction rs generalizing s vs with
  | nil => exact h
  | cons r rs ih =>
    cases vs with
    | nil => exact h
    | cons v vs => exact ih (canonical_setReg h ag r v) vs

theorem canonical_setRun {s : State} (h : Canonical s) (ag : Agent) (r : Reg) (vs : List Word) :
    Canonical (s.setRun ag r vs) :=
  canonical_setRegs h _ _ _

theorem canonical_setRegN {s : State} (h : Canonical s) (ag : Agent) (w64 : Bool) (r : Reg) (x : Nat) :
    Canonical (s.setRegN ag w64 r x) := by
  unfold State.setRegN
  grind [canonical_setReg64, canonical_setReg]

/-! ## Memory as the agents see it, faults and held writes -/

theorem canonical_hostStore {s : State} (h : Canonical s) (l : Loc) (n v : Nat) : Canonical (s.hostStore l n v) := by
  unfold State.hostStore
  grind [canonical_rawWrite]

theorem canonical_tally {s : State} (h : Canonical s) (dn off : Nat) : Canonical (s.tally dn off) :=
  canonical_frame h

theorem canonical_tallyVault {s : State} (h : Canonical s) (l : Loc) (reads writes : Bool) :
    Canonical (s.tallyVault l reads writes) := by
  unfold State.tallyVault
  grind [canonical_tally]

theorem canonical_portUpdate {s : State} (h : Canonical s) (l : Loc) (n : Nat) (op : PortOp) (x : Nat) :
    Canonical (s.portUpdate l n op x).1 := by
  unfold State.portUpdate
  grind [canonical_tallyVault, canonical_rawWrite]

theorem canonical_walk {s : State} (h : Canonical s) (core ctx va : Nat) : Canonical (s.walk core ctx va).1 := by
  unfold State.walk
  grind [canonical_setCore, canonical_setDie, canonical_setPair]

theorem canonical_translate {s : State} (h : Canonical s) (core ctx va : Nat) (n : Need) :
    Canonical (s.translate core ctx va n).1 := by
  unfold State.translate
  grind [canonical_walk]

theorem canonical_postRecord {s : State} (h : Canonical s) (dn core ctx va : Nat) (kind : FaultKind) :
    Canonical (s.postRecord dn core ctx va kind).1 :=
  canonical_setDie h _ _

theorem canonical_postFaultOn {s : State} (h : Canonical s) (dn core ctx va : Nat) (kind : FaultKind) :
    Canonical (s.postFaultOn dn core ctx va kind).1 := by
  unfold State.postFaultOn
  grind [canonical_postRecord]

theorem canonical_postFault {s : State} (h : Canonical s) (core ctx va : Nat) (kind : FaultKind) :
    Canonical (s.postFault core ctx va kind).1 :=
  canonical_postFaultOn h _ _ _ _ _

theorem canonical_clearTag {s : State} (h : Canonical s) (l : Loc) (n : Nat) : Canonical (s.clearTag l n) := by
  unfold State.clearTag
  grind [canonical_setTeam, canonical_frame, canonical_team, Team.memoryWf_frame]

theorem canonical_lineNote {s : State} (h : Canonical s) (u pa n : Nat) (write : Bool) :
    Canonical (s.lineNote u pa n write) := by
  unfold State.lineNote
  grind [canonical_frame]

theorem canonical_raceScr {s : State} (h : Canonical s) (u g l seq : Nat) (side : Bool) (o n : Nat) (write : Bool) :
    Canonical (s.raceScr u g l seq side o n write).2 := by
  unfold State.raceScr
  grind [canonical_setTeam, canonical_team, Team.memoryWf_frame]

theorem canonical_raceAt {s : State} (h : Canonical s) (a : Access) (l : Loc) (n : Nat) (write atHome : Bool) :
    Canonical (s.raceAt a l n write atHome).2 := by
  unfold State.raceAt
  grind [canonical_clearTag, canonical_raceScr, canonical_lineNote]

theorem canonical_trapRacing {s : State} (h : Canonical s) (es : List (Nat × Nat × Access)) :
    Canonical (s.trapRacing es) := by
  unfold State.trapRacing
  grind [canonical_frame, canonical_foldl]

theorem canonical_writeBack {s : State} (h : Canonical s) (l : L1Line) : Canonical (s.writeBack l) := by
  unfold State.writeBack
  grind [canonical_trapRacing, canonical_hbmWrite, canonical_lineNote, canonical_clearTag, canonical_frame,
    canonical_foldl]

theorem canonical_l1Put {s : State} (h : Canonical s) (core : Nat) (l : L1Line) : Canonical (s.l1Put core l) := by
  unfold State.l1Put
  grind [canonical_setCore, canonical_writeBack]

theorem canonical_cleanLine {s : State} (h : Canonical s) (l : L1Line) (drop : Bool) :
    Canonical (s.cleanLine l drop).1 := by
  unfold State.cleanLine
  grind [canonical_writeBack]

theorem canonical_l1Clean {s : State} (h : Canonical s) (core : Nat) (which : L1Line → Bool) (drop : Bool) :
    Canonical (s.l1Clean core which drop) := by
  unfold State.l1Clean
  grind [canonical_cleanLine, canonical_setCore, canonical_foldl_fst]

theorem canonical_l1WriteBackAll {s : State} (h : Canonical s) (core : Nat) : Canonical (s.l1WriteBackAll core) :=
  canonical_l1Clean h _ _ _

theorem canonical_l1Flush {s : State} (h : Canonical s) (core pa : Nat) : Canonical (s.l1Flush core pa) :=
  canonical_l1Clean h _ _ _

theorem canonical_flushLoc {s : State} (h : Canonical s) (core : Nat) (l : Loc) : Canonical (s.flushLoc core l) := by
  unfold State.flushLoc
  grind [canonical_l1Flush]

theorem canonical_evict {s : State} (h : Canonical s) (c : Cached) : Canonical (s.evict c) := by
  unfold State.evict
  grind [canonical_l1Flush, canonical_setCore, canonical_setPair, canonical_setDie]

theorem canonical_l1DropClean {s : State} (h : Canonical s) (core : Nat) : Canonical (s.l1DropClean core) :=
  canonical_setCore h _ _

theorem canonical_l1Read {s : State} (h : Canonical s) (core uid pa n : Nat) :
    Canonical (s.l1Read core uid pa n).1 := by
  unfold State.l1Read
  grind [canonical_l1Put]

theorem canonical_l1Write {s : State} (h : Canonical s) (core uid pa n x : Nat) (src : Option Access) :
    Canonical (s.l1Write core uid pa n x src) := by
  unfold State.l1Write
  grind [canonical_l1Clean, canonical_l1Put]

theorem canonical_mend {s : State} (h : Canonical s) (hs : List Held) : Canonical (s.mend hs) := by
  refine canonical_mapTeams h (fun e => ?_) (fun e he => ?_)
  · dsimp only; split <;> rfl
  · dsimp only; split <;> exact he

theorem canonical_applyHeld {s : State} (h : Canonical s) (hs : List Held) : Canonical (s.applyHeld hs) := by
  unfold State.applyHeld
  grind [canonical_portUpdate, canonical_mend, canonical_clearTag, canonical_foldl]

theorem canonical_flushHeld {s : State} (h : Canonical s) (u : Nat) (hs : List Held) :
    Canonical (s.flushHeld u hs) := by
  unfold State.flushHeld
  grind [canonical_l1Flush, canonical_foldl]

theorem canonical_icInvalidate {s : State} (h : Canonical s) (core ctx start n : Nat) :
    Canonical (s.icInvalidate core ctx start n) :=
  canonical_setCore h _ _

theorem canonical_icAgain {s : State} (h : Canonical s) (u : Nat) : Canonical (s.icAgain u) := by
  unfold State.icAgain
  grind [canonical_icInvalidate, canonical_setTeam, canonical_team, Team.memoryWf_frame, canonical_foldl]

theorem canonical_commitHeld {s : State} (h : Canonical s) (u : Nat) (hs : List Held) : Canonical (s.commitHeld u hs) :=
  canonical_icAgain (canonical_applyHeld (canonical_flushHeld h _ _) _) _

theorem canonical_signRead {s : State} (h : Canonical s) (u : Nat) (l : Loc) : Canonical (s.signRead u l) := by
  unfold State.signRead
  grind [canonical_setTeam, canonical_team, Team.memoryWf_frame]

theorem canonical_markStale {s : State} (h : Canonical s) (l b : Nat) : Canonical (s.markStale l b) := by
  unfold State.markStale
  grind [canonical_mapTeams, Team.memoryWf_frame]

theorem canonical_noteDirect {s : State} (h : Canonical s) (u : Nat) (l : Loc) : Canonical (s.noteDirect u l) := by
  unfold State.noteDirect
  grind [canonical_setTeam, canonical_markStale, canonical_team, Team.memoryWf_frame]

theorem canonical_addRays {s : State} (h : Canonical s) (rs : List Ray) : Canonical (s.addRays rs) := by
  unfold State.addRays
  grind [canonical_setCore, canonical_foldl]

theorem canonical_commitEarly {s : State} (h : Canonical s) (u : Nat) : Canonical (s.commitEarly u) := by
  unfold State.commitEarly
  grind [canonical_commitHeld, canonical_addRays, canonical_setTeam, canonical_l1DropClean, canonical_team,
    Team.memoryWf_drop, canonical_foldl]

theorem canonical_undoRoom {s : State} (h : Canonical s) (u core n : Nat) : Canonical (s.undoRoom u core n) := by
  unfold State.undoRoom
  grind [canonical_commitEarly]

theorem canonical_roomAt {s : State} (h : Canonical s) (l : Loc) (n : Nat) : Canonical (s.roomAt l n) := by
  unfold State.roomAt
  grind [canonical_undoRoom]

theorem canonical_holdAll {s : State} (h : Canonical s) (u key : Nat) (hs : List Held) :
    Canonical (s.holdAll u key hs) := by
  unfold State.holdAll
  grind [canonical_commitEarly, canonical_commitHeld, canonical_setTeam, canonical_team, Team.memoryWf_frame]

theorem canonical_hold {s : State} (hs : Canonical s) (u key : Nat) (h : Held) : Canonical (s.hold u key h) :=
  canonical_holdAll hs _ _ _

theorem canonical_unitWrite {s : State} (h : Canonical s) (ctx va n x : Nat) : Canonical (s.unitWrite ctx va n x) := by
  unfold State.unitWrite
  grind [canonical_rawWrite, canonical_clearTag, canonical_foldl]

/-! ## Windows, parks, traps and machine checks -/

theorem canonical_mapAccs {s : State} (h : Canonical s) (ag : Agent) (f : Access → Access) :
    Canonical (s.mapAccs ag f) :=
  canonical_frame h

theorem canonical_dropAcc {s : State} (h : Canonical s) (id : Nat) : Canonical (s.dropAcc id) :=
  canonical_frame h

theorem canonical_putAcc {s : State} (h : Canonical s) (x : Access) : Canonical (s.putAcc x) :=
  canonical_frame h

theorem canonical_writeResult {s : State} (h : Canonical s) (a : Access) : Canonical (s.writeResult a) := by
  unfold State.writeResult
  grind [canonical_setRegs, canonical_setCC]

theorem canonical_settleAccs {s : State} (h : Canonical s) (ag : Agent) : Canonical (s.settleAccs ag) := by
  unfold State.settleAccs
  grind [canonical_writeResult, canonical_frame, canonical_foldl]

theorem canonical_closeWindows {s : State} (h : Canonical s) (ag : Agent) : Canonical (s.closeWindows ag) :=
  canonical_settleAccs (canonical_mapAccs h _ _) _

theorem canonical_tickWindows {s : State} (h : Canonical s) (ag : Agent) : Canonical (s.tickWindows ag) :=
  canonical_settleAccs (canonical_mapAccs h _ _) _

theorem canonical_setArray {s : State} (h : Canonical s) (core : Nat) (m : MArray) : Canonical (s.setArray core m) :=
  canonical_setCore h _ _

theorem canonical_handArray {s : State} (h : Canonical s) (core : Nat) : Canonical (s.handArray core) := by
  unfold State.handArray
  grind [canonical_setArray]

theorem canonical_mapSlots {s : State} (h : Canonical s) (core : Nat) (f : CopySlot → CopySlot) :
    Canonical (s.mapSlots core f) :=
  canonical_setCore h _ _

theorem canonical_stopBursar {s : State} (h : Canonical s) (uid : Nat) : Canonical (s.stopBursar uid) := by
  unfold State.stopBursar
  grind [canonical_setCore, canonical_foldl]

theorem canonical_logCheck {s : State} (h : Canonical s) (r : McRec) : Canonical (s.logCheck r) := by
  unfold State.logCheck
  grind [canonical_setDie, canonical_frame]

theorem canonical_fatalDump {s : State} (h : Canonical s) : Canonical (s.fatalDump) := by
  unfold State.fatalDump
  grind [canonical_rawWrite, canonical_frame]

theorem canonical_unitCheck {s : State} (h : Canonical s) (dn space addr : Nat) :
    Canonical (s.unitCheck dn space addr) :=
  canonical_fatalDump (canonical_logCheck h _)

theorem canonical_unitAdd {s : State} (h : Canonical s) (ctx va x : Nat) : Canonical (s.unitAdd ctx va x) := by
  unfold State.unitAdd
  grind [canonical_unitCheck, canonical_unitWrite]

theorem canonical_queueError {s : State} (h : Canonical s) (q : Nat) (launchid : Word) (e : ErrInfo) :
    Canonical (s.queueError q launchid e) := by
  unfold State.queueError
  grind [canonical_unitAdd, canonical_setQueue, canonical_unitWrite]

theorem canonical_unwait {s : State} (h : Canonical s) (uid : Nat) : Canonical (s.unwait uid) := by
  unfold State.unwait
  grind [canonical_setCore, canonical_foldl]

theorem canonical_stopTeam {s : State} (h : Canonical s) (uid : Nat) (st : TeamStat) :
    Canonical (s.stopTeam uid st) := by
  unfold State.stopTeam
  grind [canonical_stopBursar, canonical_unwait, canonical_setTeam, canonical_frame, canonical_team,
    Team.memoryWf_frame]

theorem canonical_launchError {s : State} (h : Canonical s) (l : Nat) (e : ErrInfo) :
    Canonical (s.launchError l e) := by
  unfold State.launchError
  grind [canonical_queueError, canonical_setLaunch, canonical_stopTeam, canonical_foldl]

theorem canonical_recover {s : State} (h : Canonical s) (uid : Nat) (roll idem : Bool) (e : ErrInfo) :
    Canonical (s.recover uid roll idem e) := by
  unfold State.recover
  grind [canonical_stopTeam, canonical_setTeam, canonical_launchError, canonical_commitEarly, canonical_team,
    Team.memoryWf_frame]

theorem canonical_doubleFault {s : State} (h : Canonical s) (uid cause : Nat) (pc : Word) (lane : Nat)
    (val addr : DWord) : Canonical (s.doubleFault uid cause pc lane val addr) := by
  unfold State.doubleFault
  grind [canonical_recover]

theorem canonical_removeTeam {s : State} (h : Canonical s) (uid : Nat) : Canonical (s.removeTeam uid) := by
  unfold State.removeTeam
  grind [canonical_setCore, canonical_handArray, canonical_foldl, canonical_teams, canonical_teamsWf, TeamsWf.adel]

theorem canonical_abortTeam {s : State} (h : Canonical s) (uid : Nat) : Canonical (s.abortTeam uid) := by
  unfold State.abortTeam
  grind [canonical_removeTeam, canonical_setLaunch, canonical_setTeam, canonical_team, Team.memoryWf_drop]

theorem canonical_machineCheck {s : State} (h : Canonical s) (uid core code : Nat) (detail : Word) (addr : Nat)
    (pc : Word) (lane : Nat) (scrRow : Option (Bool × Nat)) :
    Canonical (s.machineCheck uid core code detail addr pc lane scrRow) := by
  unfold State.machineCheck
  grind [canonical_logCheck, canonical_abortTeam, canonical_recover]

theorem canonical_meetings {s : State} (h : Canonical s) (u g : Nat) : Canonical (s.meetings u g) :=
  canonical_setGrp h _ _ _

theorem canonical_meet {s : State} (h : Canonical s) (ag : Agent) : Canonical (s.meet ag) := by
  unfold State.meet
  grind [canonical_meetings]

theorem canonical_pendDue {s : State} (h : Canonical s) (ag : Agent) : Canonical (s.pendDue ag) := by
  unfold State.pendDue
  grind [canonical_setTrap, canonical_frame]

theorem canonical_enterHandler {s : State} (h : Canonical s) (ag : Agent) (cause : Nat) (tpc : Word) (val addr : DWord)
    (resume : Word) (saved : Option Access) : Canonical (s.enterHandler ag cause tpc val addr resume saved) := by
  unfold State.enterHandler
  grind [canonical_closeWindows, canonical_pendDue, canonical_setTrap, canonical_setPc, canonical_setPark,
    canonical_meetings]

theorem canonical_takeTrap {s : State} (h : Canonical s) (ag : Agent) (cause : Nat) (tpc : Word) (val addr : DWord)
    (resume : Word) (saved : Option Access) : Canonical (s.takeTrap ag cause tpc val addr resume saved) := by
  unfold State.takeTrap
  grind [canonical_setBctx, canonical_doubleFault, canonical_enterHandler]

theorem canonical_takeLate {s : State} (h : Canonical s) (ag : Agent) (resume : Word) {t : State}
    (heq : s.takeLate ag resume = some t) : Canonical t := by
  unfold State.takeLate at heq
  grind [canonical_setTrap, canonical_takeTrap, canonical_frame]

theorem canonical_takePend {s : State} (h : Canonical s) (ag : Agent) (resume : Word) {t : State}
    (heq : s.takePend ag resume = some t) : Canonical t := by
  unfold State.takePend at heq
  grind [canonical_setTrap, canonical_takeTrap]

theorem canonical_raiseTrap {s : State} (h : Canonical s) (ag : Agent) (cause : Nat) (val addr : DWord) :
    Canonical (s.raiseTrap ag cause val addr) := by
  unfold State.raiseTrap
  grind [canonical_closeWindows, canonical_takeLate, canonical_takeTrap]

theorem canonical_parkOn {s : State} (h : Canonical s) (ag : Agent) (p : Park) : Canonical (s.parkOn ag p) := by
  unfold State.parkOn
  grind [canonical_closeWindows, canonical_takeLate, canonical_setPark]

theorem canonical_compareMeet {s : State} (h : Canonical s) (ag : Agent) : Canonical (s.compareMeet ag) := by
  unfold State.compareMeet
  grind [canonical_parkOn, canonical_meetings]

theorem canonical_advance {s : State} (h : Canonical s) (ag : Agent) : Canonical (s.advance ag) :=
  canonical_compareMeet (canonical_setPark (canonical_setPc h _ _) _ _) _

theorem canonical_transfer {s : State} (h : Canonical s) (ag : Agent) (t : Word) : Canonical (s.transfer ag t) := by
  unfold State.transfer
  grind [canonical_setPc, canonical_setPark, canonical_closeWindows, canonical_takePend, canonical_takeLate,
    canonical_compareMeet]

theorem canonical_release {s : State} (h : Canonical s) (ag : Agent) : Canonical (s.release ag) :=
  canonical_advance h _

theorem canonical_mwaits {s : State} (h : Canonical s) (u g : Nat) : Canonical (s.mwaits u g) := by
  unfold State.mwaits
  grind [canonical_release, canonical_foldl]

theorem canonical_endLane {s : State} (h : Canonical s) (u g l : Nat) : Canonical (s.endLane u g l) := by
  unfold State.endLane
  grind [canonical_setGrp, canonical_setTeam, canonical_commitEarly, canonical_meetings, canonical_mwaits,
    canonical_frame, canonical_team, Team.memoryWf_frame]

theorem canonical_countRelease {s : State} (h : Canonical s) (ag : Agent) (dev : Bool) :
    Canonical (s.countRelease ag dev) := by
  unfold State.countRelease
  grind [canonical_setGrp, canonical_setTeam, canonical_team, Team.memoryWf_frame]

theorem canonical_releaseRdv {s : State} (h : Canonical s) (core c : Nat) : Canonical (s.releaseRdv core c) := by
  unfold State.releaseRdv
  grind [canonical_release, canonical_foldl]

theorem canonical_acquireAction {s : State} (h : Canonical s) (ag : Agent) (sc : Scope) :
    Canonical (s.acquireAction ag sc) := by
  unfold State.acquireAction
  grind [canonical_l1DropClean]

theorem canonical_releaseAction {s : State} (h : Canonical s) (ag : Agent) (sc : Scope) :
    Canonical (s.releaseAction ag sc) := by
  unfold State.releaseAction
  grind [canonical_l1WriteBackAll, canonical_countRelease]

/-! ## Condition codes -/

theorem canonical_flagIf {s : State} (hs : Canonical s) (ag : Agent) (h : Hdr) (c : CC) :
    Canonical (s.flagIf ag h c) := by
  unfold State.flagIf
  grind [canonical_setCC]

theorem canonical_result {s : State} (hs : Canonical s) (ag : Agent) (h : Hdr) (w64 : Bool) (d : Reg) (r : Nat) (c : CC) :
    Canonical (s.result ag h w64 d r c) :=
  canonical_flagIf (canonical_setRegN hs _ _ _ _) _ _ _

theorem canonical_resultRF {s : State} (hs : Canonical s) (ag : Agent) (h : Hdr) (w64 : Bool) (d : Reg) (r : Nat) :
    Canonical (s.resultRF ag h w64 d r) :=
  canonical_result hs _ _ _ _ _ _

/-! ## The frame of a form of one lane (R41, R51) -/

theorem canonical_raiseAs {s : State} (h : Canonical s) (ag : Agent) (dst : List Reg) (t : Trap) :
    Canonical (s.raiseAs ag dst t) :=
  canonical_raiseTrap (canonical_setTrap h _ _) _ _ _ _

theorem canonical_raise {s : State} (h : Canonical s) (ag : Agent) (i : Instr) (t : Trap) :
    Canonical (s.raise ag i t) :=
  canonical_raiseAs h _ _ _

theorem canonical_raiseSigned {s : State} (h : Canonical s) (ag : Agent) (t : Trap) :
    Canonical (s.raiseSigned ag t) := by
  unfold State.raiseSigned
  grind [canonical_raise, canonical_raiseAs]

/-- The state in which an instruction leaves its lane, before what follows it. -/
def LaneOut.state : LaneOut → State
  | .done s | .jump s _ | .park s _ | .stay s | .trap s _ => s

/-- The next state that an outcome gives, if it gives one, has its memory in canonical form. -/
def CanonicalNext (o : Out) : Prop := ∀ t, o = .next t → Canonical t

theorem canonicalNext_next {s : State} : CanonicalNext (.next s) ↔ Canonical s :=
  ⟨fun h => h s rfl, fun h _ heq => by cases heq; exact h⟩

theorem canonicalNext_fault (f : Fault) : CanonicalNext (.fault f) := fun _ heq => by cases heq

theorem canonicalNext_refused (x : Refusal) : CanonicalNext (.refused x) := fun _ heq => by cases heq

theorem canonical_run {o : LaneOut} (h : Canonical o.state) (i : Instr) (ag : Agent) : Canonical (o.run i ag) := by
  cases o with
  | done s => exact canonical_advance h ag
  | jump s t => exact canonical_transfer h ag t
  | park s p => exact canonical_parkOn h ag p
  | stay s => exact h
  | trap s t => exact canonical_raise h ag i t

theorem canonical_laneStep {f : Agent → State → LaneOut} (hf : ∀ ag s, Canonical s → Canonical (f ag s).state) {s : State}
    (h : Canonical s) (i : Instr) (ag : Agent) : Canonical (laneStep i f s ag) := by
  unfold laneStep
  grind [canonical_raise, canonical_run, canonical_advance]

theorem canonical_perLane {f : Agent → State → LaneOut} (hf : ∀ ag s, Canonical s → Canonical (f ag s).state) {s : State}
    (h : Canonical s) (i : Instr) : CanonicalNext (perLane i f s) :=
  canonicalNext_next.mpr (canonical_foldl (fun _ ag hs => canonical_laneStep hf hs i ag) h _)

theorem canonical_simple {f : Agent → State → State} (hf : ∀ ag s, Canonical s → Canonical (f ag s)) {s : State}
    (h : Canonical s) (i : Instr) : CanonicalNext (simple i f s) :=
  canonical_perLane (f := fun ag s => .done (f ag s)) hf h i

theorem canonical_cohort (i : Instr) {s : State} (h : Canonical s) : Canonical (cohort i s).1 := by
  unfold cohort
  grind [canonical_raise, canonical_advance, canonical_foldl_fst]

theorem canonical_stallRun {serve : Agent → State → Option State}
    (hserve : ∀ ag s t, Canonical s → serve ag s = some t → Canonical t) {s : State} (h : Canonical s) (i : Instr) (n : Nat)
    (ags : List Agent) : Canonical (stallRun i n serve ags s) := by
  unfold stallRun
  grind [canonical_foldl_fst, canonical_foldl, canonical_setPark, canonical_release]

theorem canonical_push {s : State} (h : Canonical s) (a : Access) : Canonical (s.push a) :=
  canonical_frame h

theorem canonical_later {s : State} (hs : Canonical s) (ag : Agent) (h : Hdr) (dst : List Reg) (vals : List Word)
    (c : Option CC) : Canonical (s.later ag h dst vals c) :=
  canonical_push hs _

/-! ## Bodies of collectives between lanes (R112 to R118) -/

theorem canonical_releaseAll {s : State} (h : Canonical s) (m : List Agent) : Canonical (s.releaseAll m) := by
  unfold State.releaseAll
  grind [canonical_release, canonical_foldl]

theorem canonical_trapAll {s : State} (h : Canonical s) (m : List Agent) (t : Trap) : Canonical (s.trapAll m t) := by
  unfold State.trapAll
  grind [canonical_raiseSigned, canonical_foldl]

theorem canonical_finish {s : State} (hs : Canonical s) (m : List Agent) (h : Hdr) (w64 : Bool) (d : Reg)
    (r : List (Nat × CC)) : Canonical (s.finish m h w64 d r) := by
  unfold State.finish
  grind [canonical_result, canonical_releaseAll, canonical_foldl]

theorem canonical_bodyVote (h : Hdr) (d a : Reg) (op : VoteOp) (m : List Agent) {s : State} (hs : Canonical s) :
    Canonical (bodyVote h d a op m s) :=
  canonical_finish hs _ _ _ _ _

theorem canonical_bodyShfl (h : Hdr) (d a b c : Reg) (op : ShflOp) (m : List Agent) {s : State} (hs : Canonical s) :
    Canonical (bodyShfl h d a b c op m s) :=
  canonical_finish hs _ _ _ _ _

theorem canonical_finishSome {s : State} (hs : Canonical s) (m : List Agent) (h : Hdr) (d : Reg)
    (w : List (Agent × Word)) (z : List Bool) : Canonical (s.finishSome m h d w z) := by
  unfold State.finishSome
  grind [canonical_setReg, canonical_flagIf, canonical_releaseAll, canonical_foldl]

theorem canonical_bodyVcomp (h : Hdr) (d a b : Reg) (m : List Agent) {s : State} (hs : Canonical s) :
    Canonical (bodyVcomp h d a b m s) :=
  canonical_finishSome hs _ _ _ _ _

theorem canonical_bodyVexp (h : Hdr) (d a b : Reg) (m : List Agent) {s : State} (hs : Canonical s) :
    Canonical (bodyVexp h d a b m s) :=
  canonical_finishSome hs _ _ _ _ _

theorem canonical_bodyIscan (h : Hdr) (d a : Reg) (op : ScanOp) (excl : Bool) (m : List Agent) {s : State}
    (hs : Canonical s) : Canonical (bodyIscan h d a op excl m s) :=
  canonical_finish hs _ _ _ _ _

theorem canonical_bodyIred (h : Hdr) (d a : Reg) (op : ScanOp) (m : List Agent) {s : State} (hs : Canonical s) :
    Canonical (bodyIred h d a op m s) :=
  canonical_finish hs _ _ _ _ _

end Sys2Proof.Machine
end

section
/-! SUPPORT. One access at its port (R175): what the steps of a port leave of the agents, where they change memory, and the
device step that performs an access alone on its way. -/

namespace Sys2Proof.Machine

open Sys2Proof.Safety

set_option Elab.async false

/-! ## Where agents sit -/

/-- What the place and the course of an access read of a team. -/
def Team.seat (x : Team) : Nat × Stage × Nat × TeamStat × Bool × Option (Nat × Nat) × Bool × Bool :=
  (x.launch, x.stage, x.core, x.stat, x.ckpt.isSome, x.payload, x.nonspec, x.desc.spans)

/-- A step leaves every agent its core and its park, all that places an access, and the host its bus errors. -/
structure Seats (s t : State) : Prop where
  seat : ∀ u, (t.team u).seat = (s.team u).seat
  core : ∀ u g, (t.grp u g).core = (s.grp u g).core
  park : ∀ u g l, (t.thr u g l).park = (s.thr u g l).park
  bctx : ∀ k c, t.bctx k c = s.bctx k c
  launches : t.launches = s.launches
  ctxs : t.ctxs = s.ctxs
  hostBad : t.hostBad = s.hostBad

theorem Seats.refl (s : State) : Seats s s :=
  ⟨fun _ => rfl, fun _ _ => rfl, fun _ _ _ => rfl, fun _ _ => rfl, rfl, rfl, rfl⟩

theorem Seats.trans {r s t : State} (h : Seats r s) (h' : Seats s t) : Seats r t where
  seat u := (h'.seat u).trans (h.seat u)
  core u g := (h'.core u g).trans (h.core u g)
  park u g l := (h'.park u g l).trans (h.park u g l)
  bctx k c := (h'.bctx k c).trans (h.bctx k c)
  launches := h'.launches.trans h.launches
  ctxs := h'.ctxs.trans h.ctxs
  hostBad := h'.hostBad.trans h.hostBad

/-- A step that writes none of their tables. -/
theorem Seats.of_parts {s t : State} (hteams : t.teams = s.teams := by rfl) (hcores : t.cores = s.cores := by rfl)
    (hlaunches : t.launches = s.launches := by rfl) (hctxs : t.ctxs = s.ctxs := by rfl)
    (hhost : t.hostBad = s.hostBad := by rfl) : Seats s t where
  seat u := by rw [State.team, State.team, hteams]
  core u g := by rw [State.grp, State.grp, State.team, State.team, hteams]
  park u g l := by rw [State.thr, State.thr, State.grp, State.grp, State.team, State.team, hteams]
  bctx k c := by rw [State.bctx, State.bctx, State.core, State.core, hcores]
  launches := hlaunches
  ctxs := hctxs
  hostBad := hhost

theorem Seats.ite {c : Prop} [Decidable c] {s t t' : State} (h : Seats s t) (h' : Seats s t') : Seats s (if c then t else t') := by
  split
  · exact h
  · exact h'

theorem Seats.foldl {α : Type} {f : State → α → State} (h : ∀ s a, Seats s (f s a)) (s : State) (l : List α) :
    Seats s (l.foldl f s) :=
  List.foldlRecOn l f (Seats.refl s) (fun _ hs a _ => hs.trans (h _ a))

theorem seats_setTeam {s : State} {u : Nat} {x : Team} (hseat : x.seat = (s.team u).seat := by rfl)
    (hgroups : x.groups = (s.team u).groups := by rfl) : Seats s (s.setTeam u x) := by
  have hteam (v : Nat) : ((s.setTeam u x).team v).seat = (s.team v).seat ∧
      ((s.setTeam u x).team v).groups = (s.team v).groups := by
    by_cases hv : v = u
    · subst hv
      rw [State.team_setTeam]
      exact ⟨hseat, hgroups⟩
    · rw [State.team_setTeam_ne _ _ hv]
      exact ⟨rfl, rfl⟩
  have hgrp (v g : Nat) : (s.setTeam u x).grp v g = s.grp v g := by
    rw [State.grp, State.grp, Team.grp, Team.grp, (hteam v).2]
  exact ⟨fun v => (hteam v).1, fun v g => by rw [hgrp], fun v g l => by rw [State.thr, State.thr, hgrp], fun _ _ => rfl,
    rfl, rfl, rfl⟩

theorem seats_setGrp {s : State} {u g : Nat} {x : Group} (hcore : x.core = (s.grp u g).core := by rfl)
    (hpark : ∀ l, (x.thr l).park = (s.thr u g l).park := by intro l; rfl) : Seats s (s.setGrp u g x) := by
  have hgrp (v k : Nat) : ((s.setGrp u g x).grp v k).core = (s.grp v k).core ∧
      ∀ l, (((s.setGrp u g x).grp v k).thr l).park = ((s.grp v k).thr l).park := by
    rw [State.grp_setGrp_any]
    split
    · next h => obtain ⟨rfl, rfl⟩ := h; exact ⟨hcore, hpark⟩
    · exact ⟨rfl, fun _ => rfl⟩
  refine ⟨fun v => ?_, fun v k => (hgrp v k).1, fun v k l => (hgrp v k).2 l, fun _ _ => rfl, rfl, rfl, rfl⟩
  rw [State.team_setGrp]
  rfl

section Seats
variable {s t : State} (h : Seats s t)
include h

theorem Seats.uidOf (ag : Agent) : t.uidOf ag = s.uidOf ag := by
  cases ag with
  | thread u g l => rfl
  | ctx k c => exact congrArg BCtx.uid (h.bctx k c)

theorem Seats.coreOf (ag : Agent) : t.coreOf ag = s.coreOf ag := by
  cases ag with
  | thread u g l => exact h.core u g
  | ctx k c => rfl

theorem Seats.park_eq (ag : Agent) : t.park ag = s.park ag := by
  cases ag with
  | thread u g l => exact h.park u g l
  | ctx k c => exact congrArg BCtx.park (h.bctx k c)

theorem Seats.seat_eq (u : Nat) : (t.team u).launch = (s.team u).launch ∧ (t.team u).stage = (s.team u).stage ∧
    (t.team u).core = (s.team u).core ∧ (t.team u).stat = (s.team u).stat ∧
    (t.team u).ckpt.isSome = (s.team u).ckpt.isSome ∧ (t.team u).payload = (s.team u).payload ∧
    (t.team u).nonspec = (s.team u).nonspec ∧ (t.team u).desc.spans = (s.team u).desc.spans := by
  simpa [Team.seat, Prod.ext_iff] using h.seat u

theorem Seats.place (ag : Agent) (x : Space) (ea : Nat) : t.place ag x ea = s.place ag x ea := by
  obtain ⟨hlaunch, -, hcore, -, -, hpayload, -, -⟩ := h.seat_eq (s.uidOf ag)
  simp only [State.place, State.side, State.ctxNo, State.launch, State.ctx, h.uidOf, h.coreOf, h.launches, h.ctxs, hlaunch,
    hcore, hpayload]

theorem Seats.placeOf (a : Access) (i : Nat) : t.placeOf a i = s.placeOf a i := by
  simp only [State.placeOf, h.place]

theorem Seats.holds (u : Nat) : t.holds u = s.holds u := by
  obtain ⟨hlaunch, -, -, -, hckpt, -, hnonspec, -⟩ := h.seat_eq u
  simp only [State.holds, State.speculative, State.launch, h.launches, hlaunch, hckpt, hnonspec]

theorem Seats.busError (l : Loc) (n : Nat) : t.busError l n = s.busError l n := by
  cases l with
  | host a c => simp only [State.busError, State.poisoned, h.hostBad]
  | _ => rfl

theorem Seats.direct (u : Nat) : t.direct u = s.direct u := by
  obtain ⟨hlaunch, -, -, -, -, -, hnonspec, -⟩ := h.seat_eq u
  simp only [State.direct, State.launch, h.launches, hlaunch, hnonspec]

end Seats

/-! ### The steps of a port -/

theorem seats_setCore {s : State} {n : Nat} {x : Core} (hctxs : x.ctxs = (s.core n).ctxs := by rfl) : Seats s (s.setCore n x) where
  seat _ := rfl
  core _ _ := rfl
  park _ _ _ := rfl
  bctx k c := by
    by_cases hk : k = n
    · subst hk
      rw [State.bctx, State.bctx, State.core_setCore, Core.ctx, Core.ctx, hctxs]
    · rw [State.bctx, State.bctx, State.core_setCore_ne _ _ hk]
  launches := rfl
  ctxs := rfl
  hostBad := rfl

theorem Team.seat_scrWrite (x : Team) (sd : Bool) (o n v : Nat) : (x.scrWrite sd o n v).seat = x.seat := by
  cases sd <;> simp [Team.seat, Team.scrWrite]

theorem seats_rawWrite (s : State) (l : Loc) (n x : Nat) : Seats s (s.rawWrite l n x) := by
  cases l with
  | hbm a => exact Seats.ite .of_parts (.refl s)
  | vault a => exact .of_parts
  | scr u sd o => exact seats_setTeam (Team.seat_scrWrite _ sd o n x) (by cases sd <;> rfl)
  | host a c => exact .of_parts

theorem seats_clearTag (s : State) (l : Loc) (n : Nat) : Seats s (s.clearTag l n) := by
  cases l with
  | hbm a => exact .of_parts
  | scr u sd o => exact Seats.ite seats_setTeam seats_setTeam
  | vault a => exact .refl s
  | host a c => exact .refl s

theorem seats_lineNote (s : State) (u pa n : Nat) (write : Bool) : Seats s (s.lineNote u pa n write) :=
  Seats.ite (.refl s) .of_parts

theorem seats_writeBack (s : State) (l : L1Line) : Seats s (s.writeBack l) := by
  have hraces (r : State) (es : List (Nat × Nat × Access)) : Seats r (r.trapRacing es) :=
    Seats.foldl (fun r _ => Seats.ite (.refl r) .of_parts) r es
  have hbytes (r : State) (is : List Nat) :
      Seats r (is.foldl (fun s i => s.hbmWrite (64 * l.line + i) 1 (l.byte i)) r) :=
    Seats.foldl (fun r i => seats_rawWrite r (.hbm _) _ _) r is
  refine (((hraces s _).trans (hbytes _ _)).trans .of_parts).trans (Seats.foldl (fun r k => ?_) _ _)
  exact (seats_lineNote r _ _ _ _).ite (seats_clearTag r _ _)

theorem seats_l1Clean (s : State) (core : Nat) (which : L1Line → Bool) (drop : Bool) :
    Seats s (s.l1Clean core which drop) := by
  refine Seats.trans (List.foldlRecOn (motive := fun q : State × List L1Line => Seats s q.1) (s.core core).l1 _
    (Seats.refl s) fun p hp l _ => ?_) seats_setCore
  split
  · have hline : Seats p.1 (p.1.cleanLine l drop).1 := by
      unfold State.cleanLine
      split <;> exact seats_writeBack p.1 l
    exact hp.trans hline
  · exact hp

theorem seats_countRelease (s : State) (ag : Agent) (dev : Bool) : Seats s (s.countRelease ag dev) := by
  have hteam (r : State) : Seats r (if dev then r.setTeam (r.uidOf ag) { r.team (r.uidOf ag) with
      rels := (r.team (r.uidOf ag)).rels + 1 } else r) := Seats.ite seats_setTeam (.refl r)
  refine Seats.trans ?_ (hteam _)
  cases ag with
  | ctx k c => exact .refl s
  | thread u g l =>
    refine seats_setGrp rfl fun j => ?_
    change ((Group.setThr _ l _).thr j).park = _
    rw [Group.thr_setThr]
    split
    · next h => subst h; rfl
    · rfl

theorem seats_releaseAction (s : State) (ag : Agent) (sc : Scope) : Seats s (s.releaseAction ag sc) :=
  (Seats.ite (seats_l1Clean _ _ _ _) (.refl s)).trans (seats_countRelease _ _ _)

theorem seats_atRelease (s : State) (a : Access) : Seats s (atRelease s a) :=
  Seats.ite (seats_releaseAction _ _ _) (.refl s)

theorem seats_raceAt (s : State) (a : Access) (l : Loc) (n : Nat) (write home : Bool) :
    Seats s (s.raceAt a l n write home).2 := by
  have hclear : Seats s (if write then s.clearTag l n else s) := Seats.ite (seats_clearTag _ _ _) (.refl s)
  unfold State.raceAt
  split
  · exact hclear
  split
  · unfold State.raceScr
    dsimp only
    split
    · exact seats_setTeam
    · exact seats_setTeam
  · split
    · exact seats_lineNote _ _ _ _ _
    · exact .refl s
  · exact hclear

theorem seats_tallyVault (s : State) (l : Loc) (reads writes : Bool) : Seats s (s.tallyVault l reads writes) := by
  cases l with
  | vault x => cases reads <;> cases writes <;> exact .of_parts
  | hbm | scr | host => exact .refl s

theorem seats_acquireAction (s : State) (ag : Agent) (sc : Scope) : Seats s (s.acquireAction ag sc) :=
  Seats.ite seats_setCore (.refl s)

/-! ## The memory that a port leaves -/

/-- A step that writes neither a memory nor a team's halves. -/
theorem sameMemory_of_parts {s t : State} (htick : t.tick = s.tick := by rfl) (hhbm : t.hbm = s.hbm := by rfl)
    (hvault : t.vault = s.vault := by rfl) (hhost : t.host = s.host := by rfl) (hteams : t.teams = s.teams := by rfl) :
    SameMemory s t := by
  intro l
  cases l with
  | hbm a => simp only [byteAt, State.rawRead, State.hbmRead, htick, hhbm]
  | vault a => simp only [byteAt, State.rawRead, hvault]
  | scr u sd o => simp only [byteAt, State.rawRead, State.team, hteams]
  | host a c => simp only [byteAt, State.rawRead, hhost]

theorem sameMemory_setTeam {s : State} {u : Nat} {x : Team} (hhalf : ∀ sd, x.half sd = (s.team u).half sd := by intro sd; rfl) :
    SameMemory s (s.setTeam u x) := by
  intro l
  cases l with
  | scr v sd o =>
    simp only [byteAt, State.rawRead]
    by_cases hv : v = u
    · subst hv
      rw [State.team_setTeam, hhalf]
    · rw [State.team_setTeam_ne _ _ hv]
  | hbm a => rfl
  | vault a => rfl
  | host a c => rfl

theorem sameMemory_clearTag (s : State) (l : Loc) (n : Nat) : SameMemory s (s.clearTag l n) := by
  cases l with
  | hbm a => exact sameMemory_of_parts
  | scr u sd o => cases sd <;> exact sameMemory_setTeam
  | vault a => exact fun _ => rfl
  | host a c => exact fun _ => rfl

theorem sameMemory_tallyVault (s : State) (l : Loc) (reads writes : Bool) : SameMemory s (s.tallyVault l reads writes) := by
  cases l with
  | vault x => cases reads <;> cases writes <;> exact sameMemory_of_parts
  | hbm | scr | host => exact fun _ => rfl

theorem sameMemory_acquireAction (s : State) (ag : Agent) (sc : Scope) : SameMemory s (s.acquireAction ag sc) := by
  have hdrop (c : Prop) [Decidable c] : SameMemory s (if c then s.l1DropClean (s.coreOf ag) else s) := by
    split
    · exact sameMemory_of_parts
    · exact fun _ => rfl
  exact hdrop _

theorem writesOnly_trans_same {s t r : State} {l : Loc} {n x : Nat} (h : WritesOnly s t l n x) (ht : SameMemory t r) :
    WritesOnly s r l n x :=
  ⟨fun i hi => (ht _).trans (h.1 i hi), fun m hm => (ht m).trans (h.2 m hm)⟩

theorem writesOnly_of_same {r s t : State} {l : Loc} {n x : Nat} (hs : SameMemory r s) (h : WritesOnly s t l n x) :
    WritesOnly r t l n x :=
  ⟨h.1, fun m hm => (h.2 m hm).trans (hs m)⟩

/-- The byte that a memory reads at a place. -/
theorem Memory.read_one (m : Memory) (a : Nat) : m.read a 1 = (m.byte a).toNat := by simp [Memory.read]

theorem Memory.read_write_in {m : Memory} {a n x i : Nat} (h : m.wf = true) (hi : i < n) :
    (m.write a n x).read (a + i) 1 = x / 256 ^ i % 256 := by
  rw [Memory.read_one, Memory.byte_write _ _ _ _ _ h, if_pos ⟨Nat.le_add_right _ _, by omega⟩, Nat.add_sub_cancel_left,
    BitVec.toNat_ofNat]

theorem Memory.read_write_off {m : Memory} {a n x b : Nat} (h : m.wf = true) (hb : ∀ i < n, b ≠ a + i) :
    (m.write a n x).read b 1 = m.read b 1 := by
  rw [Memory.read_one, Memory.read_one, Memory.byte_write_out _ _ _ _ _ h]
  by_contra hin
  exact hb (b - a) (by omega) (by omega)

theorem Team.half_scrWrite (t : Team) (sd e : Bool) (o n x : Nat) :
    (t.scrWrite sd o n x).half e = if e = sd then (t.half sd).write o n x else t.half e := by
  cases sd <;> cases e <;> rfl

/-- The bytes stored at a place that memory holds are there afterwards, and no other byte has changed (R175). -/
theorem rawWrite_writesOnly {s : State} (h : Canonical s) {l : Loc} {n : Nat} (hl : present l n) (x : Nat) :
    WritesOnly s (s.rawWrite l n x) l n x := by
  obtain ⟨hhbm, hvault, hhost, hteams⟩ := canonical_iff.mp h
  cases l with
  | hbm a =>
    have ha : a + n ≤ hbmSize := hl
    have hwrite : (s.rawWrite (.hbm a) n x) = s.hbmWrite a n x := rfl
    rw [hwrite, State.hbmWrite, if_pos ha]
    refine ⟨fun i hi => ?_, fun m hm => ?_⟩
    · have hai : a + i + 1 ≤ hbmSize := by omega
      simp only [byteAt, Loc.plus, State.rawRead, State.hbmRead, if_pos hai]
      exact Memory.read_write_in hhbm hi
    · cases m with
      | hbm b =>
        simp only [byteAt, State.rawRead, State.hbmRead]
        rw [Memory.read_write_off hhbm fun i hi hb => hm i hi (by rw [hb]; rfl)]
      | vault | scr | host => rfl
  | vault a =>
    refine ⟨fun i hi => Memory.read_write_in hvault hi, fun m hm => ?_⟩
    cases m with
    | vault b => exact Memory.read_write_off hvault fun i hi hb => hm i hi (by rw [hb]; rfl)
    | hbm | scr | host => rfl
  | host a c =>
    refine ⟨fun i hi => Memory.read_write_in hhost hi, fun m hm => ?_⟩
    cases m with
    | host b d => exact Memory.read_write_off hhost fun i hi hb => hm i hi (by rw [hb]; rfl)
    | hbm | scr | vault => rfl
  | scr u sd o =>
    have hhalf : ((s.team u).half sd).wf = true := by
      obtain ⟨hscr, hscr2, -⟩ := hteams u
      cases sd
      · exact hscr
      · exact hscr2
    refine ⟨fun i hi => ?_, fun m hm => ?_⟩
    · simp only [byteAt, Loc.plus, State.rawRead, State.rawWrite, State.team_setTeam, Team.half_scrWrite, if_true]
      exact Memory.read_write_in hhalf hi
    · cases m with
      | scr v e b =>
        simp only [byteAt, State.rawRead, State.rawWrite]
        by_cases hv : v = u
        · subst hv
          rw [State.team_setTeam, Team.half_scrWrite]
          split
          · next he =>
            subst he
            exact Memory.read_write_off hhalf fun i hi hb => hm i hi (by rw [hb]; rfl)
          · rfl
        · rw [State.team_setTeam_ne _ _ hv]
      | hbm | vault | host => rfl

/-! ## The device step of an access that is alone on its way (R175) -/

/-- An access is the only one on its way, of a running agent that holds nothing back, and its unit is free: it may reach its
port now, or go on there. -/
structure Alone (s : State) (a : Access) : Prop where
  only : s.accs = [a]
  stage : a.stage = .ready ∨ ∃ word, a.stage = .fetched word
  running : (s.team (s.uidOf a.ag)).stat = .running
  noTiles : s.tiles = []
  free : s.holds (s.uidOf a.ag) = false
  unit : s.unitBusy a.seq (s.placeOf a 0) = false

theorem atPort_alone {s : State} {a : Access} (h : AtPort s a) : Alone s a :=
  ⟨h.only, .inl h.ready, h.running, h.noTiles, h.free, h.unit⟩

section Alone
variable {s : State} {a : Access} (h : Alone s a)
include h

theorem Alone.find : s.accs.find? (fun b => b.id == a.id) = some a := by simp [h.only]

theorem Alone.notPast (hop : ∀ vs, a.op ≠ .known vs) : a.past = false := by
  have hop' : (match a.op with
      | .known _ => true
      | _ => false) = false := by
    cases hk : a.op with
    | known vs => exact absurd hk (hop vs)
    | _ => rfl
  rcases h.stage with hstage | ⟨word, hstage⟩ <;> (unfold Access.past; rw [hstage]; exact hop')

theorem Alone.portRun (hop : ∀ vs, a.op ≠ .known vs) (hmulti : a.op.multi = false) : s.portRun a = [a] := by
  have hplaces : ∃ l, l ∈ s.placesOf a := by
    unfold State.placesOf piecesOf
    split <;> exact ⟨_, List.mem_cons_self ..⟩
  obtain ⟨l, hl⟩ := hplaces
  have htouch : s.unplaced a = true ∨ ∃ x ∈ s.placesOf a, ∃ y ∈ s.placesOf a, y.unit = x.unit :=
    .inr ⟨l, hl, l, hl, rfl⟩
  simpa [State.portRun, h.only, h.notPast hop, hmulti] using htouch

theorem Alone.mayRun (hop : ∀ vs, a.op ≠ .known vs) (hmulti : a.op.multi = false) : s.mayRun a = true := by
  have hspec : s.speculative (s.uidOf a.ag) = false := by
    have := h.free
    simp only [State.holds, Bool.or_eq_false_iff] at this
    exact this.1
  have hperform : s.mayPerform a = true := by
    rcases h.stage with hstage | ⟨word, hstage⟩ <;>
      simp [State.mayPerform, hstage, State.accsOf, h.only, h.noTiles, h.unit]
  simp [State.mayRun, h.portRun hop hmulti, hperform, State.runFits, State.holdsFit, hspec]

/-- It is performed, and nothing follows but a sample of its latency, once it has its value or has left. -/
theorem Alone.portUpdate (hop : ∀ vs, a.op ≠ .known vs) (hmulti : a.op.multi = false) (half : Bool)
    (hpark : (s.performAcc a half).park a.ag = .run) :
    ∃ level, exec (.portUpdate a.id half) s = .next (if a.watched && s.performed (s.performAcc a half) a then
      (s.performAcc a half).watchAcc a level else s.performAcc a half) := by
  have hresume {t : State} (ht : t.park a.ag = .run) : t.resume a.ag = t := by
    have hstall : t.tryStall a.ag = t := by
      unfold State.tryStall
      split
      · next hp => simp [ht] at hp
      · rfl
    simp [State.resume, State.tryFence, State.tryEnd, ht, hstall]
  have hone : ∃ level, s.performOne half a.id = if a.watched && s.performed (s.performAcc a half) a then
      (s.performAcc a half).watchAcc a level else s.performAcc a half := by
    rw [State.performOne, h.find]
    refine ⟨s.levelOf a (s.hitsL1 a (s.placeOf a 0)) (s.placeOf a 0), hresume ?_⟩
    split
    · exact hpark
    · exact hpark
  obtain ⟨level, hlevel⟩ := hone
  have hacts : s.acts a = true := by simp [State.acts, h.running]
  refine ⟨level, ?_⟩
  change execPortUpdate a.id half s = _
  simp only [execPortUpdate, h.find, hacts, hmulti, h.mayRun hop hmulti, h.portRun hop hmulti, State.performRun,
    List.map_cons, List.map_nil, hlevel]
  simp

/-- The same, but for what the monitors sample. -/
theorem Alone.portUpdate_dies (hop : ∀ vs, a.op ≠ .known vs) (hmulti : a.op.multi = false) (half : Bool)
    (hpark : (s.performAcc a half).park a.ag = .run) :
    ∃ ds, exec (.portUpdate a.id half) s = .next { s.performAcc a half with dies := ds } := by
  obtain ⟨level, hexec⟩ := h.portUpdate hop hmulti half hpark
  split at hexec
  · exact ⟨_, hexec⟩
  · exact ⟨_, hexec⟩

end Alone

end Sys2Proof.Machine
end

section
/-! SUPPORT. A core's copy of a line (R172): what the bytes of a line become when some are replaced, and what the core reads of a
line to which it has just stored. -/

namespace Sys2Proof.Machine

open Sys2Proof.Safety

set_option Elab.async false

/-! ## The bits of a line -/

/-- A field of a number, where it stands. -/
theorem and_field (x p k : Nat) : x &&& (2 ^ k - 1) * 2 ^ p = 2 ^ p * (x / 2 ^ p % 2 ^ k) := by
  refine Nat.eq_of_testBit_eq fun j => ?_
  rw [Nat.mul_comm _ (2 ^ p), Nat.testBit_and, Nat.testBit_two_pow_mul, Nat.testBit_two_pow_mul, Nat.testBit_two_pow_sub_one,
    Nat.testBit_mod_two_pow, Nat.testBit_div_two_pow]
  by_cases hj : p ≤ j
  · rw [Nat.sub_add_cancel hj]
    cases x.testBit j <;> simp
  · simp [hj]

/-- A number in which k bits from bit p have been replaced. -/
theorem replace_field (x p k y : Nat) :
    x - x / 2 ^ p % 2 ^ k * 2 ^ p + y * 2 ^ p = 2 ^ p * (2 ^ k * (x / 2 ^ p / 2 ^ k) + y) + x % 2 ^ p := by
  have hlow := Nat.div_add_mod x (2 ^ p)
  have hhigh := Nat.div_add_mod (x / 2 ^ p) (2 ^ k)
  generalize x / 2 ^ p / 2 ^ k = c at *
  generalize x / 2 ^ p % 2 ^ k = e at *
  generalize x % 2 ^ p = b at *
  rw [← hlow, ← hhigh, Nat.mul_add, Nat.mul_add, Nat.mul_comm e, Nat.mul_comm y]
  omega

/-- The bits of such a number. -/
theorem testBit_replace_field (x p k y j : Nat) :
    (x - x / 2 ^ p % 2 ^ k * 2 ^ p + y % 2 ^ k * 2 ^ p).testBit j =
      if p ≤ j ∧ j < p + k then y.testBit (j - p) else x.testBit j := by
  have hlow : x % 2 ^ p < 2 ^ p := Nat.mod_lt _ (Nat.two_pow_pos _)
  have hmid : y % 2 ^ k < 2 ^ k := Nat.mod_lt _ (Nat.two_pow_pos _)
  rw [replace_field, Nat.testBit_two_pow_mul_add _ hlow, Nat.testBit_two_pow_mul_add _ hmid]
  by_cases h1 : j < p
  · rw [if_pos h1, if_neg (by omega), Nat.testBit_mod_two_pow, decide_eq_true h1, Bool.true_and]
  · rw [if_neg h1]
    by_cases h2 : j - p < k
    · rw [if_pos h2, if_pos (by omega), Nat.testBit_mod_two_pow, decide_eq_true h2, Bool.true_and]
    · rw [if_neg h2, if_neg (by omega), Nat.testBit_div_two_pow, Nat.testBit_div_two_pow]
      congr 1
      omega

/-- The bits of a line some bytes of which have been replaced. -/
theorem getLsbD_putBits (d : BitVec 512) (o n x : Nat) {j : Nat} (hj : j < 512) :
    (putBits d o n x).getLsbD j = if 8 * o ≤ j ∧ j < 8 * o + 8 * n then x.testBit (j - 8 * o) else d.getLsbD j := by
  rw [putBits, BitVec.getLsbD_ofNat, decide_eq_true hj, Bool.true_and, and_field, Nat.mul_comm (2 ^ (8 * o)),
    testBit_replace_field]
  rfl

/-- Bytes replaced one by one. -/
theorem getLsbD_putBytes (f : Nat → Nat) (is : List Nat) (d : BitVec 512) {j : Nat} (hj : j < 512) :
    (is.foldl (fun d i => putBits d i 1 (f i)) d).getLsbD j =
      if j / 8 ∈ is then (f (j / 8)).testBit (j % 8) else d.getLsbD j := by
  induction is generalizing d with
  | nil => simp
  | cons i is ih =>
    rw [List.foldl_cons, ih, getLsbD_putBits d i 1 _ hj]
    by_cases hi : j / 8 = i
    · subst hi
      have hin : 8 * (j / 8) ≤ j ∧ j < 8 * (j / 8) + 8 * 1 := by omega
      have hsub : j - 8 * (j / 8) = j % 8 := by omega
      simp [hin, hsub]
    · have hout : ¬(8 * i ≤ j ∧ j < 8 * i + 8 * 1) := by omega
      simp [hi, hout]

/-- The dirty bytes of a line laid over another copy stay what they were. -/
theorem getLsbD_over (l h : L1Line) {j : Nat} (hj : j < 512) (hdirty : l.dirty.getLsbD (j / 8) = true) :
    (l.over h).data.getLsbD j = l.data.getLsbD j := by
  have hmem : j / 8 ∈ l.dirtyBytes := List.mem_filter.mpr ⟨List.mem_range.mpr (by omega), hdirty⟩
  rw [L1Line.over, getLsbD_putBytes l.byte _ _ hj, if_pos hmem, L1Line.byte, testBit_bitf, decide_eq_true (by omega),
    Bool.true_and, BitVec.getLsbD]
  congr 1
  omega

/-! ## The copy to which a core has stored (R172) -/

/-- A line holds n bytes at o, dirty and equal to those of x. -/
def L1Line.Holds (l : L1Line) (o n x : Nat) : Prop :=
  (∀ j, 8 * o ≤ j → j < 8 * o + 8 * n → l.data.getLsbD j = x.testBit (j - 8 * o)) ∧
    ∀ i, o ≤ i → i < o + n → l.dirty.getLsbD i = true

theorem L1Line.Holds.bitf {l : L1Line} {o n x : Nat} (h : l.Holds o n x) :
    Machine.bitf l.data.toNat (8 * o) (8 * n) = x % 2 ^ (8 * n) := by
  refine Nat.eq_of_testBit_eq fun j => ?_
  rw [testBit_bitf, Nat.testBit_mod_two_pow]
  by_cases hj : j < 8 * n
  · have := h.1 (8 * o + j) (by omega) (by omega)
    rw [BitVec.getLsbD, Nat.add_sub_cancel_left] at this
    rw [this]
  · simp [hj]

theorem L1Line.Holds.over {l : L1Line} {o n x : Nat} (h : l.Holds o n x) (ho : o + n ≤ 64) (home : L1Line) :
    (l.over home).Holds o n x :=
  ⟨fun j hlo hhi => (getLsbD_over l home (by omega) (h.2 _ (by omega) (by omega))).trans (h.1 j hlo hhi), h.2⟩

/-- A line put in place of those of its number is the one found. -/
theorem find?_replaced {ls : List L1Line} {l : L1Line} (hany : ls.any (fun x => x.line == l.line) = true) :
    (ls.map fun x => if x.line == l.line then l else x).find? (fun x => x.line == l.line) = some l := by
  obtain ⟨y, hy, hline⟩ := List.any_eq_true.mp hany
  have hput : (fun x : L1Line => (if x.line == l.line then l else x).line == l.line) = fun x => x.line == l.line := by
    funext x
    by_cases hx : (x.line == l.line) = true
    · simp [hx]
    · rw [if_neg hx]
  rw [List.find?_map, Function.comp_def, hput]
  cases hfind : ls.find? (fun x => x.line == l.line) with
  | none => exact absurd hline (List.find?_eq_none.mp hfind y hy)
  | some z =>
    have hz := List.find?_some hfind
    exact congrArg some (if_pos hz)

/-- The line that L1 has been given is the one found. -/
theorem l1Find_l1Put (s : State) (core : Nat) (l : L1Line) : (s.l1Put core l).l1Find core l.line = some l := by
  unfold State.l1Put
  dsimp only
  split
  · next hany =>
    rw [State.l1Find, State.core_setCore]
    exact find?_replaced hany
  · next hany =>
    have hnone : ∀ y ∈ (s.core core).l1, (y.line == l.line) = false := by simpa using hany
    split
    · simp only [State.l1Find, State.core_setCore, List.find?_append]
      rw [List.find?_eq_none.mpr fun y hy => by simp [hnone y hy]]
      simp
    · split
      · simp [State.l1Find]
      · next old t hl1 =>
        rw [hl1] at hnone
        simp only [State.l1Find, State.core_setCore, List.find?_append]
        rw [List.find?_eq_none.mpr fun y hy => by simp [hnone y (List.mem_cons_of_mem _ hy)]]
        simp

/-- A store in L1 leaves its bytes dirty in the copy of the line. -/
theorem l1Write_holds (s : State) (core u pa n x : Nat) (src : Option Access) (ho : pa % 64 + n ≤ 64) :
    ∃ l, (s.l1Write core u pa n x src).l1Find core (pa / 64) = some l ∧ l.Holds (pa % 64) n x := by
  unfold State.l1Write
  extract_lets r l o kept
  have hline : l.line = pa / 64 := by
    simp only [l]
    split
    · next y hy => exact beq_iff_eq.mp (List.find?_some (p := fun y : L1Line => y.line == pa / 64) hy)
    · rfl
  clear_value r l
  have hput (y : L1Line) (hy : y.line = pa / 64) : (r.l1Put core y).l1Find core (pa / 64) = some y :=
    hy ▸ l1Find_l1Put r core y
  refine ⟨_, hput _ hline, fun j hlo hhi => ?_, fun i hlo hhi => ?_⟩
  · change (putBits l.data o n x).getLsbD j = _
    rw [getLsbD_putBits _ _ _ _ (by omega), if_pos ⟨hlo, hhi⟩]
  · change (l.dirty ||| BitVec.ofNat 64 ((2 ^ n - 1) * 2 ^ o)).getLsbD i = true
    have hi : i < 64 := by omega
    have hin : i - pa % 64 < n := by omega
    rw [BitVec.getLsbD_or, BitVec.getLsbD_ofNat, Nat.mul_comm, Nat.testBit_two_pow_mul, Nat.testBit_two_pow_sub_one]
    simp [hi, hin, hlo, o]

/-- The acquire action keeps a line that has a dirty byte, and its dirty bytes (R361). -/
theorem l1Find_l1DropClean {s : State} {core line : Nat} {l : L1Line} (hfind : s.l1Find core line = some l)
    (hdirty : l.dirty ≠ 0) : ∃ h, (s.l1DropClean core).l1Find core line = some (l.over h) := by
  refine ⟨s.homeLine l.line l.uid, ?_⟩
  have hover (x : L1Line) : ((x.over (s.homeLine x.line x.uid)).line == line) = (x.line == line) := rfl
  rw [State.l1DropClean, State.l1Find, State.core_setCore]
  simp only [List.find?_map, Function.comp_def, hover, List.find?_filter]
  obtain ⟨hline, before, after, hl1, hbefore⟩ := List.find?_eq_some_iff_append.mp hfind
  have hstays : (s.core core).l1.find? (fun x => decide ((x.dirty != 0) = true ∧ (x.line == line) = true)) = some l :=
    List.find?_eq_some_iff_append.mpr ⟨decide_eq_true ⟨bne_iff_ne.mpr hdirty, hline⟩, before, after, hl1, fun y hy => by
      have := hbefore y hy
      simp only [Bool.not_eq_true'] at this
      simp [this]⟩
  rw [hstays]
  rfl

end Sys2Proof.Machine
end

section
/-! SUPPORT. A store at its port (R172, R175, R178): what it writes at home, and what its core then reads from its own copy of
the line; and with it the statement about stores. -/

namespace Sys2Proof.Machine

open Sys2Proof.Safety

set_option Elab.async false

/-! ## Bytes of a value -/

/-- A byte of a field of bytes is a byte of the number. -/
theorem byte_bitf (x p : Nat) {n i : Nat} (hi : i < n) :
    bitf x (8 * p) (8 * n) / 256 ^ i % 256 = x / 256 ^ (p + i) % 256 := by
  have hpow (k : Nat) : 256 ^ k = 2 ^ (8 * k) := by rw [pow_mul]; rfl
  have h256 : (256 : Nat) = 2 ^ 8 := rfl
  refine Nat.eq_of_testBit_eq fun j => ?_
  rw [hpow, hpow, h256, Nat.testBit_mod_two_pow, Nat.testBit_mod_two_pow, Nat.testBit_div_two_pow, Nat.testBit_div_two_pow,
    testBit_bitf]
  by_cases hj : j < 8
  · have hin : j + 8 * i < 8 * n := by omega
    rw [decide_eq_true hin, Bool.true_and, show 8 * p + (j + 8 * i) = j + 8 * (p + i) by ring]
  · simp [hj]

/-- The bytes that a port writes are the first n of the number. -/
theorem writesOnly_bitf {s t : State} {l : Loc} {n x : Nat} (h : WritesOnly s t l n (bitf x 0 (8 * n))) :
    WritesOnly s t l n x :=
  ⟨fun i hi => (h.1 i hi).trans (by simpa using byte_bitf x 0 hi), h.2⟩

theorem bare_plus_inj (l : Loc) {i j : Nat} (h : bare (l.plus i) = bare (l.plus j)) : i = j := by
  cases l <;> simpa [bare, Loc.plus] using h

theorem plus_plus (l : Loc) (i j : Nat) : (l.plus i).plus j = l.plus (i + j) := by
  cases l <;> simp [Loc.plus, Nat.add_assoc]

/-- Two halves of a run of 16 bytes, written one after the other, in either order. -/
theorem writesOnly_halves {s t r : State} {l : Loc} {i x : Nat} (hi : i < 2)
    (h : WritesOnly s t (l.plus (8 * i)) 8 (bitf x (8 * (8 * i)) (8 * 8)))
    (h' : WritesOnly t r (l.plus (8 * (1 - i))) 8 (bitf x (8 * (8 * (1 - i))) (8 * 8))) : WritesOnly s r l 16 x := by
  obtain ⟨hin, hout⟩ := h
  obtain ⟨hin', hout'⟩ := h'
  simp only [plus_plus] at hin hout hin' hout'
  refine ⟨fun k hk => ?_, fun m hm => ?_⟩
  · by_cases hlast : 8 * (1 - i) ≤ k ∧ k < 8 * (1 - i) + 8
    · have hj : k - 8 * (1 - i) < 8 := by omega
      have := hin' _ hj
      rwa [byte_bitf x _ hj, Nat.add_sub_cancel' hlast.1] at this
    · have hj : k - 8 * i < 8 := by omega
      have hle : 8 * i ≤ k := by omega
      have hkeep := hout' (l.plus k) fun j hj' heq => by have := bare_plus_inj l heq; omega
      have := hin _ hj
      rw [byte_bitf x _ hj, Nat.add_sub_cancel' hle] at this
      rw [hkeep, this]
  · exact (hout' m fun j hj => hm _ (by omega)).trans (hout m fun j hj => hm _ (by omega))

/-! ## A store at home (R175) -/

section Home
variable {s : State} {a : Access}

/-- The undo area of a team that holds nothing back needs no room for its rows. -/
theorem roomAt_placeOf (h : s.holds (s.uidOf a.ag) = false) (i n : Nat) : s.roomAt (s.placeOf a i) n = s := by
  have hckpt : (s.team (s.uidOf a.ag)).ckpt = none := by
    simp only [State.holds, Bool.or_eq_false_iff, Option.isSome_eq_false_iff, Option.isNone_iff_eq_none] at h
    exact h.2
  unfold State.placeOf
  split
  · rfl
  · unfold State.place
    cases a.space with
    | sp | psp => simp [State.roomAt, hckpt]
    | karg => cases (s.team (s.uidOf a.ag)).payload <;> rfl
    | _ => rfl

theorem noteDirect_of_not_direct {u : Nat} (h : s.direct u = false) (l : Loc) : s.noteDirect u l = s := by
  simp [State.noteDirect, h]

theorem seats_flushLoc (s : State) (core : Nat) (l : Loc) : Seats s (s.flushLoc core l) := by
  cases l with
  | hbm pa => exact seats_l1Clean s core _ true
  | vault | scr | host => exact .refl s

/-- A store that reaches home, and does not race, is written there once its core's copy of the line has left. -/
theorem portStore_home (hholds : s.holds (s.uidOf a.ag) = false) (hdirect : s.direct (s.uidOf a.ag) = false) {i n : Nat}
    (hhome : a.nl1 = true ∨ ∀ pa, s.placeOf a i ≠ .hbm pa)
    (hrace : ((s.raceAt a (s.placeOf a i) n true true).1 && !a.racy) = false)
    (hbus : s.busError (s.placeOf a i) n = false) (y : Nat) :
    s.portStore a (s.placeOf a i) n y = .ok ((((s.raceAt a (s.placeOf a i) n true true).2.flushLoc (s.coreOf a.ag)
      (s.placeOf a i)).tallyVault (s.placeOf a i) false true).rawWrite (s.placeOf a i) n y) 0 := by
  have hroom := roomAt_placeOf hholds i n
  generalize s.placeOf a i = l at *
  have hnote {t : State} (ht : Seats s t) : t.noteDirect (s.uidOf a.ag) l = t :=
    noteDirect_of_not_direct (by rw [ht.direct, hdirect]) l
  have hraced := seats_raceAt s a l n true true
  cases l with
  | hbm pa =>
    have hnl1 : a.nl1 = true := hhome.resolve_right fun hplace => hplace pa rfl
    have hpast : s.pastL1 a = true := by rw [State.pastL1, hnl1, Bool.true_or]
    have hflushed := hraced.trans (seats_flushLoc _ (s.coreOf a.ag) (.hbm pa))
    simp only [State.portStore, hroom, hholds, hpast, hbus, hrace, Bool.false_and, Bool.false_or, Bool.true_or,
      Bool.false_eq_true, if_false, if_true]
    exact congrArg (fun t => PieceOut.ok (State.rawWrite t (.hbm pa) n y) 0) (hnote hflushed)
  | vault | scr | host =>
    simp only [State.portStore, hroom, hholds, hbus, hrace, Bool.false_and, Bool.false_or, Bool.or_true,
      Bool.false_eq_true, if_false, hnote hraced]
    rfl

/-- Such a store writes its bytes and no other. -/
theorem portStore_writes (hcanon : Canonical s) (hholds : s.holds (s.uidOf a.ag) = false)
    (hdirect : s.direct (s.uidOf a.ag) = false) {i n : Nat} (hhome : a.nl1 = true ∨ ∀ pa, s.placeOf a i ≠ .hbm pa)
    (hrace : ((s.raceAt a (s.placeOf a i) n true true).1 && !a.racy) = false)
    (hbus : s.busError (s.placeOf a i) n = false) (hpresent : present (s.placeOf a i) n) (y : Nat) :
    ∃ t, s.portStore a (s.placeOf a i) n y = .ok t 0 ∧ Seats s t ∧ Canonical t ∧
      WritesOnly ((s.raceAt a (s.placeOf a i) n true true).2.flushLoc (s.coreOf a.ag) (s.placeOf a i)) t (s.placeOf a i) n y := by
  refine ⟨_, portStore_home hholds hdirect hhome hrace hbus y, ?_, ?_, ?_⟩
  · exact (((seats_raceAt _ _ _ _ _ _).trans (seats_flushLoc _ _ _)).trans (seats_tallyVault _ _ _ _)).trans
      (seats_rawWrite _ _ _ _)
  · exact canonical_rawWrite (canonical_tallyVault (canonical_flushLoc (canonical_raceAt hcanon _ _ _ _ _) _ _) _ _ _) _ _ _
  · exact writesOnly_of_same (sameMemory_tallyVault _ _ _ _)
      (rawWrite_writesOnly (canonical_tallyVault (canonical_flushLoc (canonical_raceAt hcanon _ _ _ _ _) _ _) _ _ _) hpresent y)

end Home

/-! ## What follows a store at its port (R178, R179) -/

/-- A store has left: the acquire of an ordered one, and the access is gone. -/
theorem endAcc_store (s : State) {a : Access} {x : Nat} (hop : a.op = .store x) (v : Nat) :
    SameMemory s (s.endAcc a v) ∧ Seats s (s.endAcc a v) ∧ ∀ b ∈ (s.endAcc a v).accs, b.id ≠ a.id := by
  have hacquire : SameMemory s (if a.ord == .acq || a.ord == .ar then s.acquireAction a.ag a.scope else s) ∧
      Seats s (if a.ord == .acq || a.ord == .ar then s.acquireAction a.ag a.scope else s) := by
    split
    · exact ⟨sameMemory_acquireAction _ _ _, seats_acquireAction _ _ _⟩
    · exact ⟨fun _ => rfl, .refl s⟩
  obtain ⟨hmemory, hseats⟩ := hacquire
  unfold State.endAcc
  rw [hop]
  refine ⟨sameMemory_trans hmemory sameMemory_of_parts, hseats.trans .of_parts, fun b hb => ?_⟩
  simpa using (List.mem_filter.mp hb).2

/-- What a store left in its core's copy is there once it is over. -/
theorem endAcc_store_l1 {s : State} {a : Access} {x : Nat} (hop : a.op = .store x) (v : Nat) {line o n y : Nat} {l : L1Line}
    (hfind : s.l1Find (s.coreOf a.ag) line = some l) (hholds : l.Holds o n y) (hfit : o + n ≤ 64) (hpos : 0 < n) :
    ∃ k, (s.endAcc a v).l1Find (s.coreOf a.ag) line = some k ∧ k.Holds o n y := by
  have hdirty : l.dirty ≠ 0 := fun h0 => by simpa [h0] using hholds.2 o (Nat.le_refl o) (by omega)
  obtain ⟨home, hdrop⟩ := l1Find_l1DropClean hfind hdirty
  have hacquire : ∃ k, (if a.ord == .acq || a.ord == .ar then s.acquireAction a.ag a.scope else s).l1Find (s.coreOf a.ag) line =
      some k ∧ k.Holds o n y := by
    have hwide (c : Prop) [Decidable c] : ∃ k, (if c then s.l1DropClean (s.coreOf a.ag) else s).l1Find (s.coreOf a.ag) line =
        some k ∧ k.Holds o n y := by
      split
      · exact ⟨_, hdrop, hholds.over hfit home⟩
      · exact ⟨l, hfind, hholds⟩
    split
    · exact hwide _
    · exact ⟨l, hfind, hholds⟩
  unfold State.endAcc
  rw [hop]
  exact hacquire

/-- A step through a list that leaves something alone leaves it alone in the end. -/
theorem foldl_keeps {α β : Type} (p : State → β) {f : State → α → State} (h : ∀ s a, p (f s a) = p s) (s : State) (l : List α) :
    p (l.foldl f s) = p s :=
  List.foldlRecOn (motive := fun t => p t = p s) l f rfl fun t ht a _ => (h t a).trans ht

theorem cores_writeBack (s : State) (l : L1Line) : (s.writeBack l).cores = s.cores := by
  have hraces (r : State) (es : List (Nat × Nat × Access)) : (r.trapRacing es).cores = r.cores :=
    foldl_keeps State.cores (fun r e => by split <;> rfl) r es
  have hbytes (r : State) (is : List Nat) :
      (is.foldl (fun s i => s.hbmWrite (64 * l.line + i) 1 (l.byte i)) r).cores = r.cores :=
    foldl_keeps State.cores (fun r i => by unfold State.hbmWrite; split <;> rfl) r is
  refine (foldl_keeps State.cores (fun r k => ?_) _ _).trans ((hbytes _ _).trans (hraces _ _))
  split
  · unfold State.lineNote; split <;> rfl
  · rfl

theorem seats_l1Put (s : State) (core : Nat) (l : L1Line) : Seats s (s.l1Put core l) := by
  refine Seats.ite seats_setCore (Seats.ite seats_setCore ?_)
  split
  · exact seats_setCore
  · exact (seats_writeBack s _).trans (seats_setCore (by rw [State.core, State.core, cores_writeBack]))

theorem seats_l1Write (s : State) (core u pa n x : Nat) (src : Option Access) : Seats s (s.l1Write core u pa n x src) := by
  refine Seats.trans ?_ (seats_l1Put _ core _)
  split
  · exact Seats.ite (seats_l1Clean _ _ _ _) (.refl s)
  · exact .refl s

section Perform
variable {s : State} {a : Access} (h : AtPort s a)
include h

/-- An access that has just become ready takes its release action first, and then reaches its port. -/
theorem performAcc_atPort (half : Bool) : s.performAcc a half =
    if a.len = 16 then (atRelease s a).performWide a half
    else match (atRelease s a).placeOf a 0, a.op with
      | .host hpa false, .upd op x => (atRelease s a).performSplit a hpa (.upd op) x
      | .host hpa false, .cas e x => (atRelease s a).performSplit a hpa (.cas e) x
      | l, _ => ((atRelease s a).portPiece a l a.len 0).settle (atRelease s a) a 0 (fun t x => t.endAcc a x) := by
  have hrelease : (if a.ord == .rel || a.ord == .ar then
      (match a.stage with
        | .half _ | .fetched _ => s
        | _ => s.releaseAction a.ag a.scope)
      else s) = atRelease s a := by
    rw [h.ready]
    simp [atRelease]
  rw [← hrelease]
  rfl

/-- The facts of the port hold after the release action. -/
theorem atRelease_keeps : Seats s (atRelease s a) ∧ Canonical (atRelease s a) ∧
    (atRelease s a).holds ((atRelease s a).uidOf a.ag) = false ∧
    (atRelease s a).direct ((atRelease s a).uidOf a.ag) = false ∧ (atRelease s a).park a.ag = .run := by
  have hseats := seats_atRelease s a
  have hcanon : Canonical (atRelease s a) := by
    unfold atRelease
    split
    · exact canonical_releaseAction h.canonical _ _
    · exact h.canonical
  exact ⟨hseats, hcanon, by rw [hseats.uidOf, hseats.holds, h.free], by rw [hseats.uidOf, hseats.direct, h.direct],
    by rw [hseats.park_eq, h.runs]⟩

end Perform

/-- A store that stays in L1 is written to its core's copy of the line, whatever the race tags say. -/
theorem portStore_cached {s : State} {a : Access} (hholds : s.holds (s.uidOf a.ag) = false)
    (hdirect : s.direct (s.uidOf a.ag) = false) (hnl1 : a.nl1 = false) (pa n y : Nat) :
    ∃ r src, s.portStore a (.hbm pa) n y = .ok (r.l1Write (s.coreOf a.ag) (s.uidOf a.ag) pa n y src) 0 ∧ Seats s r := by
  have hpast : s.pastL1 a = false := by rw [State.pastL1, hnl1, hdirect, Bool.or_self]
  have hrace : (s.raceAt a (.hbm pa) n true false).1 = false := by
    unfold State.raceAt
    split
    · rfl
    · cases a.ag <;> rfl
  refine ⟨(s.raceAt a (.hbm pa) n true false).2, if a.plain && a.space == .glob then some a else none, ?_, seats_raceAt _ _ _ _ _ _⟩
  simp only [State.portStore, State.roomAt, hholds, hpast, State.busError, hrace, Bool.false_and, Bool.false_or,
    Bool.false_eq_true, if_false]

/-- A line that L1 holds is read there, whatever the state of the dies. -/
theorem l1Read_found {s : State} {core pa : Nat} {l : L1Line} (hfind : s.l1Find core (pa / 64) = some l) (u n : Nat)
    {ds : List (Nat × Die)} : (State.l1Read { s with dies := ds } core u pa n).2.1 = bitf l.data.toNat (8 * (pa % 64)) (8 * n) := by
  have hfind' : State.l1Find { s with dies := ds } core (pa / 64) = some l := hfind
  rw [State.l1Read, hfind']

section Stores
variable {s : State} {a : Access} (h : AtPort s a) {x : Nat} (hop : a.op = .store x)
include h hop

/-- A store alone on its way, performed: what its port makes of it, but for a sample of its latency. -/
theorem portUpdate_store (half : Bool) {b t : State} {l : Loc} {n y v : Nat}
    (hperform : s.performAcc a half = t.endAcc a v) (hseats : Seats s t) (hwrites : WritesOnly b t l n y) :
    ∃ r, exec (.portUpdate a.id half) s = .next r ∧ (∀ c ∈ r.accs, c.id ≠ a.id) ∧ WritesOnly b r l n y := by
  obtain ⟨hmemory, hend, hgone⟩ := endAcc_store t hop v
  obtain ⟨ds, hexec⟩ := (atPort_alone h).portUpdate_dies (by simp [hop]) (by rw [hop]; rfl) half
    (by rw [hperform, hend.park_eq, hseats.park_eq, h.runs])
  rw [hperform] at hexec
  exact ⟨_, hexec, hgone, writesOnly_trans_same (writesOnly_trans_same hwrites hmemory) sameMemory_of_parts⟩

/-- One of at most 8 bytes at home. -/
theorem storeAlone_home (half : Bool) (hhome : (∀ pa, s.placeOf a 0 ≠ .hbm pa) ∨ a.nl1 = true) (hlen : a.len ≠ 16)
    (hrace : (((atRelease s a).raceAt a (s.placeOf a 0) a.len true true).1 && !a.racy) = false)
    (hpresent : present (s.placeOf a 0) a.len) (hbus : s.busError (s.placeOf a 0) a.len = false) :
    ∃ t, exec (.portUpdate a.id half) s = .next t ∧ (∀ b ∈ t.accs, b.id ≠ a.id) ∧
      WritesOnly (((atRelease s a).raceAt a (s.placeOf a 0) a.len true true).2.flushLoc (s.coreOf a.ag) (s.placeOf a 0)) t
        (s.placeOf a 0) a.len x := by
  obtain ⟨hseats, hcanon, hholds, hdirect, -⟩ := atRelease_keeps h
  have hplace := hseats.placeOf a 0
  have hbus' := (hseats.busError (s.placeOf a 0) a.len).trans hbus
  rw [← hplace] at hhome hrace hpresent hbus' ⊢
  rw [← hseats.coreOf]
  obtain ⟨t, hstore, hseats', -, hwrites⟩ :=
    portStore_writes hcanon hholds hdirect hhome.symm hrace hbus' hpresent (bitf x 0 (8 * a.len))
  refine portUpdate_store h hop half (v := 0) ?_ (hseats.trans hseats') (writesOnly_bitf hwrites)
  rw [performAcc_atPort h, if_neg hlen, hop]
  split
  · next heq => cases heq
  · next heq => cases heq
  · rw [State.portPiece, hop]
    exact congrArg (fun o => PieceOut.settle o (atRelease s a) a 0 fun t x => t.endAcc a x) hstore

omit h in
/-- One half of a run of four registers, where no page is asked and nothing is checked for races. -/
theorem halfPiece_store {r : State} (hcanon : Canonical r) (hholds : r.holds (r.uidOf a.ag) = false)
    (hdirect : r.direct (r.uidOf a.ag) = false) (hxl : a.xl = []) (hplain : a.plain = false) {i : Nat}
    (hbus : r.busError (r.placeOf a i) 8 = false) :
    ∃ t, r.halfPiece a i = .ok t 0 ∧ Seats r t ∧ Canonical t ∧
      WritesOnly r t (r.placeOf a i) 8 (bitf x (8 * (8 * i)) (8 * 8)) := by
  have hplace : ∀ pa, r.placeOf a i ≠ .hbm pa := by
    intro pa
    simp only [State.placeOf, hxl, afind]
    unfold State.place
    cases a.space with
    | karg => cases (r.team (r.uidOf a.ag)).payload <;> simp
    | _ => simp
  have hrace : r.raceAt a (r.placeOf a i) 8 true true = (false, r.clearTag (r.placeOf a i) 8) := by
    simp [State.raceAt, hplain]
  obtain ⟨t, hstore, hseats, hcanon', hwrites⟩ := portStore_writes hcanon hholds hdirect (.inr hplace)
    (by simp [hrace]) hbus (by
      cases hl : r.placeOf a i with
      | hbm pa => exact absurd hl (hplace pa)
      | vault | scr | host => trivial)
    (bitf x (8 * (8 * i)) (8 * 8))
  refine ⟨t, ?_, hseats, hcanon', writesOnly_of_same ?_ hwrites⟩
  · rw [State.halfPiece, State.portPiece, hop]
    exact hstore
  · rw [hrace]
    refine sameMemory_trans (sameMemory_clearTag _ (r.placeOf a i) 8) ?_
    cases hl : r.placeOf a i with
    | hbm pa => exact absurd hl (hplace pa)
    | _ => exact fun _ => rfl

omit h hop in
/-- The halves of a run of four registers lie one behind the other where no page is asked. -/
theorem placeOf_untranslated (r : State) (hxl : a.xl = []) (i : Nat) :
    r.placeOf a i = (r.place a.ag a.space a.ea).plus (8 * i) := by
  simp only [State.placeOf, hxl, afind]
  unfold State.place
  cases a.space with
  | karg => cases (r.team (r.uidOf a.ag)).payload <;> simp [Loc.plus, Nat.add_assoc]
  | _ => simp [Loc.plus, Nat.add_assoc]

/-- One of 16 bytes that a unit owns whole. -/
theorem storeAlone_wide (half : Bool) (hlen : a.len = 16) (hxl : a.xl = []) (hplain : a.plain = false)
    (hunit : (s.placeOf a 0).unit = (s.placeOf a 1).unit) (hbus : ∀ i < 2, s.busError (s.placeOf a i) 8 = false) :
    ∃ t, exec (.portUpdate a.id half) s = .next t ∧ (∀ b ∈ t.accs, b.id ≠ a.id) ∧
      WritesOnly (atRelease s a) t (s.placeOf a 0) 16 x := by
  obtain ⟨hseats, hcanon, hholds, hdirect, -⟩ := atRelease_keeps h
  have hi : b2n half < 2 := by cases half <;> decide
  obtain ⟨t, hpiece, hseats', hcanon', hwrites⟩ := halfPiece_store hop hcanon hholds hdirect hxl hplain (i := b2n half)
    (by rw [hseats.busError, hseats.placeOf]; exact hbus _ hi)
  have hall := hseats.trans hseats'
  obtain ⟨r, hpiece', hseats'', -, hwrites'⟩ := halfPiece_store hop hcanon' (by rw [hseats'.uidOf, hseats'.holds, hholds])
    (by rw [hseats'.uidOf, hseats'.direct, hdirect]) hxl hplain (i := 1 - b2n half)
    (by rw [hall.busError, hall.placeOf]; exact hbus _ (by omega))
  rw [hseats.placeOf, placeOf_untranslated s hxl] at hwrites
  rw [hall.placeOf, placeOf_untranslated s hxl] at hwrites'
  have hzero : s.placeOf a 0 = s.place a.ag a.space a.ea := by simp [State.placeOf, hxl, afind]
  rw [hzero]
  have hown : (((atRelease s a).placeOf a 0).unit == ((atRelease s a).placeOf a 1).unit) = true := by
    rw [hseats.placeOf, hseats.placeOf, hunit, beq_self_eq_true]
  refine portUpdate_store h hop half (v := 0 * 2 ^ (64 * b2n half) + 0 * 2 ^ (64 * (1 - b2n half))) ?_ (hall.trans hseats'')
    (writesOnly_halves hi hwrites hwrites')
  rw [performAcc_atPort h, if_pos hlen, State.performWide, h.ready]
  simp only [hpiece, hpiece', PieceOut.settle, hown, if_true]

/-- A plain store of space 0 goes into its core's copy of the line. -/
theorem storeAlone_cached (half : Bool) {pa : Nat} (hl : s.placeOf a 0 = .hbm pa) (hnl1 : a.nl1 = false) (hlen : a.len ≠ 16)
    (hfit : pa % 64 + a.len ≤ 64) (hpos : 0 < a.len) :
    ∃ t, exec (.portUpdate a.id half) s = .next t ∧ (∀ b ∈ t.accs, b.id ≠ a.id) ∧
      (t.l1Read (s.coreOf a.ag) (s.uidOf a.ag) pa a.len).2.1 = x % 2 ^ (8 * a.len) := by
  obtain ⟨hseats, hcanon, hholds, hdirect, -⟩ := atRelease_keeps h
  have hplace : (atRelease s a).placeOf a 0 = .hbm pa := (hseats.placeOf a 0).trans hl
  obtain ⟨r, src, hstore, hraced⟩ := portStore_cached hholds hdirect hnl1 pa a.len (bitf x 0 (8 * a.len))
  rw [hseats.coreOf, hseats.uidOf] at hstore
  have hwritten := (hseats.trans hraced).trans (seats_l1Write r (s.coreOf a.ag) (s.uidOf a.ag) pa a.len (bitf x 0 (8 * a.len)) src)
  obtain ⟨l, hfind, hbytes⟩ := l1Write_holds r (s.coreOf a.ag) (s.uidOf a.ag) pa a.len (bitf x 0 (8 * a.len)) src hfit
  generalize r.l1Write (s.coreOf a.ag) (s.uidOf a.ag) pa a.len (bitf x 0 (8 * a.len)) src = t at hstore hwritten hfind
  have hperform : s.performAcc a half = t.endAcc a 0 := by
    rw [performAcc_atPort h, if_neg hlen, hop, hplace]
    change PieceOut.settle ((atRelease s a).portPiece a (.hbm pa) a.len 0) _ _ _ _ = _
    rw [State.portPiece, hop]
    exact congrArg (fun o => PieceOut.settle o (atRelease s a) a 0 fun t x => t.endAcc a x) hstore
  obtain ⟨-, hend, hgone⟩ := endAcc_store t hop 0
  obtain ⟨ds, hexec⟩ := (atPort_alone h).portUpdate_dies (by simp [hop]) (by rw [hop]; rfl) half
    (by rw [hperform, hend.park_eq, hwritten.park_eq, h.runs])
  rw [← hwritten.coreOf] at hfind
  obtain ⟨k, hcopy, hkept⟩ := endAcc_store_l1 hop 0 hfind hbytes hfit hpos
  rw [hperform] at hexec
  refine ⟨_, hexec, hgone, ?_⟩
  rw [hwritten.coreOf] at hcopy
  exact ((l1Read_found hcopy _ _).trans hkept.bitf).trans (by simp [bitf])

end Stores

/-- Settles O33: at home a store is written once its core's copy has left, half by half where it has two; else it is a write of
that copy. -/
theorem storesWriteTheirBytes : Obligations.StoresWriteTheirBytes := by
  intro s a x half h hop
  have hnot16 (hlen : a.len ∈ [1, 2, 4, 8]) : a.len ≠ 16 := fun h16 => by simp [h16] at hlen
  refine ⟨fun hhome hlen hrace hpresent hbus => ?_, fun hlen hxl hplain hunit hbus => ?_, fun pa hl hnl1 hlen halign => ?_⟩
  · obtain ⟨t, hexec, hgone, hwrites⟩ := storeAlone_home h hop half hhome (hnot16 hlen) hrace hpresent hbus
    refine ⟨t, hexec, hgone, ?_⟩
    cases hl : s.placeOf a 0 <;> (rw [hl] at hwrites; exact hwrites)
  · exact storeAlone_wide h hop half hlen hxl hplain hunit hbus
  · have hsmall : 0 < a.len ∧ pa % 64 + a.len ≤ 64 := by
      simp only [List.mem_cons, List.not_mem_nil, or_false] at hlen
      rcases hlen with hlen | hlen | hlen | hlen <;> rw [hlen] at halign ⊢ <;> omega
    obtain ⟨hpos, hfit⟩ := hsmall
    obtain ⟨t, hexec, hgone, hread⟩ := storeAlone_cached h hop half hl hnl1 (hnot16 hlen) hfit hpos
    exact ⟨t, hexec, hgone, hread⟩

end Sys2Proof.Machine
end

section
/-! SUPPORT. An update at its port (R175, R176, R180, R370): the value it leaves, the place it reads and writes as one step, and
the word that an update of the non-coherent host window reads and writes whole; and with them the statement about updates. -/

namespace Sys2Proof.Machine

open Sys2Proof.Safety

set_option Elab.async false

/-! ## The value that an update leaves (R180) -/

/-- What an update other than a floating-point one makes of an old value of w bits and of an operand. -/
def updateValue (w : Nat) (op : UpdOp) (old y : Nat) : Nat :=
  match op with
  | .sub => (old + 2 ^ w - y) % 2 ^ w
  | .smin => if sgn w old ≤ sgn w y then old else y
  | .smax => if sgn w old ≤ sgn w y then y else old
  | .umin => min old y
  | .umax => max old y
  | .and => old &&& y
  | .or => old ||| y
  | .xor => old ^^^ y
  | .exch => y
  | .incw => if y ≤ old then 0 else old + 1
  | _ => (old + y) % 2 ^ w

theorem apply_updateValue {op : UpdOp} (hop : op ∉ [UpdOp.fadd, .fadd2, .fmin, .fmax]) {n old : Nat} (hold : old < 2 ^ (8 * n))
    (x : Nat) : UpdOp.apply op n old x = updateValue (8 * n) op old (x % 2 ^ (8 * n)) := by
  have hmod := Nat.mod_eq_of_lt hold
  cases op <;> simp_all [UpdOp.apply, updateValue]

/-! ## Reading a place (R175) -/

theorem Memory.read_lt (m : Memory) (a n : Nat) : m.read a n < 256 ^ n := by
  induction n generalizing a with
  | zero => simp [Memory.read]
  | succ n ih =>
    have hbyte := (m.byte a).isLt
    have hrest := ih (a + 1)
    rw [Memory.read, pow_succ]
    omega

theorem rawRead_lt (s : State) (l : Loc) (n : Nat) : s.rawRead l n < 2 ^ (8 * n) := by
  have hpow : 2 ^ (8 * n) = 256 ^ n := by rw [pow_mul]; rfl
  cases l with
  | hbm a =>
    rw [State.rawRead, State.hbmRead]
    split
    · exact hpow ▸ Memory.read_lt _ _ _
    · exact Nat.mod_lt _ (Nat.two_pow_pos _)
  | vault a => exact hpow ▸ Memory.read_lt _ _ _
  | scr u sd o => exact hpow ▸ Memory.read_lt _ _ _
  | host a c => exact hpow ▸ Memory.read_lt _ _ _

/-- The bytes of what is read are the bytes there. -/
theorem Memory.read_byte (m : Memory) (a : Nat) {n i : Nat} (hi : i < n) : m.read a n / 256 ^ i % 256 = m.read (a + i) 1 := by
  induction n generalizing a i with
  | zero => omega
  | succ n ih =>
    have hbyte := (m.byte a).isLt
    cases i with
    | zero =>
      rw [Memory.read, Memory.read_one, pow_zero, Nat.div_one]
      change ((m.byte a).toNat + 256 * m.read (a + 1) n) % 256 = (m.byte a).toNat
      omega
    | succ i =>
      have hdiv : ((m.byte a).toNat + 256 * m.read (a + 1) n) / 256 = m.read (a + 1) n := by omega
      rw [Memory.read, pow_succ', ← Nat.div_div_eq_div_mul, hdiv, ih (a + 1) (by omega)]
      congr 1
      omega

/-- What is read is written in the bytes of the place. -/
theorem writesOnly_read {s : State} {l : Loc} {n : Nat} (hl : present l n) : WritesOnly s s l n (s.rawRead l n) := by
  refine ⟨fun i hi => ?_, fun _ _ => rfl⟩
  cases l with
  | hbm a =>
    have ha : a + n ≤ hbmSize := hl
    have hai : a + i + 1 ≤ hbmSize := by omega
    simp only [byteAt, Loc.plus, State.rawRead, State.hbmRead, if_pos ha, if_pos hai]
    exact (Memory.read_byte _ _ hi).symm
  | vault a => exact (Memory.read_byte _ _ hi).symm
  | scr u sd o => exact (Memory.read_byte _ _ hi).symm
  | host a c => exact (Memory.read_byte _ _ hi).symm

/-! ## Accesses that stay on their way -/

/-- A step takes no access away. -/
def KeepsAccs (s t : State) : Prop := ∀ b ∈ s.accs, b ∈ t.accs

theorem KeepsAccs.trans {r s t : State} (h : KeepsAccs r s) (h' : KeepsAccs s t) : KeepsAccs r t := fun b hb => h' b (h b hb)

theorem KeepsAccs.of_accs {s t : State} (h : t.accs = s.accs := by rfl) : KeepsAccs s t := fun _ hb => h ▸ hb

theorem KeepsAccs.foldl {α : Type} {f : State → α → State} (h : ∀ s a, KeepsAccs s (f s a)) (s : State) (l : List α) :
    KeepsAccs s (l.foldl f s) :=
  List.foldlRecOn (motive := fun t => KeepsAccs s t) l f .of_accs (fun _ hs a _ => hs.trans (h _ a))

theorem keepsAccs_rawWrite (s : State) (l : Loc) (n x : Nat) : KeepsAccs s (s.rawWrite l n x) := by
  cases l with
  | hbm a =>
    have hwrite : (s.hbmWrite a n x).accs = s.accs := by unfold State.hbmWrite; split <;> rfl
    exact .of_accs hwrite
  | vault | scr | host => exact .of_accs

theorem keepsAccs_clearTag (s : State) (l : Loc) (n : Nat) : KeepsAccs s (s.clearTag l n) := by
  cases l with
  | scr u sd o => cases sd <;> exact .of_accs
  | hbm | vault | host => exact .of_accs

theorem keepsAccs_writeBack (s : State) (l : L1Line) : KeepsAccs s (s.writeBack l) := by
  have hraces (r : State) (es : List (Nat × Nat × Access)) : KeepsAccs r (r.trapRacing es) :=
    KeepsAccs.foldl (fun r e => by
      split
      · exact .of_accs
      · exact fun b hb => List.mem_append_left _ hb) r es
  have hbytes (r : State) (is : List Nat) :
      KeepsAccs r (is.foldl (fun s i => s.hbmWrite (64 * l.line + i) 1 (l.byte i)) r) :=
    KeepsAccs.foldl (fun r i => keepsAccs_rawWrite r (.hbm _) _ _) r is
  refine (((hraces s _).trans (hbytes _ _)).trans .of_accs).trans (KeepsAccs.foldl (fun r k => ?_) _ _)
  split
  · exact .of_accs (by unfold State.lineNote; split <;> rfl)
  · exact keepsAccs_clearTag r _ _

theorem keepsAccs_l1Clean (s : State) (core : Nat) (which : L1Line → Bool) (drop : Bool) :
    KeepsAccs s (s.l1Clean core which drop) := by
  refine KeepsAccs.trans (List.foldlRecOn (motive := fun q : State × List L1Line => KeepsAccs s q.1) (s.core core).l1 _
    (.of_accs rfl) fun p hp l _ => ?_) (.of_accs rfl)
  split
  · have hline : KeepsAccs p.1 (p.1.cleanLine l drop).1 := by
      unfold State.cleanLine
      split <;> exact keepsAccs_writeBack p.1 l
    exact hp.trans hline
  · exact hp

theorem keepsAccs_flushLoc (s : State) (core : Nat) (l : Loc) : KeepsAccs s (s.flushLoc core l) := by
  cases l with
  | hbm pa => exact keepsAccs_l1Clean s core _ true
  | vault | scr | host => exact .of_accs

theorem keepsAccs_atRelease (s : State) (a : Access) : KeepsAccs s (atRelease s a) := by
  have hwide (c : Prop) [Decidable c] : KeepsAccs s (if c then s.l1WriteBackAll (s.coreOf a.ag) else s) := by
    split
    · exact keepsAccs_l1Clean _ _ _ _
    · exact .of_accs
  have hcount (r : State) (ag : Agent) (dev : Bool) : KeepsAccs r (r.countRelease ag dev) := by
    cases ag <;> cases dev <;> exact .of_accs
  unfold atRelease
  split
  · exact (hwide _).trans (hcount _ _ _)
  · exact .of_accs

theorem keepsAccs_tallyVault (s : State) (l : Loc) (reads writes : Bool) : KeepsAccs s (s.tallyVault l reads writes) := by
  cases l with
  | vault x => cases reads <;> cases writes <;> exact .of_accs
  | hbm | scr | host => exact .of_accs

/-! ## What follows an update at its port (R178, R179) -/

/-- How an update that has read its old value ends: RED leaves, and an update with a destination has the value for it. -/
def UpdateEnded (a : Access) (t : State) (old : Nat) : Prop :=
  (a.dst = [] → ∀ b ∈ t.accs, b.id ≠ a.id) ∧
    (a.dst ≠ [] → ∃ b ∈ t.accs, b.id = a.id ∧ b.stage = .done ∧ b.dst = a.dst ∧ b.vals = wordsOf old (a.len / 4))

/-- The state in which an access ends, after the acquire action of an ordered one. -/
def State.acquired (s : State) (a : Access) : State :=
  if a.ord == .acq || a.ord == .ar then s.acquireAction a.ag a.scope else s

theorem acquired_keeps (s : State) (a : Access) :
    SameMemory s (s.acquired a) ∧ Seats s (s.acquired a) ∧ (s.acquired a).accs = s.accs := by
  unfold State.acquired
  split
  · refine ⟨sameMemory_acquireAction _ _ _, seats_acquireAction _ _ _, ?_⟩
    have hdrop (c : Prop) [Decidable c] : (if c then s.l1DropClean (s.coreOf a.ag) else s).accs = s.accs := by split <;> rfl
    exact hdrop _
  · exact ⟨fun _ => rfl, .refl s, rfl⟩

theorem putAcc_mem {s : State} {a x : Access} (ha : a ∈ s.accs) (hid : a.id = x.id) : x ∈ (s.putAcc x).accs :=
  List.mem_map.mpr ⟨a, ha, if_pos hid⟩

theorem endAcc_upd (s : State) {a : Access} {op : UpdOp} {x : Nat} (hop : a.op = .upd op x) (ha : a ∈ s.accs) (old : Nat) :
    SameMemory s (s.endAcc a old) ∧ Seats s (s.endAcc a old) ∧ UpdateEnded a (s.endAcc a old) old := by
  obtain ⟨hmemory, hseats, haccs⟩ := acquired_keeps s a
  have hend : s.endAcc a old = if a.dst.isEmpty then (s.acquired a).dropAcc a.id
      else (s.acquired a).putAcc { a with stage := .done, vals := wordsOf old (a.len / 4) } := by
    rw [State.endAcc, hop]
    rfl
  rw [hend]
  split
  · next hdst =>
    exact ⟨sameMemory_trans hmemory sameMemory_of_parts, hseats.trans .of_parts,
      fun _ b hb => by simpa using (List.mem_filter.mp hb).2, fun hne => absurd (List.isEmpty_iff.mp hdst) hne⟩
  · next hdst =>
    exact ⟨sameMemory_trans hmemory sameMemory_of_parts, hseats.trans .of_parts,
      fun hempty => absurd (List.isEmpty_iff.mpr hempty) hdst,
      fun _ => ⟨_, putAcc_mem (a := a) (haccs ▸ ha) rfl, rfl, rfl, rfl, rfl⟩⟩

theorem endAcc_cas (s : State) {a : Access} {e x : Nat} (hop : a.op = .cas e x) (ha : a ∈ s.accs) (old : Nat) :
    SameMemory s (s.endAcc a old) ∧ Seats s (s.endAcc a old) ∧
      ∃ b ∈ (s.endAcc a old).accs, b.id = a.id ∧ b.stage = .done ∧ b.dst = a.dst ∧ b.vals = wordsOf old (a.len / 4) ∧
        b.flags = if a.w then some (zFlag (old == e % 2 ^ (8 * a.len))) else none := by
  obtain ⟨hmemory, hseats, haccs⟩ := acquired_keeps s a
  have hend : s.endAcc a old = (s.acquired a).putAcc { a with
      stage := .done, vals := wordsOf old (a.len / 4),
      flags := if a.w then some (zFlag (old == e % 2 ^ (8 * a.len))) else none } := by
    rw [State.endAcc, hop]
    rfl
  rw [hend]
  exact ⟨sameMemory_trans hmemory sameMemory_of_parts, hseats.trans .of_parts,
    _, putAcc_mem (a := a) (haccs ▸ ha) rfl, rfl, rfl, rfl, rfl, rfl⟩

/-! ## An update that its port makes as one step (R175, R180) -/

/-- What a port update leaves of a place: the operation's value over the one that it returns. -/
theorem portUpdate_writes {s : State} (hcanon : Canonical s) {l : Loc} {n : Nat} (hl : present l n) (op : PortOp) (y : Nat) :
    (s.portUpdate l n op y).2 = s.rawRead l n ∧ Seats s (s.portUpdate l n op y).1 ∧ KeepsAccs s (s.portUpdate l n op y).1 ∧
      WritesOnly s (s.portUpdate l n op y).1 l n (op.apply n (s.rawRead l n) y) := by
  have hwrite (reads writes : Bool) (z : Nat) : Seats s ((s.tallyVault l reads writes).rawWrite l n z) ∧
      KeepsAccs s ((s.tallyVault l reads writes).rawWrite l n z) ∧
      WritesOnly s ((s.tallyVault l reads writes).rawWrite l n z) l n z :=
    ⟨(seats_tallyVault _ _ _ _).trans (seats_rawWrite _ _ _ _),
      (keepsAccs_tallyVault _ _ _ _).trans (keepsAccs_rawWrite _ _ _ _),
      writesOnly_of_same (sameMemory_tallyVault _ _ _ _) (rawWrite_writesOnly (canonical_tallyVault hcanon _ _ _) hl z)⟩
  cases op with
  | cas e =>
    by_cases heq : s.rawRead l n = e % 2 ^ (8 * n)
    · simp only [State.portUpdate, PortOp.apply, heq, if_true]
      exact ⟨trivial, hwrite _ _ y⟩
    · simp only [State.portUpdate, PortOp.apply, heq, if_false]
      exact ⟨trivial, seats_tallyVault _ _ _ _, keepsAccs_tallyVault _ _ _ _,
        writesOnly_trans_same (writesOnly_read hl) (sameMemory_tallyVault _ _ _ _)⟩
  | write | upd | half | badd => exact ⟨rfl, hwrite _ _ _⟩

/-- A place read and written as one step: the value that the operation leaves, of the old value returned. -/
theorem portRmw_writes {s : State} {a : Access} {i n : Nat} (hcanon : Canonical s) (hholds : s.holds (s.uidOf a.ag) = false)
    (hdirect : s.direct (s.uidOf a.ag) = false) (hpresent : present (s.placeOf a i) n)
    (hpoison : (s.flushLoc (s.coreOf a.ag) (s.placeOf a i)).poisoned (s.placeOf a i) n = false) (op : PortOp) (y : Nat) :
    ∃ t, s.portRmw a (s.placeOf a i) n op y =
        .ok t ((s.flushLoc (s.coreOf a.ag) (s.placeOf a i)).rawRead (s.placeOf a i) n) ∧ Seats s t ∧ KeepsAccs s t ∧
      WritesOnly (s.flushLoc (s.coreOf a.ag) (s.placeOf a i)) t (s.placeOf a i) n
        (op.apply n ((s.flushLoc (s.coreOf a.ag) (s.placeOf a i)).rawRead (s.placeOf a i) n) y) := by
  have hroom := roomAt_placeOf hholds i n
  generalize s.placeOf a i = l at *
  have hflush := seats_flushLoc s (s.coreOf a.ag) l
  have hkeep := keepsAccs_flushLoc s (s.coreOf a.ag) l
  have hcanon' := canonical_flushLoc hcanon (s.coreOf a.ag) l
  have hnote : (s.flushLoc (s.coreOf a.ag) l).noteDirect (s.uidOf a.ag) l = s.flushLoc (s.coreOf a.ag) l :=
    noteDirect_of_not_direct (by rw [hflush.direct, hdirect]) l
  have hfree : (s.flushLoc (s.coreOf a.ag) l).holds (s.uidOf a.ag) = false := by rw [hflush.holds, hholds]
  simp only [State.portRmw, hroom, hfree, hnote, hpoison, Bool.false_and, Bool.false_eq_true, if_false]
  generalize s.flushLoc (s.coreOf a.ag) l = r at *
  obtain ⟨hold, hseats, haccs, hwrites⟩ := portUpdate_writes hcanon' hpresent op y
  refine ⟨_, congrArg _ hold, ?_⟩
  split
  · exact ⟨(hflush.trans hseats).trans (seats_clearTag _ _ _), (hkeep.trans haccs).trans (keepsAccs_clearTag _ _ _),
      writesOnly_trans_same hwrites (sameMemory_clearTag _ _ _)⟩
  · exact ⟨hflush.trans hseats, hkeep.trans haccs, hwrites⟩

/-- Before an update, the core's copy of its line has left. -/
theorem atPort_update {s : State} {a : Access} (hop : (∃ op x, a.op = .upd op x) ∨ ∃ e x, a.op = .cas e x) :
    atPort s a = (atRelease s a).flushLoc ((atRelease s a).coreOf a.ag) ((atRelease s a).placeOf a 0) := by
  unfold atPort
  dsimp only
  generalize atRelease s a = r
  cases hl : r.placeOf a 0 <;> rcases hop with ⟨op, x, hop⟩ | ⟨e, x, hop⟩ <;> rw [hop] <;> rfl

section Alone
variable {s : State} {a : Access} (h : AtPort s a)
include h

/-- An update outside the non-coherent host window reads and writes its place, and then ends. -/
theorem performAcc_update (half : Bool) (hlen : a.len ≠ 16) (hplace : ∀ b, s.placeOf a 0 ≠ .host b false)
    (hpresent : present (s.placeOf a 0) a.len) (hpoison : (atPort s a).poisoned (s.placeOf a 0) a.len = false) {op : PortOp}
    {y : Nat} (hop : (∃ o x, a.op = .upd o x) ∨ ∃ e x, a.op = .cas e x)
    (hpiece : ∀ r l, State.portPiece r a l a.len 0 = r.portRmw a l a.len op y) :
    ∃ t, s.performAcc a half = t.endAcc a ((atPort s a).rawRead (s.placeOf a 0) a.len) ∧ Seats s t ∧ a ∈ t.accs ∧
      WritesOnly (atPort s a) t (s.placeOf a 0) a.len (op.apply a.len ((atPort s a).rawRead (s.placeOf a 0) a.len) y) := by
  obtain ⟨hseats, hcanon, hholds, hdirect, -⟩ := atRelease_keeps h
  have hat := atPort_update (s := s) hop
  have hsame := hseats.placeOf a 0
  rw [← hsame] at hplace hpresent hpoison ⊢
  rw [hat] at hpoison ⊢
  obtain ⟨t, hrmw, hseats', haccs, hwrites⟩ := portRmw_writes hcanon hholds hdirect hpresent hpoison op y
  refine ⟨t, ?_, hseats.trans hseats', haccs _ (keepsAccs_atRelease s a _ (by simp [h.only])), hwrites⟩
  rw [performAcc_atPort h, if_neg hlen]
  split
  · next hl _ => exact absurd hl (hplace _)
  · next hl _ => exact absurd hl (hplace _)
  · rw [hpiece]
    exact congrArg (fun o => PieceOut.settle o (atRelease s a) a 0 fun t x => t.endAcc a x) hrmw

/-- ATOM and RED (R180). -/
theorem updAlone (half : Bool) (hlen : a.len ≠ 16) (hplace : ∀ b, s.placeOf a 0 ≠ .host b false)
    (hpresent : present (s.placeOf a 0) a.len) (hpoison : (atPort s a).poisoned (s.placeOf a 0) a.len = false)
    {op : UpdOp} {x : Nat} (hop : a.op = .upd op x) (hint : op ∉ [UpdOp.fadd, .fadd2, .fmin, .fmax]) :
    ∃ t, exec (.portUpdate a.id half) s = .next t ∧
      WritesOnly (atPort s a) t (s.placeOf a 0) a.len
        (updateValue (8 * a.len) op ((atPort s a).rawRead (s.placeOf a 0) a.len) (x % 2 ^ (8 * a.len))) ∧
      UpdateEnded a t ((atPort s a).rawRead (s.placeOf a 0) a.len) := by
  obtain ⟨t, hperform, hseats, hmem, hwrites⟩ := performAcc_update h half hlen hplace hpresent hpoison
    (op := .upd op) (y := bitf x 0 (8 * a.len)) (.inl ⟨op, x, hop⟩) (fun r l => by rw [State.portPiece, hop])
  obtain ⟨hmemory, hend, hended⟩ := endAcc_upd t hop hmem ((atPort s a).rawRead (s.placeOf a 0) a.len)
  obtain ⟨ds, hexec⟩ := (atPort_alone h).portUpdate_dies (by simp [hop]) (by rw [hop]; rfl) half
    (by rw [hperform, hend.park_eq, hseats.park_eq, h.runs])
  rw [hperform] at hexec
  refine ⟨_, hexec, ?_, hended⟩
  have hvalue := apply_updateValue hint (rawRead_lt (atPort s a) (s.placeOf a 0) a.len) (bitf x 0 (8 * a.len))
  have hmod : bitf x 0 (8 * a.len) % 2 ^ (8 * a.len) = x % 2 ^ (8 * a.len) := by simp [bitf]
  rw [hmod] at hvalue
  rw [PortOp.apply, hvalue] at hwrites
  exact writesOnly_trans_same (writesOnly_trans_same hwrites hmemory) sameMemory_of_parts

/-- CAS (R180). -/
theorem casAlone (half : Bool) (hlen : a.len ≠ 16) (hplace : ∀ b, s.placeOf a 0 ≠ .host b false)
    (hpresent : present (s.placeOf a 0) a.len) (hpoison : (atPort s a).poisoned (s.placeOf a 0) a.len = false)
    {e x : Nat} (hop : a.op = .cas e x) (he : e < 2 ^ (8 * a.len)) :
    let old := (atPort s a).rawRead (s.placeOf a 0) a.len
    ∃ t, exec (.portUpdate a.id half) s = .next t ∧
      WritesOnly (atPort s a) t (s.placeOf a 0) a.len (if old = e then x else old) ∧
      ∃ b ∈ t.accs, b.id = a.id ∧ b.stage = .done ∧ b.dst = a.dst ∧ b.vals = wordsOf old (a.len / 4) ∧
        b.flags = if a.w then some ⟨false, decide (old = e), false, false⟩ else none := by
  intro old
  obtain ⟨t, hperform, hseats, hmem, hwrites⟩ := performAcc_update h half hlen hplace hpresent hpoison
    (op := .cas e) (y := x) (.inr ⟨e, x, hop⟩) (fun r l => by rw [State.portPiece, hop])
  obtain ⟨hmemory, hend, b, hb, hid, hstage, hdst, hvals, hflags⟩ := endAcc_cas t hop hmem old
  obtain ⟨ds, hexec⟩ := (atPort_alone h).portUpdate_dies (by simp [hop]) (by rw [hop]; rfl) half
    (by rw [hperform, hend.park_eq, hseats.park_eq, h.runs])
  rw [hperform] at hexec
  rw [Nat.mod_eq_of_lt he] at hflags
  rw [PortOp.apply, Nat.mod_eq_of_lt he] at hwrites
  exact ⟨_, hexec, writesOnly_trans_same (writesOnly_trans_same hwrites hmemory) sameMemory_of_parts,
    b, hb, hid, hstage, hdst, hvals, hflags⟩

end Alone

/-! ## An update of the non-coherent host window (R370) -/

/-- The bits of a word of which n bytes have been replaced. -/
theorem testBit_patch (word o n x j : Nat) :
    (patch word o n x).testBit j = if 8 * o ≤ j ∧ j < 8 * o + 8 * n then x.testBit (j - 8 * o) else word.testBit j :=
  testBit_replace_field word (8 * o) (8 * n) x j

theorem patch_field (word o n x : Nat) : patch word o n x / 2 ^ (8 * o) % 2 ^ (8 * n) = x % 2 ^ (8 * n) := by
  refine Nat.eq_of_testBit_eq fun j => ?_
  rw [Nat.testBit_mod_two_pow, Nat.testBit_mod_two_pow, Nat.testBit_div_two_pow, testBit_patch]
  by_cases hj : j < 8 * n
  · rw [if_pos (by omega), Nat.add_sub_cancel]
  · simp [hj]

theorem patch_byte {word o n x i : Nat} (hi : i < o ∨ o + n ≤ i) :
    patch word o n x / 256 ^ i % 256 = word / 256 ^ i % 256 := by
  have hpow : 256 ^ i = 2 ^ (8 * i) := by rw [pow_mul]; rfl
  have h256 : (256 : Nat) = 2 ^ 8 := rfl
  refine Nat.eq_of_testBit_eq fun j => ?_
  rw [hpow, h256, Nat.testBit_mod_two_pow, Nat.testBit_mod_two_pow, Nat.testBit_div_two_pow, Nat.testBit_div_two_pow,
    testBit_patch]
  by_cases hj : j < 8
  · rw [if_neg (by omega)]
  · simp [hj]

theorem updateValue_lt {w : Nat} {op : UpdOp} {old y : Nat} (hold : old < 2 ^ w) (hy : y < 2 ^ w) :
    updateValue w op old y < 2 ^ w := by
  cases op with
  | sub => exact Nat.mod_lt _ (Nat.two_pow_pos _)
  | smin | smax => simp only [updateValue]; split <;> assumption
  | umin => exact Nat.lt_of_le_of_lt (Nat.min_le_left _ _) hold
  | umax => exact Nat.max_lt.mpr ⟨hold, hy⟩
  | and => exact Nat.lt_of_le_of_lt Nat.and_le_left hold
  | or => exact Nat.or_lt_two_pow hold hy
  | xor => exact Nat.xor_lt_two_pow hold hy
  | exch => exact hy
  | incw =>
    simp only [updateValue]
    split
    · exact Nat.two_pow_pos _
    · omega
  | _ => exact Nat.mod_lt _ (Nat.two_pow_pos _)

section Window
variable {s : State} {a : Access} (h : AtPort s a) {b x : Nat} {op : UpdOp} (hplace : s.placeOf a 0 = .host b false)
  (hplain : a.ord = .plain) (hop : a.op = .upd op x) (hlen : a.len ≠ 16)
include h hplace hplain hop hlen

/-- The first step reads the word. -/
theorem windowReads (half : Bool) (hpoison : s.poisoned (.host b false) a.len = false) :
    exec (.portUpdate a.id half) s = .next (s.putAcc { a with stage := .fetched (s.rawRead (.host (b / 8 * 8) false) 8) }) := by
  have hat : atRelease s a = s := by simp [atRelease, hplain]
  have hperform : s.performAcc a half =
      s.putAcc { a with stage := .fetched (s.rawRead (.host (b / 8 * 8) false) 8) } := by
    rw [performAcc_atPort h, if_neg hlen, hat]
    simp only [hplace, hop, State.performSplit, h.ready, hpoison, Bool.false_eq_true, if_false]
  obtain ⟨level, hexec⟩ := (atPort_alone h).portUpdate (by simp [hop]) (by rw [hop]; rfl) half
    (by rw [hperform]; exact h.runs)
  have hundone : s.performed (s.performAcc a half) a = false := by
    rw [hperform]
    simp [State.performed, State.putAcc, h.only]
  rw [hundone, Bool.and_false, if_neg Bool.false_ne_true, hperform] at hexec
  exact hexec

/-- The later step writes the word of the first whole, whatever host memory holds by then. -/
theorem windowWrites (half : Bool) {hm : Memory} (hwf : hm.wf = true) (word : Nat)
    (hint : op ∉ [UpdOp.fadd, .fadd2, .fmin, .fmax]) :
    let t0 := { s.putAcc { a with stage := .fetched word } with host := hm }
    let old := word / 2 ^ (8 * (b % 8)) % 2 ^ (8 * a.len)
    ∃ t, exec (.portUpdate a.id half) t0 = .next t ∧
      WritesOnly t0 t (.host (b / 8 * 8) false) 8
        (patch word (b % 8) a.len (updateValue (8 * a.len) op old (x % 2 ^ (8 * a.len)))) ∧
      UpdateEnded a t old := by
  intro t0 old
  obtain ⟨a', ha'⟩ : ∃ a', a' = { a with stage := .fetched word } := ⟨_, rfl⟩
  have hid : a'.id = a.id := by rw [ha']
  have hop' : a'.op = .upd op x := by rw [ha', hop]
  have honly : t0.accs = [a'] := by
    change s.accs.map _ = _
    simp [h.only, ha']
  have hcanon : Canonical t0 := by
    obtain ⟨hhbm, hvault, -, hteams⟩ := canonical_iff.mp h.canonical
    exact canonical_iff.mpr ⟨hhbm, hvault, hwf, hteams⟩
  have halone : Alone t0 a' :=
    { only := honly
      stage := .inr ⟨word, by rw [ha']⟩
      running := by rw [ha']; exact h.running
      noTiles := h.noTiles
      free := by rw [ha']; exact h.free
      unit := by
        have hunit := h.unit
        simp only [State.unitBusy, Bool.or_eq_false_iff] at hunit ⊢
        refine ⟨by simp [honly], ?_⟩
        rw [ha']
        exact hunit.2 }
  have hold : old < 2 ^ (8 * a.len) := Nat.mod_lt _ (Nat.two_pow_pos _)
  have hvalue := apply_updateValue hint hold x
  have hperform : t0.performAcc a' half = (t0.rawWrite (.host (b / 8 * 8) false) 8
      (patch word (b % 8) a.len (updateValue (8 * a.len) op old (x % 2 ^ (8 * a.len))))).endAcc a' old := by
    have hplace' : t0.placeOf a' 0 = .host b false := by rw [ha', ← hplace]; rfl
    have hlen' : a'.len = a.len := by rw [ha']
    have hplain' : (a'.ord == .rel || a'.ord == .ar) = false := by rw [ha', hplain]; rfl
    have hstage : a'.stage = .fetched word := by rw [ha']
    simp only [State.performAcc, hplain', Bool.false_eq_true, if_false, hlen', hlen, hplace', hop', State.performSplit, hstage,
      PortOp.writes, if_true, PortOp.apply]
    change State.endAcc (t0.rawWrite _ 8 (patch word (b % 8) a.len (UpdOp.apply op a.len old x))) a' old = _
    rw [hvalue]
  generalize patch word (b % 8) a.len _ = y at *
  obtain ⟨hmemory, hend, hended⟩ := endAcc_upd (t0.rawWrite (.host (b / 8 * 8) false) 8 y) hop'
    (keepsAccs_rawWrite _ _ _ _ _ (by simp [honly])) old
  obtain ⟨ds, hexec⟩ := halone.portUpdate_dies (by simp [hop']) (by rw [hop']; rfl) half (by
    rw [hperform, hend.park_eq, (seats_rawWrite _ _ _ _).park_eq, ha']
    exact h.runs)
  rw [hperform, hid] at hexec
  refine ⟨_, hexec, ?_, ?_⟩
  · exact writesOnly_trans_same (writesOnly_trans_same (rawWrite_writesOnly hcanon (by trivial) y) hmemory) sameMemory_of_parts
  · rw [ha'] at hended
    rw [ha']
    exact hended

end Window

/-- Settles O35: an update whose place lies outside the non-coherent window reads and writes it in the one step of its port, and
one inside reads the word in a first step and writes it in a second. -/
theorem updatesReadAndWriteAtOnce : Obligations.UpdatesReadAndWriteAtOnce := by
  unfold Obligations.UpdatesReadAndWriteAtOnce
  intro s a half h hlen l s1 w old value ended
  have h16 : a.len ≠ 16 := by omega
  refine ⟨fun hplace hpresent hpoison => ⟨fun op x hop hint => ?_, fun e x hop he => ?_⟩, ?_⟩
  · exact updAlone h half h16 hplace hpresent hpoison hop hint
  · exact casAlone h half h16 hplace hpresent hpoison hop he
  · intro b op x hm hplace hplain halign hop hint hpoison hwf at' word o old mid
    obtain ⟨t, hexec, hwrites, hended⟩ := windowWrites h hplace hplain hop h16 half hwf word hint
    refine ⟨windowReads h hplace hplain hop h16 half (hplace ▸ hpoison), t, _, hexec, hwrites, ?_, fun i _ hi => patch_byte hi,
      hended⟩
    rw [patch_field, Nat.mod_eq_of_lt]
    · rfl
    · exact updateValue_lt (Nat.mod_lt _ (Nat.two_pow_pos _)) (Nat.mod_lt _ (Nat.two_pow_pos _))

end Sys2Proof.Machine
end

section
/-! SUPPORT. CCTL of a range whose lines hang together (R183): the refutation of the statement about fences and cache forms. -/

namespace Sys2Proof.Machine

open Sys2Proof.Safety Sys2Proof.Tests

set_option Elab.async false

/-- A line of which byte 60 is dirty, with a recorded store of eight bytes there, of which the last four lie in the next line. -/
def overhanging : L1Line := ⟨128, BitVec.ofNat 512 (7 * 2 ^ 480), BitVec.ofNat 64 (2 ^ 60), 0, 0, [(60, 8, load0)]⟩

/-- The next line, of which another team of the launch has stored the first word. -/
def nextLine : L1Line := ⟨129, 5, 15, 1, 0, [(0, 4, load0)]⟩

/-- A context of core 0's bursar issues a CCTL of both lines, which stand in its L1 with the later one first. -/
def linked : State :=
  let s := onCore (fun c => { c with l1 := [nextLine, overhanging], bregs := [(0, 0x2000), (2, 128)] }) baseCtx
  { s.setTeam 1 (s.team 0) with hbm := dirtyLine.hbm, cur := baseCtx.cur }

/-- That CCTL. -/
def cleanBoth : Instr := .cctl hd 0 2 false (mf .glob .b)

/-- It meets the hypotheses of the statement: neither line races before the CCTL, and each is the only one at its place. -/
theorem linked_meets : Executes linked ctx0 cleanBoth ∧ Still linked ctx0 ∧ Canonical linked ∧
    linked.checkAccess ctx0 .glob (linked.ea ctx0 .glob 0 0) (max (linked.reg ctx0 2).toNat 1) 1 .read false = none ∧
    overhanging ∈ (linked.core (linked.coreOf ctx0)).l1 ∧
    overhanging.line ∈ linked.linesIn ctx0 .glob (linked.ea ctx0 .glob 0 0).toNat (linked.reg ctx0 2).toNat ∧
    linked.racing overhanging = [] ∧
    ∀ y ∈ (linked.core (linked.coreOf ctx0)).l1, y.line = overhanging.line → y = overhanging := by
  refine ⟨?_, ?_, canonical_of _ ?_ ?_, ?_⟩ <;> decide +kernel

/-- The first line's write-back marks its word as the other team's, with which the store of the second then races: the byte
of the second is not written. -/
theorem linked_byte : (after cleanBoth linked).hbmRead (64 * overhanging.line + 60) 1 = 0 ∧
    overhanging.byte 60 = 7 ∧ overhanging.dirty.getLsbD 60 = true := by decide +kernel

/-- Refutes O36: the CCTL of a range writes back its lines one after the other, and a recorded store that reaches over the end
of its line, which no store of the machine does but a state may hold, comes to race by the write-back of the line after it. -/
theorem not_fencesAndCacheForms : ¬ Obligations.FencesAndCacheForms := by
  unfold Obligations.FencesAndCacheForms
  intro hall
  obtain ⟨hexecutes, hstill, hcanon, hcheck, hmem, hline, hrace, honly⟩ := linked_meets
  obtain ⟨-, hcctl, -⟩ := hall linked ctx0 hd 0 2
  obtain ⟨t, hexec, -, hbytes⟩ := (hcctl false (mf .glob .b) hexecutes hstill).2 hcheck
  have hwritten := hbytes hcanon overhanging hmem hline hrace honly (by decide) 60 (by decide) linked_byte.2.2
  have hafter : after cleanBoth linked = t.advance ctx0 := congrArg go hexec
  have hkept : (t.advance ctx0).hbmRead (64 * overhanging.line + 60) 1 = t.hbmRead (64 * overhanging.line + 60) 1 := by
    rw [State.advance_ctx]
    rfl
  rw [← hkept, ← hafter, linked_byte.1, linked_byte.2.1] at hwritten
  exact absurd hwritten (by decide)

end Sys2Proof.Machine
end

section
/-! SUPPORT. Walks (R266 to R269): one level of a page table walk, the level-by-level walk of sound entries, and what the walk of an
access does with each end of its translation; and with them the statement about walks. -/

namespace Sys2Proof.Machine

open Sys2Proof.Safety

set_option Elab.async false

/-! ## The walk of a page table (R266, R267) -/

/-- The entry of a table at a level through which an address goes. -/
def tableEntry (s : State) (va table lvl : Nat) : Nat :=
  s.hbmRead (table + 8 * (va / 2 ^ (12 + 9 * lvl) % (if lvl = 3 then 2 ^ 18 else 512))) 8

section Level
variable {s : State} {ctx va l table e : Nat} (he : e = tableEntry s va table l)
include he

/-- One level: what its entry says. -/
theorem walkFrom_level : (walkFrom s [] ctx va (l + 1) table).1 =
    if e % 2 = 1 then
      if pteBad (l + 1) e then .bad 5
      else if nbit e 4 then .ok ⟨ctx, va / 4096, ptePfn e / 4096 + va / 4096 % 2 ^ (9 * l), nbit e 1, nbit e 2, nbit e 3⟩
      else (walkFrom s [] ctx va l (ptePfn e)).1
    else .missing := by
  have hread : s.hbmRead (table + 8 * (va / 2 ^ (12 + 9 * l) % (if l = 3 then 2 ^ 18 else 512))) 8 = e := he.symm
  have hvalid : nbit e 0 = decide (e % 2 = 1) := by rw [nbit, pow_zero, Nat.div_one]; rfl
  simp only [walkFrom, List.find?_nil, hread, hvalid]
  by_cases h0 : e % 2 = 1 <;> simp only [h0, decide_true, decide_false, Bool.not_true, Bool.not_false, Bool.false_eq_true,
    if_true, if_false]
  repeat' split
  all_goals rfl

/-- An entry whose V is 0 is missing. -/
theorem walkFrom_missing (hv : ¬ e % 2 = 1) : (walkFrom s [] ctx va (l + 1) table).1 = .missing := by
  rw [walkFrom_level he, if_neg hv]

/-- A malformed entry is refused with reason 5. -/
theorem walkFrom_malformed (hv : e % 2 = 1) (hbad : pteBad (l + 1) e = true) :
    (walkFrom s [] ctx va (l + 1) table).1 = .bad 5 := by
  rw [walkFrom_level he, if_pos hv, if_pos hbad]

/-- A leaf gives the page and its permissions. -/
theorem walkFrom_leaf (hv : e % 2 = 1) (hgood : pteBad (l + 1) e = false) (hleaf : nbit e 4 = true) :
    (walkFrom s [] ctx va (l + 1) table).1 =
      .ok ⟨ctx, va / 4096, ptePfn e / 4096 + va / 4096 % 2 ^ (9 * l), nbit e 1, nbit e 2, nbit e 3⟩ := by
  rw [walkFrom_level he, if_pos hv, if_neg (by simp [hgood]), if_pos hleaf]

/-- Another sound entry leads to the next table. -/
theorem walkFrom_table (hv : e % 2 = 1) (hgood : pteBad (l + 1) e = false) (hleaf : nbit e 4 = false) :
    (walkFrom s [] ctx va (l + 1) table).1 = (walkFrom s [] ctx va l (ptePfn e)).1 := by
  rw [walkFrom_level he, if_pos hv, if_neg (by simp [hgood]), if_neg (by simp [hleaf])]

end Level

/-- A sound entry of the highest level is no leaf. -/
theorem not_leaf_of_level4 {e : Nat} (hgood : pteBad 4 e = false) : nbit e 4 = false := by
  simp only [pteBad, Bool.or_eq_false_iff] at hgood
  simpa using hgood.1.1.1.1.2

/-- A sound entry of the lowest level is a leaf. -/
theorem leaf_of_level1 {e : Nat} (hgood : pteBad 1 e = false) : nbit e 4 = true := by
  simp only [pteBad, Bool.or_eq_false_iff] at hgood
  simpa using hgood.1.1.1.2

/-! ## The walk of an access (R269) -/

/-- An agent that runs has nothing to resume. -/
theorem State.resume_of_runs {s : State} {ag : Agent} (h : s.park ag = .run) : s.resume ag = s := by
  have hstall : s.tryStall ag = s := by
    unfold State.tryStall
    split
    · next hp => simp [h] at hp
    · rfl
  simp [State.resume, State.tryFence, State.tryEnd, h, hstall]

/-- An agent that may act can take a trap. -/
theorem State.traps_of_live {s : State} {ag : Agent} (h : s.live ag = true) : s.traps ag = true := by
  cases ag with
  | thread u g l =>
    simp only [State.live, Bool.and_eq_true] at h
    simp [State.traps, h.1, h.2]
  | ctx k c => exact h

/-- The fault of a page on a die has a record there, posted now or before (R270). -/
theorem postFault_record (s : State) (core ctx va : Nat) (kind : FaultKind) :
    ∃ f ∈ ((s.postFault core ctx va kind).1.die (dieOf core)).faults ++
        ((s.postFault core ctx va kind).1.die (dieOf core)).waiting,
      f.num = (s.postFault core ctx va kind).2 ∧ f.ctx = ctx ∧ f.va / 4096 = va / 4096 := by
  unfold State.postFault State.postFaultOn
  dsimp only
  split
  · next f hf =>
    obtain ⟨hmem, hsame⟩ := (⟨List.mem_of_find?_eq_some hf, List.find?_some hf⟩ : _ ∧ _)
    simp only [Bool.and_eq_true, beq_iff_eq] at hsame
    exact ⟨f, hmem, rfl, hsame⟩
  · have hdie (c : Die) : (s.setDie (dieOf core) c).die (dieOf core) = c := aget_aput_self ..
    refine ⟨⟨(s.die (dieOf core)).nextFault % 65536, va, ctx, core, kind⟩, ?_, rfl, rfl, rfl⟩
    simp only [State.postRecord, hdie]
    split <;> simp

/-- Posting a fault leaves every agent's park and every access as they are. -/
theorem postFault_keeps (s : State) (core ctx va : Nat) (kind : FaultKind) (ag : Agent) :
    (s.postFault core ctx va kind).1.park ag = s.park ag ∧ (s.postFault core ctx va kind).1.accs = s.accs := by
  unfold State.postFault State.postFaultOn
  dsimp only
  split
  · exact ⟨rfl, rfl⟩
  · cases ag <;> exact ⟨rfl, rfl⟩

/-- What becomes of an access of one piece at the end of its translation for a core and a context. -/
def State.afterWalk (s : State) (a : Access) (core ctx v : Nat) : Paged → State
  | .pa x => s.putAcc { a with xl := [(0, x)], stage := .ready }
  | .missing => (s.postFault core ctx v a.op.kind).1.putAcc { a with
      stage := .held (dieOf core) (s.postFault core ctx v a.op.kind).2 }
  | .bad r => s.trapAcc a 0x0B (BitVec.ofNat 64 r) (BitVec.ofNat 64 v)

/-- Of the only access, the one put in its place is left. -/
theorem putAcc_only {s : State} {a x : Access} (honly : s.accs = [a]) (hid : a.id = x.id) : (s.putAcc x).accs = [x] := by
  simp [State.putAcc, honly, hid]

section Walk
variable {s s1 : State} {a : Access} {v : Nat}

/-- The walk of an access of one piece is the translation of its address, and what follows it. -/
theorem walkAcc_piece {p : Paged} (hlen : a.len ≠ 16) (hv : s.va a.ag a.space a.ea = some v)
    (ht : s.translate (s.coreOf a.ag) (s.ctxNo (s.uidOf a.ag)) v a.op.need = (s1, p)) :
    s.walkAcc a = s1.afterWalk a (s.coreOf a.ag) (s.ctxNo (s.uidOf a.ag)) v p := by
  cases p <;> simp [State.walkAcc, State.afterWalk, piecesOf, hlen, hv, State.walkPieces, ht]

/-- An issued access of a running agent is walked, and its agent goes on as before. -/
theorem pageWalk_walks (honly : s.accs = [a]) (hissued : a.stage = .issued) (hmulti : a.op.multi = false)
    (hop : ∀ ws, a.op ≠ .known ws) (hrun : (s.team (s.uidOf a.ag)).stat = .running) (hpark : (s.walkAcc a).park a.ag = .run) :
    exec (.pageWalk a.id) s = .next (s.walkAcc a) := by
  change execPageWalk a.id s = _
  have hacts : s.acts a = true := by simp [State.acts, hrun]
  simp [execPageWalk, honly, hissued, hacts, hmulti, State.resume_of_runs hpark]

end Walk

/-- Settles O37: an access of one piece goes on as the translation of its one address ends, and a walk of the page table goes on,
level by level, as each entry says. -/
theorem walksTranslateHoldOrRefuse : Obligations.WalksTranslateHoldOrRefuse := by
  unfold Obligations.WalksTranslateHoldOrRefuse
  refine ⟨?_, ?_⟩
  · intro s s1 a v honly hissued hmulti hop hrun _ _ hlen hv core ctx need haccs hlive hpark
    have hneed : need = a.op.need := rfl
    have h16 : a.len ≠ 16 := fun h => by simp [h] at hlen
    rw [hneed]
    refine ⟨fun x ht => ?_, fun r ht => ?_, fun ht => ?_⟩
    · have hwalk := walkAcc_piece h16 hv ht
      rw [pageWalk_walks honly hissued hmulti hop hrun (by rw [hwalk]; exact hpark), hwalk]
      rfl
    · have hwalk := walkAcc_piece h16 hv ht
      simp only [State.afterWalk, State.trapAcc, State.traps_of_live hlive, if_true] at hwalk
      rw [pageWalk_walks honly hissued hmulti hop hrun (by rw [hwalk]; exact hpark), hwalk]
    · have hwalk := walkAcc_piece h16 hv ht
      obtain ⟨hparked, hkept⟩ := postFault_keeps s1 core ctx v a.op.kind a.ag
      refine ⟨_, (s1.postFault core ctx v a.op.kind).2, pageWalk_walks honly hissued hmulti hop hrun (by rw [hwalk]; exact hparked.trans hpark), ?_, ?_⟩
      · rw [hwalk]
        exact putAcc_only ((hkept.trans haccs).trans honly) rfl
      · rw [hwalk]
        exact postFault_record s1 core ctx v a.op.kind
  · intro s ctx va root e4 e3 e2 e1 _ entry next valid h4 h3 h2 h1
    refine ⟨walkFrom_missing h4, walkFrom_malformed h4, fun hv4 hg4 hv3 hg3 hl3 hv2 hg2 hl2 => ?_,
      fun hv4 hg4 hv3 hg3 hl3 hv2 hg2 hl2 => ?_⟩
    · have hdown : (walkFrom s [] ctx va 4 root).1 = (walkFrom s [] ctx va 1 (next e2)).1 := by
        rw [walkFrom_table h4 hv4 hg4 (not_leaf_of_level4 hg4)]
        exact (walkFrom_table h3 hv3 hg3 hl3).trans (walkFrom_table h2 hv2 hg2 hl2)
      rw [hdown]
      refine ⟨walkFrom_missing h1, walkFrom_malformed h1, fun hv1 hg1 => ?_⟩
      rw [walkFrom_leaf h1 hv1 hg1 (leaf_of_level1 hg1), Nat.mul_zero, pow_zero, Nat.mod_one]
      rfl
    · rw [walkFrom_table h4 hv4 hg4 (not_leaf_of_level4 hg4)]
      exact (walkFrom_table h3 hv3 hg3 hl3).trans (walkFrom_leaf h2 hv2 hg2 hl2)

end Sys2Proof.Machine
end

section
/-! SUPPORT. Queues (R378 to R380, R388): what the device's own units leave of a queue, the packet at QRD, and the packets, the
held FENCE and the earliest SIGNAL case by case. -/

namespace Sys2Proof.Machine

open Sys2Proof.Safety

set_option Elab.async false

/-! ## What the device's units write (R388) -/

theorem aput_aput {α : Type} (t : List (Nat × α)) (k : Nat) (v w : α) : aput (aput t k v) k w = aput t k w := by
  induction t with
  | nil => simp [aput]
  | cons e t ih =>
    obtain ⟨j, x⟩ := e
    by_cases hj : j = k
    · simp [aput, hj]
    · simp [aput, hj, ih]

theorem setQueue_setQueue (s : State) (q : Nat) (a b : Queue) : (s.setQueue q a).setQueue q b = s.setQueue q b := by
  simp only [State.setQueue, aput_aput]

/-- A walk reads HBM alone. -/
theorem walkFrom_congr {s t : State} (hhbm : t.hbm = s.hbm) (htick : t.tick = s.tick) (cache : List (Nat × Nat × DWord))
    (ctx va l table : Nat) : walkFrom t cache ctx va l table = walkFrom s cache ctx va l table := by
  have hread (a n : Nat) : t.hbmRead a n = s.hbmRead a n := by simp only [State.hbmRead, hhbm, htick]
  induction l generalizing table with
  | zero => rfl
  | succ l ih => simp only [walkFrom, hread, ih]

theorem hbmWrite_setQueue (s : State) (q : Nat) (k : Queue) (a n x : Nat) :
    (s.setQueue q k).hbmWrite a n x = (s.hbmWrite a n x).setQueue q k := by
  unfold State.hbmWrite
  split <;> rfl

theorem queues_hbmWrite (s : State) (a n x : Nat) : (s.hbmWrite a n x).queues = s.queues := by
  unfold State.hbmWrite
  split <;> rfl

theorem hbmBad_hbmWrite {s : State} (h : s.hbmBad = []) (a n x : Nat) : (s.hbmWrite a n x).hbmBad = [] := by
  unfold State.hbmWrite
  split
  · simp [h]
  · exact h

/-- One piece of a unit's write lands in HBM, or is dropped. -/
def State.unitPiece (ctx va x : Nat) (s : State) (p : Nat × Nat) : State :=
  if p.1 ≥ 2 ^ 57 then s
  else match (walkFrom s [] ctx p.1 4 (s.ctx ctx).ptroot.toNat).1 with
    | .ok e =>
      if e.r && e.w then
        (s.hbmWrite (e.ppn * 4096 + p.1 % 4096) p.2 (bitf x (8 * (p.1 - va)) (8 * p.2))).clearTag
          (.hbm (e.ppn * 4096 + p.1 % 4096)) p.2
      else s
    | _ => s

theorem unitWrite_eq (s : State) (ctx va n x : Nat) : s.unitWrite ctx va n x = (linePieces va n).foldl (State.unitPiece ctx va x) s :=
  rfl

theorem unitPiece_cases (ctx va x : Nat) (s : State) (p : Nat × Nat) : State.unitPiece ctx va x s p = s ∨
    ∃ a y, State.unitPiece ctx va x s p = (s.hbmWrite a p.2 y).clearTag (.hbm a) p.2 := by
  unfold State.unitPiece
  repeat' split
  · exact .inl rfl
  · exact .inr ⟨_, _, rfl⟩
  · exact .inl rfl
  · exact .inl rfl

/-- A unit's write neither reads nor writes a queue. -/
theorem unitWrite_setQueue (s : State) (q : Nat) (k : Queue) (ctx va n x : Nat) :
    (s.setQueue q k).unitWrite ctx va n x = (s.unitWrite ctx va n x).setQueue q k := by
  refine List.foldl_hom (fun s : State => s.setQueue q k) fun s p => ?_
  change State.unitPiece ctx va x (s.setQueue q k) p = (State.unitPiece ctx va x s p).setQueue q k
  unfold State.unitPiece
  rw [walkFrom_congr (s := s) (t := s.setQueue q k) rfl rfl]
  have hctx : ((s.setQueue q k).ctx ctx).ptroot = (s.ctx ctx).ptroot := rfl
  rw [hctx]
  split
  · rfl
  · split
    · split
      · rw [hbmWrite_setQueue]
        rfl
      · rfl
    · rfl

theorem queues_unitWrite (s : State) (ctx va n x : Nat) : (s.unitWrite ctx va n x).queues = s.queues := by
  rw [unitWrite_eq]
  refine foldl_keeps State.queues (fun s p => ?_) s _
  rcases unitPiece_cases ctx va x s p with h | ⟨a, y, h⟩ <;> rw [h]
  exact queues_hbmWrite s a p.2 y

/-- Where no word is poisoned, none is after a unit's write. -/
theorem hbmBad_unitWrite {s : State} (h : s.hbmBad = []) (ctx va n x : Nat) : (s.unitWrite ctx va n x).hbmBad = [] := by
  refine List.foldlRecOn (motive := fun t => t.hbmBad = []) _ (State.unitPiece ctx va x) h fun s hs p _ => ?_
  rcases unitPiece_cases ctx va x s p with hp | ⟨a, y, hp⟩ <;> rw [hp]
  · exact hs
  · exact hbmBad_hbmWrite hs a p.2 y

@[simp] theorem queue_unitWrite (s : State) (ctx va n x q : Nat) : (s.unitWrite ctx va n x).queue q = s.queue q := by
  rw [State.queue, State.queue, queues_unitWrite]

/-- What ATOM.add of a unit makes of a counter, where no word is poisoned. -/
def State.counted (s : State) (ctx va x : Nat) : State := s.unitWrite ctx va 4 ((s.unitRead ctx va 4 + x) % 2 ^ 32)

theorem unitBad_none {s : State} (h : s.hbmBad = []) (ctx va n : Nat) : s.unitBad ctx va n = none := by
  simp [State.unitBad, h]

theorem addCounter_counted {s : State} (h : s.hbmBad = []) (q idx x : Nat) :
    s.addCounter q idx x = s.counted (s.queue q).ctx.toNat ((s.queue q).ctrBase.toNat + 4 * idx) x := by
  simp only [State.addCounter, State.unitAdd, unitBad_none h, State.counted]

/-- The record of an error that is no team's (Table 22-5). -/
theorem record_of_no_team (kind reason : Nat) (id : Word) :
    ErrInfo.record ⟨kind, reason, 0, 0, 0, 0, 0, 0⟩ id = id.toNat + 2 ^ 32 * kind + 2 ^ 40 * reason := by
  simp [ErrInfo.record, Nat.mul_comm]

/-! ## The packet at QRD (R378, R379) -/

/-- Does the queue parse (R378, R424)? -/
def Parsing (s : State) (q : Nat) : Prop :=
  ((s.queue q).en = true ∧ s.mgmt.pwrReq.toNat < 2 ∨ (s.queue q).pkt ≠ none) ∧ (s.queue q).halt = false ∧
    (s.queue q).rd.toNat % (s.queue q).size.toNat ≠ (s.queue q).wr.toNat % (s.queue q).size.toNat ∧ s.mgmt.boot = 1 ∧
    s.dbg.frozen = false

theorem parses_iff {s : State} {q : Nat} : s.parses q = true ↔ Parsing s q := by
  simp [State.parses, Parsing, Option.isSome_iff_ne_none, and_assoc]

/-- Where the packet at QRD stands. -/
def Queue.at' (k : Queue) : Nat := k.base.toNat + 64 * (k.rd.toNat % k.size.toNat)

/-- The packet at QRD is x: it is under way, or read now. -/
def ReadsPacket (s : State) (q x : Nat) : Prop :=
  Parsing s q ∧ (s.queue q).wait = none ∧ (s.queue q).hold = [] ∧ ((s.queue q).pkt = some x ∨ (s.queue q).pkt = none ∧
    s.frontRead (s.queue q).ctx.toNat (s.queue q).deny (s.queue q).at' 64 = .ok x)

/-- The error record of a queue, with HALT (R388). -/
def State.recorded (s : State) (q : Nat) (i : Word) (kind reason : Nat) : State :=
  (s.setQueue q { s.queue q with halt := true, deny := none }).unitWrite (s.queue q).ctx.toNat (s.queue q).errBase.toNat 64
    (i.toNat + 2 ^ 32 * kind + 2 ^ 40 * reason)

/-- What a FENCE packet does (R380). -/
def State.parseFence (s : State) (q x : Nat) : State :=
  match s.fenceBad q (fenceEntries x) with
  | some pa => s.unitCheck (homeDie pa) 0 pa
  | none => if s.fenceMet q (fenceEntries x) then s.setQueue q (s.queue q).step
    else s.setQueue q { s.queue q with hold := fenceEntries x }

/-- What a SIGNAL packet does (R380). -/
def State.parseSignal (s : State) (q x : Nat) : State :=
  s.setQueue q { (s.queue q).step with
    signals := (s.queue q).signals ++ [⟨bitf x 32 32, BitVec.ofNat 32 (bitf x 64 32), s.openLaunches q⟩] }

section Packet
variable {s : State} {q : Nat}

theorem exec_launchPacket (hq : q < 64) : exec (.launchPacket q) s =
    if s.parses q then .next (s.packet q fun x => if x % 256 = 1 then s.parseLaunch q x else s) else .next s := by
  change execLaunchPacket q s = _
  rw [execLaunchPacket, if_neg (Nat.not_le.mpr hq)]
  cases s.parses q <;> rfl

theorem exec_fencePacket (hq : q < 64) : exec (.fencePacket q) s =
    if s.parses q then .next (s.packet q fun x => if x % 256 = 2 then s.parseFence q x else s) else .next s := by
  change execFencePacket q s = _
  rw [execFencePacket, if_neg (Nat.not_le.mpr hq)]
  cases s.parses q <;> rfl

theorem exec_signalPacket (hq : q < 64) : exec (.signalPacket q) s =
    if s.parses q then .next (s.packet q fun x => if x % 256 = 3 then s.parseSignal q x else s) else .next s := by
  change execSignalPacket q s = _
  rw [execSignalPacket, if_neg (Nat.not_le.mpr hq)]
  cases s.parses q <;> rfl

/-- The three steps that take a packet do so where the queue parses, and else nothing. -/
theorem packetStep (hq : q < 64) {i : Instr} (hi : i ∈ [Instr.launchPacket q, .fencePacket q, .signalPacket q]) :
    ∃ f, exec i s = if s.parses q then .next (s.packet q f) else .next s := by
  simp only [List.mem_cons, List.not_mem_nil, or_false] at hi
  rcases hi with rfl | rfl | rfl
  · exact ⟨_, exec_launchPacket hq⟩
  · exact ⟨_, exec_fencePacket hq⟩
  · exact ⟨_, exec_signalPacket hq⟩

theorem packet_read {x : Nat} (h : ReadsPacket s q x) (f : Nat → State) :
    s.packet q f = if packetBad x then s.malformed q else f x := by
  obtain ⟨-, hwait, hhold, hread⟩ := h
  have hkept : s.readKept (s.queue q).ctx.toNat (s.queue q).deny (s.queue q).at' (s.queue q).pkt = .ok x := by
    rcases hread with hpkt | ⟨hpkt, hread⟩
    · rw [hpkt]; rfl
    · rw [hpkt]; exact hread
  rw [Queue.at'] at hkept
  simp [State.packet, hwait, hhold, hkept]

/-- The error of a queue that is not halted writes its record. -/
theorem queueError_recorded (hhalt : (s.queue q).halt = false) (i : Word) (kind reason : Nat) :
    s.queueError q i ⟨kind, reason, 0, 0, 0, 0, 0, 0⟩ =
      (s.recorded q i kind reason).setQueue q { s.queue q with halt := true } := by
  rw [State.queueError]
  simp only [hhalt, Bool.false_eq_true, if_false, record_of_no_team, State.recorded]
  rw [← unitWrite_setQueue, setQueue_setQueue]

/-- A malformed packet is reported, and halts its queue. -/
theorem malformed_recorded (hhalt : (s.queue q).halt = false) : s.malformed q = s.recorded q 0 6 0 := by
  rw [State.malformed, queueError_recorded (by rw [State.queue_setQueue]; exact hhalt)]
  simp only [State.recorded, State.queue_setQueue, setQueue_setQueue]
  rw [← unitWrite_setQueue, setQueue_setQueue]

/-- A packet that is not malformed does what its kind does. -/
theorem packet_done {x : Nat} (h : ReadsPacket s q x) (hgood : packetBad x = false) (f : Nat → State) : s.packet q f = f x := by
  rw [packet_read h, hgood, if_neg Bool.false_ne_true]

theorem packet_malformed {x : Nat} (hq : q < 64) (h : ReadsPacket s q x) (hbad : packetBad x = true) {i : Instr}
    (hi : i ∈ [Instr.launchPacket q, .fencePacket q, .signalPacket q]) : exec i s = .next (s.recorded q 0 6 0) := by
  obtain ⟨f, hf⟩ := packetStep (s := s) hq hi
  rw [hf, if_pos (parses_iff.mpr h.1), packet_read h, if_pos hbad, malformed_recorded h.1.2.1]

/-- A packet under way keeps the parser, and so does a FENCE packet that is not satisfied. -/
theorem packet_held (hhold : (s.queue q).hold ≠ []) (f : Nat → State) : s.packet q f = s := by
  simp [State.packet, hhold]

/-- A packet of which a word is poisoned is a machine check charged to no team. -/
theorem packet_poisoned {pa : Nat} (hwait : (s.queue q).wait = none) (hhold : (s.queue q).hold = []) (hpkt : (s.queue q).pkt = none)
    (hread : s.frontRead (s.queue q).ctx.toNat (s.queue q).deny (s.queue q).at' 64 = .poison pa) (f : Nat → State) :
    s.packet q f = s.unitCheck (homeDie pa) 0 pa := by
  rw [Queue.at'] at hread
  simp [State.packet, State.readKept, hwait, hhold, hpkt, hread]

end Packet

/-! ## A LAUNCH packet (R380, R383, R384) -/

/-- A packet of no kind of Table 22-2 is malformed. -/
theorem packetBad_of_kind {x : Nat} (h : x % 256 = 0 ∨ 4 ≤ x % 256) : packetBad x = true := by
  have hkind : bitf x (8 * 0) (8 * 1) = x % 256 := by unfold bitf; omega
  simp only [packetBad, hkind]
  split
  · omega
  · omega
  · omega
  · rfl

/-- A LAUNCH packet is malformed where its record is not aligned. -/
theorem packetBad_launch {r : Nat} (hr : r < 2 ^ 64) : packetBad (1 + 2 ^ 64 * r) = decide (r % 64 ≠ 0) := by
  have hkind : bitf (1 + 2 ^ 64 * r) (8 * 0) (8 * 1) = 1 := by unfold bitf; omega
  have hlow : bitf (1 + 2 ^ 64 * r) (8 * 1) (8 * 7) = 0 := by unfold bitf; omega
  have hhigh : bitf (1 + 2 ^ 64 * r) (8 * 0x10) (8 * 48) = 0 := by
    rw [bitf, Nat.div_eq_of_lt (by omega), Nat.zero_mod]
  have hrec : bitf (1 + 2 ^ 64 * r) (8 * 8) (8 * 8) = r := by unfold bitf; omega
  simp only [packetBad, hkind, hlow, hhigh, hrec]
  simp only [bne_self_eq_false, Bool.false_or, decide_not]
  rfl

/-- The address of its record. -/
theorem launch_record {r : Nat} (hr : r < 2 ^ 64) : bitf (1 + 2 ^ 64 * r) 64 64 = r := by
  unfold bitf
  omega

/-- The queue after a refused launch (R384, R388). -/
def State.launchRefused (s : State) (q reason : Nat) : State :=
  (s.recorded q (BitVec.ofNat 32 (q * 2 ^ 24 + (s.queue q).count % 2 ^ 24)) 1 reason).setQueue q
    { (s.queue q).step with halt := true, count := (s.queue q).count + 1 }

section Launch
variable {s : State} {q : Nat}

theorem refuseLaunch_uncounted (hhalt : (s.queue q).halt = false) (r : Nat) : s.refuseLaunch q r none = s.launchRefused q r := by
  simp only [State.refuseLaunch, queueError_recorded hhalt, State.queue_setQueue, setQueue_setQueue]
  rfl

theorem refuseLaunch_counted (hhalt : (s.queue q).halt = false) (hclean : s.hbmBad = []) (r c : Nat) :
    s.refuseLaunch q r (some c) = if c ≤ 4095 then
      (s.launchRefused q r).counted (s.queue q).ctx.toNat ((s.queue q).ctrBase.toNat + 4 * c) 1 else s.launchRefused q r := by
  have hclean' : (s.launchRefused q r).hbmBad = [] := hbmBad_unitWrite (s := s.setQueue q _) hclean ..
  have hadd := addCounter_counted hclean' q c 1
  have hqueue : ((s.launchRefused q r).queue q).ctx = (s.queue q).ctx ∧
      ((s.launchRefused q r).queue q).ctrBase = (s.queue q).ctrBase := by
    rw [State.launchRefused, State.queue_setQueue]
    exact ⟨rfl, rfl⟩
  rw [hqueue.1, hqueue.2] at hadd
  rw [← hadd, ← refuseLaunch_uncounted hhalt]
  rfl

/-- The parser waits on the fault of a page. -/
theorem frontFault_waits (t : State) (va : Nat) : ∃ n, (t.frontFault q va).queue q = { t.queue q with wait := some (0, n) } :=
  ⟨_, State.queue_setQueue ..⟩

/-- What the front end has read of a launch: it is kept, or it is the record read now. -/
def HasRead (s : State) (q r : Nat) (y : Reads) : Prop :=
  (s.queue q).reads = some y ∨ (s.queue q).reads = none ∧
    s.frontRead (s.queue q).ctx.toNat (s.queue q).deny r 64 = .ok y.rec' ∧ y.block = none ∧ y.pass = none

/-- What is kept of a LAUNCH packet that holds the parser. -/
def State.holding (s : State) (q x : Nat) (r : Option Reads) : State :=
  s.setQueue q { s.queue q with pkt := some x, reads := r, deny := none }

/-- The bit of a record that asks to be serialised, and its counter. -/
theorem launchRec_fields (x : Nat) : (LaunchRec.ofBytes x).serial = decide (bitf x 424 8 / 8 % 2 = 1) ∧
    (LaunchRec.ofBytes x).ctr = bitf x 448 16 := by
  constructor
  · simp [LaunchRec.ofBytes, nbit, beq_eq_decide]
  · simp [LaunchRec.ofBytes]

section Parse
variable {x r : Nat} (hrec : bitf x 64 64 = r)
include hrec

theorem parseLaunch_unread (hreads : (s.queue q).reads = none) :
    (s.frontRead (s.queue q).ctx.toNat (s.queue q).deny r 64 = .bad → s.parseLaunch q x = s.refuseLaunch q 5 none) ∧
      ∀ va, s.frontRead (s.queue q).ctx.toNat (s.queue q).deny r 64 = .missing va →
        s.parseLaunch q x = (s.holding q x none).frontFault q va := by
  refine ⟨fun h => ?_, fun va h => ?_⟩
  · rw [State.parseLaunch, hrec, hreads]
    simp only [Option.map_none, State.readKept, h]
  · rw [State.parseLaunch, hrec, hreads]
    simp only [Option.map_none, State.readKept, h]
    rfl

theorem parseLaunch_read {y : Reads} (hy : HasRead s q r y) : s.parseLaunch q x =
    match s.checkLaunch (s.queue q).ctx.toNat (s.queue q).deny y false ((s.queue q).prio.toNat % 4) with
    | .missing va kept => (s.holding q x (some kept)).frontFault q va
    | .poison pa => s.unitCheck (homeDie pa) 0 pa
    | .refuse n => s.refuseLaunch q n (some (LaunchRec.ofBytes y.rec').ctr)
    | .ok kid kept =>
      if (LaunchRec.ofBytes y.rec').serial && !s.lastDone q then s.holding q x (some kept)
      else match s.stampBad (s.queue q).ctx.toNat kid with
      | some pa => s.unitCheck (homeDie pa) 0 pa
      | none =>
        (s.setQueue q { (s.queue q).step with count := (s.queue q).count + 1 }).createLaunch q none (s.queue q).ctx.toNat
          (s.queue q).priv (BitVec.ofNat 32 (q * 2 ^ 24 + (s.queue q).count % 2 ^ 24)) kid := by
  have hkept : s.readKept (s.queue q).ctx.toNat (s.queue q).deny (bitf x 64 64) ((s.queue q).reads.map fun z => z.rec') =
      .ok y.rec' ∧ (s.queue q).reads.getD ⟨y.rec', none, none⟩ = y := by
    rcases hy with hreads | ⟨hreads, hfront, hblock, hpass⟩
    · rw [hreads]
      exact ⟨rfl, rfl⟩
    · rw [hreads, hrec]
      exact ⟨hfront, by cases y; simp_all⟩
  simp only [State.parseLaunch, hkept.1, hkept.2]
  rfl

end Parse

/-- The queue after a launch packet that is done with: the next packet is at QRD. -/
def Passed (s t : State) (q : Nat) : Prop :=
  (t.queue q).rd = BitVec.ofNat 32 (((s.queue q).rd.toNat + 1) % (s.queue q).size.toNat) ∧ (t.queue q).wait = none ∧
    (t.queue q).deny = none ∧ (t.queue q).pkt = none ∧ (t.queue q).reads = none

theorem passed_of_queue {t : State} {c : Queue} (hqueue : t.queue q = c)
    (hc : (c.rd, c.wait, c.deny, c.pkt, c.reads) = ((s.queue q).step.rd, none, none, none, none)) : Passed s t q := by
  simp only [Prod.mk.injEq] at hc
  unfold Passed
  rw [hqueue]
  exact hc

/-- A refused launch passes, is counted, halts its queue, and has its record in memory. -/
theorem launchRefused_refuses (reason : Nat) : Passed s (s.launchRefused q reason) q ∧
    ((s.launchRefused q reason).queue q).halt = true ∧ ((s.launchRefused q reason).queue q).count = (s.queue q).count + 1 ∧
    (s.launchRefused q reason).hbm =
      (s.recorded q (BitVec.ofNat 32 (q * 2 ^ 24 + (s.queue q).count % 2 ^ 24)) 1 reason).hbm := by
  unfold Passed
  rw [State.launchRefused, State.queue_setQueue]
  exact ⟨⟨rfl, rfl, rfl, rfl, rfl⟩, rfl, rfl, rfl⟩

/-- A LAUNCH packet that waits on a page keeps the parser, with what has been read of it. -/
theorem holding_waits (x : Nat) (r : Option Reads) (va : Nat) : ∃ n,
    (((s.holding q x r).frontFault q va).queue q).wait = some (0, n) ∧
      (((s.holding q x r).frontFault q va).queue q).rd = (s.queue q).rd ∧
      (((s.holding q x r).frontFault q va).queue q).pkt = some x ∧
      (((s.holding q x r).frontFault q va).queue q).reads = r := by
  obtain ⟨n, hqueue⟩ := frontFault_waits (q := q) (s.holding q x r) va
  rw [hqueue, State.holding, State.queue_setQueue]
  exact ⟨n, rfl, rfl, rfl, rfl⟩

/-- A launch as it stands when it has been created (R383). -/
theorem createLaunch_launch (r : State) (q : Nat) (parent : Option Nat) (ctx : Nat) (priv : Bool) (id : Word) (kid : Kid) :
    let n := (r.createLaunch q parent ctx priv id kid).launch r.nextLaunch
    n.launchid = id ∧ n.queue = q ∧ n.parent = parent ∧ n.ctx = ctx ∧ n.priv = priv ∧ n.lr = kid.lr ∧ n.desc = kid.desc ∧
      n.draw = kid.draw ∧ n.next = 0 ∧ n.ended = false ∧ n.complete = false := by
  intro n
  have hn : n = _ := State.launch_setLaunch r r.nextLaunch _
  rw [hn]
  exact ⟨rfl, rfl, rfl, rfl, rfl, rfl, rfl, rfl, rfl, rfl, rfl⟩

/-- An accepted launch passes, is counted, and stands in the table. -/
theorem createLaunch_stands (id : Word) (kid : Kid) {t : State}
    (ht : t = (s.setQueue q { (s.queue q).step with count := (s.queue q).count + 1 }).createLaunch q none (s.queue q).ctx.toNat
      (s.queue q).priv id kid) : Passed s t q ∧ (t.queue q).count = (s.queue q).count + 1 ∧
    (let n := t.launch s.nextLaunch
     n.launchid = id ∧ n.queue = q ∧ n.parent = none ∧ n.ctx = (s.queue q).ctx.toNat ∧ n.priv = (s.queue q).priv ∧
       n.lr = kid.lr ∧ n.desc = kid.desc ∧ n.draw = kid.draw ∧ n.next = 0 ∧ n.ended = false ∧ n.complete = false) := by
  have hqueue : t.queue q = { (s.queue q).step with count := (s.queue q).count + 1 } := by
    rw [ht]
    exact State.queue_setQueue ..
  unfold Passed
  rw [hqueue]
  refine ⟨⟨rfl, rfl, rfl, rfl, rfl⟩, rfl, ?_⟩
  rw [ht]
  exact createLaunch_launch (s.setQueue q _) q none (s.queue q).ctx.toNat (s.queue q).priv id kid

end Launch

/-! ## FENCE packets (R380) -/

/-- Are all entries of a FENCE packet satisfied? -/
def Met (s : State) (q : Nat) (es : List (Nat × Nat)) : Prop :=
  ∀ e ∈ es, (((s.unitRead (s.queue q).ctx.toNat ((s.queue q).ctrBase.toNat + 4 * e.1) 4 : ℤ) - e.2) % 2 ^ 20) < 2 ^ 19

theorem fenceMet_iff {s : State} {q : Nat} {es : List (Nat × Nat)} (hes : ∀ e ∈ es, e.2 < 2 ^ 20) :
    s.fenceMet q es = true ↔ Met s q es := by
  rw [State.fenceMet, List.all_eq_true]
  refine forall₂_congr fun e he => ?_
  have := hes e he
  generalize s.unitRead _ _ 4 = u
  simp only [decide_eq_true_iff]
  omega

theorem fenceBad_none {s : State} (h : s.hbmBad = []) (q : Nat) (es : List (Nat × Nat)) : s.fenceBad q es = none := by
  simp [State.fenceBad, unitBad_none h]

theorem fenceEntries_lt (x : Nat) : ∀ e ∈ fenceEntries x, e.2 < 2 ^ 20 := by
  intro e he
  obtain ⟨j, -, rfl⟩ := List.mem_map.mp he
  exact Nat.mod_lt _ (Nat.two_pow_pos _)

theorem exec_fencePacketRelease {s : State} {q : Nat} (hq : q < 64) (h : Parsing s q) (hhold : (s.queue q).hold ≠ [])
    (hclean : s.hbmBad = []) : exec (.fencePacketRelease q) s =
      .next (if s.fenceMet q (s.queue q).hold then s.setQueue q { (s.queue q).step with hold := [] } else s) := by
  change execFencePacketRelease q s = _
  rw [execFencePacketRelease, if_neg (Nat.not_le.mpr hq)]
  simp only [parses_iff.mpr h, fenceBad_none hclean, List.isEmpty_iff, hhold, Bool.not_true, Bool.false_or, if_false]

/-! ## SIGNAL packets (R380) -/

theorem packetBad_signal {i add : Nat} (hi : i ≤ 4095) (hadd : add < 2 ^ 32) :
    packetBad (3 + 2 ^ 32 * i + 2 ^ 64 * add) = false := by
  have hkind : bitf (3 + 2 ^ 32 * i + 2 ^ 64 * add) (8 * 0) (8 * 1) = 3 := by unfold bitf; omega
  have hlow : bitf (3 + 2 ^ 32 * i + 2 ^ 64 * add) (8 * 1) (8 * 3) = 0 := by unfold bitf; omega
  have hidx : bitf (3 + 2 ^ 32 * i + 2 ^ 64 * add) (8 * 4) (8 * 4) = i := by unfold bitf; omega
  have hhigh : bitf (3 + 2 ^ 32 * i + 2 ^ 64 * add) (8 * 0xC) (8 * 52) = 0 := by
    rw [bitf, Nat.div_eq_of_lt (by omega), Nat.zero_mod]
  simp only [packetBad, hkind, hlow, hidx, hhigh]
  simpa using hi

theorem exec_signalApply {s : State} {q : Nat} (hq : q < 64) {g : Signal} {rest : List Signal}
    (hsignals : (s.queue q).signals = g :: rest) : exec (.signalApply q) s = .next (
      if g.after.all (fun l => (s.launch l).complete) then
        (s.setQueue q { s.queue q with signals := rest }).addCounter q g.idx g.add.toNat
      else s) := by
  change execSignalApply q s = _
  rw [execSignalApply, if_neg (Nat.not_le.mpr hq)]
  simp only [hsignals]
  split <;> rfl

/-! ## The LAUNCH instruction (R263) -/

section Thread
variable {s : State} {u g l : Nat}

/-- A thread that steps on past no meeting is at its next slot, and all else stays. -/
theorem advance_steps (h : NoMeeting s (.thread u g l)) :
    (s.advance (.thread u g l)).pc (.thread u g l) = nextPc (s.pc (.thread u g l)) ∧
      (s.advance (.thread u g l)).park (.thread u g l) = .run ∧
      (∀ r, (s.advance (.thread u g l)).reg (.thread u g l) r = s.reg (.thread u g l) r) ∧
      (s.advance (.thread u g l)).launches = s.launches ∧
      ((s.advance (.thread u g l)).team u).kids = (s.team u).kids := by
  rw [State.advance_thread h]
  refine ⟨?_, ?_, fun r => ?_, rfl, ?_⟩
  · simp [State.setPc, State.setPark, State.pc]
  · simp
  · simp [State.setPc, State.setPark, State.reg]
  · simp [State.setPc, State.setPark, State.setThr, State.setGrp, Team.setGrp]

/-- Setting a register of a thread leaves its place, its meeting address and its team's children. -/
theorem setReg_steps (d : Reg) (v : Word) :
    ((s.setReg (.thread u g l) d v).thr u g l).pc = (s.thr u g l).pc ∧
      ((s.setReg (.thread u g l) d v).thr u g l).meet = (s.thr u g l).meet ∧
      (d ≠ vz → (s.setReg (.thread u g l) d v).reg (.thread u g l) d = v) ∧
      (s.setReg (.thread u g l) d v).launches = s.launches ∧
      ((s.setReg (.thread u g l) d v).team u).kids = (s.team u).kids := by
  by_cases hd : d = vz
  · simp [State.setReg, hd]
  · refine ⟨?_, ?_, fun _ => ?_, ?_, ?_⟩
    · simp [State.setReg, hd]
    · simp [State.setReg, hd]
    · simp [State.setReg, State.reg, hd]
    · simp [State.setReg, hd]
    · simp [State.setReg, hd, State.setThr, State.setGrp, Team.setGrp]

/-- A thread that gets the value of its instruction and steps on. -/
theorem setReg_advance (h : NoMeeting s (.thread u g l)) (d : Reg) (v : Word) {t : State}
    (ht : t = (s.setReg (.thread u g l) d v).advance (.thread u g l)) :
    t.pc (.thread u g l) = nextPc (s.pc (.thread u g l)) ∧ t.park (.thread u g l) = .run ∧
      (d ≠ vz → t.reg (.thread u g l) d = v) ∧ t.launches = s.launches ∧ (t.team u).kids = (s.team u).kids := by
  obtain ⟨hpc, hmeet, hreg, hlaunches, hkids⟩ := setReg_steps (s := s) (u := u) (g := g) (l := l) d v
  obtain ⟨hpc', hpark, hreg', hlaunches', hkids'⟩ := advance_steps (s := s.setReg (.thread u g l) d v)
    (show ((s.setReg (.thread u g l) d v).thr u g l).meet ≠ nextPc ((s.setReg (.thread u g l) d v).thr u g l).pc by
      rw [hpc, hmeet]; exact h)
  rw [ht]
  exact ⟨hpc'.trans (congrArg nextPc hpc), hpark, fun hd => (hreg' d).trans (hreg hd), hlaunches'.trans hlaunches,
    hkids'.trans hkids⟩

theorem checkAddr_launch (ag : Agent) (x : Nat) : s.checkAddr ag .glob x 64 64 .read 0 =
    if 2 ^ 57 < x + 64 then some ⟨0x08, 0, BitVec.ofNat 64 x⟩
    else if x % 64 ≠ 0 then some ⟨0x09, 64, BitVec.ofNat 64 x⟩ else none := by
  have hrange : s.inRange ag .glob x 64 = decide (¬ 2 ^ 57 < x + 64) := by
    simp only [State.inRange, ← Bool.decide_and]
    refine decide_eq_decide.mpr ?_
    omega
  have halign : ((x : Int) % ((64 : Nat) : Int) != 0) = decide (x % 64 ≠ 0) := by
    refine (Bool.eq_iff_iff).mpr ?_
    rw [bne_iff_ne, decide_eq_true_iff]
    omega
  have hvault : (Space.glob == Space.vlt) = false := rfl
  rw [State.checkAddr, hrange, halign, hvault]
  simp only [decide_not, Bool.not_not, decide_eq_true_eq, Bool.false_and, Bool.false_eq_true, if_false, BitVec.ofInt_natCast,
    Bool.not_eq_true', decide_eq_false_iff_not, ne_eq]
  rfl

/-- A thread with nothing on its way, and no tile that counts as its own, is settled after what the front end kept is dropped. -/
theorem settled_setReads (hstill : Still s (.thread u g l)) (htiles : s.tiles = []) (r : Option Reads) :
    (s.setReads (.thread u g l) r).settled (.thread u g l) = true := by
  have haccs : (s.setReads (.thread u g l) r).accs = s.accs := by simp [State.setReads]
  have htiles' : (s.setReads (.thread u g l) r).tiles = [] := by simp [State.setReads, htiles]
  have hnone : (s.setReads (.thread u g l) r).accsOf (.thread u g l) = [] := by
    rw [State.accsOf, haccs]
    exact hstill
  simp [State.settled, State.quiet, hnone, htiles']

/-- What LAUNCH does with the record at an address: the checks of the address, and the read of the record after the release. -/
def State.launchAt (s : State) (ag : Agent) (d : Reg) (x : Nat) : LaneOut :=
  if 2 ^ 57 < x + 64 then .trap s ⟨0x08, 0, BitVec.ofNat 64 x⟩
  else if x % 64 ≠ 0 then .trap s ⟨0x09, 64, BitVec.ofNat 64 x⟩
  else
    let s0 := s.releaseAction ag .dev
    match s0.readVa ag s0.nextAcc false .load x 64 with
    | (s, .ok w) => s.launchRead ag d x ⟨w, none, none⟩
    | (s, g) => g.stop ag s

/-- LAUNCH of a thread whose last instruction is over (R263, steps 1 to 3). -/
theorem exec_launch {h : Hdr} {d a : Reg} (hex : Executes s (.thread u g l) (.launch h d a)) (hpark : s.park (.thread u g l) = .run)
    (hstill : Still s (.thread u g l)) (htiles : s.tiles = []) : exec (.launch h d a) s = .next (LaneOut.run (.launch h d a)
      (.thread u g l) ((s.setReads (.thread u g l) none).launchAt (.thread u g l) d (s.reg64 (.thread u g l) a).toNat)) := by
  have hkept : s.keptReads (.thread u g l) = none := by simp [State.keptReads, hpark, Park.goesOn]
  have hsettled := settled_setReads hstill htiles none
  have hcheck := checkAddr_launch (s := s.setReads (.thread u g l) none) (.thread u g l) (s.reg64 (.thread u g l) a).toNat
  refine (perLane_executes _ hex).trans (congrArg _ (congrArg (LaneOut.run _ _) ?_))
  dsimp only
  generalize (s.reg64 (.thread u g l) a).toNat = x at hcheck ⊢
  generalize (s.setReads (.thread u g l) none).checkAddr (.thread u g l) .glob x 64 64 .read 0 = c at hcheck ⊢
  rw [hkept, hcheck, State.launchAt, State.released, if_pos hsettled]
  by_cases h1 : 2 ^ 57 < x + 64
  · rw [if_pos h1, if_pos h1]
  · rw [if_neg h1, if_neg h1]
    by_cases h2 : x % 64 ≠ 0
    · rw [if_pos h2, if_pos h2]
    · rw [if_neg h2]
      exact (if_neg h2).symm

section LaunchAt
variable {ag : Agent} {d : Reg} {x : Nat}

theorem launchAt_out_of_range (h : 2 ^ 57 < x + 64) : s.launchAt ag d x = .trap s ⟨0x08, 0, BitVec.ofNat 64 x⟩ := if_pos h

theorem launchAt_misaligned (h : x + 64 ≤ 2 ^ 57) (halign : x % 64 ≠ 0) :
    s.launchAt ag d x = .trap s ⟨0x09, 64, BitVec.ofNat 64 x⟩ := by
  rw [State.launchAt, if_neg (Nat.not_lt.mpr h), if_pos halign]

theorem launchAt_reads (h : x + 64 ≤ 2 ^ 57) (halign : x % 64 = 0) {s1 : State} {w : Nat}
    (hread : (s.releaseAction ag .dev).readVa ag (s.releaseAction ag .dev).nextAcc false .load x 64 = (s1, .ok w)) :
    s.launchAt ag d x = s1.launchRead ag d x ⟨w, none, none⟩ := by
  rw [State.launchAt, if_neg (Nat.not_lt.mpr h), if_neg (not_not.mpr halign)]
  dsimp only
  rw [hread]

end LaunchAt

/-- What the front end keeps of a thread is no part of where it stands, and of no other part of the machine. -/
theorem setReads_steps (r : Option Reads) : ((s.setReads (.thread u g l) r).thr u g l).pc = (s.thr u g l).pc ∧
    ((s.setReads (.thread u g l) r).thr u g l).meet = (s.thr u g l).meet ∧
    (s.setReads (.thread u g l) r).accs = s.accs ∧ (s.setReads (.thread u g l) r).launches = s.launches ∧
    ((s.setReads (.thread u g l) r).team u).launch = (s.team u).launch ∧
    ((s.setReads (.thread u g l) r).team u).ckpt = (s.team u).ckpt ∧
    ((s.setReads (.thread u g l) r).team u).kids = (s.team u).kids := by
  simp [State.setReads, State.setThr, State.setGrp, Team.setGrp, State.thr, State.grp, Team.grp, Group.thr, Group.setThr]

theorem setReads_noMeeting (r : Option Reads) (hmeet : NoMeeting s (.thread u g l)) :
    NoMeeting (s.setReads (.thread u g l) r) (.thread u g l) := by
  obtain ⟨hpc, hmeet', -⟩ := setReads_steps (s := s) (u := u) (g := g) (l := l) r
  change ((s.setReads (.thread u g l) r).thr u g l).meet ≠ nextPc ((s.setReads (.thread u g l) r).thr u g l).pc
  rw [hpc, hmeet']
  exact hmeet

theorem commitEarly_without_checkpoint (h : (s.team u).ckpt = none) : s.commitEarly u = s := by
  simp [State.commitEarly, h]

section Read
variable {d : Reg} {x : Nat} {r : Reads} (hpark : s.park (.thread u g l) = .run)
include hpark

/-- A record that has been read and is refused traps with the reason (R263, step 3). -/
theorem launchRead_refuse {n : Nat} (hcheck : (s.setReads (.thread u g l) none).checkLaunch (s.launchOf (.thread u g l)).ctx none r
    true (s.launchOf (.thread u g l)).lr.prio = .refuse n) : s.launchRead (.thread u g l) d x r =
      .trap (s.setReads (.thread u g l) none) ⟨0x1C, BitVec.ofNat 64 n, BitVec.ofNat 64 x⟩ := by
  have hdeny : (s.park (.thread u g l)).denial = none := by rw [hpark]; rfl
  rw [State.launchRead, hdeny, hcheck]

/-- One that is accepted is kept for the team's commit in deterministic mode, and else the lane parks on the child (step 4). -/
theorem launchRead_ok {kid : Kid} {kept : Reads} (hcheck : (s.setReads (.thread u g l) none).checkLaunch
    (s.launchOf (.thread u g l)).ctx none r true (s.launchOf (.thread u g l)).lr.prio = .ok kid kept)
    (hckpt : (s.team u).ckpt = none) (hstill : Still s (.thread u g l)) :
    let s2 := s.setReads (.thread u g l) none
    s.launchRead (.thread u g l) d x r = if (s.launchOf (.thread u g l)).lr.det then
      .done ((s2.setTeam u { s2.team u with kids := (s2.team u).kids ++ [kid] }).setReg (.thread u g l) d 0xFFFFFFFF)
      else .stay ((s2.setPark (.thread u g l) (.launch kid d)).tryLaunch (.thread u g l)) := by
  intro s2
  obtain ⟨-, -, haccs, -, -, hckpt', -⟩ := setReads_steps (s := s) (u := u) (g := g) (l := l) none
  have hdeny : (s.park (.thread u g l)).denial = none := by rw [hpark]; rfl
  have hcommit : s2.commitEarly u = s2 := commitEarly_without_checkpoint (hckpt'.trans hckpt)
  have hstill' : Still s2 (.thread u g l) := by
    rw [Still, State.accsOf, haccs]
    exact hstill
  have hparked := State.parkOn_still (.launch kid d) hstill'
  rw [State.launchRead, hdeny, hcheck]
  dsimp only
  rw [show (s.setReads (.thread u g l) none).commitEarly (s.uidOf (.thread u g l)) = s2 from hcommit, hparked]
  rfl

end Read

/-- Poison on the way to a child's timestamps hangs on HBM, its marks and the contexts alone. -/
theorem stampBad_congr {s t : State} (hhbm : t.hbm = s.hbm) (htick : t.tick = s.tick) (hbad : t.hbmBad = s.hbmBad)
    (hctxs : t.ctxs = s.ctxs) (ctx : Nat) (kid : Kid) : t.stampBad ctx kid = s.stampBad ctx kid := by
  simp only [State.stampBad, State.unitBad, State.poisoned, State.ctx, hbad, hctxs, walkFrom_congr hhbm htick]
  rfl

/-- While 1,024 children are pending, the lane waits. -/
theorem tryLaunch_full {kid : Kid} {d : Reg} (hpark : s.park (.thread u g l) = .launch kid d) (hfull : 1024 ≤ s.pendingKids) :
    s.tryLaunch (.thread u g l) = s := by
  simp [State.tryLaunch, hpark, hfull]

/-- Else its child is created, and the lane gets the LAUNCHID and steps on. -/
theorem tryLaunch_accepts {kid : Kid} {d : Reg} (hpark : s.park (.thread u g l) = .launch kid d) (hroom : s.pendingKids < 1024)
    (hstamp : s.stampBad (s.launchOf (.thread u g l)).ctx kid = none) : s.tryLaunch (.thread u g l) =
      ((s.submitKid (s.team u).launch kid).1.setReg (.thread u g l) d (s.submitKid (s.team u).launch kid).2).advance
        (.thread u g l) := by
  have hroom' : ¬ s.pendingKids ≥ 1024 := by omega
  rw [State.tryLaunch, hpark]
  dsimp only
  rw [if_neg hroom', hstamp]
  rfl

/-- What submitting a child leaves of the launches: its parent has one more, and the child stands in the table. -/
theorem submitKid_launches (p : Nat) (kid : Kid) (hnew : s.nextLaunch ≠ p) :
    (s.submitKid p kid).2 = (s.launch p).childId ∧ (s.submitKid p kid).1.teams = s.teams ∧
      ((s.submitKid p kid).1.launch p).kids = (s.launch p).kids + 1 ∧
      (let n := (s.submitKid p kid).1.launch s.nextLaunch
       n.launchid = (s.launch p).childId ∧ n.queue = (s.launch p).queue ∧ n.parent = some p ∧ n.ctx = (s.launch p).ctx ∧
         n.priv = (s.launch p).priv ∧ n.lr = kid.lr ∧ n.desc = kid.desc ∧ n.next = 0 ∧ n.complete = false) := by
  refine ⟨rfl, rfl, ?_, ?_⟩
  · have hparent : (s.submitKid p kid).1.launch p =
        (s.setLaunch p { s.launch p with kids := (s.launch p).kids + 1 }).launch p :=
      State.launch_setLaunch_ne _ _ (Ne.symm hnew)
    rw [hparent, State.launch_setLaunch]
  · obtain ⟨hid, hqueue, hparent, hctx, hpriv, hlr, hdesc, -, hnext, -, hcomplete⟩ :=
      createLaunch_launch (s.setLaunch p { s.launch p with kids := (s.launch p).kids + 1 }) (s.launch p).queue (some p)
        (s.launch p).ctx (s.launch p).priv (s.launch p).childId kid
    exact ⟨hid, hqueue, hparent, hctx, hpriv, hlr, hdesc, hnext, hcomplete⟩

theorem noMeeting_of_thr {t : State} (h : t.thr u g l = s.thr u g l) (hmeet : NoMeeting s (.thread u g l)) :
    NoMeeting t (.thread u g l) := by
  change (t.thr u g l).meet ≠ nextPc (t.thr u g l).pc
  rw [h]
  exact hmeet

section Accepted
variable {kid : Kid} {d : Reg} {t : State} (hmeet : NoMeeting s (.thread u g l))
include hmeet

/-- A child kept for the team's commit: the lane gets its mark and steps on (R263, step 4). -/
theorem kept_for_commit (ht : t = ((s.setTeam u { s.team u with kids := (s.team u).kids ++ [kid] }).setReg (.thread u g l) d
      0xFFFFFFFF).advance (.thread u g l)) :
    t.pc (.thread u g l) = nextPc (s.pc (.thread u g l)) ∧ t.park (.thread u g l) = .run ∧
      (d ≠ vz → t.reg (.thread u g l) d = 0xFFFFFFFF) ∧ (t.team u).kids = (s.team u).kids ++ [kid] := by
  have hthr : (s.setTeam u { s.team u with kids := (s.team u).kids ++ [kid] }).thr u g l = s.thr u g l := by
    simp [State.thr, State.grp, Team.grp]
  obtain ⟨hpc, hpark, hreg, -, hkids⟩ := setReg_advance (s := s.setTeam u _) (noMeeting_of_thr hthr hmeet) d _ ht
  refine ⟨hpc.trans (congrArg (fun x : Thread => nextPc x.pc) hthr), hpark, hreg, hkids.trans ?_⟩
  rw [State.team_setTeam]

/-- A child submitted: the lane gets its LAUNCHID and steps on, and the child stands in the table. -/
theorem submitted (hnew : s.nextLaunch ≠ (s.team u).launch)
    (ht : t = ((s.submitKid (s.team u).launch kid).1.setReg (.thread u g l) d (s.submitKid (s.team u).launch kid).2).advance
      (.thread u g l)) :
    let k := s.launchOf (.thread u g l)
    t.pc (.thread u g l) = nextPc (s.pc (.thread u g l)) ∧ t.park (.thread u g l) = .run ∧
      (d ≠ vz → t.reg (.thread u g l) d = k.childId) ∧ (t.launch (s.team u).launch).kids = k.kids + 1 ∧
      (let n := t.launch s.nextLaunch
       n.launchid = k.childId ∧ n.queue = k.queue ∧ n.parent = some (s.team u).launch ∧ n.ctx = k.ctx ∧ n.priv = k.priv ∧
         n.lr = kid.lr ∧ n.desc = kid.desc ∧ n.next = 0 ∧ n.complete = false) := by
  obtain ⟨hid, hteams, hparent, hchild⟩ := submitKid_launches (s.team u).launch kid hnew
  have hthr : (s.submitKid (s.team u).launch kid).1.thr u g l = s.thr u g l := by
    rw [State.thr, State.grp, State.team, hteams]
    rfl
  obtain ⟨hpc, hpark, hreg, hlaunches, -⟩ := setReg_advance (s := (s.submitKid (s.team u).launch kid).1) (noMeeting_of_thr hthr hmeet) d _ ht
  have hlaunch (n : Nat) : t.launch n = (s.submitKid (s.team u).launch kid).1.launch n := by
    rw [State.launch, State.launch, hlaunches]
  intro k
  rw [hlaunch, hlaunch]
  exact ⟨hpc.trans (congrArg (fun x : Thread => nextPc x.pc) hthr), hpark, fun hd => (hreg hd).trans hid, hparent, hchild⟩

end Accepted

/-- A thread that waits to be told what becomes of a child. -/
theorem setPark_waits (k : Park) (hmeet : NoMeeting s (.thread u g l)) : NoMeeting (s.setPark (.thread u g l) k) (.thread u g l) ∧
    (s.setPark (.thread u g l) k).pc (.thread u g l) = s.pc (.thread u g l) ∧
    ((s.setPark (.thread u g l) k).team u).launch = (s.team u).launch ∧
    (s.setPark (.thread u g l) k).launches = s.launches := by
  refine ⟨?_, ?_, ?_, ?_⟩
  · change ((s.setPark (.thread u g l) k).thr u g l).meet ≠ nextPc ((s.setPark (.thread u g l) k).thr u g l).pc
    rw [State.setPark, State.thr_setThr]
    exact hmeet
  · simp [State.setPark, State.pc]
  · simp [State.setPark, State.setThr, State.setGrp, Team.setGrp]
  · simp [State.setPark]

/-- A child that waits to be submitted stands as its parent's launch, and the machine about it as before. -/
theorem waiting_stands (kid : Kid) (d : Reg) {t : State}
    (ht : t = (s.setReads (.thread u g l) none).setPark (.thread u g l) (.launch kid d)) (hmeet : NoMeeting s (.thread u g l)) :
    NoMeeting t (.thread u g l) ∧ t.pc (.thread u g l) = s.pc (.thread u g l) ∧ t.park (.thread u g l) = .launch kid d ∧
      t.launches = s.launches ∧ (t.team u).launch = (s.team u).launch ∧
      t.launchOf (.thread u g l) = s.launchOf (.thread u g l) ∧ t.pendingKids = s.pendingKids ∧ t.nextLaunch = s.nextLaunch ∧
      ∀ ctx, t.stampBad ctx kid = s.stampBad ctx kid := by
  have hmeet2 := setReads_noMeeting none hmeet
  obtain ⟨hpc, -, -, hlaunches, hlaunch, -, -⟩ := setReads_steps (s := s) (u := u) (g := g) (l := l) none
  obtain ⟨hmeet3, hpc3, hlaunch3, hlaunches3⟩ := setPark_waits (.launch kid d) hmeet2
  rw [← ht] at hmeet3 hpc3 hlaunch3 hlaunches3
  have hparked : t.park (.thread u g l) = .launch kid d := by rw [ht, State.park_setPark]
  have hof : t.launchOf (.thread u g l) = s.launchOf (.thread u g l) := by
    change t.launch (t.team u).launch = s.launch (s.team u).launch
    rw [hlaunch3, hlaunch, State.launch, State.launch, hlaunches3, hlaunches]
  have hpending : t.pendingKids = s.pendingKids := by
    rw [State.pendingKids, State.pendingKids, hlaunches3, hlaunches]
  refine ⟨hmeet3, hpc3.trans hpc, hparked, hlaunches3.trans hlaunches, hlaunch3.trans hlaunch, hof, hpending, ?_, fun ctx => ?_⟩
  · rw [ht]
    rfl
  · rw [ht]
    exact stampBad_congr rfl rfl rfl rfl ctx kid

section Child
variable {i : Instr} {d : Reg} {x : Nat} {r : Reads} {kid : Kid} {kept : Reads} (hpark : s.park (.thread u g l) = .run)
  (hcheck : (s.setReads (.thread u g l) none).checkLaunch (s.launchOf (.thread u g l)).ctx none r true
    (s.launchOf (.thread u g l)).lr.prio = .ok kid kept)
  (hckpt : (s.team u).ckpt = none) (hstill : Still s (.thread u g l)) (hmeet : NoMeeting s (.thread u g l)) {t : State}
  (ht : t = LaneOut.run i (.thread u g l) (s.launchRead (.thread u g l) d x r))
include hpark hcheck hckpt hstill hmeet ht

/-- In deterministic mode the child is kept for the team's commit. -/
theorem launch_deterministic (hdet : (s.launchOf (.thread u g l)).lr.det = true) :
    t.pc (.thread u g l) = nextPc (s.pc (.thread u g l)) ∧ t.park (.thread u g l) = .run ∧
      (d ≠ vz → t.reg (.thread u g l) d = 0xFFFFFFFF) ∧ (t.team u).kids = (s.team u).kids ++ [kid] := by
  have hmeet2 := setReads_noMeeting none hmeet
  obtain ⟨hpc, -, -, -, -, -, hkids⟩ := setReads_steps (s := s) (u := u) (g := g) (l := l) none
  rw [launchRead_ok hpark hcheck hckpt hstill, if_pos hdet] at ht
  obtain ⟨hpc2, hpark2, hreg, hkids2⟩ := kept_for_commit hmeet2 ht
  exact ⟨hpc2.trans (congrArg nextPc hpc), hpark2, hreg, hkids2.trans (by rw [hkids])⟩

/-- Elsewhere it is submitted while fewer than 1,024 are pending. -/
theorem launch_submits (hdet : (s.launchOf (.thread u g l)).lr.det = false) (hroom : s.pendingKids < 1024)
    (hstamp : s.stampBad (s.launchOf (.thread u g l)).ctx kid = none) (hnew : s.nextLaunch ≠ (s.team u).launch) :
    let k := s.launchOf (.thread u g l)
    t.pc (.thread u g l) = nextPc (s.pc (.thread u g l)) ∧ t.park (.thread u g l) = .run ∧
      (d ≠ vz → t.reg (.thread u g l) d = k.childId) ∧ (t.launch (s.team u).launch).kids = k.kids + 1 ∧
      (let n := t.launch s.nextLaunch
       n.launchid = k.childId ∧ n.queue = k.queue ∧ n.parent = some (s.team u).launch ∧ n.ctx = k.ctx ∧ n.priv = k.priv ∧
         n.lr = kid.lr ∧ n.desc = kid.desc ∧ n.next = 0 ∧ n.complete = false) := by
  rw [launchRead_ok hpark hcheck hckpt hstill, if_neg (by simp [hdet])] at ht
  obtain ⟨hmeet3, hpc3, hpark3, -, hlaunch3, hof3, hpending3, hnext3, hstamp3⟩ := waiting_stands kid d rfl hmeet
  change t = State.tryLaunch _ _ at ht
  generalize (s.setReads (.thread u g l) none).setPark (.thread u g l) (.launch kid d) = s3 at *
  rw [tryLaunch_accepts hpark3 (hpending3 ▸ hroom) (by rw [hof3, hstamp3]; exact hstamp)] at ht
  have hchild := submitted hmeet3 (by rw [hnext3, hlaunch3]; exact hnew) ht
  rw [hof3, hlaunch3, hpc3, hnext3] at hchild
  exact hchild

/-- Else the lane waits with it. -/
theorem launch_waits (hdet : (s.launchOf (.thread u g l)).lr.det = false) (hfull : 1024 ≤ s.pendingKids) :
    t.park (.thread u g l) = .launch kid d ∧ t.pc (.thread u g l) = s.pc (.thread u g l) ∧ t.launches = s.launches := by
  rw [launchRead_ok hpark hcheck hckpt hstill, if_neg (by simp [hdet])] at ht
  obtain ⟨-, hpc3, hpark3, hlaunches3, -, -, hpending3, -, -⟩ := waiting_stands kid d rfl hmeet
  change t = State.tryLaunch _ _ at ht
  rw [tryLaunch_full hpark3 (hpending3 ▸ hfull)] at ht
  rw [ht]
  exact ⟨hpark3, hpc3, hlaunches3⟩

end Child

end Thread

/-- EN is set, the count restarts where it was clear, and QRD stays (R378). -/
theorem enable_enables (k : Queue) : k.enable.en = true ∧ (k.en = false → k.enable.count = 0) ∧ k.enable.rd = k.rd := by
  unfold Queue.enable
  split
  · next hen => exact ⟨hen, fun h => by simp [hen] at h, rfl⟩
  · exact ⟨rfl, fun _ => rfl, rfl⟩

/-- LAUNCH is no form of a bursar context (R49). -/
theorem launch_is_a_threads {s : State} {ag : Agent} {h : Hdr} {d a : Reg} (hex : Executes s ag (.launch h d a)) :
    ∃ u g l, ag = .thread u g l := by
  cases ag with
  | thread u g l => exact ⟨u, g, l, rfl⟩
  | ctx k c =>
    have hform : bursarOk (.launch h d a) = false := rfl
    have hillegal : s.illegal (.ctx k c) (.launch h d a) = true := by simp [State.illegal, Agent.bursar, hform]
    have hlegal := hex.2.2.1
    simp [State.encodingTrap, hillegal] at hlegal

/-- Settles O49: what a queue does with its packet, its held FENCE and its earliest SIGNAL hangs on what it has read, and a
LAUNCH that has read its record does with the child what its check comes to. -/
theorem queuesParseAndLaunch : Obligations.QueuesParseAndLaunch := by
  unfold Obligations.QueuesParseAndLaunch
  intro s q hq k ctx ready reads has next passed id counter met record parts
  refine ⟨?_, ?_, ?_, ?_, ?_, ?_, ?_, ?_, ?_, ?_, ?_, ?_, ?_, ?_, ?_⟩
  · intro hready i hi
    obtain ⟨f, hf⟩ := packetStep (s := s) hq hi
    rw [hf, if_neg fun hp => hready (parses_iff.mp hp)]
  · intro hready hhold i hi
    obtain ⟨f, hf⟩ := packetStep (s := s) hq hi
    rw [hf, if_pos (parses_iff.mpr hready), packet_held hhold]
  · intro pa hready hwait hhold hpkt hread i hi
    obtain ⟨f, hf⟩ := packetStep (s := s) hq hi
    rw [hf, if_pos (parses_iff.mpr hready), packet_poisoned hwait hhold hpkt hread]
  · intro x hx hkind i hi
    exact packet_malformed hq hx (packetBad_of_kind hkind) hi
  · intro r hr hx pkt refused waits
    have hhalt : k.halt = false := hx.1.2.1
    have hrec : bitf pkt 64 64 = r := launch_record hr
    have hstep : r % 64 = 0 → exec (.launchPacket q) s = .next (s.parseLaunch q pkt) := by
      intro h0
      have hkind : pkt % 256 = 1 := by omega
      rw [exec_launchPacket hq, if_pos (parses_iff.mpr hx.1), packet_done hx (by rw [packetBad_launch hr]; simpa using h0),
        if_pos hkind]
    have hrefused : ∀ n, Passed s (s.launchRefused q n) q ∧ ((s.launchRefused q n).queue q).halt = true ∧
        ((s.launchRefused q n).queue q).count = k.count + 1 ∧ (s.launchRefused q n).hbm = (record id 1 n).hbm :=
      launchRefused_refuses
    have hwaits : ∀ y va, s.parseLaunch q pkt = (s.holding q pkt y).frontFault q va → r % 64 = 0 → waits y := by
      intro y va hparse h0
      obtain ⟨n, hwait, hrd, hpkt, hreads⟩ := holding_waits (s := s) (q := q) pkt y va
      exact ⟨_, n, (hstep h0).trans (congrArg _ hparse), hwait, hrd, hpkt, hreads⟩
    refine ⟨fun hr' => packet_malformed hq hx (by rw [packetBad_launch hr]; exact decide_eq_true hr') (List.mem_cons_self ..),
      fun h0 hnone => ⟨fun hbad => ?_, fun va hmissing => ?_⟩, fun y h0 hy => ⟨fun kid kept hcheck => ⟨fun hserial hlast => ?_,
        fun hgo hstamp => ?_⟩, fun n hcheck hclean => ?_, fun va kept hcheck => ?_⟩⟩
    · refine ⟨_, (hstep h0).trans (congrArg _ ?_), hrefused 5⟩
      rw [(parseLaunch_unread hrec hnone).1 hbad, refuseLaunch_uncounted hhalt]
    · exact hwaits none va ((parseLaunch_unread hrec hnone).2 va hmissing) h0
    · have hparse := parseLaunch_read hrec hy
      rw [hcheck] at hparse
      simp only [(launchRec_fields _).1, decide_eq_true hserial, hlast, Bool.not_false, Bool.and_self, if_true] at hparse
      exact (hstep h0).trans (congrArg _ hparse)
    · have hparse := parseLaunch_read hrec hy
      have hserial : ((LaunchRec.ofBytes y.rec').serial && !s.lastDone q) = false := by
        rw [(launchRec_fields _).1]
        rcases hgo with hgo | hgo <;> simp [hgo]
      rw [hcheck] at hparse
      simp only [hserial, Bool.false_eq_true, if_false] at hparse
      rw [hstamp] at hparse
      exact ⟨_, (hstep h0).trans (congrArg _ hparse), createLaunch_stands id kid rfl⟩
    · have hparse := parseLaunch_read hrec hy
      rw [hcheck] at hparse
      refine ⟨_, (hstep h0).trans (congrArg _ (hparse.trans ?_)), hrefused n⟩
      rw [(launchRec_fields _).2]
      exact refuseLaunch_counted hhalt hclean n _
    · have hparse := parseLaunch_read hrec hy
      rw [hcheck] at hparse
      exact hwaits (some kept) va hparse h0
  · intro x hx hgood hkind hclean es
    have hstep : exec (.fencePacket q) s = .next (s.parseFence q x) := by
      rw [exec_fencePacket hq, if_pos (parses_iff.mpr hx.1), packet_done hx hgood, if_pos hkind]
    have hmet : s.fenceMet q (fenceEntries x) = true ↔ met es := fenceMet_iff (fenceEntries_lt x)
    rw [hstep, State.parseFence, fenceBad_none hclean]
    refine ⟨fun h => ⟨_, congrArg _ (if_pos (hmet.mpr h)), ?_⟩, fun h => congrArg _ (if_neg (mt hmet.mp h))⟩
    exact passed_of_queue (State.queue_setQueue ..) rfl
  · intro hready hhold hes hclean
    have hmet : s.fenceMet q k.hold = true ↔ met k.hold := fenceMet_iff hes
    rw [exec_fencePacketRelease hq hready hhold hclean]
    refine ⟨fun h => ⟨_, congrArg _ (if_pos (hmet.mpr h)), ?_, ?_⟩, fun h => congrArg _ (if_neg (mt hmet.mp h))⟩
    · exact passed_of_queue (State.queue_setQueue ..) rfl
    · rw [State.queue_setQueue]
  · intro i add hi hadd hx
    have hkind : (3 + 2 ^ 32 * i + 2 ^ 64 * add) % 256 = 3 := by omega
    have hidx : bitf (3 + 2 ^ 32 * i + 2 ^ 64 * add) 32 32 = i := by unfold bitf; omega
    have hadd' : bitf (3 + 2 ^ 32 * i + 2 ^ 64 * add) 64 32 = add := by unfold bitf; omega
    refine ⟨s.parseSignal q (3 + 2 ^ 32 * i + 2 ^ 64 * add), ?_, passed_of_queue (State.queue_setQueue ..) rfl, ?_⟩
    · rw [exec_signalPacket hq, if_pos (parses_iff.mpr hx.1), packet_done hx (packetBad_signal hi hadd), if_pos hkind]
    · rw [State.parseSignal, State.queue_setQueue, hidx, hadd']
  · intro g rest hsignals hclean hall
    have hafter : (g.after.all fun l => (s.launch l).complete) = true := List.all_eq_true.mpr hall
    have hadd := addCounter_counted (s := s.setQueue q { k with signals := rest }) hclean q g.idx g.add.toNat
    rw [State.queue_setQueue] at hadd
    exact ((exec_signalApply hq hsignals).trans (congrArg _ (if_pos hafter))).trans (congrArg _ hadd)
  · intro g rest l hsignals hl hopen
    have hafter : ¬ (g.after.all fun l => (s.launch l).complete) = true := by
      intro hall
      simp [List.all_eq_true.mp hall l hl] at hopen
    rw [exec_signalApply hq hsignals, if_neg hafter]
  · intro w
    exact if_neg (Nat.not_le.mpr hq)
  · refine ⟨_, if_neg (Nat.not_le.mpr hq), ?_⟩
    rw [State.queue_setQueue]
    exact enable_enables k
  · refine ⟨_, if_neg (Nat.not_le.mpr hq), ?_⟩
    rw [State.queue_setQueue]
    exact ⟨rfl, rfl, rfl, rfl, rfl⟩
  · exact if_neg (Nat.not_le.mpr hq)
  · intro ag h d a hex hstill hpark htiles i x sr s0 kl parent child
    obtain ⟨u, g, l, rfl⟩ := launch_is_a_threads hex
    have hexec := exec_launch hex hpark hstill htiles
    refine ⟨fun hrange => ?_, fun hrange halign => ?_, ?_⟩
    · rw [launchAt_out_of_range hrange] at hexec
      exact hexec
    · rw [launchAt_misaligned hrange halign] at hexec
      exact hexec
    · intro s1 w hrange halign hread hpark1 hof hteam _ hpc1 hmeet1 hstill1 s2
      have hparent : (s1.team u).launch = parent := by
        have hrelease := ((seats_releaseAction sr (.thread u g l) .dev).seat_eq u).1
        exact ((congrArg Team.launch hteam).trans hrelease).trans (setReads_steps none).2.2.2.2.1
      rw [launchAt_reads hrange halign hread] at hexec
      refine ⟨fun n hcheck => ?_, fun kid kept hcheck hckpt => ?_⟩
      · rw [← hof] at hcheck
        rw [launchRead_refuse hpark1 hcheck] at hexec
        exact hexec
      · rw [← hof] at hcheck
        refine ⟨fun hdet => ⟨_, hexec, ?_⟩, fun hdet hroom hstamp hnew => ⟨_, hexec, ?_⟩, fun hdet hfull => ⟨_, hexec, ?_⟩⟩
        · rw [← hof] at hdet
          have hkept := launch_deterministic (i := i) (d := d) (x := x) hpark1 hcheck hckpt hstill1 hmeet1 rfl hdet
          rw [hpc1] at hkept
          exact hkept
        · rw [← hof] at hdet hstamp
          have hchild := launch_submits (i := i) (d := d) (x := x) hpark1 hcheck hckpt hstill1 hmeet1 rfl hdet hroom hstamp (by rw [hparent]; exact hnew)
          rw [hpc1, hparent, hof] at hchild
          exact hchild
        · rw [← hof] at hdet
          have hwaits := launch_waits (i := i) (d := d) (x := x) hpark1 hcheck hckpt hstill1 hmeet1 rfl hdet hfull
          rw [hpc1] at hwaits
          exact hwaits

end Sys2Proof.Machine
end
